-- ==== Sys2Proof/Word.lean ====
section
/-!
DEFINITION. Sys2Proof/Word.lean: the word types of the EB-640 and their plainest arithmetic (spec/00, "Numbers and
units" and "Layouts and fields": every multi-byte field is little-endian).
-/
namespace Sys2Proof

/-- One byte of a message, record, image or memory. -/
abbrev Byte := BitVec 8
/-- A 16-bit field. -/
abbrev W16 := BitVec 16
/-- A 32-bit field; also the bits of an fp32 value (R59). -/
abbrev W32 := BitVec 32
/-- A 64-bit field. -/
abbrev W64 := BitVec 64
/-- One raw accumulator, 40 bits two's complement (R55). -/
abbrev Acc := BitVec 40

/-- `a div b` of R8: the quotient rounded towards negative infinity. -/
def fdiv (a b : Int) : Int := Int.fdiv a b

/-- `a mod b` of R8: `a - b * (a div b)`. -/
def fmod (a b : Int) : Int := Int.fmod a b

/-- The smallest integer not below `a / b`. -/
def ceilDiv (a b : Nat) : Nat := if b = 0 then 0 else (a + (b - 1)) / b

end Sys2Proof
end

