-- ==== Sys2Proof/Syntax.lean ====
section
/-!
DEFINITION. Sys2Proof/Syntax.lean: the commands of the block, one constructor per row of spec/opcode_table.json, with
the operands the spec gives each (message layouts of Tables 14.x and 15.x, segment layout of Table 13.3, command
operands of Tables 11.1 and 11.15, register layouts of Tables 21.3 and 21.5).
-/
namespace Sys2Proof

/-- What the MAC sees of a received frame (R298, R299). -/
structure FrameHdr where
  /-- destination MAC address, 48 bits -/
  dest : Nat
  /-- source MAC address -/
  src : Nat
  /-- VIDs of the 802.1Q tags, outermost first -/
  tags : List Nat
  /-- bytes from the destination address through the FCS -/
  bytes : Nat
  /-- the frame check sequence matches -/
  fcsOk : Bool
  deriving DecidableEq, Repr

/-- One received LMX segment (Table 13.3) with the frame and the IP and UDP addresses that carried it. The segment
type is the constructor's. -/
structure Seg where
  port : Fin 8
  frame : FrameHdr
  /-- carried by IPv6 (else IPv4) -/
  v6 : Bool
  srcIp : Nat
  dstIp : Nat
  srcUdp : Nat
  dstUdp : Nat
  magic : W16
  version : Byte
  connId : W16
  flags : Byte
  rsv7 : Byte
  seq : W32
  ack : W32
  sack : W64
  payloadLen : W16
  epoch : W16
  window : W16
  rsv30 : W16
  payload : List Byte
  /-- the 4-byte trailer -/
  crc : W32
  deriving DecidableEq, Repr

/-- One host message as firmware takes it from its mailbox (Table 14.1, R326); the message type is the constructor's
row. `body` is what follows the 12-byte header. -/
structure HostMsg where
  /-- the LMX connection that carried it -/
  conn : Nat
  /-- bit 15 of `msg_type` -/
  respBit : Bool
  status : W16
  msgId : W32
  length : W32
  body : List Byte
  deriving DecidableEq, Repr

/-- Header of a core command (Table 11.1) without `unit` and `opcode`, which the constructor gives. `rsvd` says that a
reserved bit or byte of the command, header or operands, is not zero (R267). -/
structure CmdHdr where
  flags : Byte
  waitSem : Byte
  waitCount : W16
  postSem : Byte
  postCore : Byte
  postCount : W16
  deadline : W32
  rsvd : Bool
  deriving DecidableEq, Repr

/-- MATMUL and DIAG operands (Table 11.15). -/
structure ArrOps where
  mFixed : W16
  mPerSlot : W16
  k : W16
  n : W16
  cellMode : Byte
  arrFlags : Byte
  accBase : W16
  walkA : W16
  walkB : W16
  walkW : W16
  winoPos : Byte
  winoForm : Byte
  deriving DecidableEq, Repr

/-- WINO_OUT operands (Table 11.15). -/
structure WinoOps where
  accBase : W16
  tilesFixed : W16
  tilesPerSlot : W16
  winoForm : Byte
  deriving DecidableEq, Repr

/-- CARRY operands (Table 11.15). -/
structure CarryOps where
  start : W16
  len : W16
  streams : Byte
  carryFlags : Byte
  streamStep : W16
  samples : W16
  deriving DecidableEq, Repr

/-- Operands of every vector-engine command (Table 11.15, unit 2). -/
structure VecOps where
  subOp : Byte
  fmt : Byte
  vecFlags : Byte
  lenFixed : W32
  lenPerSlot : W32
  src0 : W32
  src1 : W32
  src2 : W32
  dst : W32
  tensorId : W16
  elemBase : W32
  param0 : W32
  param1 : W32
  slotStep : W32
  deriving DecidableEq, Repr

/-- SAMPLE operands (Table 11.15). -/
structure SampleOps where
  codebook : Byte
  sFixed : Byte
  sPerSlot : Byte
  vocab : W16
  logits : W32
  rowStride : W32
  dst : W32
  deriving DecidableEq, Repr

/-- MARK operands (Table 11.15). -/
structure MarkOps where
  sFixed : Byte
  sPerSlot : Byte
  scores : W32
  rowStride : W32
  counts : W32
  countsStride : W32
  dst : W32
  deriving DecidableEq, Repr

/-- ARM operands (Table 11.15). -/
structure ArmOps where
  /-- DMA engine 0 (unit 5) or 1 (unit 6) -/
  engine : Fin 2
  desc : Byte
  armFlags : Byte
  srcSlotStep : W32
  dstSlotStep : W32
  deriving DecidableEq, Repr

/-- RESTORE, SAVE, SPILL and UNSPILL operands (Table 11.15). -/
structure SrOps where
  component : W16
  srFlags : Byte
  spad : W32
  accBase : W16
  firstElem : W32
  elements : W32
  elemStep : W32
  deriving DecidableEq, Repr

/-- DRAW operands (Table 11.15). -/
structure DrawOps where
  purpose : Byte
  tensorId : W16
  elemBase : W32
  count : W32
  dst : W32
  drawParam : W32
  deriving DecidableEq, Repr

/-- One command of a core's stream, by opcode, with its operands; what the command window and the unit queues hold
(R233, R235). -/
inductive CoreOp where
  | nop
  | slotLoop (bodyCount : W16)
  | descWrite (desc : Byte) (constAt : W32)
  | ringWrite (ring : Byte) (constAt : W32)
  | matmul (o : ArrOps)
  | diag (o : ArrOps)
  | winoOut (o : WinoOps)
  | carry (o : CarryOps)
  | element (o : VecOps)
  | convert (o : VecOps)
  | func (o : VecOps)
  | reduce (o : VecOps)
  | softmax (o : VecOps)
  | quant (o : VecOps)
  | rescale (o : VecOps)
  | gate (o : VecOps)
  | hadamard (o : VecOps)
  | upsample (o : VecOps)
  | sample (o : SampleOps)
  | mark (o : MarkOps)
  | arm (o : ArmOps)
  | restore (o : SrOps)
  | save (o : SrOps)
  | spill (o : SrOps)
  | unspill (o : SrOps)
  | compatLoad (spad : W32)
  | compatSave (spad : W32)
  | draw (o : DrawOps)
  deriving DecidableEq, Repr

/-- The outcome of reading one line of a thatch channel (R217, R219). -/
inductive LineRead where
  | clean
  | corrected
  | uncorrectable
  deriving DecidableEq, Repr

/-- The event that wakes the device (R446). -/
inductive WakeSource where
  /-- a valid LMX segment of the given type on an up port -/
  | segment (segType : Byte) (port : Fin 8)
  | wakeN
  | barge (tdm : Fin 4) (slot : Fin 64)
  deriving DecidableEq, Repr

/-- What starts a warm reset (R435): a RESET_N low pulse of the given length, or PROFILE_SELECT. -/
inductive WarmCause where
  | resetN (pulseNs : Nat)
  | profileSelect
  deriving DecidableEq, Repr

/-- One fault event: its source (Table 17.1), the logged unit (R337) and its syndrome (R406). -/
structure FaultEvent where
  source : W16
  unit : W32
  syndrome : W64
  deriving DecidableEq, Repr

/-- A test data register that TAP_REGISTER_WRITE names (Table 21.1). -/
inductive TapReg where
  | bypass
  | identity
  | firmwareId
  | boundary
  | mbist
  | serdes
  deriving DecidableEq, Repr

/-- The commands of the block, one constructor per row of spec/opcode_table.json. -/
inductive Instr where
  -- control messages (spec/14)
  | resync (m : HostMsg)
  | summary (m : HostMsg)
  | profileSelect (m : HostMsg)
  | powerState (m : HostMsg)
  | powerCap (m : HostMsg)
  | loadBuild (m : HostMsg)
  | loadBuildAbort (m : HostMsg)
  | rangeReload (m : HostMsg)
  | unloadBuild (m : HostMsg)
  | bayCreate (m : HostMsg)
  | bayDestroy (m : HostMsg)
  | planBind (m : HostMsg)
  | planUnbind (m : HostMsg)
  | yealmForm (m : HostMsg)
  | yealmRelease (m : HostMsg)
  | configWrite (m : HostMsg)
  | configCommit (m : HostMsg)
  | configApply (recordId : Byte) (recInst : Byte)
  | configRead (m : HostMsg)
  | faultLogRead (m : HostMsg)
  | faultClear (m : HostMsg)
  | diagRead (m : HostMsg)
  | fwUpdate (m : HostMsg)
  | fwUpdateAbort (m : HostMsg)
  | flashSlotEraseDone
  | attest (m : HostMsg)
  | attestSigningDone
  | voiceStore (m : HostMsg)
  | voiceDrop (m : HostMsg)
  -- session messages (spec/15)
  | sessionOpen (m : HostMsg)
  | sessionClose (m : HostMsg)
  | textPush (m : HostMsg)
  | speak (m : HostMsg)
  | stop (m : HostMsg)
  | attach (m : HostMsg)
  | detach (m : HostMsg)
  | sessionExport (m : HostMsg)
  | sessionImport (m : HostMsg)
  | enrollStart (m : HostMsg)
  | enrollData (m : HostMsg)
  | enrollCaptureEnd (session : Nat)
  -- LMX transport and Ethernet (spec/13)
  | lmxOpen (g : Seg)
  | lmxData (g : Seg)
  | lmxAck (g : Seg)
  | lmxClose (g : Seg)
  | lmxReset (g : Seg)
  | lmxKeepalive (g : Seg)
  | dgramFromHost (g : Seg)
  | invalidSegment (segType : Byte) (g : Seg)
  | ackDelayExpiry (conn : Nat)
  | rtoExpiry (conn : Nat) (net : Fin 2)
  | keepaliveTimerExpiry (conn : Nat) (net : Fin 2)
  | holdExpiry (conn : Nat)
  | closingEnd (conn : Nat)
  | arpRequest (port : Fin 8) (f : FrameHdr) (senderIp : W32) (targetIp : W32)
  | neighbourSolicitation (port : Fin 8) (f : FrameHdr) (srcIp : BitVec 128) (target : BitVec 128)
  | echoRequest (port : Fin 8) (f : FrameHdr) (v6 : Bool) (srcIp : Nat) (dstIp : Nat) (payload : List Byte)
  | pauseFrame (port : Fin 8) (f : FrameHdr) (quanta : W16)
  | unsupportedFrame (port : Fin 8) (f : FrameHdr)
  | linkUp (port : Fin 8)
  | anFail (port : Fin 8)
  | linkLost (port : Fin 8)
  | portLinkIdlePoint (port : Fin 8)
  | ringOutputTake (session : Nat)
  -- scheduling (spec/07, spec/12)
  | chunkBoundary
  | sliceStart (bay : Nat)
  | commit (yealm : Nat)
  | containedFault (f : FaultEvent)
  | coreLend (bay : Nat)
  | reclaimStart (bay : Nat)
  | reclaimComplete (bay : Nat) (cycles : Nat)
  | beSliceEnd (bay : Nat) (group : Nat) (overrun : Nat)
  | reserveWindowPiece (bay : Nat)
  -- core command streams (spec/11)
  | nop (core : Fin 64) (h : CmdHdr)
  | slotLoop (core : Fin 64) (h : CmdHdr) (bodyCount : W16)
  | descWrite (core : Fin 64) (h : CmdHdr) (desc : Byte) (constAt : W32)
  | ringWrite (core : Fin 64) (h : CmdHdr) (ring : Byte) (constAt : W32)
  | matmul (core : Fin 64) (h : CmdHdr) (o : ArrOps)
  | diag (core : Fin 64) (h : CmdHdr) (o : ArrOps)
  | winoOut (core : Fin 64) (h : CmdHdr) (o : WinoOps)
  | carry (core : Fin 64) (h : CmdHdr) (o : CarryOps)
  | element (core : Fin 64) (h : CmdHdr) (o : VecOps)
  | convert (core : Fin 64) (h : CmdHdr) (o : VecOps)
  | func (core : Fin 64) (h : CmdHdr) (o : VecOps)
  | reduce (core : Fin 64) (h : CmdHdr) (o : VecOps)
  | softmax (core : Fin 64) (h : CmdHdr) (o : VecOps)
  | quant (core : Fin 64) (h : CmdHdr) (o : VecOps)
  | rescale (core : Fin 64) (h : CmdHdr) (o : VecOps)
  | gate (core : Fin 64) (h : CmdHdr) (o : VecOps)
  | hadamard (core : Fin 64) (h : CmdHdr) (o : VecOps)
  | upsample (core : Fin 64) (h : CmdHdr) (o : VecOps)
  | sample (core : Fin 64) (h : CmdHdr) (o : SampleOps)
  | markCmd (core : Fin 64) (h : CmdHdr) (o : MarkOps)
  | arm (core : Fin 64) (h : CmdHdr) (o : ArmOps)
  | restore (core : Fin 64) (h : CmdHdr) (o : SrOps)
  | save (core : Fin 64) (h : CmdHdr) (o : SrOps)
  | spill (core : Fin 64) (h : CmdHdr) (o : SrOps)
  | unspill (core : Fin 64) (h : CmdHdr) (o : SrOps)
  | compatLoad (core : Fin 64) (h : CmdHdr) (spad : W32)
  | compatSave (core : Fin 64) (h : CmdHdr) (spad : W32)
  | draw (core : Fin 64) (h : CmdHdr) (o : DrawOps)
  | commandComplete (core : Fin 64) (unit : Fin 9)
  | dmaTransferComplete (core : Fin 64) (desc : Fin 128)
  | remoteSemaphoreSignal (src : Fin 64) (dst : Fin 64)
  | scheduleOverrun (core : Fin 64) (unit : Fin 9)
  | linkStall (bay : Nat) (coreIdx : Byte) (ring : Byte)
  | rngTableFill (core : Fin 64)
  -- thatch and ridge cache (spec/10)
  | refresh (channel : Fin 48) (performed : Bool)
  | patrolScrub (channel : Fin 48) (r : LineRead)
  | phyRecalibration (channel : Fin 48) (forced : Bool) (ok : Bool)
  | maintenanceCredit (channel : Fin 48)
  | pageRewriteComplete (build : W64) (copy : Nat) (page : Nat)
  -- faults and recovery (spec/17)
  | quietPeriodExpiry (unit : W32)
  | selfTestComplete (unit : W32) (pass : Bool)
  | fatalFault (f : FaultEvent)
  | firmwareWatchdogExpiry
  | deviceQuietPeriodExpiry
  | warmReinitComplete
  | backoffExpiry
  -- power, clocks, reset and boot (spec/18, spec/19)
  | sensorReading (readings : List (BitVec 16))
  | thermalAlarmClear
  | supplyCheck (milliVolts : List Nat)
  | refclkLost
  | pllLossOfLock
  | sdrefLost (net : Fin 2)
  | sdrefRestored (net : Fin 2)
  | pwrokRise
  | pwrokFall
  | resetNRise (profsel : Fin 4)
  | warmReset (c : WarmCause) (profsel : Fin 4)
  | bootComplete
  | bootStop (stage : Byte)
  | trialBootTimeout (profsel : Fin 4)
  | powerStateEntryComplete
  | powerStateExitComplete
  | wake (w : WakeSource)
  -- serial audio (spec/16)
  | tdmFrame (tdm : Fin 4) (period : Nat) (periods : Nat) (inputs : List Int)
  | clockLoss (tdm : Fin 4)
  | relockLocked (tdm : Fin 4) (period : Nat)
  | tdmRestartRampDone (tdm : Fin 4)
  | bargeGateBlock (tdm : Fin 4) (slot : Fin 64) (levelDb16 : Int)
  | pdmOutputSample (mic : Fin 16) (clocked : Bool) (value : W32)
  -- sideband and test (spec/21)
  | i2cPointerWrite (bytes : List Byte)
  | i2cRead (count : Nat)
  | telemetryRefresh
  | tapReset
  | idcode
  | usercode
  | samplePreload (pins : List Bool) (load : List Bool)
  | extest
  | clamp
  | highz
  | bypass (code : Byte)
  | mbistRun (value : W32)
  | mbistDone (failed : Option (Byte × Byte))
  | serdesTestRun (value : W64)
  | tapRegisterWrite (reg : TapReg) (value : W64)
  -- completions listed last in the table
  | bulkTransferPieceDone (bay : Nat)
  | flashProgramDone
  | firmwareReloadComplete (verified : Bool)
  | serdesCheckerLock (locked : Bool) (errors : Nat)
  | freewheelPlayTimePass (tdm : Fin 4) (slot : Fin 64)
  deriving DecidableEq, Repr

end Sys2Proof
end

