-- ==== Sys2Proof/Decode.lean ====
section
/-!
DEFINITION. Sys2Proof/Decode.lean: the command that a word spells by the opcode table's bits. No row of
spec/opcode_table.json gives bits (spec/98 says why), so no word spells a command.
-/
namespace Sys2Proof

/-- The command a word of `nbits` bits spells: the table gives no row any bits, so none. -/
def decodeTableWord (_nbits _w : Nat) : Option Instr := none

end Sys2Proof
end

