-- ==== Sys2Proof/Config.lean ====
section
/-!
DEFINITION. Sys2Proof/Config.lean: what the device fixes (Tables 1.5, 10.1, 12.x) and the free values: opaque constants
without a body, for what the manual leaves open (see notes/assumptions). A free value is applied to the operands it
depends on, or to the plain counter `State.fresh`.
-/
namespace Sys2Proof.Config

open Sys2Proof

/-- Cycles of ARRAYCLK per chunk of 20 ms (R278). -/
def chunkCycles : Nat := 18800000
/-- Longest slice boundary, 0.2 ms (R279). -/
def sliceBoundary : Nat := 188000
/-- Admission budget of R281, 19 ms. -/
def admissionBudget : Nat := 17860000
/-- Cycles per second of ARRAYCLK (R4). -/
def cyclesPerSecond : Nat := 940000000
/-- Cycles per millisecond. -/
def cyclesPerMs : Nat := 940000
/-- Cycles per microsecond. -/
def cyclesPerUs : Nat := 940
/-- Converter delay c_d of Table 16.5, 1.35 ms in cycles. -/
def converterDelay : Nat := 1269000
/-- Scratchpad bytes (R227). -/
def spadBytes : Nat := 3145728
/-- Accumulators per core (R73). -/
def accCount : Nat := 32768
/-- Bytes of data in one thatch channel (R205). -/
def channelBytes : Nat := 2147483648
/-- Largest message (R310). -/
def maxMessage : Nat := 16777216
/-- Fixed share of the admitted power (R285), mW. -/
def basePowerMw : Nat := 32000
/-- Largest piece of a bulk transfer (R212). -/
def bulkPiece : Nat := 262144

/-- Word that a lane's compare writes for its truth value: the manual gives no encoding (Table 11.16). -/
opaque cmpWord : Bool → W32
/-- Whether a bf16 FMA takes an fp32 addend, and whether its destination is fp32 (R97): both forms exist and no field of
Tables 11.15 and 11.16 selects one. From the command's third operand and result addresses. -/
opaque fmaForm : W32 → W32 → Bool × Bool
/-- Input that the state-carry path makes of a result word that is not floating point (R93 routes it there, and R84 converts
fp32 values alone). -/
opaque carryWord : Nat → Acc
/-- Whether a select takes its condition operand as true: the manual gives no encoding (Table 11.16). -/
opaque condTrue : W32 → Bool
/-- Field bytes of a response that reports a failure (R331 gives it the response's layout, and no rule gives the values):
draw, byte of the body. -/
opaque openField : Nat → Nat → Byte
/-- A first operand that the rescale stage has not delivered (R93 gives no value for it). -/
opaque freeWord : Nat → W32
/-- Seed of a slot that holds no session, for commands that draw for it (R265 runs every slot, no rule names its seed). -/
opaque emptySeed : Nat → W64
/-- A connection's initial sequence number (R305 leaves its choice to the device). -/
opaque freeSeq : Nat → W32
/-- A bay address that firmware chooses for a placed object (R210: "chosen by firmware"). -/
opaque freeAddress : Nat → Nat
/-- Bay address of the spill area of a core index of a yealm (R210: "chosen by firmware"), by yealm × 64 + index. -/
opaque spillAddress : Nat → Nat
/-- Contents that a change of S_res leaves undefined until written (R75). -/
opaque freeAcc : Nat → Nat → Acc
/-- A byte that a transfer reads at or beyond a ring's producer, which no rule gives (R252): draw and byte. -/
opaque freeByte : Nat → Byte
/-- Output of a slot's conversion path as a number of LSB of its code, before the clamp of R389: Table 16.5 bounds the
path and no rule computes it. From the fresh counter, the committed samples in the buffer and the gain in 2^-32 dB. -/
opaque convertOut : Nat → List Int → Int → Int
/-- Tracked frame period after one measured period, in cycles: the tracker has a bandwidth of 2 Hz and no stated filter
(R391). From the period so far and the measured one. -/
opaque trackPeriod : Nat → Nat → Nat
/-- 16 kHz sample of an enrolment capture at 48 kHz, after a FIR whose coefficients the manual does not give (R396). From the
fresh counter and the newest 48 kHz sample. -/
opaque captureFir : Nat → W32 → W32
/-- 100 Hz high-passed mean-square level of a meter's chunk in 1/16 dB, from its samples (R398 gives no filter). -/
opaque meterLevel : List W32 → Int
/-- 10^(g/40) as an fp32 gain applied to a microphone sample (R396): the rounding of the product is not stated. -/
opaque micGain : Int → W32 → W32
/-- Value of one enrolment iteration: the next working adapter, from its inputs (R378 lists what it depends on, and
no rule gives the training arithmetic). -/
opaque trainStep : W64 × Nat × W64 × Nat × W32 → List (List Byte) → List Byte
/-- RSASSA-PSS verification of RFC 8017 (Table 19.3): modulus, signature, signed block. -/
opaque rsaVerify : List Byte → List Byte → List Byte → Bool
/-- SLH-DSA-SHA2-128s verification of FIPS 205: public key, signature, signed block. -/
opaque slhVerify : List Byte → List Byte → List Byte → Bool
/-- SHA-384 (FIPS 180): 48 bytes. -/
opaque sha384 : List Byte → List Byte
/-- RSA identity signature of an attested block (R468). -/
opaque rsaSign : List Byte → List Byte
/-- SLH-DSA identity signature of an attested block (R468). -/
opaque slhSign : List Byte → List Byte

end Sys2Proof.Config
end

