-- ==== Sys2Proof/Machine/CoreState.lean ====
section
/-!
DEFINITION. Sys2Proof/Machine/CoreState.lean: plain data of one voice core: scratchpad, accumulator file, semaphores,
rings, DMA descriptors, sequencer, unit queues, random-number generator and counters (spec/03 to spec/09, spec/11).
-/
namespace Sys2Proof.Machine

open Sys2Proof

/-- A sparse table: keys strictly rising, no entry equal to what an unlisted key reads as. A memory is a `Tab` of
bytes (the host's list of cells). -/
abbrev Tab (α : Type) := List (Nat × α)

/-- A core ring descriptor (Table 11.2, R242). -/
structure RingDesc where
  base : W64
  slotBytes : W32
  slots : Byte
  flags : Byte
  fillSem : Byte
  roomSem : Byte
  producerIdx : Byte
  consumerIdx : Byte
  head : Byte
  tail : Byte
  deriving DecidableEq, Repr, Inhabited

/-- A DMA descriptor (Table 11.3, R245). -/
structure DmaDesc where
  srcKind : Byte
  dstKind : Byte
  ring : Byte
  flags : Byte
  rowBytes : W32
  src : W64
  dst : W64
  rows : W32
  srcStride : W32
  dstStride : W32
  sessionRing : Byte
  slot : Byte
  deriving DecidableEq, Repr, Inhabited

/-- The signal a command posts on completion (Table 11.1). -/
structure Post where
  sem : Byte
  core : Byte
  count : W16
  deriving DecidableEq, Repr, Inhabited

/-- An arm held for a descriptor (R247): its engine, its signal, its address steps and its slot. -/
structure ArmReq where
  engine : Nat
  post : Post
  srcStep : Int
  dstStep : Int
  /-- the yealm slot that replaces the descriptor's, where bit 0 of `arm_flags` is set -/
  slot : Option Nat
  deriving DecidableEq, Repr, Inhabited

/-- One end of a transfer once its slot is resolved (R245). -/
inductive XferEnd where
  | spad (addr : Int)
  | bay (addr : Int)
  | sess (session : Nat) (ring : Nat)
  deriving DecidableEq, Repr, Inhabited

/-- A transfer in progress (R247), with the descriptor's fields as they stood when it started. -/
structure Transfer where
  arm : ArmReq
  src : XferEnd
  dst : XferEnd
  rowBytes : Nat
  rows : Nat
  srcStride : Int
  dstStride : Int
  ring : Byte
  /-- the transfer writes its ring (else reads it) -/
  writesRing : Bool
  /-- its thatch reads allocate in the ridge cache -/
  alloc : Bool
  deriving DecidableEq, Repr, Inhabited

/-- Ownership of a descriptor by a DMA engine: the transfer in progress and the one pending arm (R247, R248). -/
structure DmaSlot where
  active : Option Transfer
  waiting : Option ArmReq
  /-- unit and index of a command that collided on this descriptor: the core is flashed when its transfers complete
  (R248) -/
  collided : Option (Nat × Nat)
  deriving DecidableEq, Repr, Inhabited

/-- A completion record: status, saturation count, degenerate-range count, coarse-rounded flag (R64). -/
structure Completion where
  status : W16
  sat : Nat
  degen : Nat
  coarse : Bool
  deriving DecidableEq, Repr, Inhabited

/-- A command in the window or in a unit queue, with `cur_slot` as it stood at its dispatch (R265). -/
structure QCmd where
  hdr : CmdHdr
  op : CoreOp
  slot : Nat
  /-- its wait was taken at the fetch point (R236) -/
  taken : Bool
  /-- index of the command within its plan section (Table 17.2) -/
  index : Nat
  deriving DecidableEq, Repr

/-- A unit's issue queue, the command it executes, and its last completion record (R235, R64). -/
structure UnitQ where
  queue : List QCmd
  busy : Option (QCmd × Completion)
  last : Completion
  deriving DecidableEq, Repr, Inhabited

/-- A SLOT_LOOP whose body is being fetched (R265). -/
structure LoopSt where
  remaining : Nat
  body : List (CmdHdr × CoreOp)
  deriving DecidableEq, Repr

/-- One windowed-loop group of a walk descriptor (Tables 6.1 and 11.14). -/
structure Win where
  loop : Nat
  padMode : Nat
  inDil : Nat
  taps : Nat
  len : Nat
  dil : Nat
  stride : Nat
  padLo : Nat
  padHi : Nat
  outLo : Nat
  outHi : Nat
  hist : Nat
  histBase : Nat
  deriving DecidableEq, Repr, Inhabited

/-- A walk descriptor (Table 11.13, R266). `rsvd` says that a reserved bit is not zero. -/
structure WalkDesc where
  base : Nat
  mode : Nat
  loops : Nat
  flags : Nat
  elemBytes : Nat
  counts : List Nat
  strides : List Int
  slotStep : Int
  win0 : Win
  win1 : Win
  padCode : Nat
  zeroCode : Nat
  repeatBase : Nat
  upFactor : Nat
  rsvd : Bool
  deriving DecidableEq, Repr, Inhabited

/-- What a core runs: its variant's walk table, the plan's constant area, and the initial values of R254. -/
structure Prog where
  walks : List WalkDesc
  consts : List Byte
  wCycles : Nat
  spillBytes : Nat
  /-- index of the variant's lead core, and its commit semaphore (R255) -/
  leadIdx : Nat
  commitSem : Nat
  /-- the core's command stream, 64 bytes a command; empty where no build gave one (R233, R264) -/
  stream : List Byte
  initSems : Tab W16
  initRings : Tab RingDesc
  initDescs : Tab DmaDesc
  deriving DecidableEq, Repr, Inhabited

/-- The step a core works for (R234, R265). -/
structure CoreCtx where
  /-- the bay whose work the core runs: its own, or the borrower's while it is lent (R210) -/
  bay : Nat
  /-- work group of that bay: 0 its own cores, others borrowed groups (R287) -/
  group : Nat
  /-- the core's index within the bay or group -/
  idx : Nat
  yealm : Nat
  nSlots : Nat
  deriving DecidableEq, Repr, Inhabited

/-- One native block table: the 55 mixer words of a block under its tuple (R190). -/
structure BlockTable where
  seed : W64
  purpose : Nat
  tensor : W16
  step : Nat
  block : Nat
  words : List W32
  deriving DecidableEq, Repr, Inhabited

/-- A block table that the mixer still owes, with the command that asked for it: its index and slot (R190, R191). -/
structure FillReq where
  index : Nat
  slot : Nat
  table : BlockTable
  deriving DecidableEq, Repr, Inhabited

/-- A compatibility lane table (Table 9.5). -/
structure LaneTab where
  lag : List W32
  pos : Nat
  deriving DecidableEq, Repr, Inhabited

/-- The core's random-number generator: coarse mode (R197), the table store of 64 native block tables and the fills
the mixer still owes (R190), and the lane tables loaded for each compatibility slot (R196). -/
structure Rng where
  coarse : Bool
  tables : List BlockTable
  fills : List FillReq
  lanes : Tab (List LaneTab)
  /-- per compatibility slot: segment of the consumption order and words taken of it in this step (R195) -/
  cursor : Tab (Nat × Nat)
  deriving DecidableEq, Repr, Inhabited

/-- The tiles that the last Winograd product wrote (R78, R130): M, N_p, the counts of its token loops, and for each windowed
loop, innermost first, its place among the token loops and its number of outputs. -/
structure WinoShape where
  m : Nat
  np : Nat
  counts : List Nat
  axes : List (Nat × Nat)
  deriving DecidableEq, Repr, Inhabited

/-- A state-carry command that still waits for decays and inputs from the vector engine (R84, R140). -/
structure CarryRun where
  ops : CarryOps
  /-- elements already updated, in the order of R140 -/
  done : Nat
  deriving DecidableEq, Repr

/-- One voice core. -/
structure Core where
  /-- scratchpad, 3 MiB at 0x0000_0000 to 0x002F_FFFF; an unlisted byte reads 0 (R227, R229) -/
  spad : Tab Byte
  /-- accumulator file, 32,768 accumulators of 40 bits; an unlisted one reads 0 (R73, R77) -/
  acc : Tab Acc
  /-- size S_res of the resident region (R74) -/
  sRes : Nat
  /-- 256 semaphores of 16 bits (R239) -/
  sems : Tab W16
  /-- 64 ring descriptors (R242) -/
  rings : Tab RingDesc
  /-- 128 DMA descriptors (R245) -/
  descs : Tab DmaDesc
  dma : Tab DmaSlot
  /-- units 0 to 8 of Table 11.1; 9 is the state-carry path, which executes CARRY beside the array (R77, R86) -/
  units : Tab UnitQ
  /-- fetched commands not yet dispatched (R235) -/
  window : List QCmd
  loop : Option LoopSt
  /-- the last dispatched command carried the step-end flag (R235) -/
  stepEnded : Bool
  /-- index of the next command fetched, for the syndrome of Table 17.2 -/
  fetchIndex : Nat
  prog : Prog
  ctx : Option CoreCtx
  /-- decays and inputs the vector engine has sent to the state-carry path (R84) -/
  carryA : List W16
  carryU : List Acc
  /-- state-carry read-out not yet taken by the vector engine (R85) -/
  carryOut : List W32
  /-- output of the last rescale command, for a lane command that takes it directly (R93) -/
  rescaleOut : List W32
  carryRun : Option CarryRun
  /-- active and shadow weight tile: the weight bytes of the columns of the pass (R67) -/
  tileActive : List (List Byte)
  tileShadow : List (List Byte)
  wino : Option WinoShape
  rng : Rng
  /-- clock-gated: in no bay in Trim, in Doze, or between slices after a lend or reclaim (R290, Table 18.6) -/
  gated : Bool
  /-- counters of Table 21.8 for a core, in order -/
  counters : Tab Nat
  deriving DecidableEq, Repr, Inhabited

end Sys2Proof.Machine
end

