-- ==== Sys2Proof/Machine/BuildState.lean ====
section
/-!
DEFINITION. Sys2Proof/Machine/BuildState.lean: plain data of build images, adapters, bays, yealms and sessions
(spec/02, spec/07, spec/08, spec/11, spec/12, spec/15).
-/
namespace Sys2Proof.Machine

open Sys2Proof

/-- The message a later response answers (R331, R333). -/
structure RespTo where
  conn : Nat
  epoch : W16
  tag : W64
  msgId : W32
  typ : W16
  bodyCrc : W32
  deriving DecidableEq, Repr, Inhabited

/-- Sampling parameters of one codebook (Table 8.1, block 0x0001 of Table 2.13). -/
structure Codebook where
  codes : Nat
  invTemp : W32
  topK : Nat
  topP : W32
  deriving DecidableEq, Repr, Inhabited

/-- Mark parameters (Table 8.2). -/
structure MarkParams where
  p : Nat
  h : Nat
  wordClasses : W16
  kinds : Byte
  deriving DecidableEq, Repr, Inhabited

/-- One recurrent layer (block 0x0003 of Table 2.13). -/
structure Layer where
  stateDim : Nat
  decayForm : Nat
  exitIndex : Nat
  exitThreshold : W32
  rotated : Bool
  hadamardLog2 : Nat
  deriving DecidableEq, Repr, Inhabited

/-- One committed component of a state half (block 0x0005 of Table 2.13). -/
structure Component where
  id : Nat
  elemBytes : Nat
  elements : Nat
  deriving DecidableEq, Repr, Inhabited

/-- A declared session ring 6 to 15 (block 0x0006). -/
structure RingDecl where
  entries : Nat
  entryBytes : Nat
  dir : Nat
  role : Nat
  peerPlan : Nat
  deriving DecidableEq, Repr, Inhabited

/-- The EB-320 counterpart (block 0x0008). -/
structure Eb320 where
  buildId : W64
  comps : List Component
  /-- purpose and element count of each segment (R195) -/
  segments : List (Nat × Nat)
  deriving DecidableEq, Repr, Inhabited

/-- One adapter target (block 0x0009). -/
structure Target where
  dIn : Nat
  dOut : Nat
  stage : Nat
  kind : Nat
  layer : Nat
  deriving DecidableEq, Repr, Inhabited

/-- The model descriptor (Tables 2.12 and 2.13). -/
structure ModelDesc where
  dModel : Nat
  vocab : Nat
  cellState : Nat
  cellForm : Nat
  exitHeads : Nat
  silence : W32
  sampleTensor : W16
  codebooks : List Codebook
  marks : MarkParams
  layers : List Layer
  lambdas : List W32
  layout : List Component
  rings : List RingDecl
  /-- plan index and kind (0 speech, 1 enrolment) -/
  planKinds : List (Nat × Nat)
  eb320 : Option Eb320
  targets : List Target
  deriving DecidableEq, Repr, Inhabited

/-- One core's initial values (R264). -/
structure CoreInit where
  sems : Tab W16
  rings : Tab RingDesc
  descs : Tab DmaDesc
  deriving DecidableEq, Repr, Inhabited

/-- One variant of a plan (Table 11.11) with its walk table and initial values. -/
structure Variant where
  cores : Nat
  leadIdx : Nat
  commitSem : Nat
  sRes : Nat
  walks : List WalkDesc
  inits : List CoreInit
  /-- each core's command stream, 64 bytes a command (R233, Table 11.12) -/
  streams : List (List Byte)
  deriving DecidableEq, Repr, Inhabited

/-- A plan section (Table 11.10). -/
structure Plan where
  index : Nat
  coreCount : Nat
  variants : List Variant
  consts : List Byte
  deriving DecidableEq, Repr, Inhabited

/-- A certificate entry (Table 2.11). -/
structure Cert where
  coreCount : Nat
  variant : Nat
  slots : Nat
  plan : Nat
  wCycles : Nat
  powerMw : Nat
  spillBytes : Nat
  deriving DecidableEq, Repr, Inhabited

/-- The anchoring table (Table 7.5). -/
structure Anchors where
  periodTurns : Nat
  maxSteps : Nat
  comps : List Nat
  deriving DecidableEq, Repr, Inhabited

/-- A section directory entry (Table 2.9). -/
structure Section where
  typ : Nat
  index : Nat
  offset : Nat
  size : Nat
  crc : W32
  deriving DecidableEq, Repr, Inhabited

/-- One copy of a build in the thatch (Table 10.2): 0 the home copy, 1 the mirror, 2 + b the copy of bay b; with the
bad pages of that copy (R422), the channels it lies on (a mask), its first address over those channels (R208), and the bytes
of it that a later write changed, by offset. -/
structure BuildCopy where
  kind : Nat
  channels : Nat
  base : Nat
  written : Tab Byte
  badPages : List Nat
  deriving DecidableEq, Repr, Inhabited

/-- A resident build image (R35 to R41). -/
structure Build where
  id : W64
  image : List Byte
  flags : W16
  outputRate : Nat
  maxRank : Nat
  maxSlots : Nat
  tEnc : Nat
  stateBytes : Nat
  desc : ModelDesc
  plans : List Plan
  certs : List Cert
  initHalf : List Byte
  anchors : Anchors
  /-- weight and table pages recorded at load: page index and CRC-32C (R341, R422) -/
  pageCrcs : List (Nat × W32)
  copies : List BuildCopy
  /-- pages logged and not yet restored in any copy; a range reload of them is accepted (R341) -/
  requested : List Nat
  /-- every page counts as requested (R422 after source 0x0209) -/
  allRequested : Bool
  deriving DecidableEq, Repr, Inhabited

/-- A load in progress (R340). -/
structure Load where
  id : W64
  size : Nat
  mirror : Bool
  bytes : List Byte
  dir : List Section
  /-- channels in which the space of its home copy and of its mirror is reserved (R38, Table 10.2) -/
  channels : List Nat
  mirrorOn : List Nat
  deriving DecidableEq, Repr, Inhabited

/-- A stored adapter (Table 15.9), or a store in progress. -/
structure Adapter where
  id : W64
  build : W64
  rank : Nat
  flags : Byte
  size : Nat
  crc : W32
  bytes : List Byte
  deriving DecidableEq, Repr, Inhabited

/-- Bay attributes (Table 12.1, the bay block of Table 14.8). -/
structure BayAttr where
  cls : Nat
  fenceReserve : Nat
  lend : Nat
  coreMask : Nat
  channelMask : Nat
  wayMask : Nat
  borrowMax : Nat
  beSlice : Nat
  deriving DecidableEq, Repr, Inhabited

/-- A bound plan (R272). A bind whose bay copy is still being made is not yet answered. -/
structure Bound where
  build : W64
  plan : Nat
  ready : Bool
  deriving DecidableEq, Repr, Inhabited

/-- One admitted step of a bay, waiting for its slice or running (R279). -/
structure Step where
  yealm : Nat
  chunk : Nat
  /-- scheduled start s_i, and s_i + w_i, at the running variant of the chunk boundary (R279, R280); 0 in a best-effort bay -/
  start : Nat
  due : Nat
  /-- taking-part mask decided at the chunk boundary (R148) -/
  mask : Nat
  /-- an attempt at the step has started (R155, R280) -/
  begun : Bool
  deriving DecidableEq, Repr, Inhabited

/-- A work group of a best-effort bay (R287): group 0 is its own cores, others are borrowed cores. -/
structure Group where
  gid : Nat
  /-- lending bay of a borrowed group -/
  lender : Option Nat
  cores : List Nat
  variant : Nat
  yealm : Option Nat
  /-- a step runs on the group -/
  stepping : Bool
  /-- marked for reclaim (R292) -/
  reclaim : Bool
  /-- yealm that this group's rotation reached last (R287) -/
  rot : Option Nat
  /-- end of the time slice in progress (R287) -/
  sliceEnd : Nat
  /-- start of the loan, for `lend_core_cycles` -/
  since : Nat
  deriving DecidableEq, Repr, Inhabited

/-- A bulk transfer that firmware carries out in pieces of at most 256 KiB (R212). -/
inductive BulkKind where
  /-- bay copy of a build for a bind (R211) -/
  | planCopy (build : W64) (plan : Nat)
  /-- adapter copy and state-area move of an ATTACH; `src` is the bay whose group holds the area now (R157, R376) -/
  | attachMove (session : Nat) (src : Option Nat)
  /-- entries of a cross-bay ring of a session -/
  | ringCarry (session : Nat) (ring : Nat)
  /-- a reloaded page into one copy of a build (R341) -/
  | pageReload (build : W64) (copy : Nat) (page : Nat)
  /-- the state image and text of an exported session (R158) -/
  | sessionExport (session : Nat)
  deriving DecidableEq, Repr, Inhabited

/-- A bulk job of a bay: bytes still to move, whether a piece is in progress, and the response that waits on it. -/
structure Bulk where
  kind : BulkKind
  left : Nat
  running : Bool
  resp : Option RespTo
  deriving DecidableEq, Repr, Inhabited

/-- One bay (R268). -/
structure Bay where
  attr : BayAttr
  plans : List Bound
  /-- formed yealms in slice order (R275) -/
  order : List Nat
  /-- running variant at the last boundary or slice boundary; `none` is stopped (R274) -/
  variant : Option Nat
  /-- running variant at the last chunk boundary, against which R282 compares -/
  lastVariant : Option Nat
  /-- BAY_DESTROY accepted, to be answered at the next boundary (R271) -/
  destroying : Option RespTo
  /-- admitted steps not yet committed, in slice order, chunk by chunk (R279) -/
  todo : List Step
  /-- the slice of the head of `todo` runs -/
  running : Bool
  /-- paused by a bad page or a flashed channel (R422, Table 17.3) -/
  paused : Bool
  /-- reserve window open (R212) -/
  window : Bool
  /-- lender: cores are lent now (R290) -/
  lent : Bool
  groups : List Group
  /-- best-effort: yealm that the rotation of R287 reached last on any group, where a new group's rotation begins -/
  rot : Option Nat
  /-- commit instant of the last slice (R290) -/
  commitAt : Nat
  bulk : List Bulk
  /-- next work group id -/
  nextGroup : Nat
  /-- counters of Table 12.5 in order -/
  counters : Tab Nat
  deriving DecidableEq, Repr, Inhabited

/-- Yealm commit record (Table 7.6), as it lies in the thatch. -/
structure CommitRec where
  stepCount : Nat
  active : Nat
  prevValid : Nat
  member : Nat
  /-- bytes 20 to 59 -/
  reserved : List Byte
  crc : W32
  deriving DecidableEq, Repr, Inhabited

/-- Position block (Table 7.2). -/
structure Pos where
  chunkCount : Nat
  encNext : Nat
  repTok : Nat
  repRep : Nat
  flags : Byte
  yPrev : W32
  anchorTurns : Nat
  anchorSteps : Nat
  deriving DecidableEq, Repr, Inhabited

/-- What the sequencers hold for one taking-part slot during a step (Tables 7.1 and 7.2, R252). -/
structure SlotWork where
  session : Nat
  pos : Pos
  /-- chunk_count at t0, the `step` of the random index tuple (R137, R169) -/
  step0 : Nat
  /-- the step is its utterance's first (R144) -/
  turn : Bool
  /-- the listed components were re-anchored at this turn boundary (R144) -/
  anchored : Bool
  /-- mark records formed in this step and not yet written into ring 3 (R177) -/
  marks : List (List Byte)
  /-- token whose row this step's frame delivered, and whether for the first time (R123, R174) -/
  row : Option (Nat × Bool)
  /-- io_ptr of the 16 session rings recorded at t0 (R252) -/
  ioPtrs : List Nat
  deriving DecidableEq, Repr, Inhabited

/-- Why a yealm is suspended: capacity (R283), or four failed attempts (R415). -/
inductive Susp where
  | no
  | capacity
  | givenUp
  deriving DecidableEq, Repr, Inhabited

/-- One yealm (R275). -/
structure Yealm where
  bay : Nat
  build : W64
  plan : Nat
  slots : Nat
  /-- earliest instant of its first chunk boundary, where its bay's cores were lent at its forming (R292) -/
  readyAt : Nat
  admitted : Bool
  susp : Susp
  releasing : Option RespTo
  /-- consecutive failed attempts at the step in progress (R415) -/
  attempts : Nat
  rcd : CommitRec
  /-- bay address of the commit record (Table 10.2) -/
  rcdBase : Nat
  /-- working state of the taking-part slots of the step in progress -/
  work : Tab SlotWork
  /-- best-effort step in progress: the taking-part mask, kept over a preemption (R288) -/
  beStep : Option Step
  /-- best-effort: the live set is spilled, of a group of this many cores and this variant (R289) -/
  spilled : Option (Nat × Nat)
  /-- slice overrun to deduct from the next slice, in cycles (R288) -/
  overrun : Nat
  deriving DecidableEq, Repr, Inhabited

/-- A session ring (Table 11.4). -/
structure SRing where
  base : Nat
  entryBytes : Nat
  entries : Nat
  io : Nat
  planA : Nat
  planB : Nat
  dir : Nat
  /-- entry index modulo `entries` to bytes -/
  data : Tab (List Byte)
  deriving DecidableEq, Repr, Inhabited

/-- Session states (Table 15.1) but Free, which is the absence of a session. -/
inductive SState where
  | detached
  | idle
  | speaking
  | enrolling
  | lost
  deriving DecidableEq, Repr, Inhabited

/-- An enrolment job (R377, R378). -/
structure Job where
  adapter : W64
  seed : W64
  iterations : Nat
  tDrop : W32
  rank : Nat
  source : Nat
  mic : Nat
  captureMs : Nat
  /-- reference audio received or captured, PCM16 bytes -/
  audio : List Byte
  /-- samples the capture still takes; `none` when it has not started or does not apply -/
  capture : Option Nat
  /-- samples captured so far: the element index of the next dither draw -/
  captured : Nat
  /-- 48 kHz samples since the last one of a capture that decimates by 3 -/
  third : Nat
  training : Bool
  iteration : Nat
  /-- tokens of the job's transcript -/
  text : Nat
  /-- the working adapter of the job area, as last committed (R378) -/
  working : List Byte
  /-- STOPs that wait for the job's next commit instant, oldest first (R363) -/
  stopping : List RespTo
  deriving DecidableEq, Repr, Inhabited

/-- A DETACH or STOP that waits for a commit instant, a stop point or a boundary (R153, R154, R363). -/
structure StopWait where
  resp : Option RespTo
  /-- the stop came from the barge-in gate (R364) -/
  barge : Bool
  /-- queued and unspoken tokens pushed before it, which it drops beside the utterance in progress -/
  drop : Nat
  deriving DecidableEq, Repr, Inhabited

/-- A slot claim: the yealm and slot, and whether the ATTACH has taken effect (R156). -/
structure Attachment where
  yealm : Nat
  slot : Nat
  /-- the ATTACH is accepted: its moves and copies are done (R157, R376) -/
  ready : Bool
  effective : Bool
  deriving DecidableEq, Repr, Inhabited

/-- One open session (spec/15). -/
structure Session where
  gen : Nat
  st : SState
  tag : W64
  build : W64
  adapter : W64
  seed : W64
  compat : Bool
  enrolment : Bool
  bindFlags : Byte
  encoding : Nat
  tdmPort : Nat
  tdmSlot : Nat
  halfA : List Byte
  halfB : List Byte
  /-- active half (false A, true B) and previous-valid bit while no yealm's commit record holds them (R152) -/
  active : Bool
  prevValid : Bool
  rings : Tab SRing
  /-- bay addresses of the state area (R145), of the 16 ring control blocks (R249) and of the eaves buffer, 64 KiB (R367) -/
  areaBase : Nat
  ctrlBase : Nat
  eavesBase : Nat
  /-- bay whose channel group holds the state area; `none` is the store group (R157) -/
  home : Option Nat
  /-- tokens of the utterance in progress, of the queued one, and pushed since the last SPEAK (R360) -/
  uttTokens : Nat
  queuedTokens : Option Nat
  unspoken : Nat
  /-- grid index of the last boundary before the SPEAK of the queued utterance (R148) -/
  queuedChunk : Nat
  attach : Option Attachment
  /-- grid chunk admitted for the session and not yet committed or dropped (R153) -/
  admitted : Option Nat
  /-- STOPs that wait for one stop point, oldest first -/
  stopWait : List StopWait
  detachWait : Option RespTo
  /-- the waiting DETACH has dropped an admitted chunk, and answers ST_DISCARDED (R155) -/
  detachDrop : Bool
  job : Option Job
  /-- first sample of the first AUDIO discarded since the last OUTPUT_GAP sent, with the discarded counts (Table 15.8) -/
  gapFirst : Option Nat
  gapSamples : Nat
  gapMsgs : Nat
  /-- bytes that I/O blocks have moved to and from the slot's areas in this chunk (R213), and bytes of a waiting message that
  earlier chunks have taken -/
  ioBytes : Nat
  ioDone : Nat
  /-- committed chunks that the audio block has still to read for the TDM slot (R213): step and chunk, oldest first -/
  tdmOwed : List (Nat × Nat)
  /-- first sample whose AUDIO has neither left nor been discarded (R371) -/
  nextSample : Nat
  deriving DecidableEq, Repr, Inhabited

end Sys2Proof.Machine
end

