-- ==== Sys2Proof/Machine/NetState.lean ====
section
/-!
DEFINITION. Sys2Proof/Machine/NetState.lean: plain data of the network engine, the mailboxes, the configuration
records, the fault log and what leaves the device (spec/13, spec/14, spec/17).
-/
namespace Sys2Proof.Machine

open Sys2Proof

/-- Message classes (Table 13.5). -/
inductive MsgClass where
  | control
  | audio
  | marks
  | bulk
  deriving DecidableEq, Repr, Inhabited

/-- What every frame carries beside its content: the 802.1Q tag of a tagged port, VID and PCP (R299), and for an IP packet
its DSCP and its TTL or hop limit (R300, R317); an IPv4 packet has DF set. -/
structure TxHdr where
  tag : Option (Nat × Nat)
  dscp : Nat
  ttl : Nat
  df : Bool
  deriving DecidableEq, Repr, Inhabited

/-- One thing the device sends on a port or drives on a pin, as seen outside. -/
inductive Emit where
  /-- a UDP payload: port, peer address and UDP port, peer MAC, and the segment's bytes (R303, R317) -/
  | segment (port : Nat) (ip : Nat) (udp : Nat) (mac : Nat) (hdr : TxHdr) (bytes : List Byte)
  /-- ARP reply to an IPv4 address (R300) -/
  | arpReply (port : Nat) (toMac : Nat) (toIp : Nat) (hdr : TxHdr)
  | gratuitousArp (port : Nat) (hdr : TxHdr)
  /-- neighbour advertisement in answer to a solicitation for `target` -/
  | neighbourAdvert (port : Nat) (toMac : Nat) (target : Nat) (hdr : TxHdr)
  | unsolicitedAdvert (port : Nat) (hdr : TxHdr)
  | echoReply (port : Nat) (toMac : Nat) (v6 : Bool) (toIp : Nat) (payload : List Byte) (hdr : TxHdr)
  /-- bytes returned on the management sideband (R500) -/
  | i2c (bytes : List Byte)
  deriving DecidableEq, Repr

/-- One path of a connection (R302, R309, R312, R313). -/
structure Path where
  bound : Bool
  up : Bool
  port : Nat
  v6 : Bool
  ip : Nat
  udp : Nat
  mac : Nat
  /-- SRTT and RTTVAR in ns, once sampled (R312) -/
  rtt : Option (Nat × Nat)
  /-- RTO in ns -/
  rto : Nat
  /-- consecutive RTO expiries without progress -/
  expiries : Nat
  /-- KEEPALIVEs sent and not answered -/
  probes : Nat
  /-- fenced for good until the connection is FREE (R410) -/
  fenced : Bool
  deriving DecidableEq, Repr, Inhabited

/-- Connection states of Table 13.7 other than FREE. -/
inductive ConnSt where
  | open
  | held
  | closing
  deriving DecidableEq, Repr, Inhabited

/-- A sequenced segment sent and not acknowledged, or waiting to be sent. -/
structure TxSeg where
  seq : W32
  typ : Nat
  flags : Nat
  payload : List Byte
  cls : MsgClass
  sentAt : Nat
  net : Nat
  resent : Bool
  sacked : Bool
  deriving DecidableEq, Repr, Inhabited

/-- An LMX connection that is not FREE (R305 to R315). -/
structure Conn where
  st : ConnSt
  epoch : W16
  tag : W64
  /-- order of opening, for R365 -/
  opened : Nat
  /-- source of the OPEN (R308) -/
  peerIp : Nat
  peerUdp : Nat
  hostMax : Nat
  paths : Tab Path
  /-- the network new segments go to -/
  active : Nat
  /-- next sequence number expected from the peer -/
  rxNext : W32
  /-- segments received beyond `rxNext`, by sequence number: flags, type and payload -/
  rxBuf : Tab (Nat × Nat × List Byte)
  /-- bytes of the message being reassembled; `none` when no message is open -/
  asm : Option (List Byte)
  /-- the message being reassembled has passed 16,777,216 bytes (R310): the rest is dropped up to its last flag -/
  oversize : Bool
  /-- segments of the message being reassembled (R329) -/
  asmSegs : Nat
  /-- a DATA segment of the host has been taken in sequence, and the device has acknowledged one (R308) -/
  dataSeen : Bool
  dataAcked : Bool
  /-- an acknowledgement is owed on this network (R304) -/
  ackDue : Option Nat
  /-- the device's initial sequence number, which its OPEN_ACK carries (R305) -/
  isn : W32
  /-- next sequence number of the device -/
  txNext : W32
  unacked : List TxSeg
  waiting : List TxSeg
  /-- responses that wait for room in the send buffer, with their class (R314) -/
  respWait : List (List Byte × MsgClass)
  peerWindow : Nat
  /-- number of the next device-originated message (R330) and datagram (R315) -/
  msgNo : Nat
  dgramNo : Nat
  bufLimit : Nat
  /-- counters of Table 13.13 kept per connection, in order -/
  counters : Tab Nat
  deriving DecidableEq, Repr, Inhabited

/-- One Ethernet port (spec/13). -/
structure Port where
  link : Bool
  training : Bool
  /-- taken down by Sealed (Table 18.6) -/
  sealedDown : Bool
  /-- cycle at which an honoured pause ends (R298), and the frames that wait for it -/
  pauseEnd : Nat
  heldTx : List Emit
  /-- times of the echo replies of the last second (R300) -/
  echoes : List Nat
  /-- counters of Table 13.13 kept per port, in order -/
  counters : Tab Nat
  deriving DecidableEq, Repr, Inhabited

/-- A commit of a record that has not applied yet (R347). -/
structure CommitReq where
  bytes : List Byte
  gen : W32
  restart : Bool
  /-- ports whose link-idle point has passed since the commit, for the LMX record -/
  idle : List Nat
  resp : Option RespTo
  deriving DecidableEq, Repr, Inhabited

/-- A configuration record instance (R346). -/
structure CfgRec where
  active : List Byte
  shadow : List Byte
  activeGen : W32
  shadowGen : W32
  commit : Option CommitReq
  deriving DecidableEq, Repr, Inhabited

/-- A complete message in a mailbox, before firmware accepts it (R326): with the connection incarnation and the
`client_tag` it came under (R331, R333) and the segments it came in (R329). -/
structure MailMsg where
  typ : W16
  msg : HostMsg
  epoch : W16
  tag : W64
  segs : Nat
  deriving DecidableEq, Repr

/-- What firmware keeps of a message that took effect (R333). -/
structure Keep where
  tag : W64
  msgId : W32
  typ : W16
  bodyCrc : W32
  resp : List Byte
  deriving DecidableEq, Repr, Inhabited

/-- A fault log entry (Table 14.13). -/
structure LogEntry where
  seq : W32
  source : W16
  cls : Nat
  unit : W32
  recoveries : Nat
  syndrome : W64
  chunk : Nat
  deriving DecidableEq, Repr, Inhabited

/-- The first-error latch (R407). -/
structure Latch where
  source : W16
  cls : Nat
  overflow : Bool
  unit : W32
  syndrome : W64
  chunk : Nat
  deriving DecidableEq, Repr, Inhabited

/-- Fencing of a unit (R408 to R410): in service, in its quiet period, in self-test, or fenced for good. -/
inductive FenceSt where
  | inService
  | quiet
  | selfTest
  | permanent
  deriving DecidableEq, Repr, Inhabited

/-- Health of one unit, kept per unit identifier (R337). -/
structure UnitH where
  fence : FenceSt
  /-- consecutive failed self-tests -/
  tries : Nat
  /-- 16-bit recovery counter -/
  recoveries : Nat
  /-- times of its returns, newest first (R410) -/
  returns : List Nat
  /-- source of a channel's last flash, for the sessions that a permanent fence ends (Table 15.8) -/
  source : Nat
  deriving DecidableEq, Repr, Inhabited

/-- A signal on its way over the mesh (R241). -/
structure MeshSignal where
  src : Nat
  dst : Nat
  sem : Nat
  count : Nat
  deriving DecidableEq, Repr, Inhabited

/-- One thatch channel's controller (R214 to R218). -/
structure Channel where
  /-- refresh intervals begun -/
  refreshes : Nat
  /-- maintenance credits, at most 7,520 -/
  credits : Nat
  /-- line the scrub reads next -/
  scrubLine : Nat
  /-- time of the last PHY recalibration -/
  recalAt : Nat
  /-- lines left poisoned by the scrub (Table 10.4) -/
  poisoned : List Nat
  /-- counters of Table 10.5 kept per channel, in order -/
  counters : Tab Nat
  deriving DecidableEq, Repr, Inhabited

/-- What an uncorrectable line that the scrub found holds, for the next chunk boundary (Table 10.4). -/
inductive ScrubHit where
  /-- a page of a copy of a build -/
  | page (build : W64) (copy : Nat) (page : Nat)
  /-- a session's active half -/
  | active (session : Nat)
  /-- a session's inactive half -/
  | inactive (session : Nat)
  deriving DecidableEq, Repr, Inhabited

/-- One ridge slice: lines held, as (way, line index), and its counters (R222 to R225, Table 10.5). -/
structure Slice where
  lines : List (Nat × Nat)
  /-- times of its 0x0210 errors within the last millisecond (Table 10.4) -/
  errors : List Nat
  counters : Tab Nat
  deriving DecidableEq, Repr, Inhabited

end Sys2Proof.Machine
end

