-- ==== Sys2Proof/Machine/DeviceState.lean ====
section
/-!
DEFINITION. Sys2Proof/Machine/DeviceState.lean: plain data of the serial audio block, power and thermal control,
boot, fuses, the test access port and the management sideband (spec/16, spec/18, spec/19, spec/21).
-/
namespace Sys2Proof.Machine

open Sys2Proof

/-- State of a TDM port as `u_info` reports it (Table 14.4). -/
inductive TdmSt where
  | stopped
  | running
  | clockLost
  | relocking
  deriving DecidableEq, Repr, Inhabited

/-- One slot of a TDM port. -/
structure TSlot where
  /-- committed PCM24 samples in the slot buffer, oldest first, each with its session, chunk grid index and index in
  the chunk (R389) -/
  buf : List (Int × Nat × Nat × Nat)
  /-- playout lag in cycles, once defined (R390) -/
  lag : Option Nat
  /-- instant at which the first sample of an empty buffer may play: commit + c_d (R390 rule 1) -/
  ready : Nat
  /-- fractional playout position of the conversion path, in 2^-32 samples -/
  phase : Nat
  /-- the buffer ran empty before the last released sample (R390 rule 4) -/
  starved : Option Nat
  /-- code driven in the current frame -/
  out : Int
  /-- input code of the current frame -/
  inp : Int
  /-- barge-in gate: consecutive active and inactive blocks, armed (R394) -/
  activeBlocks : Nat
  quietBlocks : Nat
  armed : Bool
  deriving DecidableEq, Repr, Inhabited

/-- One TDM port. -/
structure Tdm where
  st : TdmSt
  /-- tracked period T in cycles, and the measured periods of the last frames, newest first (R391, R393) -/
  period : Nat
  recent : List Nat
  glitchRun : Nat
  /-- frames since the clock came back after a loss (R393) -/
  backFrames : Nat
  /-- a ramp to zero of a stop-apply-restart runs (R387) -/
  ramping : Bool
  /-- the relock in progress ended a clock loss (Table 16.6) -/
  relockAfterLoss : Bool
  /-- the last relock found a period more than 2 % off nominal: the clock loss ends only by a relock (Table 16.6) -/
  offNominal : Bool
  /-- start of the last ramp to zero (Table 16.6) -/
  rampAt : Nat
  /-- enabled slots carry idle_pattern: fatal safe state or flashed port (R400, R401) -/
  safe : Bool
  /-- applied gain offset G in 2^-32 dB (R399) -/
  gain : Int
  slots : Tab TSlot
  /-- counters of Table 16.9 kept per port, in order -/
  counters : Tab Nat
  deriving DecidableEq, Repr, Inhabited

/-- The PDM block: the last output of each microphone, the chunk's samples for each meter, levels and counters. -/
structure Pdm where
  outs : Tab W32
  /-- samples of the current chunk, per meter -/
  chunk : Tab (List W32)
  /-- chunk levels of the last windows, newest first, in 1/16 dB, per meter (R398) -/
  levels : Tab (List Int)
  /-- ambient level A in 1/16 dB, per meter -/
  ambient : Tab Int
  clips : Tab Nat
  clockLost : Nat
  deriving DecidableEq, Repr, Inhabited

/-- Power states (Table 18.6). -/
inductive PState where
  | run
  | trim
  | doze
  | sealed
  deriving DecidableEq, Repr, Inhabited

/-- Settings of a group of SRAM arrays (Table 18.7): array powered, periphery on, write assist (negative bit line) and read assist
(word-line underdrive) in mV, and the retention supply in mV with retention assist; 0 is off. -/
structure SramSet where
  powered : Bool
  periphery : Bool
  writeAssistMv : Nat
  readAssistMv : Nat
  retentionMv : Nat
  deriving DecidableEq, Repr, Inhabited

/-- Body bias and SRAM assist settings (R443, Table 18.7): reverse bias of the cores' and the mesh's wells in mV, whether the
cores have power, the scratchpad, accumulator and ridge-cache SRAM, and the gable processor's SRAM. -/
structure BiasSet where
  coreReverseMv : Nat
  meshReverseMv : Nat
  coresPowered : Bool
  arrays : SramSet
  gable : SramSet
  deriving DecidableEq, Repr, Inhabited

/-- SRAM in use (Table 18.7, Run). -/
def sramActive : SramSet := { powered := true, periphery := true, writeAssistMv := 80, readAssistMv := 30, retentionMv := 0 }

/-- Table 18.7. -/
def biasOf (p : PState) : BiasSet :=
  match p with
  | .run => { coreReverseMv := 0, meshReverseMv := 0, coresPowered := true, arrays := sramActive, gable := sramActive }
  | .trim => { coreReverseMv := 0, meshReverseMv := 0, coresPowered := true, arrays := sramActive, gable := sramActive }
  | .doze =>
    { coreReverseMv := 300, meshReverseMv := 300, coresPowered := true, gable := sramActive
      arrays := { powered := true, periphery := false, writeAssistMv := 0, readAssistMv := 0, retentionMv := 620 } }
  | .sealed =>
    { coreReverseMv := 0, meshReverseMv := 300, coresPowered := false, gable := sramActive
      arrays := { powered := false, periphery := false, writeAssistMv := 0, readAssistMv := 0, retentionMv := 0 } }

/-- A power-state transition in progress (R444, R447). -/
structure Trans where
  /-- entering `target` (else leaving for Run) -/
  entering : Bool
  target : PState
  resp : Option RespTo
  /-- the POWER_STATE itself, processed afresh where a fatal fault abandons the entry (R418, R424) -/
  msg : Option MailMsg
  wakeSeen : Bool
  deriving DecidableEq, Repr

/-- The FAULT state (R417). -/
structure FaultSt where
  source : W16
  unit : W32
  /-- firmware answers the messages of R334 -/
  fwReady : Bool
  /-- start of the device quiet period -/
  since : Nat
  /-- the warm re-initialisation runs -/
  reinit : Bool
  /-- channel of a 0x0209 fault, to be treated as lost (R421) -/
  lostChannels : List Nat
  deriving DecidableEq, Repr, Inhabited

/-- Power, thermal and clock state (spec/18). -/
structure Power where
  state : PState
  /-- body bias and SRAM assist as set (R443) -/
  bias : BiasSet
  trans : Option Trans
  wakeArm : Byte
  capMw : Nat
  /-- 80 junction sensors, signed 1/16 degC (R449) -/
  sensors : Tab W16
  /-- consecutive readings at or above 110 degC, per sensor (R451) -/
  hot : Tab Nat
  alarm : Bool
  /-- readings with the alarm active since `alarm_ms` last advanced (R452): ten make a millisecond -/
  alarmTicks : Nat
  /-- every sensor has read at or below the hysteresis point since (R450) -/
  coolSince : Option Nat
  /-- rail readings in mV and consecutive out-of-range comparisons (R430) -/
  rails : Tab Nat
  railBad : Tab Nat
  /-- SDREF_A and SDREF_B run (R434) -/
  sdref : Tab Bool
  /-- counters of Table 18.10 in order, without tj_peak -/
  counters : Tab Nat
  tjPeak : Option W16
  deriving DecidableEq, Repr, Inhabited

/-- Boot record (Table 19.2). -/
structure BootRec where
  seq : W32
  slot : Nat
  trial : Bool
  trialBoots : Nat
  deriving DecidableEq, Repr, Inhabited

/-- A key slot of the fuse array (R458). -/
structure KeySlot where
  hash : List Byte
  programmed : Bool
  revoked : Bool
  deriving DecidableEq, Repr, Inhabited

/-- Fuses and identity (R458, R466). -/
structure Fuses where
  rsa : List KeySlot
  slh : List KeySlot
  counter : Nat
  serial : List Byte
  /-- every row passes its check code -/
  ok : Bool
  deriving DecidableEq, Repr, Inhabited

/-- The running firmware (R464, Table 19.5). -/
structure Firmware where
  version : W32
  secVersion : Nat
  rsaSlot : Nat
  slhSlot : Nat
  revokeMask : Nat
  payloadHash : List Byte
  trial : Bool
  slot : Nat
  deriving DecidableEq, Repr, Inhabited

/-- A piece of a firmware image that waits to be programmed, with the message that brought it (R463). -/
structure FwPiece where
  resp : RespTo
  msg : HostMsg
  offset : Nat
  data : List Byte
  last : Bool
  /-- the message is an abort that waits for the pieces accepted before it -/
  abort : Bool
  deriving DecidableEq, Repr

/-- A firmware update in progress (R463). -/
structure FwUpdate where
  slot : Nat
  size : Nat
  /-- bytes of accepted pieces -/
  got : Nat
  /-- the slot's erase runs; the first piece of the queue waits for it -/
  erasing : Bool
  /-- accepted pieces, oldest first -/
  queue : List FwPiece
  deriving DecidableEq, Repr

/-- Modes of the boot flash port (R437, R484). -/
inductive XspiMode where
  /-- pins at high impedance, during a reset -/
  | released
  /-- 1S-1S-1S at 10.0 MHz -/
  | single
  /-- 8D-8D-8D with DQS -/
  | octal
  deriving DecidableEq, Repr, Inhabited

/-- What a boot does on the boot flash port before it reads images (R484). -/
inductive XspiOp where
  /-- JESD251 software reset at 10.0 MHz -/
  | softReset
  /-- SFDP table read in 1S-1S-1S mode -/
  | readSfdp
  /-- switch to octal DDR -/
  | toOctal
  deriving DecidableEq, Repr, Inhabited

/-- Boot state (R435 to R438, Table 21.7). -/
structure Boot where
  /-- the boot flash port, and what it has done at this boot, in order (R484) -/
  xspi : XspiMode
  xspiOps : List XspiOp
  pwrok : Bool
  resetN : Bool
  stage : Byte
  /-- boot complete reached: messages are accepted -/
  complete : Bool
  coldWindow : Bool
  /-- the reset in progress is a warm reset -/
  warm : Bool
  /-- PROFSEL[1:0] as sampled -/
  profsel : Nat
  profileActive : Nat
  /-- choice of PROFILE_SELECT since the last reset (R438) -/
  profileChoice : Option Nat
  /-- PROFILE_SELECT asked for a warm reset, which waits for running steps (R439) -/
  warmPending : Bool
  baysSkipped : Nat
  /-- the firmware that runs, and none before the boot ROM has started one (R460, R464) -/
  fw : Option Firmware
  update : Option FwUpdate
  attest : Option (RespTo × List Byte)
  faultN : Bool
  deriving DecidableEq, Repr, Inhabited

/-- The test access port (R494 to R499). -/
structure Tap where
  /-- selected instruction code -/
  ir : Byte
  /-- boundary-scan capture and update stages -/
  pins : List Bool
  update : List Bool
  /-- pins driven from the update stage, held, or at high impedance; none of them outside a cold test window -/
  drive : Byte
  mbRun : Bool
  mbDone : Bool
  mbFail : Bool
  mbTarget : Byte
  mbFailType : Byte
  mbFailIndex : Byte
  sdRun : Bool
  sdLoop : BitVec 3
  sdPattern : BitVec 4
  sdRate : BitVec 2
  sdLane : BitVec 4
  sdLock : Bool
  sdErrors : Nat
  deriving DecidableEq, Repr, Inhabited

/-- The management sideband (R500, R501). -/
structure Side where
  pointer : Nat
  block : List Byte
  refreshes : Nat
  deriving DecidableEq, Repr, Inhabited

end Sys2Proof.Machine
end

