-- ==== Sys2Proof/Machine/State.lean ====
section
/-!
DEFINITION. Sys2Proof/Machine/State.lean: the whole state of the EB-640, its faults and refusals, and the state during a
power-on reset (PWROK low, R435).
-/
namespace Sys2Proof.Machine

open Sys2Proof

/-- What stops the machine. -/
inductive Fault where
  /-- Raised by `execWarmReset` on a RESET_N low pulse of 1 µs to 10 µs, which R435 forbids and for which it gives no
  effect. Safe: the machine stops where the manual says nothing. -/
  | resetPulseForbidden
  deriving DecidableEq, Repr

/-- Commands without a meaning. -/
inductive Refusal where
  /-- The row has no meaning yet. Raised by `exec` only. Safe. -/
  | notModelled (mnemonic : String)
  deriving DecidableEq, Repr

/-- The state of the device. -/
structure State where
  /-- commands that wait, first in first out -/
  pending : List Instr
  /-- ARRAYCLK cycles since the machine was placed in reset; the model's own clock, one cycle per idle step -/
  now : Nat
  /-- draws of free values so far; the model's own counter -/
  fresh : Nat
  /-- what has left the device, newest last; the model's own record of its outputs -/
  wire : List Emit
  boot : Boot
  fuses : Fuses
  /-- boot flash; an unlisted byte reads 0xFF, as erased (R454, R455) -/
  flash : Tab Byte
  /-- FAULT state (R417) -/
  fault : Option FaultSt
  /-- consecutive fatal faults n of R420, and the end of the last re-initialisation -/
  fatalRun : Nat
  lastReinit : Option Nat
  deviceRecoveries : Nat
  power : Power
  /-- grid index of the last chunk boundary, and its instant T_0 (R278) -/
  chunk : Nat
  t0 : Nat
  ports : Tab Port
  conns : Tab Conn
  /-- epoch of each connection id (R306), and connections opened so far -/
  epochs : Tab W16
  opened : Nat
  /-- source address and time of the last RESET of R307 to each -/
  resets : List (Nat × Nat)
  /-- 64 mailboxes of messages not yet accepted (R326, R329) and the mailbox served last (R327) -/
  mail : Tab (List MailMsg)
  mailLast : Nat
  /-- messages accepted and not answered (R329) -/
  unanswered : List RespTo
  keeps : List Keep
  /-- SUMMARY and RESYNC requests that wait for the snapshot (R336); `true` marks RESYNC -/
  snapshots : List (RespTo × Bool)
  recs : Tab CfgRec
  log : List LogEntry
  logNext : W32
  latch : Option Latch
  units : Tab UnitH
  builds : List Build
  loads : List Load
  adapters : List Adapter
  stores : List Adapter
  bays : Tab Bay
  yealms : Tab Yealm
  sessions : Tab Session
  /-- generation of each session index (R355) -/
  gens : Tab Nat
  sessLost : Nat
  cores : Tab Core
  /-- spill areas, per yealm × 64 + core index (R288, R289): the live set and the core as it stood -/
  spills : Tab Core
  /-- signals on their way between cores (R241) -/
  mesh : List MeshSignal
  /-- thatch bytes by physical address (R207); an unlisted byte reads 0, as boot writes it (Table 18.4) -/
  thatch : Tab Byte
  channels : Tab Channel
  /-- uncorrectable lines that wait for a chunk boundary (Table 10.4) -/
  scrubFound : List ScrubHit
  slices : Tab Slice
  tdm : Tab Tdm
  pdm : Pdm
  tap : Tap
  side : Side
  /-- counters of Table 17.7 in order, with `fatal_faults` last -/
  gpCounters : Tab Nat
  deriving DecidableEq, Repr

/-- The state of a device that power-on reset holds (R435): PWROK and RESET_N low, boot stage 0x00, FAULT_N driven low,
nothing resident. Values the manual does not give are named in notes/assumptions. -/
def State.reset : State where
  pending := []
  now := 0
  fresh := 0
  wire := []
  boot :=
    { xspi := .released, xspiOps := [], pwrok := false, resetN := false, stage := 0, complete := false, coldWindow := false, warm := false
      profsel := 0, profileActive := 0, profileChoice := none, warmPending := false, baysSkipped := 0
      fw := none, update := none, attest := none, faultN := true }
  fuses :=
    { rsa := List.replicate 4 { hash := List.replicate 48 0, programmed := false, revoked := false }
      slh := List.replicate 4 { hash := List.replicate 48 0, programmed := false, revoked := false }
      counter := 0, serial := List.replicate 16 0, ok := true }
  flash := []
  fault := none
  fatalRun := 0
  lastReinit := none
  deviceRecoveries := 0
  power :=
    { state := .run, bias := biasOf .run, trans := none, wakeArm := 0, capMw := 0, sensors := [], hot := [], alarm := false, alarmTicks := 0
      coolSince := none, rails := [], railBad := [], sdref := [], counters := [], tjPeak := none }
  chunk := 0
  t0 := 0
  ports := []
  conns := []
  epochs := []
  opened := 0
  resets := []
  mail := []
  mailLast := 63
  unanswered := []
  keeps := []
  snapshots := []
  recs := []
  log := []
  logNext := 0
  latch := none
  units := []
  builds := []
  loads := []
  adapters := []
  stores := []
  bays := []
  yealms := []
  sessions := []
  gens := []
  sessLost := 0
  cores := []
  spills := []
  mesh := []
  thatch := []
  channels := []
  scrubFound := []
  slices := []
  tdm := []
  pdm := { outs := [], chunk := [], levels := [], ambient := [], clips := [], clockLost := 0 }
  tap :=
    { ir := 1, pins := [], update := [], drive := 0, mbRun := false, mbDone := false, mbFail := false, mbTarget := 0
      mbFailType := 0, mbFailIndex := 0, sdRun := false, sdLoop := 0, sdPattern := 0, sdRate := 0, sdLane := 0
      sdLock := false, sdErrors := 0 }
  side := { pointer := 0, block := List.replicate 256 0, refreshes := 0 }
  gpCounters := []

end Sys2Proof.Machine
end

