-- ==== Sys2Proof/Machine/Ops.lean ====
section
/-!
DEFINITION. Sys2Proof/Machine/Ops.lean: the named operations every meaning is written over: sparse tables and memories in
canonical form, little-endian fields (spec/00, "Layouts and fields"), and the CRC-32C that the manual uses everywhere.
-/
namespace Sys2Proof.Machine

open Sys2Proof

/-- The entry listed under `k`. -/
def tfind {α : Type} (t : Tab α) (k : Nat) : Option α :=
  match t with
  | [] => none
  | (j, v) :: rest => if j = k then some v else tfind rest k

/-- What key `k` reads as, where an unlisted key reads as `d`. -/
def tget {α : Type} (d : α) (t : Tab α) (k : Nat) : α := (tfind t k).getD d

/-- `t` without key `k`. -/
def tdel {α : Type} (t : Tab α) (k : Nat) : Tab α :=
  match t with
  | [] => []
  | (j, v) :: rest => if j = k then rest else (j, v) :: tdel rest k

/-- `t` with `v` listed under `k`, keys kept in order. -/
def tins {α : Type} (t : Tab α) (k : Nat) (v : α) : Tab α :=
  match t with
  | [] => [(k, v)]
  | (j, w) :: rest =>
    if j < k then (j, w) :: tins rest k v
    else if j = k then (k, v) :: rest
    else (k, v) :: (j, w) :: rest

/-- A write that keeps the canonical form: the value an unlisted key reads as is not listed. -/
def tput {α : Type} [DecidableEq α] (d : α) (t : Tab α) (k : Nat) (v : α) : Tab α :=
  if v = d then tdel t k else tins t k v

/-- `t` with the entry of `k` changed by `f`, if there is one. -/
def tmod {α : Type} (t : Tab α) (k : Nat) (f : α → α) : Tab α :=
  match tfind t k with
  | none => t
  | some v => tins t k (f v)

/-- Keys strictly rising, all above `lo` where it is given. -/
def tsorted {α : Type} (lo : Option Nat) (t : Tab α) : Bool :=
  match t with
  | [] => true
  | (j, _) :: rest =>
    (match lo with
     | none => true
     | some l => decide (l < j)) && tsorted (some j) rest

/-- The canonical form of a table whose unlisted keys read as `d`. -/
def twf {α : Type} [DecidableEq α] (d : α) (t : Tab α) : Bool :=
  tsorted none t && t.all (fun e => decide (e.2 ≠ d))

/-- `f 0 x` to `f (n - 1) x` applied in turn. -/
def iter {α : Type} (f : Nat → α → α) : Nat → α → α
  | 0, x => x
  | n + 1, x => f n (iter f n x)

/-- The canonical form of a memory whose unlisted bytes read as `d`: addresses strictly rising, and no listed byte equal
to `d`. -/
def Memory.wf (d : Byte) (m : Tab Byte) : Bool := twf d m

/-! ### Bytes -/

/-- Bytes `a` to `a + n - 1` of a memory. -/
def mread (d : Byte) (m : Tab Byte) (a n : Nat) : List Byte := (List.range n).map (fun i => tget d m (a + i))

/-- Write of `bs` at `a`. -/
def mwrite (d : Byte) (m : Tab Byte) (a : Nat) (bs : List Byte) : Tab Byte :=
  match bs with
  | [] => m
  | b :: rest => mwrite d (tput d m a b) (a + 1) rest

/-- The unsigned number that little-endian bytes hold. -/
def leNat : List Byte → Nat
  | [] => 0
  | b :: rest => b.toNat + 256 * leNat rest

/-- The signed number that little-endian bytes hold. -/
def leInt (bs : List Byte) : Int :=
  let n := leNat bs
  if bs.length = 0 ∨ n < 2 ^ (8 * bs.length - 1) then (n : Int) else (n : Int) - 2 ^ (8 * bs.length)

/-- `n` modulo `256 ^ k` as `k` little-endian bytes. -/
def le (k n : Nat) : List Byte :=
  match k with
  | 0 => []
  | k + 1 => BitVec.ofNat 8 n :: le k (n / 256)

/-- A signed number as `k` little-endian bytes of two's complement. -/
def leS (k : Nat) (n : Int) : List Byte := le k (fmod n (2 ^ (8 * k))).toNat

/-- `n` bytes from offset `a`. -/
def cut (bs : List Byte) (a n : Nat) : List Byte := (bs.drop a).take n

/-- The little-endian field of `n` bytes at offset `a`. -/
def fld (bs : List Byte) (a n : Nat) : Nat := leNat (cut bs a n)

/-- The signed field of `n` bytes at offset `a`. -/
def fldS (bs : List Byte) (a n : Nat) : Int := leInt (cut bs a n)

/-- `n` zero bytes. -/
def zeros (n : Nat) : List Byte := List.replicate n 0

/-- Every byte of the field at offset `a` is zero. -/
def isZero (bs : List Byte) (a n : Nat) : Bool := (cut bs a n).all (fun b => b == 0)

/-- Bit `i` of a number. -/
def bit (n i : Nat) : Bool := n.testBit i

/-- Bits `[hi:lo]` of a number. -/
def bits (n hi lo : Nat) : Nat := (n / 2 ^ lo) % 2 ^ (hi - lo + 1)

/-- Bit positions below `n` that are set in a mask. -/
def maskBits (n mask : Nat) : List Nat := (List.range n).filter (fun i => mask.testBit i)

/-- The mask with the given bits. -/
def maskOf (l : List Nat) : Nat := l.foldl (fun m i => m ||| 2 ^ i) 0

/-- 1 for true, 0 for false. -/
def b2n (b : Bool) : Nat := if b then 1 else 0

/-- Replaces item `i` of a list. -/
def lset {α : Type} (l : List α) (i : Nat) (v : α) : List α := l.set i v

/-- Insertion by a key. -/
def insertKey {α : Type} (key : α → Nat) (x : α) : List α → List α
  | [] => [x]
  | y :: rest => if key x ≤ key y then x :: y :: rest else y :: insertKey key x rest

/-- Ascending order of a key. -/
def sortKey {α : Type} (key : α → Nat) (l : List α) : List α := l.foldr (insertKey key) []

/-- Half-open extents that do not overlap; empty ones overlap nothing. -/
def disjointSpans (l : List (Nat × Nat)) : Bool :=
  let l := sortKey Prod.fst (l.filter (fun e => decide (0 < e.2)))
  (l.zip (l.drop 1)).all (fun p => decide (p.1.1 + p.1.2 ≤ p.2.1))

/-! ### CRC-32C (R310, R38): polynomial 0x1EDC6F41, reflected, initial value and final XOR 0xFFFF_FFFF -/

/-- One bit of the reflected CRC-32C. -/
def crcBit (c : W32) : W32 := if c.getLsbD 0 then (c >>> 1) ^^^ 0x82F63B78#32 else c >>> 1

/-- One byte. -/
def crcByte (c : W32) (b : Byte) : W32 := iter (fun _ x => crcBit x) 8 (c ^^^ b.setWidth 32)

/-- CRC-32C of a list of bytes. -/
def crc32c (bs : List Byte) : W32 := (bs.foldl crcByte 0xFFFFFFFF#32) ^^^ 0xFFFFFFFF#32

end Sys2Proof.Machine
end

