-- ==== Sys2Proof/Machine/FaultLog.lean ====
section
/-!
DEFINITION. Sys2Proof/Machine/FaultLog.lean: fault classes, the log, the first-error latch and the health of units
(R337, R348, R403 to R411).
-/
namespace Sys2Proof.Machine

open Sys2Proof

/-- Class of a fault (R403). -/
inductive FClass where
  | corrected
  | contained
  | fatal
  deriving DecidableEq, Repr

/-- Class of a source (Table 17.1); a source of no row is contained. -/
def faultClass (src : W16) : FClass :=
  let n := src.toNat
  if n = 0x0110 ∨ n = 0x0201 ∨ n = 0x0205 ∨ n = 0x0210 ∨ n = 0x0301 ∨ n = 0x0302 ∨ n = 0x0304 ∨ n = 0x0401 ∨ n = 0x0402
      ∨ n = 0x0502 ∨ n = 0x0701 ∨ n = 0x0702 then .corrected
  else if n = 0x0209 ∨ n = 0x0501 ∨ n = 0x0503 ∨ n = 0x0504 ∨ n = 0x0505 ∨ n = 0x0601 ∨ n = 0x0602 ∨ n = 0x0603
      ∨ n = 0x0605 ∨ n = 0x0606 ∨ n = 0x0703 then .fatal
  else .contained

/-- The source stands in Table 17.1. -/
def faultKnown (src : W16) : Bool :=
  let n := src.toNat
  decide ((0x0100 ≤ n ∧ n ≤ 0x010C) ∨ (0x0110 ≤ n ∧ n ≤ 0x0118) ∨ (0x0201 ≤ n ∧ n ≤ 0x0211 ∧ n ≠ 0x020A ∧ n ≠ 0x020B ∧
    n ≠ 0x020C ∧ n ≠ 0x020D ∧ n ≠ 0x020E ∧ n ≠ 0x020F) ∨ (0x0301 ≤ n ∧ n ≤ 0x0308) ∨ (0x0401 ≤ n ∧ n ≤ 0x0404) ∨
    (0x0501 ≤ n ∧ n ≤ 0x0505) ∨ (0x0601 ≤ n ∧ n ≤ 0x0606) ∨ (0x0701 ≤ n ∧ n ≤ 0x0703))

/-- Number of a class in Tables 14.3 and 14.13. -/
def FClass.code : FClass → Nat
  | .corrected => 0
  | .contained => 1
  | .fatal => 2

/-- Unit identifier of a type and an index (R337). -/
def unitId (typ idx : Nat) : W32 := BitVec.ofNat 32 (typ * 16777216 + idx)
/-- Voice core. -/
def uCore (i : Nat) : W32 := unitId 1 i
/-- Ridge slice. -/
def uSlice (i : Nat) : W32 := unitId 2 i
/-- Thatch channel. -/
def uChannel (i : Nat) : W32 := unitId 3 i
/-- Ethernet port. -/
def uPort (i : Nat) : W32 := unitId 4 i
/-- Path of a connection on a network. -/
def uPath (conn net : Nat) : W32 := unitId 5 (conn * 2 + net)
/-- Link of a bay: consumer core index and ring. -/
def uLink (bay core ring : Nat) : W32 := unitId 6 (bay * 65536 + core * 256 + ring)
/-- Session. -/
def uSession (i : Nat) : W32 := unitId 7 i
/-- Audio port: 0 to 3 TDM, 4 PDM. -/
def uAudio (i : Nat) : W32 := unitId 8 i
/-- Gable processor. -/
def uGable : W32 := unitId 9 0
/-- Device. -/
def uDevice : W32 := unitId 10 0
/-- LMX connection. -/
def uConn (i : Nat) : W32 := unitId 11 i

/-- Type of a unit identifier. -/
def unitType (u : W32) : Nat := u.toNat / 16777216
/-- Index of a unit identifier. -/
def unitIdx (u : W32) : Nat := u.toNat % 16777216

/-! ### Configuration records (R345, R346) -/

/-- Size of a record (Table 14.10). -/
def recSize (id : Nat) : Nat := if id = 0x10 ∨ id = 0x11 ∨ id = 0x12 ∨ id = 0x13 ∨ id = 0x18 then 64 else 32

/-- Key of a record instance in `State.recs`. -/
def recKey (id inst : Nat) : Nat := id * 256 + inst

/-- A record instance before boot has written it. -/
def recD (id : Nat) : CfgRec :=
  { active := zeros (recSize id), shadow := zeros (recSize id), activeGen := 0, shadowGen := 0, commit := none }

/-- A record instance. -/
def recOf (s : State) (id inst : Nat) : CfgRec := tget (recD id) s.recs (recKey id inst)

/-- The active copy of a record instance. -/
def act (s : State) (id inst : Nat) : List Byte := (recOf s id inst).active

/-- Stores a record instance. -/
def setRec (s : State) (id inst : Nat) (r : CfgRec) : State :=
  { s with recs := tput (recD id) s.recs (recKey id inst) r }

/-- `quiet_ms` in cycles (Table 17.4). -/
def quietCycles (s : State) : Nat := fld (act s 0x30 0) 0 4 * Config.cyclesPerMs
/-- `recov_limit`. -/
def recovLimit (s : State) : Nat := fld (act s 0x30 0) 4 2
/-- `selftest_tries`. -/
def selftestTries (s : State) : Nat := fld (act s 0x30 0) 6 2
/-- `recov_window_s` in cycles. -/
def recovWindow (s : State) : Nat := fld (act s 0x30 0) 8 4 * Config.cyclesPerSecond

/-! ### Units -/

/-- A unit in service that has never failed. -/
def unitD : UnitH := { fence := .inService, tries := 0, recoveries := 0, returns := [], source := 0 }

/-- Health of a unit. -/
def unitOf (s : State) (u : W32) : UnitH := tget unitD s.units u.toNat

/-- Stores the health of a unit. -/
def setUnit (s : State) (u : W32) (h : UnitH) : State := { s with units := tput unitD s.units u.toNat h }

/-- The unit is fenced. -/
def fenced (s : State) (u : W32) : Bool := decide ((unitOf s u).fence ≠ .inService)

/-- Returns of a unit within the last `recov_window_s`. -/
def recentReturns (s : State) (u : W32) : Nat :=
  ((unitOf s u).returns.filter (fun t => decide (s.now ≤ t + recovWindow s))).length

/-- Flashing of a unit (R409, R410): its quiet period starts, or starts again; after `recov_limit` returns within the
window it is fenced permanently. -/
def flash (s : State) (u : W32) : State :=
  let h := unitOf s u
  match h.fence with
  | .permanent => s
  | .inService =>
    if recovLimit s ≤ recentReturns s u ∧ recovLimit s ≠ 0 then setUnit s u { h with fence := .permanent }
    else setUnit s u { h with fence := .quiet, tries := 0 }
  | _ => setUnit s u { h with fence := .quiet }

/-- Return of a unit to service: its recovery counter advances, up to 0xFFFF (R409). -/
def unitReturn (s : State) (u : W32) : State :=
  let h := unitOf s u
  match h.fence with
  | .permanent => s
  | _ => setUnit s u { fence := .inService, tries := 0, recoveries := min (h.recoveries + 1) 65535
                       returns := s.now :: h.returns, source := h.source }

/-- Log entry and latch of a contained or fatal fault (R348, R407). -/
def logFault (s : State) (f : FaultEvent) : State :=
  let cls := (faultClass f.source).code
  let e : LogEntry :=
    { seq := s.logNext, source := f.source, cls := cls, unit := f.unit, recoveries := (unitOf s f.unit).recoveries
      syndrome := f.syndrome, chunk := s.chunk }
  let log := s.log ++ [e]
  let latch : Latch := match s.latch with
    | none => { source := f.source, cls := cls, overflow := false, unit := f.unit, syndrome := f.syndrome, chunk := s.chunk }
    | some l => { l with overflow := true }
  { s with log := log.drop (log.length - 4096), logNext := s.logNext + 1, latch := some latch }

/-- A fault event with the given numbers. -/
def mkFault (src : Nat) (u : W32) (syn : Nat) : FaultEvent :=
  { source := BitVec.ofNat 16 src, unit := u, syndrome := BitVec.ofNat 64 syn }

/-- A counter table with one counter advanced, modulo 2^w (Table 21.7 gives the wrap rule). -/
def cntAdd (t : Tab Nat) (k w n : Nat) : Tab Nat := tput 0 t k ((tget 0 t k + n) % 2 ^ w)

end Sys2Proof.Machine
end

