-- ==== Sys2Proof/Machine/Thatch.lean ====
section
/-!
DEFINITION. Sys2Proof/Machine/Thatch.lean: the thatch by physical and bay address (R207 to R210): what firmware placed there and
the bytes each object holds, poisoned lines (R219, R231), the channels' counters and the ridge cache (R222 to R226, R232).
-/
namespace Sys2Proof.Machine

open Sys2Proof

/-! ### Outcome of a command: a fault source of Table 17.1, or what it wrote -/

/-- Work of a command that may raise a contained fault. -/
abbrev Try (α : Type) := Except Nat α

/-- A check that raises a fault source when it fails. -/
def need (b : Bool) (src : Nat) : Try Unit := if b then .ok () else .error src

/-- `f` over a list, with the first fault. -/
def tryMap {α β : Type} (f : α → Try β) : List α → Try (List β)
  | [] => .ok []
  | a :: rest =>
    match f a with
    | .error e => .error e
    | .ok b =>
      match tryMap f rest with
      | .error e => .error e
      | .ok bs => .ok (b :: bs)

/-! ### Sessions, yealms, bays and builds by index -/

/-- An open session. -/
def sessOf (s : State) (i : Nat) : Option Session := tfind s.sessions i
/-- Changes a session. -/
def modSess (s : State) (i : Nat) (f : Session → Session) : State := { s with sessions := tmod s.sessions i f }
/-- A formed yealm. -/
def yealmOf (s : State) (y : Nat) : Option Yealm := tfind s.yealms y
/-- Changes a yealm. -/
def modYealm (s : State) (y : Nat) (f : Yealm → Yealm) : State := { s with yealms := tmod s.yealms y f }
/-- A bay. -/
def bayOf (s : State) (b : Nat) : Option Bay := tfind s.bays b
/-- Changes a bay. -/
def modBay (s : State) (b : Nat) (f : Bay → Bay) : State := { s with bays := tmod s.bays b f }

/-- A resident build. -/
def buildOf (s : State) (id : W64) : Option Build := s.builds.find? (fun b => b.id = id)

/-! ### State halves and session rings -/

/-- A half: A for `false`. -/
def halfOf (ss : Session) (h : Bool) : List Byte := if h then ss.halfB else ss.halfA
/-- Stores a half. -/
def putHalf (ss : Session) (h : Bool) (bs : List Byte) : Session :=
  if h then { ss with halfB := bs } else { ss with halfA := bs }

/-- Replaces bytes of a list at an offset. -/
def splice (bs : List Byte) (a : Nat) (new : List Byte) : List Byte := bs.take a ++ new ++ bs.drop (a + new.length)

/-- An absent ring. -/
def ringAbsent : SRing :=
  { base := 0, entryBytes := 0, entries := 0, io := 0, planA := 0, planB := 0, dir := 0, data := [] }
/-- A session ring. -/
def sringOf (ss : Session) (r : Nat) : SRing := tget ringAbsent ss.rings r
/-- Stores a session ring. -/
def putRing (ss : Session) (r : Nat) (x : SRing) : Session := { ss with rings := tput ringAbsent ss.rings r x }
/-- Difference of two free-running counts. -/
def cnt32 (a b : Nat) : Nat := (a + 4294967296 - b % 4294967296) % 4294967296
/-- Stores a plan pointer copy: that of half `h`. -/
def setPlanPtr (r : SRing) (h : Bool) (v : Nat) : SRing :=
  if h then { r with planB := v % 4294967296 } else { r with planA := v % 4294967296 }
/-- An entry of a ring. -/
def entryGet (r : SRing) (i : Nat) : List Byte := tget (zeros r.entryBytes) r.data (i % max 1 r.entries)
/-- Writes an entry of a ring. -/
def entryPut (r : SRing) (i : Nat) (bs : List Byte) : SRing :=
  { r with data := tput (zeros r.entryBytes) r.data (i % max 1 r.entries) bs }

/-- Appends entries to a ring into the plan and moves `io_ptr`. -/
def ringPush (r : SRing) (es : List (List Byte)) : SRing :=
  es.foldl (fun r e => { entryPut r r.io e with io := (r.io + 1) % 4294967296 }) r

/-- Control block of a session ring (Table 11.4). -/
def ctrlBytes (r : SRing) : List Byte :=
  le 8 r.base ++ le 4 r.entryBytes ++ le 4 r.entries ++ le 4 r.io ++ le 4 r.planA ++ le 4 r.planB ++ le 1 r.dir ++ zeros 3

/-- A ring after its control block has been written: its reserved bytes stay zero. -/
def withCtrl (r : SRing) (bs : List Byte) : SRing :=
  { r with base := fld bs 0 8, entryBytes := fld bs 8 4, entries := fld bs 12 4, io := fld bs 16 4, planA := fld bs 20 4
           planB := fld bs 24 4, dir := fld bs 28 1 }

/-! ### Commit records (R147, Table 7.6) -/

/-- The 60 bytes of a commit record before its CRC. -/
def rcdHead (r : CommitRec) : List Byte :=
  le 8 r.stepCount ++ le 4 r.active ++ le 4 r.prevValid ++ le 4 r.member ++ r.reserved.take 40 ++ zeros (40 - r.reserved.length)

/-- The 64 bytes of a commit record. -/
def rcdBytes (r : CommitRec) : List Byte := rcdHead r ++ le 4 r.crc.toNat

/-- The commit record that 64 bytes hold. -/
def rcdOf (bs : List Byte) : CommitRec :=
  { stepCount := fld bs 0 8, active := fld bs 8 4, prevValid := fld bs 12 4, member := fld bs 16 4, reserved := cut bs 20 40
    crc := BitVec.ofNat 32 (fld bs 60 4) }

/-- A record as the device writes it: reserved bytes zero, and its CRC-32C. -/
def sealRcd (r : CommitRec) : CommitRec :=
  let r := { r with reserved := zeros 40 }
  { r with crc := crc32c (rcdHead r) }

/-- A record passes its CRC-32C. -/
def rcdGood (r : CommitRec) : Bool := decide (r.crc = crc32c (rcdHead r))

/-- Changes a yealm's commit record, which is written whole (R147). -/
def modRcd (s : State) (y : Nat) (f : CommitRec → CommitRec) : State :=
  modYealm s y (fun v => { v with rcd := sealRcd (f v.rcd) })

/-! ### Channel groups, bay addresses and the ridge cache -/

/-- The channel group of a bay, ascending (R208); no bay's channels for `none`: the store group (R209). -/
def groupOf (s : State) (b : Option Nat) : List Nat :=
  match b with
  | some i =>
    match tfind s.bays i with
    | some bay => maskBits 48 bay.attr.channelMask
    | none => []
  | none => (List.range 48).filter (fun ch => s.bays.all (fun e => !bit e.2.attr.channelMask ch))

/-- Physical address of a bay address (R208), source 0x0113 beyond the group. -/
def physOf (group : List Nat) (a : Int) : Try Nat :=
  let n := group.length
  if a < 0 ∨ (n : Int) * 2147483648 ≤ a ∨ n = 0 then .error 0x0113
  else
    let a := a.toNat
    let g := a / 4096
    .ok (group.getD (g % n) 0 * 2147483648 + (g / n) * 4096 + a % 4096)

/-- `n` bytes at a bay address lie in the group. -/
def bayIn (group : List Nat) (a : Int) (n : Nat) : Bool :=
  decide (0 ≤ a) && decide (a + n ≤ (group.length : Int) * 2147483648)

/-! ### What firmware placed in the thatch (R210) -/

/-- An object of Table 10.2. -/
inductive Area where
  /-- a copy of a build image: 0 home, 1 mirror, 2 + b the copy of bay b -/
  | image (build : W64) (kind : Nat)
  /-- a half of a session's state area; `true` is B -/
  | half (session : Nat) (h : Bool)
  /-- the control block of a session ring -/
  | control (session ring : Nat)
  /-- the entries of a session ring -/
  | entries (session ring : Nat)
  /-- a session's eaves buffer -/
  | eaves (session : Nat)
  /-- a yealm's commit record -/
  | record (yealm : Nat)
  /-- the spill area of a core index of a yealm (R288) -/
  | spill (key : Nat)
  deriving DecidableEq, Repr

/-- Where an object lies: the channels its addresses rotate over (R208), its first address there, and its bytes. -/
structure Span where
  group : List Nat
  base : Nat
  len : Nat
  area : Area
  deriving DecidableEq, Repr

/-- The copies of a build. -/
def copySpans (b : Build) : List Span :=
  b.copies.map (fun c => { group := maskBits 48 c.channels, base := c.base, len := b.image.length, area := .image b.id c.kind })

/-- The areas of a session (R145, R249, R250, R367): half B follows half A. -/
def sessSpans (s : State) (i : Nat) (ss : Session) : List Span :=
  let g := groupOf s ss.home
  [{ group := g, base := ss.areaBase, len := ss.halfA.length, area := .half i false },
   { group := g, base := ss.areaBase + ss.halfA.length, len := ss.halfB.length, area := .half i true },
   { group := g, base := ss.eavesBase, len := 65536, area := .eaves i }] ++
  (List.range 16).flatMap (fun r =>
    [{ group := g, base := ss.ctrlBase + 32 * r, len := 32, area := .control i r },
     { group := g, base := (sringOf ss r).base, len := (sringOf ss r).entries * (sringOf ss r).entryBytes, area := .entries i r }])

/-- A yealm's commit record. -/
def rcdSpan (s : State) (y : Nat) (v : Yealm) : Span :=
  { group := groupOf s (some v.bay), base := v.rcdBase, len := 64, area := .record y }

/-- The spill area of a core index of a yealm. -/
def spillSpan (s : State) (key : Nat) : Span :=
  { group := groupOf s ((yealmOf s (key / 64)).map (fun y => y.bay)), base := Config.spillAddress key, len := 3145728, area := .spill key }

/-- Every placed object. Firmware keeps them apart; where two spans of a state meet, the first one holds the byte. -/
def spans (s : State) : List Span :=
  s.sessions.flatMap (fun e => sessSpans s e.1 e.2) ++ s.yealms.map (fun e => rcdSpan s e.1 e.2) ++ s.builds.flatMap copySpans ++
    s.spills.map (fun e => spillSpan s e.1)

/-- Where an object lies. -/
def spanOf (s : State) (a : Area) : Option Span := (spans s).find? (fun p => p.area = a)

/-- Offset of a physical address within a span (the inverse of R208). -/
def offsetIn (p : Span) (phys : Nat) : Option Nat :=
  let ch := phys / 2147483648
  let off := phys % 2147483648
  let j := p.group.idxOf ch
  let a := (off / 4096 * p.group.length + j) * 4096 + off % 4096
  if j < p.group.length ∧ p.base ≤ a ∧ a < p.base + p.len then some (a - p.base) else none

/-- The object at a physical address, with the offset in it. -/
def areaAt (s : State) (phys : Nat) : Option (Area × Nat) :=
  (spans s).findSome? (fun p => (offsetIn p phys).map (fun o => (p.area, o)))

/-- A byte of a copy of a build: what a write left there, or the image's. -/
def imageByte (b : Build) (kind o : Nat) : Byte :=
  (((b.copies.find? (fun c => c.kind = kind)).bind (fun c => tfind c.written o))).getD (b.image.getD o 0)

/-- A byte of an object, at its physical address. An eaves buffer lies in the thatch's own bytes. -/
def areaGet (s : State) (phys : Nat) (e : Area × Nat) : Byte :=
  match e.1 with
  | .image id k => ((buildOf s id).map (fun b => imageByte b k e.2)).getD 0
  | .half i h => ((sessOf s i).map (fun ss => (halfOf ss h).getD e.2 0)).getD 0
  | .control i r => ((sessOf s i).map (fun ss => (ctrlBytes (sringOf ss r)).getD e.2 0)).getD 0
  | .entries i r => ((sessOf s i).map (fun ss =>
      let g := sringOf ss r
      (entryGet g (e.2 / max 1 g.entryBytes)).getD (e.2 % max 1 g.entryBytes) 0)).getD 0
  | .record y => ((yealmOf s y).map (fun v => (rcdBytes v.rcd).getD e.2 0)).getD 0
  | .spill k => ((tfind s.spills k).map (fun x => tget 0 x.spad e.2)).getD 0
  | .eaves _ => tget 0 s.thatch phys

/-- A write of one byte of an object. -/
def areaPut (s : State) (phys : Nat) (e : Area × Nat) (v : Byte) : State :=
  match e.1 with
  | .image id k => { s with builds := s.builds.map (fun (b : Build) => if b.id = id then
      { b with copies := b.copies.map (fun (c : BuildCopy) => if c.kind = k then { c with written := tins c.written e.2 v } else c) } else b) }
  | .half i h => modSess s i (fun ss => putHalf ss h ((halfOf ss h).set e.2 v))
  | .control i r => modSess s i (fun ss => putRing ss r (withCtrl (sringOf ss r) ((ctrlBytes (sringOf ss r)).set e.2 v)))
  | .entries i r => modSess s i (fun ss =>
      let g := sringOf ss r
      let n := e.2 / max 1 g.entryBytes
      putRing ss r (entryPut g n ((entryGet g n).set (e.2 % max 1 g.entryBytes) v)))
  | .record y => modYealm s y (fun w => { w with rcd := rcdOf ((rcdBytes w.rcd).set e.2 v) })
  | .spill k => { s with spills := tmod s.spills k (fun x => { x with spad := tput 0 x.spad e.2 v }) }
  | .eaves _ => { s with thatch := tput 0 s.thatch phys v }

/-- One byte of the thatch at a physical address. -/
def physByte (s : State) (phys : Nat) : Byte :=
  match areaAt s phys with
  | some e => areaGet s phys e
  | none => tget 0 s.thatch phys

/-- A write of one byte at a physical address. -/
def physPut (s : State) (phys : Nat) (v : Byte) : State :=
  match areaAt s phys with
  | some e => areaPut s phys e v
  | none => { s with thatch := tput 0 s.thatch phys v }

/-- A thatch channel's controller at power-on. -/
def channelD : Channel :=
  { refreshes := 0, credits := 0, scrubLine := 0, recalAt := 0, poisoned := [], counters := [] }
/-- A thatch channel. -/
def channelOf (s : State) (i : Nat) : Channel := tget channelD s.channels i
/-- Stores a thatch channel. -/
def setChannel (s : State) (i : Nat) (x : Channel) : State := { s with channels := tput channelD s.channels i x }
/-- Advances channel counter `k` of `w` bits: 0 `tc_read_bytes`, 1 `tc_write_bytes`, 2 `tc_corrected`,
3 `tc_write_retries`, 4 `tc_scrub_lines`, 5 `tc_recal_forced` (Table 10.5). -/
def channelCnt (s : State) (i k w n : Nat) : State :=
  let x := channelOf s i
  setChannel s i { x with counters := cntAdd x.counters k w n }

/-- Physical addresses of the 128-byte lines that `n` bytes at a bay address touch. -/
def linesOf (group : List Nat) (a n : Nat) : List Nat :=
  if n = 0 then []
  else
    (List.range ((a + n - 1) / 128 - a / 128 + 1)).filterMap (fun i =>
      match physOf group (((a / 128 + i) * 128 : Nat) : Int) with
      | .ok p => some p
      | .error _ => none)

/-! ### Poisoned lines (R219, R231) -/

/-- A physical line holds a detected but uncorrectable error. -/
def poisonedAt (s : State) (phys : Nat) : Bool := (channelOf s (phys / 2147483648)).poisoned.contains (phys % 2147483648 / 128)

/-- Source of an uncorrectable read (Table 10.4) by what the line holds. -/
def readSource (s : State) (phys : Nat) : Nat :=
  match areaAt s phys with
  | some (.image id _, o) =>
    if ((buildOf s id).map (fun b => b.pageCrcs.any (fun p => p.1 = o / 65536))).getD false then 0x0202 else 0x0204
  | some (.half _ _, _) => 0x0203
  | _ => 0x0204

/-- The first poisoned line among some as a fault: its source, with the physical address above bit 16. -/
def poisonFault (s : State) (lines : List Nat) : Option Nat :=
  (lines.find? (poisonedAt s)).map (fun p => readSource s p + 65536 * p)

/-- Physical addresses of the lines of `n` bytes from offset `o` of an object. -/
def areaLines (s : State) (a : Area) (o n : Nat) : List Nat :=
  match spanOf s a with
  | some p => linesOf p.group (p.base + o) n
  | none => []

/-- A read finds no poisoned line among some. -/
def linesClean (s : State) (lines : List Nat) : Try Unit :=
  match poisonFault s lines with
  | some e => .error e
  | none => .ok ()

/-- A read of part of an object finds no poisoned line. -/
def needClean (s : State) (a : Area) (o n : Nat) : Try Unit := linesClean s (areaLines s a o n)

/-! ### Reads and writes by bay address -/

/-- One byte of the thatch at a bay address. -/
def bayByte (s : State) (group : List Nat) (a : Nat) : Byte :=
  match physOf group a with
  | .ok p => physByte s p
  | .error _ => 0

/-- Thatch read by bay address: no poisoned line is used as valid (R219). -/
def bayRead (s : State) (group : List Nat) (a : Int) (n : Nat) : Try (List Byte) :=
  if n = 0 ∨ bayIn group a n then
    (match poisonFault s (linesOf group a.toNat n) with
     | some e => .error e
     | none => .ok ((List.range n).map (fun i => bayByte s group (a.toNat + i))))
  else .error 0x0113

/-- Lines that a write makes whole again (Table 10.4), and the foreground bytes it adds to their channels (R232). Counter 1 is
`tc_write_bytes`. -/
def wroteLines (s : State) (lines : List Nat) : State :=
  { s with channels := lines.foldl (fun t p =>
      let x := tget channelD t (p / 2147483648)
      tput channelD t (p / 2147483648)
        { x with poisoned := x.poisoned.filter (fun l => l ≠ p % 2147483648 / 128), counters := cntAdd x.counters 1 64 128 }) s.channels }

/-- The foreground bytes of lines read past the ridge cache. Counter 0 is `tc_read_bytes`. -/
def readLines (s : State) (lines : List Nat) : State :=
  { s with channels := lines.foldl (fun t p =>
      let x := tget channelD t (p / 2147483648)
      tput channelD t (p / 2147483648) { x with counters := cntAdd x.counters 0 64 128 }) s.channels }

/-- The lines of part of an object are read by an engine or an I/O block. -/
def areaRead (s : State) (a : Area) (o n : Nat) : State := readLines s (areaLines s a o n)
/-- The lines of part of an object are written by an engine or an I/O block. -/
def areaWrote (s : State) (a : Area) (o n : Nat) : State := wroteLines s (areaLines s a o n)

/-- Thatch write by bay address. -/
def bayWrite (s : State) (group : List Nat) (a : Int) (bs : List Byte) : Try State :=
  if bs = [] ∨ bayIn group a bs.length then
    .ok ((bs.mapIdx (fun i b => (i, b))).foldl (fun s e =>
      match physOf group (a.toNat + e.1 : Nat) with
      | .ok p => physPut s p e.2
      | .error _ => s) s)
  else .error 0x0113

/-! ### Ridge cache (R222 to R226) -/

/-- A line may be allocated: it holds no region that Table 10.2 marks "None". -/
def cacheable (s : State) (phys : Nat) : Bool :=
  match areaAt s phys with
  | none | some (.image _ _, _) => true
  | _ => false

/-- A ridge slice with no line. -/
def sliceD : Slice := { lines := [], errors := [], counters := [] }
/-- A ridge slice. -/
def sliceOf (s : State) (i : Nat) : Slice := tget sliceD s.slices i
/-- Stores a ridge slice. -/
def setSlice (s : State) (i : Nat) (x : Slice) : State := { s with slices := tput sliceD s.slices i x }

/-- Way mask of a bay. -/
def waysOf (s : State) (b : Nat) : Nat := ((tfind s.bays b).map (fun y => y.attr.wayMask)).getD 0

/-- A foreground read of one 128-byte line through the ridge cache (R222 to R226). Lines of a slice are held most recently
used first. A line of a region that Table 10.2 marks "None" is not allocated. Counters: 0 `rc_hits`, 1 `rc_misses`, 2 `rc_merges`, 3 `rc_errors`. -/
def ridgeRead (s : State) (b phys : Nat) (alloc : Bool) : State :=
  let p := phys / 128
  let sl := p % 48
  let ways := waysOf s b
  if ways = 0 ∨ fenced s (uSlice sl) ∨ ¬ alloc ∨ ¬ cacheable s phys then channelCnt s (phys / 2147483648) 0 64 128
  else
    let x := sliceOf s sl
    match x.lines.find? (fun e => decide (e.2 = p) && bit ways e.1) with
    | some e =>
      setSlice s sl { x with lines := e :: x.lines.filter (fun f => f ≠ e), counters := cntAdd x.counters 0 48 1 }
    | none =>
      let set := (p / 48) % 1024
      let mine := x.lines.filter (fun e => decide ((e.2 / 48) % 1024 = set) && bit ways e.1)
      let free := (maskBits 16 ways).find? (fun w => mine.all (fun e => e.1 ≠ w))
      let way := free.getD ((mine.getLast?.map Prod.fst).getD 0)
      let kept := x.lines.filter (fun e => ¬ (e.1 = way ∧ (e.2 / 48) % 1024 = set))
      let s := setSlice s sl { x with lines := (way, p) :: kept, counters := cntAdd x.counters 1 48 1 }
      channelCnt s (phys / 2147483648) 0 64 128

/-- A write invalidates the line in the bay's ways and goes around the cache (R224). -/
def ridgeWrite (s : State) (b phys : Nat) : State :=
  let p := phys / 128
  let sl := p % 48
  let x := sliceOf s sl
  wroteLines (setSlice s sl { x with lines := x.lines.filter (fun e => ¬ (e.2 = p ∧ bit (waysOf s b) e.1)) }) [phys]

/-- Lines that firmware writes are invalidated in every slice (R224). -/
def dropLines (s : State) (lines : List Nat) : State :=
  { s with slices := s.slices.map (fun (e : Nat × Slice) =>
      (e.1, { e.2 with lines := e.2.lines.filter (fun l => !lines.contains (l.2 * 128)) })) }

/-- A bulk write of part of an object by firmware: counted, whole again, and out of the ridge cache (R224, R232). -/
def areaPlaced (s : State) (a : Area) (o n : Nat) : State := dropLines (areaWrote s a o n) (areaLines s a o n)

/-- An address for `n` bytes in a channel group: firmware's choice (R210), aligned to a line. -/
def placeAt (group : List Nat) (draw n : Nat) : Nat :=
  Config.freeAddress draw % (group.length * 2147483648 - n + 1) / 128 * 128

end Sys2Proof.Machine
end

