-- ==== Sys2Proof/Machine/Net.lean ====
section
/-!
DEFINITION. Sys2Proof/Machine/Net.lean: the network engine as shared operations (spec/13): frames, addresses, segments,
paths, the send buffer and what arrives.
-/
namespace Sys2Proof.Machine

open Sys2Proof

/-- A number whose first byte as transmitted is the most significant. -/
def beNat (bs : List Byte) : Nat := leNat bs.reverse

/-! ### Records 0x01 to 0x03 (Tables 13.9 to 13.11) -/

/-- `port_mode`. -/
def portMode (s : State) (p : Nat) : Nat := fld (act s 0x01 p) 0 1
/-- `port_flags`. -/
def portFlags (s : State) (p : Nat) : Nat := fld (act s 0x01 p) 1 1
/-- `mtu`. -/
def portMtu (s : State) (p : Nat) : Nat := fld (act s 0x01 p) 2 2
/-- `mac`. -/
def portMac (s : State) (p : Nat) : Nat := beNat (cut (act s 0x01 p) 4 6)
/-- `vlan`. -/
def portVlan (s : State) (p : Nat) : Nat := fld (act s 0x01 p) 10 2
/-- `ipv4_addr`. -/
def portIp4 (s : State) (p : Nat) : Nat := beNat (cut (act s 0x02 p) 0 4)
/-- `ipv6_addr`. -/
def portIp6 (s : State) (p : Nat) : Nat := beNat (cut (act s 0x02 p) 4 16)
/-- `ip_flags`. -/
def ipFlags (s : State) (p : Nat) : Nat := fld (act s 0x02 p) 20 1
/-- `udp_port`. -/
def udpPort (s : State) : Nat := fld (act s 0x03 0) 0 2
/-- The port is enabled (mode other than 0). -/
def portEnabled (s : State) (p : Nat) : Bool := decide (portMode s p ≠ 0)
/-- Ports of a network: P0 to P3 on A, P4 to P7 on B. -/
def netOf (p : Nat) : Nat := p / 4

/-- A port at power-on. -/
def portD : Port :=
  { link := false, training := false, sealedDown := false, pauseEnd := 0, heldTx := [], echoes := [], counters := [] }

/-- A port. -/
def portOf (s : State) (p : Nat) : Port := tget portD s.ports p
/-- Stores a port. -/
def setPort (s : State) (p : Nat) (x : Port) : State := { s with ports := tput portD s.ports p x }
/-- Advances port counter `k` of `w` bits: 0 `rx_frames`, 1 `tx_frames`, 2 `fec_corrected`, 3 `fec_uncorrected`,
4 `an_fail`, 5 `ip_dropped`, 6 `seg_invalid` (Table 13.13). -/
def portCnt (s : State) (p k w : Nat) : State :=
  let x := portOf s p
  setPort s p { x with counters := cntAdd x.counters k w 1 }

/-- The link of a port carries frames. -/
def linkIsUp (s : State) (p : Nat) : Bool := (portOf s p).link

/-- A port whose link goes down: what a pause held back is lost. -/
def linkDown (x : Port) : Port := { x with link := false, training := false, pauseEnd := 0, heldTx := [] }

/-- The link-local address fe80::/64 formed from a MAC address by modified EUI-64 (Table 13.2). -/
def linkLocal (mac : Nat) : Nat :=
  let hi := mac / 16777216
  let lo := mac % 16777216
  0xFE80 * 2 ^ 112 + (Nat.xor hi 0x020000) * 2 ^ 40 + 0xFFFE * 2 ^ 24 + lo

/-- MAC address of the solicited-node group of an address. -/
def solicitedMac (ip6 : Nat) : Nat := 0x3333FF000000 + ip6 % 16777216

/-- Destination MAC addresses a port accepts (R298, Table 13.2). -/
def macAccepted (s : State) (p dest : Nat) : Bool :=
  decide (dest = portMac s p) || decide (dest = 0xFFFFFFFFFFFF) ||
    (decide (portIp6 s p ≠ 0) &&
      (decide (dest = 0x333300000001) || decide (dest = solicitedMac (portIp6 s p)) ||
        decide (dest = solicitedMac (linkLocal (portMac s p)))))

/-- Tags a port accepts (R299). -/
def tagsAccepted (s : State) (p : Nat) (tags : List Nat) : Bool :=
  let v := portVlan s p
  if bit v 15 then decide (tags = [v % 4096]) else decide (tags = []) || decide (tags = [0])

/-- The MAC accepts a frame (R298, R299). -/
def frameOk (s : State) (p : Nat) (f : FrameHdr) : Bool :=
  decide (64 ≤ f.bytes) && decide (f.bytes ≤ 9216) && f.fcsOk && macAccepted s p f.dest && tagsAccepted s p f.tags

/-- What receipt of a frame does before its content is looked at: `none` when the MAC drops it or no link is up. -/
def rxFrame (s : State) (p : Nat) (f : FrameHdr) : State × Bool :=
  if linkIsUp s p then
    let s := portCnt s p 0 64
    let s := if f.fcsOk then s else portCnt s p 3 32
    if frameOk s p f then (s, true) else (portCnt s p 5 32, false)
  else (s, false)

/-- Adds one thing to what has left the device. -/
def emit (s : State) (e : Emit) : State := { s with wire := s.wire ++ [e] }

/-- A frame leaves a port. -/
def sendFrame (s : State) (p : Nat) (e : Emit) : State := emit (portCnt s p 1 64) e

/-- The frames that an honoured pause held back leave, once it has ended (R298). -/
def releasePort (s : State) (p : Nat) : State :=
  let x := portOf s p
  if x.heldTx = [] ∨ s.now < x.pauseEnd then s
  else x.heldTx.foldl (fun s e => sendFrame s p e) (setPort s p { x with heldTx := [] })

/-- Time goes on to cycle `n`: frames whose pause has ended leave. -/
def timeTo (s : State) (n : Nat) : State := iter (fun p s => releasePort s p) 8 { s with now := n }

/-- A frame sent on a port whose link is up (R298): at once, or when an honoured pause has ended. -/
def txFrame (s : State) (p : Nat) (e : Emit) : State :=
  if ¬ linkIsUp s p then s
  else if s.now < (portOf s p).pauseEnd then setPort s p { portOf s p with heldTx := (portOf s p).heldTx ++ [e] }
  else sendFrame (releasePort s p) p e

/-- DSCP of a class (R317, Table 13.11). -/
def dscpOf (s : State) (c : MsgClass) : Nat :=
  let r := act s 0x03 0
  match c with
  | .control => fld r 2 1
  | .audio => fld r 3 1
  | .marks => fld r 4 1
  | .bulk => fld r 5 1

/-- PCP of a class on a port (R299, Table 13.9). -/
def pcpOf (s : State) (p : Nat) (c : MsgClass) : Nat :=
  let m := fld (act s 0x01 p) 12 4
  match c with
  | .control => bits m 2 0
  | .audio => bits m 5 3
  | .marks => bits m 8 6
  | .bulk => bits m 11 9

/-- The 802.1Q tag of a frame that a port sends: VID and PCP on a tagged port, none on another (R299). -/
def txTag (s : State) (p : Nat) (c : MsgClass) : Option (Nat × Nat) :=
  if bit (portVlan s p) 15 then some (portVlan s p % 4096, pcpOf s p c) else none
/-- What an IP packet of a class carries on a port (R299, R300, R317). -/
def ipHdr (s : State) (p : Nat) (v6 : Bool) (c : MsgClass) : TxHdr :=
  { tag := txTag s p c, dscp := dscpOf s c, ttl := fld (act s 0x02 p) 21 1, df := !v6 }
/-- What an ARP frame carries on a port. -/
def arpHdr (s : State) (p : Nat) : TxHdr := { tag := txTag s p .control, dscp := 0, ttl := 0, df := false }

/-- The device's `max_payload` (R306): the smallest `mtu` − 84 over its enabled ports. -/
def devMaxPayload (s : State) : Nat :=
  ((List.range 8).filter (portEnabled s)).foldl (fun m p => min m (portMtu s p - 84)) 9110

/-! ### Segments -/

/-- Bytes of a segment header and payload, before the trailer (Table 13.3). -/
def segHead (conn typ flags : Nat) (seq ack : W32) (sack : W64) (len : Nat) (epoch : W16) (window : Nat) : List Byte :=
  le 2 0x4D4C ++ le 1 1 ++ le 1 typ ++ le 2 conn ++ le 1 flags ++ le 1 0 ++ le 4 seq.toNat ++ le 4 ack.toNat ++
    le 8 sack.toNat ++ le 2 len ++ le 2 epoch.toNat ++ le 2 window ++ le 2 0

/-- A segment with its trailer (R303). -/
def segBytes (head payload : List Byte) : List Byte :=
  head ++ payload ++ le 4 (crc32c (head ++ payload)).toNat

/-- Header bytes of a received segment, as they arrived. -/
def segRxHead (typ : Nat) (g : Seg) : List Byte :=
  le 2 g.magic.toNat ++ le 1 g.version.toNat ++ le 1 typ ++ le 2 g.connId.toNat ++ [g.flags] ++ [g.rsv7] ++
    le 4 g.seq.toNat ++ le 4 g.ack.toNat ++ le 8 g.sack.toNat ++ le 2 g.payloadLen.toNat ++ le 2 g.epoch.toNat ++
    le 2 g.window.toNat ++ le 2 g.rsv30.toNat

/-- `a` is after `b` in sequence numbers (R303). -/
def seqAfter (a b : W32) : Bool := decide (0 < (a - b).toNat) && decide ((a - b).toNat < 2147483648)

/-- A connection that is not FREE. -/
def connOf (s : State) (c : Nat) : Option Conn := tfind s.conns c
/-- Stores a connection. -/
def setConn (s : State) (c : Nat) (x : Conn) : State := { s with conns := tins s.conns c x }

/-- An unbound path. -/
def pathD : Path :=
  { bound := false, up := false, port := 0, v6 := false, ip := 0, udp := 0, mac := 0, rtt := none, rto := 1000000
    expiries := 0, probes := 0, fenced := false }

/-- A path of a connection. -/
def pathOf (x : Conn) (net : Nat) : Path := tget pathD x.paths net
/-- Stores a path. -/
def setPath (x : Conn) (net : Nat) (p : Path) : Conn := { x with paths := tput pathD x.paths net p }

/-! ### Host data for sessions in a bay's group (R213) -/

/-- The reserve window of a bay is open (R212): a bay with no admitted yealm has no slices, and neither has a best-effort
bay, whose steps run off the chunk grid (R287); there the whole chunk counts. The second half is DEDUCED. -/
def windowOpen (s : State) (i : Nat) : Bool :=
  match bayOf s i with
  | none => false
  | some b => b.window || decide (b.attr.cls ≠ 0) || b.order.all (fun k => ((yealmOf s k).map (fun y => !y.admitted)).getD true)

/-- Bytes that a host message writes into rings 0, 1 and 5 of its session: tokens, a control entry, or PCM entries. -/
def ioNeed (x : MailMsg) : Nat :=
  match x.typ.toNat with
  | 0x0203 => 8 * fld x.msg.body 4 2
  | 0x0204 => 64
  | 0x020A => 64
  | 0x020B => 64 * ceilDiv (x.msg.body.length - 12) 64
  | _ => 0

/-- Bytes that I/O blocks may still move in this chunk for a session (R213): 64 KiB a chunk for an attached one, and for a
detached one in a bay's group none outside the bay's reserve window; `none` is no limit. -/
def ioRoom (s : State) (ss : Session) : Option Nat :=
  match ss.home with
  | none => none
  | some b => if ss.attach.isSome then some (65536 - ss.ioBytes) else if windowOpen s b then none else some 0

/-- `n` bytes may move now for a session. -/
def ioFits (s : State) (ss : Session) (n : Nat) : Bool :=
  match ioRoom s ss with
  | none => true
  | some r => decide (n ≤ r)

/-- Output of `n` bytes read for session `i`. -/
def ioOut (s : State) (i n : Nat) : State :=
  match sessOf s i with
  | none => s
  | some ss => if ss.home.isSome ∧ ss.attach.isSome then modSess s i (fun x => { x with ioBytes := x.ioBytes + n }) else s

/-- Traffic of `n` bytes into session `i`'s rings, of which those of `ioDone` have been moved before. -/
def ioUse (s : State) (i n : Nat) : State :=
  match sessOf s i with
  | none => s
  | some ss => if ss.home.isSome ∧ ss.attach.isSome then
      modSess s i (fun x => { x with ioBytes := x.ioBytes + (n - x.ioDone), ioDone := x.ioDone - n })
    else s

/-- The open session that a message names (R356), with its index. -/
def ioSess (s : State) (x : MailMsg) : Option (Nat × Session) :=
  let h := fld x.msg.body 0 4
  match sessOf s (h % 65536) with
  | none => none
  | some ss => if ss.gen = h / 65536 ∧ ss.st ≠ .lost then some (h % 65536, ss) else none

/-- A message is held back in the network engine, because its bytes may not all enter the session's rings now (R213). -/
def ioWait (s : State) (x : MailMsg) : Bool :=
  decide (ioNeed x ≠ 0) && (match ioSess s x with
    | none => false
    | some e => match ioRoom s e.2 with
      | none => false
      | some r => decide (e.2.ioDone + r < ioNeed x))

/-- A message that is held back takes what its slot has left in this chunk. DESIGN CHOICE, see notes/assumptions/94.md. -/
def ioHold (s : State) (x : MailMsg) : State :=
  match ioSess s x with
  | none => s
  | some e => match ioRoom s e.2 with
    | none => s
    | some r => modSess s e.1 (fun y => { y with ioBytes := y.ioBytes + r, ioDone := y.ioDone + r })

/-- Messages of a mailbox that the receive buffers hold: one that R213 holds back, and those beyond its 64 places (R329). -/
def heldMsgs (s : State) (l : List MailMsg) : List MailMsg :=
  (match l with
   | [] => []
   | x :: _ => if ioWait s x then [x] else []) ++ l.drop 64

/-- Segments of a connection's messages that its receive buffer holds. -/
def heldSegs (s : State) (c : Nat) : Nat :=
  (((heldMsgs s (tget [] s.mail (c % 64))).filter (fun m => m.msg.conn = c)).map (fun m => m.segs)).sum

/-- The `window` the device advertises (R311). -/
def rxWindow (s : State) (c : Nat) (x : Conn) : Nat := 256 - min 256 (x.rxBuf.length + heldSegs s c)

/-- `sack_map` of a connection (Table 13.3). -/
def sackMap (x : Conn) : W64 :=
  BitVec.ofNat 64 (maskOf ((List.range 64).filter (fun i =>
    (tfind x.rxBuf (x.rxNext + 1 + BitVec.ofNat 32 i).toNat).isSome)))

/-- Largest message payload that a path of a connection carries now (R306). -/
def pathRoom (s : State) (x : Conn) (p : Path) : Nat := min x.hostMax (portMtu s p.port - (if p.v6 then 84 else 64))

/-- One segment sent to the peer of a network's bound path, with the acknowledgement it carries (R303, R304). A payload that the
path does not carry, since its `mtu` has been lowered, stays where it is (R306). -/
def sendRaw (s : State) (c net typ flags : Nat) (seq : W32) (payload : List Byte) (cls : MsgClass) : State :=
  match connOf s c with
  | none => s
  | some x =>
    let p := pathOf x net
    if p.bound ∧ ¬ ((typ = 1 ∨ typ = 7) ∧ pathRoom s x p < payload.length) then
      let head := segHead c typ flags seq x.rxNext (sackMap x) payload.length x.epoch (rxWindow s c x)
      let s := setConn s c { x with ackDue := none, dataAcked := x.dataAcked || x.dataSeen }
      txFrame s p.port (.segment p.port p.ip p.udp p.mac (ipHdr s p.port p.v6 cls) (segBytes head payload))
    else s

/-- One segment sent on a network's path, if that path is up. -/
def sendSeg (s : State) (c net typ flags : Nat) (seq : W32) (payload : List Byte) (cls : MsgClass) : State :=
  match connOf s c with
  | none => s
  | some x => if (pathOf x net).up then sendRaw s c net typ flags seq payload cls else s

/-- A segment of no payload on a path. -/
def sendBare (s : State) (c net typ : Nat) : State := sendSeg s c net typ 0 0 [] .control

/-- A RESET on every up path (R309, R310). -/
def sendReset (s : State) (c reason : Nat) : State :=
  let pl := le 1 reason ++ zeros 3
  sendSeg (sendSeg s c 0 6 0 0 pl .control) c 1 6 0 0 pl .control

/-- A RESET in answer to a segment that names no open connection, on its arrival path (R307). -/
def resetTo (s : State) (g : Seg) (reason : Nat) : State :=
  let pl := le 1 reason ++ zeros 3
  let head := segHead g.connId.toNat 6 0 0 0 0 4 g.epoch 0
  txFrame s g.port (.segment g.port g.srcIp g.srcUdp g.frame.src (ipHdr s g.port g.v6 .control) (segBytes head pl))

/-- Advances connection counter `k`: 0 `retransmits`, 1 `failovers`, 2 `audio_dropped` (Table 13.13). -/
def connCnt (s : State) (c k : Nat) : State :=
  match connOf s c with
  | none => s
  | some x => setConn s c { x with counters := cntAdd x.counters k 32 1 }

/-! ### Sending -/

/-- Bytes of the send buffer in use (R314): of segments that carry messages. -/
def bufUsed (x : Conn) : Nat := (((x.unacked ++ x.waiting).filter (fun t => t.typ = 1)).map (fun t => t.payload.length)).sum

/-- Free bytes of the send buffer. -/
def bufFree (x : Conn) : Nat := x.bufLimit - bufUsed x

/-- `payload` cut into segments of at most `n` bytes, with first and last flags (R310). -/
def segSplit (n : Nat) (cls : MsgClass) : Nat → Bool → List Byte → List TxSeg
  | 0, _, _ => []
  | fuel + 1, first, bs =>
    let last := decide (bs.length ≤ n)
    { seq := 0, typ := 1, flags := b2n first + (if last then 2 else 0), payload := bs.take n, cls := cls, sentAt := 0
      net := 0, resent := false, sacked := false } :: (if last then [] else segSplit n cls fuel false (bs.drop n))

/-- Largest payload of a connection's segments (R306). -/
def segRoom (s : State) (x : Conn) : Nat := max 1 (min x.hostMax (devMaxPayload s))

/-- Puts a message into the send buffer of a connection, as segments with the next sequence numbers. -/
def bufPut (s : State) (c : Nat) (bs : List Byte) (cls : MsgClass) : State :=
  match connOf s c with
  | none => s
  | some x =>
    let segs := segSplit (segRoom s x) cls (bs.length + 1) true bs
    let segs := segs.mapIdx (fun i t => { t with seq := x.txNext + BitVec.ofNat 32 i })
    setConn s c { x with waiting := x.waiting ++ segs, txNext := x.txNext + BitVec.ofNat 32 segs.length }

/-- A waiting segment as segments that the device may send now, between its own first and last flags. -/
def cutSeg (n : Nat) (t : TxSeg) : List TxSeg :=
  if t.payload.length ≤ n then [t]
  else (segSplit n t.cls (t.payload.length + 1) true t.payload).map (fun g => { g with typ := t.typ, flags := g.flags &&& t.flags })

/-- Segments not yet sent that have become too large, where an `mtu` has been lowered, are cut again and renumbered (R306). -/
def recut (s : State) (x : Conn) : Conn :=
  match x.waiting with
  | [] => x
  | t :: _ =>
    if x.waiting.all (fun g => decide (g.payload.length ≤ segRoom s x)) then x
    else
      let gs := x.waiting.flatMap (cutSeg (segRoom s x))
      { x with waiting := gs.mapIdx (fun i g => { g with seq := t.seq + BitVec.ofNat 32 i })
               txNext := t.seq + BitVec.ofNat 32 gs.length }

/-- Sends one waiting segment, if the window and a path allow it (R311). -/
def pumpOne (s : State) (c : Nat) : State :=
  match connOf s c with
  | none => s
  | some x =>
    match x.waiting with
    | [] => s
    | t :: rest =>
      if x.st ≠ .held ∧ x.unacked.length < min 256 x.peerWindow ∧ (pathOf x x.active).up then
        let s := setConn s c
          { x with waiting := rest, unacked := x.unacked ++ [{ t with sentAt := s.now, net := x.active }] }
        sendSeg s c x.active t.typ t.flags t.seq t.payload t.cls
      else s

/-- Moves responses that have room into the send buffer (R314). -/
def pumpResp : Nat → State → Nat → State
  | 0, s, _ => s
  | n + 1, s, c =>
    match connOf s c with
    | none => s
    | some x =>
      match x.respWait with
      | [] => s
      | (bs, cls) :: rest =>
        if bs.length ≤ bufFree x ∨ bufUsed x = 0 then
          pumpResp n (bufPut (setConn s c { x with respWait := rest }) c bs cls) c
        else s

/-- Everything a connection can send now. -/
def pump (s : State) (c : Nat) : State :=
  match connOf s c with
  | none => s
  | some x =>
    let s := pumpResp x.respWait.length s c
    let s := (connOf s c).elim s (fun x => setConn s c (recut s x))
    iter (fun _ s => pumpOne s c) 256 s

/-- Queues a response on its connection (R314, R331). -/
def queueResp (s : State) (c : Nat) (bs : List Byte) (cls : MsgClass) : State :=
  match connOf s c with
  | none => s
  | some x => pump (setConn s c { x with respWait := x.respWait ++ [(bs, cls)] }) c

/-- Resends every unacknowledged segment that the peer has not reported on a network's path (R309, R313). -/
def resendAll (s : State) (c net : Nat) : State :=
  match connOf s c with
  | none => s
  | some x =>
    let todo := x.unacked.filter (fun t => !t.sacked)
    let s := setConn s c { x with unacked := x.unacked.map (fun t =>
      if t.sacked then t else { t with resent := true, net := net, sentAt := s.now }) }
    todo.foldl (fun s t => connCnt (sendSeg s c net t.typ (t.flags ||| 4) t.seq t.payload t.cls) c 0) s

/-- The connection becomes FREE: its state is discarded (Table 13.7), with the permanent fences of its paths (R410). -/
def freeConn (s : State) (c : Nat) : State :=
  let s := { s with conns := tdel s.conns c }
  setUnit (setUnit s (uPath c 0) unitD) (uPath c 1) unitD

/-! ### Paths -/

/-- RTO of a path in ns from its samples (R312). -/
def rtoOf (rtt : Option (Nat × Nat)) : Nat :=
  match rtt with
  | none => 1000000
  | some (srtt, var) => min 50000000 (max 200000 (srtt + 4 * var))

/-- One round-trip sample of `r` ns under RFC 6298. -/
def rttSample (rtt : Option (Nat × Nat)) (r : Nat) : Option (Nat × Nat) :=
  match rtt with
  | none => some (r, r / 2)
  | some (srtt, var) =>
    let d := if srtt < r then r - srtt else srtt - r
    some ((7 * srtt + r) / 8, (3 * var + d) / 4)

/-- Cycles of ARRAYCLK as ns. -/
def cyclesNs (n : Nat) : Nat := n * 1000000 / 940000

/-- A path comes up (R309, R313): a HELD connection opens and resends on it. -/
def pathUp (s : State) (c net : Nat) : State :=
  match connOf s c with
  | none => s
  | some x =>
    let p := pathOf x net
    if p.up ∨ ¬ p.bound ∨ (unitOf s (uPath c net)).fence = .permanent then s
    else
      let s := if fenced s (uPath c net) then unitReturn s (uPath c net) else s
      let x := setPath x net { p with up := true, probes := 0, expiries := 0 }
      if x.st = .held then
        pump (resendAll (setConn s c { x with st := .open, active := net }) c net) c
      else setConn s c x

/-- A path goes down (R313): with source 0x0305 it is logged and flashed, unless the port's link is down (R323), the surviving
path takes over, and without one the connection is HELD (source 0x0306). -/
def pathDown (s : State) (c net : Nat) (log : Bool) : State :=
  match connOf s c with
  | none => s
  | some x =>
    let p := pathOf x net
    if ¬ p.up then s
    else
      let x := setPath x net { p with up := false, expiries := 0, probes := 0 }
      let s := connCnt (setConn s c x) c 1
      let s := if log then flash (logFault s (mkFault 0x0305 (uPath c net) 0)) (uPath c net) else s
      let o := 1 - net
      match connOf s c with
      | none => s
      | some x =>
        if (pathOf x o).up then resendAll (setConn s c { x with active := o }) c o
        else if x.st = .open then
          logFault (setConn s c { x with st := .held }) (mkFault 0x0306 (uConn c) 0)
        else s

/-- Every path bound to a port goes down. -/
def portPathsDown (s : State) (p : Nat) : State :=
  s.conns.foldl (fun s e =>
    iter (fun net s =>
      let q := pathOf e.2 net
      if q.up ∧ q.port = p then pathDown s e.1 net false else s) 2 s) s

/-- A valid segment arrived on a network: its path is bound to where it came from, and comes up (R301, R309). -/
def bindPath (s : State) (c net : Nat) (g : Seg) : State :=
  match connOf s c with
  | none => s
  | some x =>
    let p := pathOf x net
    let q := { p with bound := true, port := g.port, v6 := g.v6, ip := g.srcIp, udp := g.srcUdp, mac := g.frame.src
                      probes := 0 }
    pathUp (setConn s c (setPath x net q)) c net

/-! ### Acknowledgements -/

/-- What the `ack`, `sack_map` and `window` of a received segment do (R311, R312). -/
def takeAck (s : State) (c : Nat) (ack : W32) (sack : W64) (window : W16) : State :=
  match connOf s c with
  | none => s
  | some x =>
    let isAcked (t : TxSeg) : Bool := seqAfter ack t.seq
    let sackBit (t : TxSeg) : Bool :=
      let d := (t.seq - ack - 1).toNat
      decide (d < 64) && sack.getLsbD d
    let newly := x.unacked.filter (fun t => isAcked t || (sackBit t && !t.sacked))
    let x := newly.foldl (fun x t =>
      let p := pathOf x t.net
      if t.resent ∨ t.sacked then x
      else
        let r := rttSample p.rtt (cyclesNs (s.now - t.sentAt))
        setPath x t.net { p with rtt := r }) x
    let x := if newly = [] then x else
      iter (fun net x =>
        let p := pathOf x net
        if p = pathD then x else setPath x net { p with rto := rtoOf p.rtt, expiries := 0 }) 2 x
    let left := (x.unacked.filter (fun t => !isAcked t)).map (fun t => { t with sacked := t.sacked || sackBit t })
    pump (setConn s c { x with unacked := left, peerWindow := window.toNat }) c

end Sys2Proof.Machine
end

