-- ==== Sys2Proof/Machine/Msg.lean ====
section
/-!
DEFINITION. Sys2Proof/Machine/Msg.lean: mailboxes, the checks of R332, the keep records of R333, responses and
device-originated messages (spec/14).
-/
namespace Sys2Proof.Machine

open Sys2Proof

/-! ### Status codes (Table 14.20) -/

def stOk : Nat := 0x0000
def stDiscarded : Nat := 0x0002
def stBusy : Nat := 0x0010
def stBusyRunning : Nat := 0x0011
def stBadMessage : Nat := 0x0020
def stNotSupported : Nat := 0x0021
def stNoResource : Nat := 0x0022
def stConfigMismatch : Nat := 0x0030
def stRingCycle : Nat := 0x0031
def stAdmissionDenied : Nat := 0x0032
def stGeometry : Nat := 0x0033
def stFenced : Nat := 0x0040
def stSessionLost : Nat := 0x0041
def stFaultState : Nat := 0x0042
def stSignatureFail : Nat := 0x0050
def stRollback : Nat := 0x0051

/-! ### Message types (Table 14.16) -/

/-- Smallest body of a host message type, and whether data follows the fixed layout; `none` for a type this manual does
not define as a host message (Tables 14.2 and 15.2). -/
def msgShape (typ : Nat) : Option (Nat × Bool) :=
  match typ with
  | 0x0101 => some (0, false)
  | 0x0102 => some (0, false)
  | 0x0103 => some (4, false)
  | 0x0104 => some (4, false)
  | 0x0105 => some (4, false)
  | 0x0110 => some (32, true)
  | 0x0111 => some (8, false)
  | 0x0120 => some (32, false)
  | 0x0121 => some (4, false)
  | 0x0122 => some (12, false)
  | 0x0123 => some (12, false)
  | 0x0124 => some (12, false)
  | 0x0125 => some (4, false)
  | 0x0130 => some (8, true)
  | 0x0131 => some (8, false)
  | 0x0132 => some (4, false)
  | 0x0140 => some (8, false)
  | 0x0141 => some (4, false)
  | 0x0142 => some (8, false)
  | 0x0150 => some (12, true)
  | 0x0151 => some (32, false)
  | 0x0160 => some (36, true)
  | 0x0161 => some (8, false)
  | 0x0201 => some (32, false)
  | 0x0202 => some (8, false)
  | 0x0203 => some (8, true)
  | 0x0204 => some (8, false)
  | 0x0205 => some (8, false)
  | 0x0206 => some (8, false)
  | 0x0207 => some (8, false)
  | 0x0208 => some (8, false)
  | 0x0209 => some (24, true)
  | 0x020A => some (40, false)
  | 0x020B => some (12, true)
  | _ => none

/-- Types that only read, which are not kept (R333). -/
def readOnlyType (typ : Nat) : Bool :=
  decide (typ = 0x0101 ∨ typ = 0x0102 ∨ typ = 0x0132 ∨ typ = 0x0140 ∨ typ = 0x0142 ∨ typ = 0x0151 ∨ typ = 0x0208)

/-- Types processed in the FAULT state (R334). -/
def faultStateType (typ : Nat) : Bool :=
  decide (typ = 0x0101 ∨ typ = 0x0102 ∨ typ = 0x0132 ∨ typ = 0x0140 ∨ typ = 0x0141 ∨ typ = 0x0142)

/-- Class of the response to a type (Table 13.5). -/
def respClass (typ : Nat) : MsgClass :=
  if typ = 0x0208 ∨ typ = 0x0142 ∨ typ = 0x0140 ∨ typ = 0x0151 then .bulk else .control

/-- A message's bytes (Table 14.1). -/
def msgBytes (typ status id : Nat) (body : List Byte) : List Byte :=
  le 2 typ ++ le 2 status ++ le 4 id ++ le 4 (12 + body.length) ++ body

/-! ### Responses -/

/-- Status codes of messages that took effect (R333). -/
def tookEffect (status : Nat) : Bool := decide (status = 0 ∨ status = 1 ∨ status = 2)

/-- Sends response bytes on the connection that carried a request, if it is still the same connection (R331). -/
def sendResp (s : State) (rt : RespTo) (bs : List Byte) : State :=
  match connOf s rt.conn with
  | none => s
  | some x => if x.epoch = rt.epoch then queueResp s rt.conn bs (respClass rt.typ.toNat) else s

/-- The same message, sent again while its first copy is processed (R333). -/
def sameMsg (a b : RespTo) : Bool :=
  decide (a.tag = b.tag ∧ a.msgId = b.msgId ∧ a.typ = b.typ ∧ a.bodyCrc = b.bodyCrc)

/-- The response to an accepted message: kept where R333 says so, sent for every copy that waits. -/
def respond (s : State) (rt : RespTo) (status : Nat) (body : List Byte) : State :=
  let bs := msgBytes (rt.typ.toNat + 32768) status rt.msgId.toNat body
  let copies := s.unanswered.filter (sameMsg rt)
  let s := { s with unanswered := s.unanswered.filter (fun r => !sameMsg rt r) }
  let s := if tookEffect status ∧ ¬ readOnlyType rt.typ.toNat then
      { s with keeps := s.keeps ++ [{ tag := rt.tag, msgId := rt.msgId, typ := rt.typ, bodyCrc := rt.bodyCrc, resp := bs }] }
    else s
  copies.foldl (fun s r => sendResp s r bs) s

/-- Fixed bytes of the response body of a type (Tables 14.2, 15.3 and 19.5). -/
def respBodyLen (typ : Nat) : Nat :=
  match typ with
  | 0x0101 | 0x0102 => 804
  | 0x0105 | 0x0124 | 0x0130 | 0x0131 | 0x0201 | 0x0203 | 0x0204 | 0x0209 | 0x020B => 4
  | 0x0110 | 0x0132 | 0x0140 | 0x0142 | 0x0205 | 0x0206 => 8
  | 0x0151 => 8368
  | 0x0208 => 16
  | _ => 0

/-- Bytes of a response body that count what follows: nothing follows in a failing response. -/
def respCount (typ i : Nat) : Bool :=
  match typ with
  | 0x0101 | 0x0102 => decide (i = 104)
  | 0x0132 | 0x0140 => decide (4 ≤ i)
  | 0x0151 => decide (8364 ≤ i)
  | 0x0142 | 0x0208 => true
  | _ => false

/-- Bits of a response body's byte that a field holds; the others are reserved and zero (R6; Tables 14.3 and 19.5). -/
def respBits (typ i : Nat) : Byte :=
  match typ with
  | 0x0101 | 0x0102 =>
    if i = 16 then 0x1F else if (17 ≤ i ∧ i < 20) ∨ (105 ≤ i ∧ i < 108) ∨ 800 ≤ i then 0 else 0xFF
  | 0x0151 => if i = 2 then 0x03 else if i = 3 ∨ i = 63 then 0 else 0xFF
  | _ => 0xFF

/-- Body of a response that reports a failure (R331): of the type's layout, its fields free and its reserved bits zero (R6). -/
def failBody (s : State) (typ : Nat) : List Byte :=
  (List.range (respBodyLen typ)).map (fun i => if respCount typ i then 0 else Config.openField s.fresh i &&& respBits typ i)

/-- A response whose status says it all: without a body of its own on success, and with the type's layout on failure. -/
def answer (s : State) (rt : RespTo) (status : Nat) : State :=
  if tookEffect status then respond s rt status []
  else respond { s with fresh := s.fresh + 1 } rt status (failBody s rt.typ.toNat)

/-! ### Mailboxes (R326 to R329) -/

/-- A mailbox. -/
def mailbox (s : State) (b : Nat) : List MailMsg := tget [] s.mail b
/-- Stores a mailbox. -/
def setMailbox (s : State) (b : Nat) (l : List MailMsg) : State := { s with mail := tput [] s.mail b l }

/-- Messages of a mailbox accepted and not answered (R329). -/
def unansweredOf (s : State) (b : Nat) : Nat := (s.unanswered.filter (fun r => r.conn % 64 = b)).length

/-- Firmware accepts messages now (R328, R334, R339): boot is complete, the device is in Run or Trim outside a
transition, or in FAULT with firmware running. -/
def accepting (s : State) : Bool :=
  s.boot.complete &&
    (match s.fault with
     | some f => f.fwReady && !f.reinit
     | none => s.power.trans.isNone && (decide (s.power.state = .run) || decide (s.power.state = .trim)))

/-- A host message as its mailbox takes it (R326): with the incarnation and the tag of the connection that carries it, and the
segments it came in. A FREE connection leaves epoch and tag 0: nothing is answered there. -/
def mailOf (s : State) (typ : Nat) (m : HostMsg) : MailMsg :=
  let x := connOf s m.conn
  { typ := BitVec.ofNat 16 typ, msg := m, epoch := (x.map (fun c => c.epoch)).getD 0, tag := (x.map (fun c => c.tag)).getD 0
    segs := ceilDiv (12 + m.body.length) (max 1 (devMaxPayload s)) }

/-- What a message's response needs (R331, R333): the connection and tag are those it arrived under. -/
def respOf (x : MailMsg) : RespTo :=
  { conn := x.msg.conn, epoch := x.epoch, tag := x.tag, msgId := x.msg.msgId, typ := x.typ, bodyCrc := crc32c x.msg.body }

/-- What the response to a message that arrives now needs. -/
def respTo (s : State) (typ : Nat) (m : HostMsg) : RespTo := respOf (mailOf s typ m)

/-- Step 1 of R332, but for the layout's length: header fields, and a message of at most 16,777,216 bytes (R3, R310). -/
def headerOk (typ : Nat) (m : HostMsg) : Bool :=
  decide (m.msgId ≠ 0) && !m.msgId.getLsbD 31 && !m.respBit && decide (typ / 256 ≠ 3) && decide (m.status = 0) &&
    decide (m.length.toNat = 12 + m.body.length) && decide (12 + m.body.length ≤ Config.maxMessage)

/-- Step 1 of R332, the body against the type's layout: at least as long, and zero beyond a fixed layout (R7). -/
def shapeOk (sh : Nat × Bool) (m : HostMsg) : Bool :=
  decide (sh.1 ≤ m.body.length) && (sh.2 || (m.body.drop sh.1).all (fun b => b == 0))

/-- The kept record of a key (R333). -/
def keptOf (s : State) (rt : RespTo) : Option Keep :=
  s.keeps.find? (fun k => decide (k.tag = rt.tag ∧ k.msgId = rt.msgId))

/-- R332 and R333 for one message taken from its mailbox: steps 1 to 3, the re-send lookups, step 4 (`fields`), and then
`run`, the message's own checks and effect. -/
def process (rt : RespTo) (fields : List Byte → Bool) (m : HostMsg) (run : RespTo → State → State) (s : State) : State :=
  let typ := rt.typ.toNat
  let dup := s.unanswered.find? (fun r => decide (r.tag = rt.tag ∧ r.msgId = rt.msgId))
  let refuse (s : State) (st : Nat) : State :=
    sendResp { s with fresh := s.fresh + 1 } rt (msgBytes (typ + 32768) st m.msgId.toNat (failBody s typ))
  if ¬ headerOk typ m then refuse s stBadMessage
  else
    match msgShape typ with
    | none => refuse s stNotSupported
    | some sh =>
      if ¬ shapeOk sh m then refuse s stBadMessage
      else
        match keptOf s rt with
        | some k =>
          if k.typ = rt.typ ∧ k.bodyCrc = rt.bodyCrc then sendResp s rt k.resp else refuse s stBadMessage
        | none =>
          match dup with
          | some d =>
            if sameMsg d rt then { s with unanswered := s.unanswered ++ [rt] } else refuse s stBadMessage
          | none =>
            if s.fault.isSome ∧ ¬ faultStateType typ then refuse s stFaultState
            else if ¬ fields m.body then refuse s stBadMessage
            else run rt { s with unanswered := s.unanswered ++ [rt] }

/-! ### The rotation (R327) -/

/-- Firmware may take the head of a mailbox: it holds a message that R213 does not hold back, and fewer than 256 of its messages
are unanswered (R329). -/
def servable (s : State) (b : Nat) : Bool :=
  (match mailbox s b with
   | [] => false
   | x :: _ => !ioWait s x) && decide (unansweredOf s b < 256)

/-- The mailbox that firmware serves next: the first it may serve after the one served last (R327). -/
def nextServed (s : State) : Option Nat :=
  ((List.range 64).map (fun k => (s.mailLast + 1 + k) % 64)).find? (servable s)

/-- A type that this manual does not define as a host message: no row names it, so firmware answers it as its turn comes. -/
def unknownMsg (x : MailMsg) : Bool := (msgShape x.typ.toNat).isNone

/-- Messages of undefined types that wait. -/
def unknownCount (s : State) : Nat := (s.mail.map (fun e => (e.2.filter unknownMsg).length)).sum

/-- Answers the messages of undefined types whose turn it is, in rotation (R327 to R329; R332, steps 1 and 2). -/
def drainUnknown : Nat → State → State
  | 0, s => s
  | n + 1, s =>
    match nextServed s with
    | none => s
    | some b =>
      match mailbox s b with
      | [] => s
      | x :: rest =>
        if unknownMsg x ∧ accepting s then
          drainUnknown n (process (respOf x) (fun _ => true) x.msg (fun _ s => s) { setMailbox s b rest with mailLast := b })
        else s

/-- All of them. -/
def drainAll (s : State) : State := drainUnknown (unknownCount s) s

/-- A complete message, which came in `segs` segments, reaches its mailbox (R310, R326). One shorter than its header has no header
fields beyond its end, and its `length` is not its own (R3, R332). -/
def deliver (s : State) (c : Nat) (bs : List Byte) (segs : Nat) : State :=
  if ¬ s.boot.complete then s
  else
    let t := fld bs 0 2
    let m : HostMsg :=
      { conn := c, respBit := bit t 15, status := BitVec.ofNat 16 (fld bs 2 2), msgId := BitVec.ofNat 32 (fld bs 4 4)
        length := if bs.length < 12 then 0 else BitVec.ofNat 32 (fld bs 8 4), body := bs.drop 12 }
    let b := c % 64
    drainAll (setMailbox s b (mailbox s b ++ [{ mailOf s (t % 32768) m with segs := segs }]))

/-- The message `m` of a type, as it waits in a mailbox. -/
def isMsg (typ : Nat) (m : HostMsg) (x : MailMsg) : Bool := decide (x.typ = BitVec.ofNat 16 typ) && decide (x.msg = m)

/-- A message that has just arrived joins its mailbox; one that waits there already stays where it is. -/
def enqueue (s : State) (typ : Nat) (m : HostMsg) : State :=
  let b := m.conn % 64
  if (mailbox s b).any (isMsg typ m) ∨ (connOf s m.conn).isNone then s
  else setMailbox s b (mailbox s b ++ [mailOf s typ m])

/-- Firmware takes one host message (R326 to R333). The message is the head of its mailbox, or arrives now; it waits there while
firmware cannot take it, while another mailbox has its turn, and while R213 holds it back. -/
def accept (typ : Nat) (fields : List Byte → Bool) (m : HostMsg) (run : RespTo → State → State) (s : State) : State :=
  let b := m.conn % 64
  if ¬ s.boot.complete then s
  else
    let s := drainAll (enqueue s typ m)
    match mailbox s b with
    | [] => s
    | x :: rest =>
      if ¬ isMsg typ m x ∨ ¬ accepting s then s
      else if ioWait s x then ioHold s x
      else if nextServed s = some b then
        drainAll (process (respOf x) fields m run { setMailbox s b rest with mailLast := b })
      else s

/-! ### Device-originated messages -/

/-- Whether a stream message of `n` bytes fits the buffer of a connection now (R314). -/
def streamFits (s : State) (c n : Nat) : Bool :=
  match connOf s c with
  | none => false
  | some x => decide (x.st = .open) && decide (n ≤ bufFree x)

/-- Takes the next device message number of a connection (R330). -/
def takeMsgNo (s : State) (c : Nat) : Nat × State :=
  match connOf s c with
  | none => (0, s)
  | some x => (x.msgNo, setConn s c { x with msgNo := (x.msgNo + 1) % 2147483648 })

/-- One stream message on a connection (R314, R330): whether it left, or was discarded and counted. -/
def sendStream (s : State) (c typ : Nat) (body : List Byte) (cls : MsgClass) : State × Bool :=
  match connOf s c with
  | none => (s, false)
  | some _ =>
    let r := takeMsgNo s c
    let bs := msgBytes typ 0 (r.1 + 2147483648) body
    if streamFits r.2 c bs.length then (pump (bufPut r.2 c bs cls) c, true) else (connCnt r.2 c 2, false)

/-- One AUDIO message as a datagram on the active path, or on both up paths (R315). -/
def sendDgram (s : State) (c typ : Nat) (body : List Byte) (dual : Bool) : State × Bool :=
  match connOf s c with
  | none => (s, false)
  | some _ =>
    let r := takeMsgNo s c
    let bs := msgBytes typ 0 (r.1 + 2147483648) body
    match connOf r.2 c with
    | none => (s, false)
    | some x =>
      let nets := if dual then [0, 1] else [x.active]
      let nets := nets.filter (fun n => (pathOf x n).up)
      if x.st ≠ .open ∨ nets = [] then (connCnt r.2 c 2, false)
      else
        let s := setConn r.2 c { x with dgramNo := x.dgramNo + 1 }
        (nets.foldl (fun s n => sendSeg s c n 7 0 (BitVec.ofNat 32 x.dgramNo) bs .audio) s, true)

end Sys2Proof.Machine
end

