-- ==== Sys2Proof/Machine/Fp.lean ====
section
/-!
DEFINITION. Sys2Proof/Machine/Fp.lean: fp32 and bf16 arithmetic (R59, R94 to R98). A finite value is taken as the exact
dyadic number m · 2^e and rounded once.
-/
namespace Sys2Proof.Machine

open Sys2Proof

/-- The canonical quiet NaN (R95). -/
def fpNan : W32 := 0x7FC00000#32
/-- +∞. -/
def fpInf : W32 := 0x7F800000#32
/-- −∞. -/
def fpNegInf : W32 := 0xFF800000#32
/-- 1.0. -/
def fpOne : W32 := 0x3F800000#32
/-- The largest finite fp32 value. -/
def fpMax : W32 := 0x7F7FFFFF#32

/-- Sign bit. -/
def fpSign (w : W32) : Bool := w.getLsbD 31
/-- The 31 bits below the sign. -/
def fpMag (w : W32) : Nat := w.toNat % 2147483648
/-- NaN of any payload. -/
def fpIsNan (w : W32) : Bool := decide (0x7F800000 < fpMag w)
/-- ±∞. -/
def fpIsInf (w : W32) : Bool := decide (fpMag w = 0x7F800000)
/-- ±0. -/
def fpIsZero (w : W32) : Bool := decide (fpMag w = 0)
/-- A NaN made quiet (R95). -/
def fpQuiet (w : W32) : W32 := w ||| 0x00400000#32
/-- Sign bit of a result. -/
def fpSigned (neg : Bool) (mag : Nat) : W32 := BitVec.ofNat 32 (mag + (if neg then 2147483648 else 0))

/-- A dyadic number m · 2^e. -/
structure Dy where
  m : Int
  e : Int
  deriving DecidableEq, Repr

/-- The exact value of a finite fp32 number. -/
def fpDy (w : W32) : Dy :=
  let x := fpMag w
  let ex := x / 8388608
  let fr := x % 8388608
  let m : Nat := if ex = 0 then fr else fr + 8388608
  { m := if fpSign w then -(m : Int) else m, e := (if ex = 0 then 1 else ex : Nat) - 150 }

/-- Encoding, below the sign, of a positive value in [m, m + 1) · 2^e, rounded to nearest even with `p` bits of
precision and the exponent range of binary32; `sticky` says that the value is not m · 2^e itself. The result has `p - 1`
mantissa bits; overflow gives the encoding of infinity. -/
def fpRound (p : Nat) (m : Nat) (e : Int) (sticky : Bool) : Nat :=
  if m = 0 then 0
  else
    let top : Int := (Nat.log2 m : Int) + e
    let q : Int := max (top - (p - 1 : Int)) (-126 - (p - 1 : Int))
    let mant : Nat :=
      if q ≤ e then m * 2 ^ (e - q).toNat
      else
        let sh := (q - e).toNat
        let lo := m / 2 ^ sh
        let rem := m % 2 ^ sh
        let half := 2 ^ (sh - 1)
        let up := decide (half < rem) || (decide (rem = half) && (sticky || decide (lo % 2 = 1)))
        if up then lo + 1 else lo
    let enc := (q + (p - 1 : Int) + 126).toNat * 2 ^ (p - 1) + mant
    min enc (255 * 2 ^ (p - 1))

/-- The fp32 number nearest a dyadic number, ties to even; `zneg` is the sign of an exact zero (R94). -/
def dyFp32 (d : Dy) (zneg : Bool) : W32 :=
  if d.m = 0 then fpSigned zneg 0 else fpSigned (decide (d.m < 0)) (fpRound 24 d.m.natAbs d.e false)

/-- The bf16 number nearest a dyadic number, widened to fp32. -/
def dyBf16 (d : Dy) (zneg : Bool) : W32 :=
  if d.m = 0 then fpSigned zneg 0 else fpSigned (decide (d.m < 0)) (fpRound 8 d.m.natAbs d.e false * 65536)

/-- Rounding to a destination format: `wide` fp32, else bf16 (R97). -/
def dyFp (wide : Bool) (d : Dy) (zneg : Bool) : W32 := if wide then dyFp32 d zneg else dyBf16 d zneg

/-- Exact sum. -/
def dyAdd (a b : Dy) : Dy :=
  let e := min a.e b.e
  { m := a.m * 2 ^ (a.e - e).toNat + b.m * 2 ^ (b.e - e).toNat, e := e }

/-- Exact product. -/
def dyMul (a b : Dy) : Dy := { m := a.m * b.m, e := a.e + b.e }

/-- Exact integer as a dyadic number. -/
def dyInt (n : Int) : Dy := { m := n, e := 0 }

/-- Floor of a dyadic number. -/
def dyFloor (d : Dy) : Int := if 0 ≤ d.e then d.m * 2 ^ d.e.toNat else fdiv d.m (2 ^ (-d.e).toNat)

/-- Addition in the format of the destination (R94, R95). -/
def faddW (wide : Bool) (a b : W32) : W32 :=
  if fpIsNan a then fpQuiet a
  else if fpIsNan b then fpQuiet b
  else if fpIsInf a then (if fpIsInf b ∧ fpSign a ≠ fpSign b then fpNan else a)
  else if fpIsInf b then b
  else dyFp wide (dyAdd (fpDy a) (fpDy b)) (fpSign a && fpSign b)

/-- Negation flips the sign bit, of a NaN too. -/
def fneg (a : W32) : W32 := a ^^^ 0x80000000#32

/-- Subtraction; a NaN second operand keeps its own sign (R95). -/
def fsubW (wide : Bool) (a b : W32) : W32 :=
  if fpIsNan a then fpQuiet a else if fpIsNan b then fpQuiet b else faddW wide a (fneg b)

/-- Multiplication. -/
def fmulW (wide : Bool) (a b : W32) : W32 :=
  let sg := fpSign a != fpSign b
  if fpIsNan a then fpQuiet a
  else if fpIsNan b then fpQuiet b
  else if fpIsInf a ∨ fpIsInf b then
    (if fpIsZero a ∨ fpIsZero b then fpNan else fpSigned sg 0x7F800000)
  else dyFp wide (dyMul (fpDy a) (fpDy b)) sg

/-- a · b + c, rounded once (R94, R97). -/
def fmaW (wide : Bool) (a b c : W32) : W32 :=
  let sg := fpSign a != fpSign b
  if fpIsNan a then fpQuiet a
  else if fpIsNan b then fpQuiet b
  else if fpIsNan c then fpQuiet c
  else if fpIsInf a ∨ fpIsInf b then
    (if fpIsZero a ∨ fpIsZero b then fpNan
     else if fpIsInf c ∧ fpSign c ≠ sg then fpNan
     else fpSigned sg 0x7F800000)
  else if fpIsInf c then c
  else dyFp wide (dyAdd (dyMul (fpDy a) (fpDy b)) (fpDy c)) (sg && fpSign c)

/-- fp32 addition. -/
def fadd (a b : W32) : W32 := faddW true a b
/-- fp32 subtraction. -/
def fsub (a b : W32) : W32 := fsubW true a b
/-- fp32 multiplication, the `rn32` of a product. -/
def fmul (a b : W32) : W32 := fmulW true a b
/-- fp32 fused multiply-add. -/
def fma (a b c : W32) : W32 := fmaW true a b c

/-- `div32`: fp32 division of a finite number by a finite non-zero number, correctly rounded (R52). -/
def fdiv32 (a b : W32) : W32 :=
  let x := fpDy a
  let y := fpDy b
  let sg := fpSign a != fpSign b
  if x.m = 0 then fpSigned sg 0
  else
    let n := x.m.natAbs * 2 ^ 64
    let d := y.m.natAbs
    fpSigned sg (fpRound 24 (n / d) (x.e - y.e - 64) (decide (n % d ≠ 0)))

/-- Order key of IEEE 754 comparison: −0 equals +0. -/
def fpKey (w : W32) : Int := if fpSign w then -(fpMag w : Int) else fpMag w
/-- Order key that puts −0 below +0 (R96). -/
def fpKeyZ (w : W32) : Int := if fpSign w then -(fpMag w : Int) - 1 else fpMag w

/-- min of R96. -/
def fmin (a b : W32) : W32 :=
  if fpIsNan a then (if fpIsNan b then fpQuiet a else b)
  else if fpIsNan b then a
  else if fpKeyZ b < fpKeyZ a then b else a

/-- max of R96. -/
def fmax (a b : W32) : W32 :=
  if fpIsNan a then (if fpIsNan b then fpQuiet a else b)
  else if fpIsNan b then a
  else if fpKeyZ a < fpKeyZ b then b else a

/-- The predicates of Table 11.16 on two values: 0 equal, 1 not equal, 2 less, 3 less or equal, 4 greater, 5 greater or
equal; a NaN makes all but "not equal" false (R96). -/
def fcmp (pred : Nat) (a b : W32) : Bool :=
  if fpIsNan a || fpIsNan b then decide (pred = 1)
  else
    match pred with
    | 0 => decide (fpKey a = fpKey b)
    | 1 => decide (fpKey a ≠ fpKey b)
    | 2 => decide (fpKey a < fpKey b)
    | 3 => decide (fpKey a ≤ fpKey b)
    | 4 => decide (fpKey b < fpKey a)
    | _ => decide (fpKey b ≤ fpKey a)

/-- fp32 to bf16 (R59). -/
def toBf16 (w : W32) : W16 :=
  if fpIsNan w then ((w >>> 16).setWidth 16) ||| 0x0040#16
  else if fpIsInf w then (w >>> 16).setWidth 16
  else ((dyBf16 (fpDy w) (fpSign w)) >>> 16).setWidth 16

/-- bf16 to fp32 (R59). -/
def ofBf16 (h : W16) : W32 := (h.setWidth 32) <<< 16

/-- fp32 number times 2^k for a normal finite number: overflow is an infinity, a result below 2^-126 a zero of its sign
(R103). -/
def fscale (w : W32) (k : Int) : W32 :=
  if fpIsZero w ∨ fpIsInf w ∨ fpIsNan w then w
  else
    let d := fpDy w
    let r := fpRound 24 d.m.natAbs (d.e + k) false
    fpSigned (fpSign w) (if (Nat.log2 d.m.natAbs : Int) + d.e + k < -126 then 0 else r)

end Sys2Proof.Machine
end

