-- ==== Sys2Proof/Machine/Numerics.lean ====
section
/-!
DEFINITION. Sys2Proof/Machine/Numerics.lean: the roundings of R42 to R46 and every conversion of spec/03.
-/
namespace Sys2Proof.Machine

open Sys2Proof

/-- `rne_shift` (R42): p / 2^s to the nearest integer, ties to even. -/
def rneShift (p : Int) (s : Nat) : Int :=
  if s = 0 then p
  else
    let q := fdiv p (2 ^ s)
    let f := p - q * 2 ^ s
    let h : Int := 2 ^ (s - 1)
    if h < f ∨ (f = h ∧ fmod q 2 = 1) then q + 1 else q

/-- `sr_shift` (R43). -/
def srShift (p : Int) (s : Nat) (r : W32) : Int :=
  let q := fdiv p (2 ^ s)
  let f := p - q * 2 ^ s
  if s ≤ 32 then
    (if 2 ^ s ≤ f + ((r.toNat / 2 ^ (32 - s) : Nat) : Int) then q + 1 else q)
  else
    (if (4294967296 : Int) ≤ fdiv f (2 ^ (s - 32)) + (r.toNat : Int) then q + 1 else q)

/-- `coarse_shift` (R45). -/
def coarseShift (p : Int) (s : Nat) (b : Bool) : Int :=
  let q := fdiv p (2 ^ s)
  let f := p - q * 2 ^ s
  if (1 + 2 * (b2n b : Int)) * 2 ^ s < 4 * f then q + 1 else q

/-- Rounding of one element: deterministic, stochastic with the element's word, or coarse with one random bit. -/
inductive RMode where
  | det
  | stoch (r : W32)
  | coarse (b : Bool)
  deriving DecidableEq, Repr

/-- `round_shift` under a mode. -/
def roundShift (md : RMode) (p : Int) (s : Nat) : Int :=
  match md with
  | .det => rneShift p s
  | .stoch r => srShift p s r
  | .coarse b => coarseShift p s b

/-- Rounding of an exact dyadic value. -/
def roundDy (md : RMode) (d : Dy) : Int :=
  if 0 ≤ d.e then d.m * 2 ^ d.e.toNat else roundShift md d.m (-d.e).toNat

/-- Saturation to [lo, hi], with 1 where it changed the value (R46). -/
def satTo (lo hi v : Int) : Int × Nat :=
  if v < lo then (lo, 1) else if hi < v then (hi, 1) else (v, 0)

/-- `sat40` (R55): a raw accumulator, and 1 where it saturated. -/
def sat40 (v : Int) : Acc × Nat :=
  let r := satTo (-549755813888) 549755813887 v
  (BitVec.ofInt 40 r.1, r.2)

/-- A 16-bit count that stops at 0xFFFF (R64). -/
def cap16 (n : Nat) : Nat := min n 65535

/-- An e4m3 group scale in units of 2^-9, with 1 for a NaN code, applied as 0 (R48, Table 3.2). -/
def e4m3 (b : Byte) : Int × Nat :=
  let x := b.toNat
  let ex := (x / 8) % 16
  let m := x % 8
  if ex = 15 ∧ m = 7 then (0, 1)
  else
    let v : Nat := if ex = 0 then m else (8 + m) * 2 ^ (ex - 1)
    ((if x < 128 then (v : Int) else -(v : Int)), 0)

/-- A rescale table entry (Table 3.3). -/
structure RescaleEntry where
  mult : Int
  shift : Int
  rsvdZero : Bool
  bias : Int
  rowsum : Int
  deriving DecidableEq, Repr

/-- The entry in 16 bytes. -/
def rescaleEntry (bs : List Byte) : RescaleEntry :=
  { mult := fldS bs 0 4, shift := fldS bs 4 1, rsvdZero := isZero bs 5 3, bias := fldS bs 8 4, rowsum := fldS bs 12 4 }

/-- The effective shift and 1 where it was out of range (R58). -/
def rescaleShift (sh : Int) : Int × Nat :=
  if sh < -31 then (-31, 1) else if 32 < sh then (32, 1) else (sh, 0)

/-- The exact product `p` of R57. -/
def rescaleProduct (acc : Int) (z : Nat) (e : RescaleEntry) : Int := (acc - (z : Int) * e.rowsum + e.bias) * e.mult

/-- R57 in code mode: the code and the saturation count. -/
def rescaleCode (md : RMode) (zOut : Nat) (acc : Int) (z : Nat) (e : RescaleEntry) : Nat × Nat :=
  let sh := rescaleShift e.shift
  let q := roundShift md (rescaleProduct acc z e) (31 + sh.1).toNat
  let r := satTo 0 255 (q + (zOut : Int))
  (r.1.toNat, r.2 + sh.2)

/-- R57 in real mode: the fp32 value and the saturation count. -/
def rescaleReal (acc : Int) (z : Nat) (e : RescaleEntry) : W32 × Nat :=
  let sh := rescaleShift e.shift
  (dyFp32 { m := rescaleProduct acc z e, e := -(31 + sh.1) } false, sh.2)

/-- fp32 to a uint8 code per tensor (R505): code and saturation count. -/
def codePerTensor (md : RMode) (inv : W32) (z : Nat) (v : W32) : Nat × Nat :=
  if fpIsNan v then (z, 1)
  else if fpIsInf v then ((if fpSign v then 0 else 255), 1)
  else
    let r := satTo 0 255 (roundDy md (dyMul (fpDy v) (fpDy inv)) + (z : Int))
    (r.1.toNat, r.2)

/-- A per-tensor `inv` that R505 accepts: greater than zero and finite. -/
def invOk (inv : W32) : Bool := !fpIsNan inv && !fpIsInf inv && !fpSign inv && !fpIsZero inv

/-- fp32 to int32 (R99). -/
def toInt32 (md : RMode) (v : W32) : Int × Nat :=
  if fpIsNan v then (0, 1)
  else if fpIsInf v then ((if fpSign v then -2147483648 else 2147483647), 1)
  else satTo (-2147483648) 2147483647 (roundDy md (fpDy v))

/-- int32 to fp32 (R99). -/
def ofInt32 (w : W32) : W32 := dyFp32 (dyInt w.toInt) false

/-- fp32 to a Q1.15 decay (R61). -/
def toDecay (v : W32) : W16 × Nat :=
  if fpIsNan v then (0, 1)
  else if fpIsInf v then ((if fpSign v then 0 else 0x8000#16), 1)
  else
    let q := roundDy .det { m := (fpDy v).m, e := (fpDy v).e + 15 }
    let r := satTo 0 32768 q
    let out := decide (fpKey v < 0) || decide (fpKey fpOne < fpKey v)
    (BitVec.ofNat 16 r.1.toNat, b2n out)

/-- A Q1.15 decay as an exact fp32 value (R107). -/
def decayFp (a : W16) : W32 := dyFp32 { m := a.toNat, e := -15 } false

/-- fp32 to state units, 2^-32 (R84). -/
def toState (v : W32) : Acc × Nat :=
  if fpIsNan v then (0, 1)
  else if fpIsInf v then sat40 (if fpSign v then -1099511627776 else 1099511627776)
  else
    let d := fpDy v
    sat40 (roundDy .det { m := d.m, e := d.e + 32 })

/-- State-mode accumulator to fp32, nearest even (R85). -/
def stateFp (h : Acc) : W32 := dyFp32 { m := h.toInt, e := -32 } false

/-- fp32 to PCM of `n` bits (R62). -/
def toPcm (n : Nat) (v : W32) : Int × Nat :=
  let hi : Int := 2 ^ (n - 1) - 1
  let lo : Int := -(2 ^ (n - 1))
  if fpIsNan v then (0, 1)
  else if fpIsInf v then ((if fpSign v then lo else hi), 1)
  else
    let d := fpDy v
    satTo lo hi (roundDy .det { m := d.m, e := d.e + ((n - 1 : Nat) : Int) })

/-- The state-carry update of one element (R83): the new value and the saturation count. -/
def carryStep (a : W16) (h u : Acc) : Acc × Nat := sat40 (rneShift ((a.toNat : Int) * h.toInt) 15 + u.toInt)

/-! ### Dynamic per-token quantisation (R52) -/

/-- 255 · 2^-126, `rng_min`. -/
def rngMin : W32 := dyFp32 { m := 255, e := -126 } false

/-- An element after the replacement of NaN and infinity, with its saturation count. -/
def quantClean (v : W32) : W32 × Nat :=
  if fpIsNan v then (0, 1) else if fpIsInf v then (fpSigned (fpSign v) 0x7F7FFFFF, 1) else (v, 0)

/-- The result of quantising one token. -/
structure QuantTok where
  scale : W32
  z : Nat
  codes : List Nat
  sat : Nat
  degen : Nat
  deriving DecidableEq, Repr

/-- 255.0 and 127.0 in fp32. -/
def fp255 : W32 := 0x437F0000#32
/-- 127.0 in fp32. -/
def fp127 : W32 := 0x42FE0000#32

/-- R52 over one token; `md i` is the rounding mode of element i. -/
def quantToken (md : Nat → RMode) (vs : List W32) : QuantTok :=
  let cl := vs.map quantClean
  let v := cl.map Prod.fst
  let sat0 := (cl.map Prod.snd).sum
  match v with
  | [] => { scale := 0, z := 0, codes := [], sat := 0, degen := 0 }
  | x :: rest =>
    let mn := rest.foldl fmin x
    let mx := rest.foldl fmax x
    if fpKey mx = fpKey mn then
      if fpIsZero mn then
        { scale := 0x33800000#32, z := 128, codes := v.map (fun _ => 128), sat := sat0, degen := 1 }
      else
        { scale := fdiv32 (mn &&& 0x7FFFFFFF#32) fp127, z := 128
          codes := v.map (fun _ => if fpSign mn then 1 else 255), sat := sat0, degen := 1 }
    else
      let lo := fmin mn 0
      let hi := fmax mx 0
      let rng0 := fmin (fsub hi lo) fpMax
      let small := decide (fpKey rng0 < fpKey rngMin)
      let rng := if small then rngMin else rng0
      let inv := fdiv32 fp255 rng
      let z := (satTo 0 255 (roundDy .det (dyMul (fpDy (fneg lo)) (fpDy inv)))).1.toNat
      let rs := v.mapIdx (fun i x => satTo 0 255 (roundDy (md i) (dyMul (fpDy x) (fpDy inv)) + (z : Int)))
      { scale := fdiv32 rng fp255, z := z, codes := rs.map (fun r => r.1.toNat)
        sat := sat0 + (rs.map Prod.snd).sum, degen := b2n small }

/-! ### G.711 (R63): companding of a PCM16 value -/

/-- The segment of a magnitude: the number of times it halves before it falls below `lim`, at most 7. -/
def g711Seg (m lim : Nat) : Nat → Nat
  | 0 => 0
  | n + 1 => if m < lim then 0 else 1 + g711Seg (m / 2) lim n

/-- µ-law code of a PCM16 value (ITU-T G.711). PRESUMED: a negative value's magnitude is its complement. -/
def muLaw (x : Int) : Byte :=
  let neg := decide (x < 0)
  let m := min ((if neg then (-x - 1).toNat else x.toNat) / 4 + 33) 8191
  let seg := g711Seg m 64 7
  let q := (m / 2 ^ (seg + 1)) % 16
  BitVec.ofNat 8 (255 - ((if neg then 128 else 0) + seg * 16 + q))

/-- A-law code of a PCM16 value (ITU-T G.711), even bits inverted. PRESUMED: a negative value's magnitude is its complement. -/
def aLaw (x : Int) : Byte :=
  let neg := decide (x < 0)
  let m := (if neg then (-x - 1).toNat else x.toNat) / 16
  let seg := g711Seg m 16 7
  let q := (m / 2 ^ (seg - 1)) % 16
  BitVec.ofNat 8 (Nat.xor ((if neg then 0 else 128) + seg * 16 + q) 0x55)

end Sys2Proof.Machine
end

