-- ==== Sys2Proof/Machine/FuncUnit.lean ====
section
/-!
DEFINITION. Sys2Proof/Machine/FuncUnit.lean: the function unit (R101 to R104), the reduction order of R100, softmax (R105)
and the Hadamard unit (R111, R112). The exact mathematical functions of Table 5.2 are evaluated in fixed point with 160
fraction bits, far past the precision at which any table point rounds differently.
-/
namespace Sys2Proof.Machine

open Sys2Proof

/-! ### Fixed point with 160 fraction bits -/

/-- 1.0. -/
def fxOne : Int := 2 ^ 160

/-- Product. -/
def fxMul (a b : Int) : Int := fdiv (a * b) fxOne

/-- Quotient. -/
def fxDiv (a b : Int) : Int := fdiv (a * fxOne) b

/-- Taylor sum of e^x: `k` more terms after `term`, the last of index `n`. -/
def fxExpSum (x term : Int) (n : Nat) : Nat → Int
  | 0 => term
  | k + 1 => term + fxExpSum x (fdiv (fxMul term x) ((n + 1 : Nat) : Int)) (n + 1) k

/-- e^x for |x| at most 32: sixteen squarings of e^(x / 2^16). -/
def fxExp (x : Int) : Int :=
  iter (fun _ y => fxMul y y) 16 (fxExpSum (fdiv x 65536) fxOne 0 24)

/-- Σ r^(2k+1) / (2k+1), `n` more terms, where `p` is r^(2k+1). -/
def fxAtanhSum (r2 p : Int) (k : Nat) : Nat → Int
  | 0 => 0
  | n + 1 => fdiv p ((2 * k + 1 : Nat) : Int) + fxAtanhSum r2 (fxMul p r2) (k + 1) n

/-- ln(1 + v) for v from 0 to 1: 2·atanh(v / (2 + v)). -/
def fxLn1p (v : Int) : Int :=
  let r := fxDiv v (2 * fxOne + v)
  2 * fxAtanhSum (fxMul r r) r 0 56

/-- ln 2. -/
def fxLn2 : Int := fxLn1p fxOne

/-- Rational n / 2^k in fixed point. -/
def fxOf (n : Int) (k : Nat) : Int := n * 2 ^ (160 - k)

/-- The nearest fp32 of a non-negative fixed-point value. -/
def fxRn (v : Int) : W32 := fpSigned false (fpRound 24 v.toNat (-160) false)

/-- The functions of Table 11.16, in the order of their sub-operation. -/
inductive FuncId where
  | sigmoid
  | tanh
  | exp
  | log
  | reciprocal
  | rsqrt
  | softplus
  deriving DecidableEq, Repr

/-- The table's exact function at a fixed-point argument (Table 5.2, column f). -/
def funcExact (f : FuncId) (v : Int) : Int :=
  match f with
  | .sigmoid =>
    if 0 ≤ v then fxDiv fxOne (fxOne + fxExp (-v)) else let e := fxExp v; fxDiv e (fxOne + e)
  | .tanh => let e := fxExp (-(2 * v)); fxDiv (fxOne - e) (fxOne + e)
  | .exp => fxExp (fxMul v fxLn2)
  | .log => fxLn1p v
  | .reciprocal => fxDiv fxOne (fxOne + v)
  | .rsqrt => (Nat.sqrt ((fxDiv fxOne (fxOne + v)) * fxOne).toNat : Int)
  | .softplus => if 0 ≤ v then v + fxLn1p (fxExp (-v)) else fxLn1p (fxExp v)

/-- log2 of the table's intervals per unit: h = 2^-7 or 2^-8 (Table 5.2). -/
def funcH (f : FuncId) : Nat :=
  match f with
  | .sigmoid | .tanh | .softplus => 7
  | _ => 8

/-- The table's start a (Table 5.2). -/
def funcA (f : FuncId) : Int :=
  match f with
  | .sigmoid | .softplus => -16
  | _ => 0

/-- Correctly rounded function value at half-interval `i` of the table: v = a + i · h / 2. -/
def funcPoint (f : FuncId) (i : Nat) : W32 :=
  fxRn (funcExact f (fxOf (funcA f * 2 ^ (funcH f + 1) + (i : Int)) (funcH f + 1)))

/-- Table evaluation of R101 at the exact reduced argument v. -/
def funcTable (f : FuncId) (v : Dy) : W32 :=
  let x := dyAdd { m := v.m, e := v.e + (funcH f : Int) } (dyInt (-(funcA f * 2 ^ funcH f)))
  let j := dyFloor x
  let t := dyFp32 (dyAdd x (dyInt (-j))) false
  let y0 := funcPoint f (2 * j).toNat
  let y1 := funcPoint f (2 * j + 1).toNat
  let y2 := funcPoint f (2 * j + 2).toNat
  let times (k : Int) (y : W32) : Dy := dyMul (dyInt k) (fpDy y)
  let c1 := dyFp32 (dyAdd (dyAdd (times (-3) y0) (times 4 y1)) (times (-1) y2)) false
  let c2 := dyFp32 (dyAdd (dyAdd (times 2 y0) (times (-4) y1)) (times 2 y2)) false
  fma t (fma t c2 c1) y0

/-- log2(e) and ln 2 rounded to nearest at 2^-40 (R102). -/
def constL : Int := 1586259972792
/-- ln 2 at 2^-40. -/
def constLn2 : Int := 762123384786

/-- exp of a finite value (Table 5.2). -/
def funcExp (x : W32) : W32 :=
  let z := dyMul (fpDy x) { m := constL, e := -40 }
  let n := dyFloor z
  if 128 ≤ n then fpInf
  else if n < -126 then 0
  else fscale (funcTable .exp (dyAdd z (dyInt (-n)))) n

/-- The exponent e with |x| = 2^e · m and m in [1, 2), for finite non-zero x. -/
def fpExpo (x : W32) : Int := (Nat.log2 (fpDy x).m.natAbs : Int) + (fpDy x).e

/-- The function unit on one element (R101 to R104). -/
def funcUnit (f : FuncId) (x : W32) : W32 :=
  if fpIsNan x then fpQuiet x
  else
    let d := fpDy x
    let abs : Dy := { m := (d.m.natAbs : Int), e := d.e }
    match f with
    | .sigmoid =>
      if fpIsInf x then (if fpSign x then 0 else fpOne)
      else if dyFloor d < -16 then funcExp x
      else if 16 ≤ dyFloor d then fpOne
      else funcTable .sigmoid d
    | .tanh =>
      if fpIsInf x ∨ 8 ≤ dyFloor abs then fpSigned (fpSign x) (fpMag fpOne)
      else fpSigned (fpSign x) (fpMag (fscale (funcTable .tanh abs) 0))
    | .softplus =>
      if fpIsInf x then (if fpSign x then 0 else fpInf)
      else if dyFloor d < -16 then funcExp x
      else if 16 ≤ dyFloor d then x
      else funcTable .softplus d
    | .exp => if fpIsInf x then (if fpSign x then 0 else fpInf) else funcExp x
    | .log =>
      if fpIsZero x then fpNegInf
      else if fpSign x then fpNan
      else if fpIsInf x then fpInf
      else
        let e := fpExpo x
        let y := funcTable .log (dyAdd { m := d.m, e := d.e - e } (dyInt (-1)))
        dyFp32 (dyAdd { m := e * constLn2, e := -40 } (fpDy y)) false
    | .reciprocal =>
      if fpIsZero x then fpSigned (fpSign x) 0x7F800000
      else if fpIsInf x then fpSigned (fpSign x) 0
      else
        let e := fpExpo x
        let y := funcTable .reciprocal (dyAdd { m := abs.m, e := abs.e - e } (dyInt (-1)))
        fpSigned (fpSign x) (fpMag (fscale y (-e)))
    | .rsqrt =>
      if fpIsZero x then fpSigned (fpSign x) 0x7F800000
      else if fpSign x then fpNan
      else if fpIsInf x then 0
      else
        let k := fdiv (fpExpo x) 2
        let y := funcTable .rsqrt (dyAdd { m := d.m, e := d.e - 2 * k } (dyInt (-1)))
        fscale y (-k)

/-! ### Reductions (R100) -/

/-- Combination of two partial results, either of which may be absent. -/
def optComb (f : W32 → W32 → W32) (a b : Option W32) : Option W32 :=
  match a, b with
  | some x, some y => some (f x y)
  | some x, none => some x
  | none, y => y

/-- One row of 256 elements folded into the partials. -/
def foldRow (f : W32 → W32 → W32) : List (Option W32) → List W32 → List (Option W32)
  | [], _ => []
  | p, [] => p
  | p :: ps, x :: xs => optComb f p (some x) :: foldRow f ps xs

/-- All elements folded into the 256 partials, row by row. -/
def foldRows (f : W32 → W32 → W32) : Nat → List (Option W32) → List W32 → List (Option W32)
  | 0, ps, _ => ps
  | n + 1, ps, xs => if xs = [] then ps else foldRows f n (foldRow f ps xs) (xs.drop 256)

/-- One level of the tree: neighbours combine. -/
def pairUp (f : W32 → W32 → W32) : List (Option W32) → List (Option W32)
  | a :: b :: rest => optComb f a b :: pairUp f rest
  | l => l

/-- Reduction in the order of R100; `none` for no elements. -/
def reduceW (f : W32 → W32 → W32) (xs : List W32) : Option W32 :=
  let ps := foldRows f (xs.length / 256 + 1) (List.replicate 256 none) xs
  ((iter (fun _ l => pairUp f l) 8 ps).head?).getD none

/-- Sum of R100. -/
def sumW (xs : List W32) : W32 := (reduceW fadd xs).getD 0
/-- Maximum of R100. -/
def maxW (xs : List W32) : W32 := (reduceW fmax xs).getD 0

/-! ### Softmax (R105) -/

/-- exp(x − m) as R105 and R165 form it, for a row maximum m. -/
def softExp (m x : W32) : W32 :=
  if m = fpInf then (if x = fpInf then fpOne else 0) else funcUnit .exp (fsub x m)

/-- R105 over one row. -/
def softmaxRow (xs : List W32) : List W32 :=
  if xs.any fpIsNan then xs.map (fun _ => fpNan)
  else
    let m := maxW xs
    if m = fpNegInf then xs.map (fun _ => 0)
    else
      let e := xs.map (softExp m)
      let r := funcUnit .reciprocal (sumW e)
      e.map (fun y => fmul y r)

/-! ### Hadamard unit (R111, R112) -/

/-- One butterfly stage of span h on one block. -/
def hadStage (h : Nat) (xs : List W32) : List W32 :=
  xs.mapIdx (fun i x =>
    if i % (2 * h) < h then fadd x (xs.getD (i + h) 0) else fsub (xs.getD (i - h) 0) x)

/-- The normalisation constant c_n, for n = 2^k (R112). -/
def hadConst (k : Nat) : W32 :=
  match k with
  | 5 => 0x3E3504F3#32
  | 6 => 0x3E000000#32
  | 7 => 0x3DB504F3#32
  | _ => 0x3D800000#32

/-- The transform of one block of 2^k elements. -/
def hadBlock (k : Nat) (xs : List W32) : List W32 :=
  (iter (fun i l => hadStage (2 ^ i) l) k xs).map (fun x => fmul x (hadConst k))

/-- Consecutive blocks of n elements, each transformed by `f`. -/
def mapBlocks {α β : Type} (f : List α → List β) (n : Nat) : Nat → List α → List β
  | 0, _ => []
  | c + 1, xs => f (xs.take n) ++ mapBlocks f n c (xs.drop n)

end Sys2Proof.Machine
end

