-- ==== Sys2Proof/Machine/Rng.lean ====
section
/-!
DEFINITION. Sys2Proof/Machine/Rng.lean: the random-number generator's functions (spec/09): mixer, native and coarse
words, compatibility lanes and the draw forms.
-/
namespace Sys2Proof.Machine

open Sys2Proof

/-- Four words of the mixer. -/
structure Mix4 where
  x0 : W32
  x1 : W32
  x2 : W32
  x3 : W32
  deriving DecidableEq, Repr

/-- Word `i mod 4` of the mixer's key schedule (R181). -/
def mixKey (seed : W64) (i : Nat) : W32 :=
  let k0 : W32 := seed.setWidth 32
  let k1 : W32 := (seed >>> 32).setWidth 32
  match i % 4 with
  | 0 => k0
  | 1 => k1
  | 2 => k0 ^^^ k1 ^^^ 0x9E3779B9#32
  | _ => 0x6A5D39C1#32

/-- One round of R181. -/
def mixRound (seed : W64) (r : Nat) (x : Mix4) : Mix4 :=
  let rr : W32 := BitVec.ofNat 32 r
  let y : Mix4 :=
    if r % 4 = 0 then
      { x0 := x.x0 + mixKey seed (0 + r / 4) + rr, x1 := x.x1 + mixKey seed (1 + r / 4) + rr
        x2 := x.x2 + mixKey seed (2 + r / 4) + rr, x3 := x.x3 + mixKey seed (3 + r / 4) + rr }
    else x
  let a := y.x0 + y.x1
  let d := (y.x3 ^^^ a).rotateLeft 13
  let c := y.x2 + d
  let b := (y.x1 ^^^ c).rotateLeft 9
  let a := a + b
  let d := (d ^^^ a).rotateLeft 6
  let c := c + d
  let b := (b ^^^ c).rotateLeft 11
  { x0 := a, x1 := b, x2 := c, x3 := d }

/-- The mixer (R181). -/
def mix (seed : W64) (x : Mix4) : Mix4 :=
  let y := iter (fun r x => mixRound seed r x) 12 x
  { x0 := y.x0 + mixKey seed 3, x1 := y.x1 + mixKey seed 4, x2 := y.x2 + mixKey seed 5, x3 := y.x3 + mixKey seed 6 }

/-- The native index tuple without the element (Table 9.1). -/
structure RngTuple where
  seed : W64
  purpose : Nat
  tensor : W16
  step : Nat
  deriving DecidableEq, Repr

/-- Mixer input group `g` of a block (Table 9.2). -/
def mixInput (t : RngTuple) (blk g : Nat) : Mix4 :=
  { x0 := BitVec.ofNat 32 t.step
    x1 := BitVec.ofNat 32 (t.tensor.toNat * 65536 + (t.purpose % 16) * 256 + (t.step / 4294967296) % 256)
    x2 := BitVec.ofNat 32 (0x4E000000 + blk % 16777216)
    x3 := BitVec.ofNat 32 (g % 64) }

/-- Output word `k` of mixer groups, in order (R185, R198). -/
def mixWord (t : RngTuple) (blk k : Nat) : W32 :=
  let m := mix t.seed (mixInput t blk (k / 4))
  match k % 4 with
  | 0 => m.x0
  | 1 => m.x1
  | 2 => m.x2
  | _ => m.x3

/-- The 55 mixer words of a block's table (R190). -/
def blockTable (t : RngTuple) (blk : Nat) : List W32 := (List.range 55).map (mixWord t blk)

/-- One more lagged word in front of a newest-first list (R182). -/
def lagStep (l : List W32) : List W32 := (l.getD 23 0 + l.getD 54 0) :: l

/-- The word at position `k` that a block's table gives (R186). -/
def tableWord (tab : List W32) (k : Nat) : W32 :=
  if k < 55 then tab.getD k 0 else (iter (fun _ l => lagStep l) (k - 54) tab.reverse).getD 0 0

/-- `native_word` of R186. -/
def nativeWord (t : RngTuple) (element : Nat) : W32 := tableWord (blockTable t (element / 256)) (element % 256)

/-- The words of `n` consecutive elements from `first` within one block. -/
def nativeRun (t : RngTuple) (blk k n : Nat) : List W32 :=
  let all := (iter (fun _ l => lagStep l) 201 (blockTable t blk).reverse).reverse
  (all.drop k).take n

/-- The words of elements `first` to `first + n - 1`: `fuel` bounds the blocks touched. -/
def nativeWords (t : RngTuple) : Nat → Nat → Nat → List W32
  | 0, _, _ => []
  | fuel + 1, first, n =>
    if n = 0 then []
    else
      let k := first % 256
      let m := min n (256 - k)
      nativeRun t (first / 256) k m ++ nativeWords t fuel (first + m) (n - m)

/-- The coarse word at an element (R198). -/
def coarseWord (t : RngTuple) (element : Nat) : W32 := mixWord t (element / 256) (element % 256)

/-! ### Compatibility lanes (R192 to R195) -/

/-- One draw of a lane (R193). -/
def laneDraw (l : LaneTab) : W32 × LaneTab :=
  let y := l.lag.getD l.pos 0 + l.lag.getD ((l.pos + 31) % 55) 0
  (y, { lag := l.lag.set l.pos y, pos := (l.pos + 1) % 55 })

/-- The seeding of lane `l` (R194). -/
def laneSeed (seed : W64) (l : Nat) : LaneTab :=
  let base : W32 := seed.setWidth 32 ^^^ (seed >>> 32).setWidth 32
  let x0 : W32 := base + BitVec.ofNat 32 (l * 0x9E3779B9)
  let go := iter (fun _ (p : W32 × List W32) => let x := p.1 * 69069#32 + 1#32; (x, x :: p.2)) 55 (x0, [])
  { lag := go.2.reverse, pos := 0 }

/-- The position after one word of a consumption order: the next word of the segment, or word 0 of the next one. Past the
last segment the words of one more segment without end follow (DEDUCED). -/
def segNext (segs : List (Nat × Nat)) (cur : Nat × Nat) : Nat × Nat :=
  match segs[cur.1]? with
  | some g => if g.2 ≤ cur.2 + 1 then (cur.1 + 1, 0) else (cur.1, cur.2 + 1)
  | none => (cur.1, cur.2 + 1)

/-- The position of the next word: empty segments give none. -/
def segSkip (segs : List (Nat × Nat)) : Nat → Nat × Nat → Nat × Nat
  | 0, cur => cur
  | n + 1, cur =>
    match segs[cur.1]? with
    | some g => if g.2 ≤ cur.2 then segSkip segs n (cur.1 + 1, 0) else cur
    | none => cur

/-- `n` words in segment order: word j of a segment is the next word of lane j mod 32 (R195). -/
def laneWords (segs : List (Nat × Nat)) : Nat → Nat × Nat → List LaneTab → List W32 × (Nat × Nat) × List LaneTab
  | 0, cur, ls => ([], cur, ls)
  | n + 1, cur, ls =>
    let cur := segSkip segs segs.length cur
    let d := laneDraw (ls.getD (cur.2 % 32) { lag := [], pos := 0 })
    let r := laneWords segs n (segNext segs cur) (ls.set (cur.2 % 32) d.2)
    (d.1 :: r.1, r.2)

/-- A lane table in 224 bytes (Table 9.5). -/
def laneBytes (l : LaneTab) : List Byte := (l.lag.map (fun w => le 4 w.toNat)).flatten ++ le 1 l.pos ++ zeros 3

/-- A lane table from 224 bytes. -/
def laneOf (bs : List Byte) : LaneTab :=
  { lag := (List.range 55).map (fun i => BitVec.ofNat 32 (fld bs (4 * i) 4)), pos := fld bs 220 1 }

/-! ### Draw forms (Table 9.3) -/

/-- Sample: u = (r >> 8) · 2^-24, exact. -/
def drawU (r : W32) : W32 := dyFp32 { m := ((r >>> 8).toNat : Int), e := -24 } false

/-- Drop: 1 where the element is dropped. DEDUCED: the result of a drop draw is this bit as a word. -/
def drawDrop (tDrop : W32) (r : W32) : W32 := if r < tDrop then 1 else 0

/-- Init: rn32(a · (2·(r >> 8) + 1 − 2^24) · 2^-24), a finite. -/
def drawInit (a : W32) (r : W32) : W32 :=
  let k : Int := 2 * ((r >>> 8).toNat : Int) + 1 - 16777216
  if fpIsNan a then fpQuiet a
  else if fpIsInf a then fpSigned (fpSign a != decide (k < 0)) 0x7F800000
  else dyFp32 (dyMul (fpDy a) { m := k, e := -24 }) (fpSign a != decide (k < 0))

/-- Dither: the numerator over 2^8 of the triangular dither, in LSB of the target code. -/
def drawDither (r : W32) : Int := ((r >>> 24).toNat : Int) - (((r >>> 16) &&& 0xFF#32).toNat : Int)

end Sys2Proof.Machine
end

