-- ==== Sys2Proof/Machine/Sampler.lean ====
section
/-!
DEFINITION. Sys2Proof/Machine/Sampler.lean: the token sampler (R165 to R167) and the mark decoder (R174, R176, R177) as
functions of one slot's data.
-/
namespace Sys2Proof.Machine

open Sys2Proof

/-- `a` ranks before `b` in the ranking of R166: larger value first, then lower code. -/
def ranksBefore (a b : Nat × W32) : Bool :=
  decide (fpKey b.2 < fpKey a.2) || (decide (fpKey a.2 = fpKey b.2) && decide (a.1 < b.1))

/-- The code that ranks first of a non-empty list. -/
def rankFirst (l : List (Nat × W32)) : Option (Nat × W32) :=
  match l with
  | [] => none
  | x :: rest =>
    match rankFirst rest with
    | none => some x
    | some y => if ranksBefore x y then some x else some y

/-- The codes of ranks 0 to `kk - 1`. -/
def rankTop : Nat → List (Nat × W32) → List Nat
  | 0, _ => []
  | kk + 1, l =>
    match rankFirst l with
    | none => []
    | some x => x.1 :: rankTop kk (l.filter (fun y => y.1 ≠ x.1))

/-- What one draw gives: the code, the saturation count, whether the random word was used, and whether the top-p cut
dropped a candidate. -/
structure DrawOut where
  code : Nat
  sat : Nat
  used : Bool
  cut : Bool
  deriving DecidableEq, Repr

/-- Running fp32 sums in order (R165). -/
def cumSums (c : W32) : List W32 → List W32
  | [] => []
  | e :: rest => let d := fadd c e; d :: cumSums d rest

/-- The sampler of R165 for one slot and one codebook. -/
def sampleCode (cb : Codebook) (logits : List W32) (r : W32) : DrawOut :=
  let x := logits.map (fun v => if fpIsNan v then fpNegInf else v)
  let nans := (logits.filter fpIsNan).length
  if fpIsZero cb.invTemp then
    { code := ((rankFirst (x.mapIdx (fun i v => (i, v)))).map Prod.fst).getD 0, sat := nans, used := false, cut := false }
  else
    let z := x.map (fun v => fmul v cb.invTemp)
    let m := maxW z
    if m = fpNegInf then { code := 0, sat := nans + 1, used := false, cut := false }
    else
      let kk := min cb.topK z.length
      let cand := rankTop kk (z.mapIdx (fun i v => (i, v)))
      let e := z.map (softExp m)
      let sAll := sumW e
      let ce := cand.map (fun c => e.getD c 0)
      let cum := cumSums 0 ce
      let tp := fmul cb.topP sAll
      let np := min kk ((cum.takeWhile (fun c => !fcmp 5 c tp)).length + 1)
      let t := fmul (drawU r) (cum.getD (np - 1) 0)
      let jz := ((List.range np).filter (fun j => fcmp 4 (ce.getD j 0) 0)).getLast?.getD 0
      let j := ((List.range np).find? (fun j => fcmp 4 (cum.getD j 0) t)).getD jz
      { code := cand.getD j 0, sat := nans, used := true, cut := decide (np < kk) }

/-- The onset offset `q_star` of R174 and the fallback flag. `scores` holds sc[−P] to sc[P − 1]; `cPrev` is the previous
token's repeat count, `none` for token 0. -/
def markOnset (mp : MarkParams) (scores : List W32) (cPrev : Option Nat) (c : Nat) : Int × Bool :=
  if mp.h = 0 then (0, false)
  else
    let lo : Int := match cPrev with
      | none => 0
      | some k => max (-(mp.h : Int)) (-(((k * mp.p) / 2 : Nat) : Int))
    let hi : Int := min ((mp.h : Int) - 1) ((((c * mp.p + 1) / 2 : Nat) : Int) - 1)
    let sc (q : Int) : W32 :=
      let v := scores.getD (q + (mp.p : Int)).toNat fpNegInf
      if fpIsNan v then fpNegInf else v
    let qs := (List.range (hi - lo + 1).toNat).map (fun (i : Nat) => lo + (i : Int))
    if qs.all (fun q => decide (sc q = fpNegInf)) then (0, true)
    else
      let best := qs.foldl (fun b q => if fpKey (sc b) < fpKey (sc q) then q else b) lo
      (best, false)

/-- A mark record (Table 8.3). -/
def markBytes (sample : Nat) (token kind : Nat) (fallback : Bool) (code : Nat) : List Byte :=
  le 8 sample ++ le 4 token ++ le 1 kind ++ le 1 (b2n fallback) ++ le 2 code

/-- The repeat-count walk of R123 from a cursor: the row delivered, the new cursor, and `utterance_end`. `fuel` bounds the
tokens skipped. -/
def repeatWalk (counts : Nat → Nat) (nTok : Nat) : Nat → Nat → Nat → Nat × Nat × Nat × Bool
  | 0, tok, rep => (tok, tok, rep, false)
  | fuel + 1, tok, rep =>
    if tok < nTok then
      (if counts tok ≤ rep then repeatWalk counts nTok fuel (tok + 1) 0 else (tok, tok, rep + 1, false))
    else (nTok - 1, tok, rep, true)

end Sys2Proof.Machine
end

