-- ==== Sys2Proof/Machine/Stream.lean ====
section
/-!
DEFINITION. Sys2Proof/Machine/Stream.lean: the 64-byte commands of a core's stream (R233, R267, Tables 11.1 and 11.15): their
bytes, and the command that bytes spell.
-/
namespace Sys2Proof.Machine

open Sys2Proof

/-- Executing unit and opcode of a command (Tables 11.1 and 11.15). -/
def opKey (op : CoreOp) : Nat × Nat :=
  match op with
  | .nop => (0, 0)
  | .slotLoop _ => (0, 1)
  | .descWrite _ _ => (0, 2)
  | .ringWrite _ _ => (0, 3)
  | .matmul _ => (1, 1)
  | .diag _ => (1, 2)
  | .winoOut _ => (1, 3)
  | .carry _ => (1, 4)
  | .element _ => (2, 1)
  | .convert _ => (2, 2)
  | .func _ => (2, 3)
  | .reduce _ => (2, 4)
  | .softmax _ => (2, 5)
  | .quant _ => (2, 6)
  | .rescale _ => (2, 7)
  | .gate _ => (2, 8)
  | .hadamard _ => (2, 9)
  | .upsample _ => (2, 10)
  | .sample _ => (3, 1)
  | .mark _ => (4, 1)
  | .arm o => (5 + o.engine.val, 1)
  | .restore _ => (7, 1)
  | .save _ => (7, 2)
  | .spill _ => (7, 3)
  | .unspill _ => (7, 4)
  | .compatLoad _ => (8, 1)
  | .compatSave _ => (8, 2)
  | .draw _ => (8, 3)

/-- Executing unit of a command. -/
def opUnit (op : CoreOp) : Nat := (opKey op).1

/-! ### Operands from offset 16 -/

/-- MATMUL and DIAG. -/
def arrBytes (o : ArrOps) : List Byte :=
  le 2 o.mFixed.toNat ++ le 2 o.mPerSlot.toNat ++ le 2 o.k.toNat ++ le 2 o.n.toNat ++ le 1 o.cellMode.toNat ++
    le 1 o.arrFlags.toNat ++ le 2 o.accBase.toNat ++ le 2 o.walkA.toNat ++ le 2 o.walkB.toNat ++ le 2 o.walkW.toNat ++
    le 1 o.winoPos.toNat ++ le 1 o.winoForm.toNat

/-- Every vector-engine command. -/
def vecBytes (o : VecOps) : List Byte :=
  le 1 o.subOp.toNat ++ le 1 o.fmt.toNat ++ le 1 o.vecFlags.toNat ++ zeros 1 ++ le 4 o.lenFixed.toNat ++
    le 4 o.lenPerSlot.toNat ++ le 4 o.src0.toNat ++ le 4 o.src1.toNat ++ le 4 o.src2.toNat ++ le 4 o.dst.toNat ++
    le 2 o.tensorId.toNat ++ zeros 2 ++ le 4 o.elemBase.toNat ++ le 4 o.param0.toNat ++ le 4 o.param1.toNat ++
    le 4 o.slotStep.toNat

/-- RESTORE and SAVE. -/
def srBytes (o : SrOps) : List Byte :=
  le 2 o.component.toNat ++ le 1 o.srFlags.toNat ++ zeros 1 ++ le 4 o.spad.toNat ++ le 2 o.accBase.toNat ++ zeros 2 ++
    le 4 o.firstElem.toNat ++ le 4 o.elements.toNat ++ le 4 o.elemStep.toNat

/-- Operand bytes of a command that Table 11.15 names, from offset 16 on. -/
def opBytes (op : CoreOp) : List Byte :=
  match op with
  | .nop => []
  | .slotLoop n => le 2 n.toNat
  | .descWrite d a => le 1 d.toNat ++ zeros 3 ++ le 4 a.toNat
  | .ringWrite r a => le 1 r.toNat ++ zeros 3 ++ le 4 a.toNat
  | .matmul o | .diag o => arrBytes o
  | .winoOut o => le 2 o.accBase.toNat ++ le 2 o.tilesFixed.toNat ++ le 2 o.tilesPerSlot.toNat ++ le 1 o.winoForm.toNat
  | .carry o =>
    le 2 o.start.toNat ++ le 2 o.len.toNat ++ le 1 o.streams.toNat ++ le 1 o.carryFlags.toNat ++ le 2 o.streamStep.toNat ++
      le 2 o.samples.toNat
  | .element o | .convert o | .func o | .reduce o | .softmax o | .quant o | .rescale o | .gate o | .hadamard o
  | .upsample o => vecBytes o
  | .sample o =>
    le 1 o.codebook.toNat ++ le 1 o.sFixed.toNat ++ le 1 o.sPerSlot.toNat ++ zeros 1 ++ le 2 o.vocab.toNat ++ zeros 2 ++
      le 4 o.logits.toNat ++ le 4 o.rowStride.toNat ++ le 4 o.dst.toNat
  | .mark o =>
    le 1 o.sFixed.toNat ++ le 1 o.sPerSlot.toNat ++ zeros 2 ++ le 4 o.scores.toNat ++ le 4 o.rowStride.toNat ++
      le 4 o.counts.toNat ++ le 4 o.countsStride.toNat ++ le 4 o.dst.toNat
  | .arm o => le 1 o.desc.toNat ++ le 1 o.armFlags.toNat ++ zeros 2 ++ le 4 o.srcSlotStep.toNat ++ le 4 o.dstSlotStep.toNat
  | .restore o | .save o | .spill o | .unspill o => srBytes o
  | .compatLoad a | .compatSave a => zeros 4 ++ le 4 a.toNat
  | .draw o =>
    le 1 o.purpose.toNat ++ zeros 1 ++ le 2 o.tensorId.toNat ++ le 4 o.elemBase.toNat ++ le 4 o.count.toNat ++
      le 4 o.dst.toNat ++ le 4 o.drawParam.toNat

/-- The 16-byte header of a command (Table 11.1). -/
def hdrBytes (h : CmdHdr) (op : CoreOp) : List Byte :=
  le 1 (opKey op).2 ++ le 1 (opKey op).1 ++ le 1 h.flags.toNat ++ le 1 h.waitSem.toNat ++ le 2 h.waitCount.toNat ++
    le 1 h.postSem.toNat ++ le 1 h.postCore.toNat ++ le 2 h.postCount.toNat ++ zeros 2 ++ le 4 h.deadline.toNat

/-- The 64 bytes of a command, every byte that no table names zero. -/
def cmdBytes (h : CmdHdr) (op : CoreOp) : List Byte :=
  hdrBytes h op ++ opBytes op ++ zeros (48 - (opBytes op).length)

/-! ### The command that bytes spell -/

/-- A field of `w` bits. -/
def fieldOf (w : Nat) (bs : List Byte) (a n : Nat) : BitVec w := BitVec.ofNat w (fld bs a n)

/-- MATMUL and DIAG operands. -/
def arrOf (b : List Byte) : ArrOps :=
  { mFixed := fieldOf 16 b 16 2, mPerSlot := fieldOf 16 b 18 2, k := fieldOf 16 b 20 2, n := fieldOf 16 b 22 2
    cellMode := fieldOf 8 b 24 1, arrFlags := fieldOf 8 b 25 1, accBase := fieldOf 16 b 26 2, walkA := fieldOf 16 b 28 2
    walkB := fieldOf 16 b 30 2, walkW := fieldOf 16 b 32 2, winoPos := fieldOf 8 b 34 1, winoForm := fieldOf 8 b 35 1 }

/-- Operands of a vector-engine command. -/
def vecOf (b : List Byte) : VecOps :=
  { subOp := fieldOf 8 b 16 1, fmt := fieldOf 8 b 17 1, vecFlags := fieldOf 8 b 18 1, lenFixed := fieldOf 32 b 20 4
    lenPerSlot := fieldOf 32 b 24 4, src0 := fieldOf 32 b 28 4, src1 := fieldOf 32 b 32 4, src2 := fieldOf 32 b 36 4
    dst := fieldOf 32 b 40 4, tensorId := fieldOf 16 b 44 2, elemBase := fieldOf 32 b 48 4, param0 := fieldOf 32 b 52 4
    param1 := fieldOf 32 b 56 4, slotStep := fieldOf 32 b 60 4 }

/-- Operands of a save/restore command. -/
def srOf (b : List Byte) : SrOps :=
  { component := fieldOf 16 b 16 2, srFlags := fieldOf 8 b 18 1, spad := fieldOf 32 b 20 4, accBase := fieldOf 16 b 24 2
    firstElem := fieldOf 32 b 28 4, elements := fieldOf 32 b 32 4, elemStep := fieldOf 32 b 36 4 }

/-- ARM operands. -/
def armOf (e : Fin 2) (b : List Byte) : ArmOps :=
  { engine := e, desc := fieldOf 8 b 16 1, armFlags := fieldOf 8 b 17 1, srcSlotStep := fieldOf 32 b 20 4
    dstSlotStep := fieldOf 32 b 24 4 }

/-- The operation that a unit, an opcode and the operand bytes spell; `none` for a pair that Table 11.15 does not list. -/
def opOf (b : List Byte) : Option CoreOp :=
  match fld b 1 1, fld b 0 1 with
  | 0, 0 => some .nop
  | 0, 1 => some (.slotLoop (fieldOf 16 b 16 2))
  | 0, 2 => some (.descWrite (fieldOf 8 b 16 1) (fieldOf 32 b 20 4))
  | 0, 3 => some (.ringWrite (fieldOf 8 b 16 1) (fieldOf 32 b 20 4))
  | 1, 1 => some (.matmul (arrOf b))
  | 1, 2 => some (.diag (arrOf b))
  | 1, 3 => some (.winoOut { accBase := fieldOf 16 b 16 2, tilesFixed := fieldOf 16 b 18 2, tilesPerSlot := fieldOf 16 b 20 2
                             winoForm := fieldOf 8 b 22 1 })
  | 1, 4 => some (.carry { start := fieldOf 16 b 16 2, len := fieldOf 16 b 18 2, streams := fieldOf 8 b 20 1
                           carryFlags := fieldOf 8 b 21 1, streamStep := fieldOf 16 b 22 2, samples := fieldOf 16 b 24 2 })
  | 2, 1 => some (.element (vecOf b))
  | 2, 2 => some (.convert (vecOf b))
  | 2, 3 => some (.func (vecOf b))
  | 2, 4 => some (.reduce (vecOf b))
  | 2, 5 => some (.softmax (vecOf b))
  | 2, 6 => some (.quant (vecOf b))
  | 2, 7 => some (.rescale (vecOf b))
  | 2, 8 => some (.gate (vecOf b))
  | 2, 9 => some (.hadamard (vecOf b))
  | 2, 10 => some (.upsample (vecOf b))
  | 3, 1 => some (.sample { codebook := fieldOf 8 b 16 1, sFixed := fieldOf 8 b 17 1, sPerSlot := fieldOf 8 b 18 1
                            vocab := fieldOf 16 b 20 2, logits := fieldOf 32 b 24 4, rowStride := fieldOf 32 b 28 4
                            dst := fieldOf 32 b 32 4 })
  | 4, 1 => some (.mark { sFixed := fieldOf 8 b 16 1, sPerSlot := fieldOf 8 b 17 1, scores := fieldOf 32 b 20 4
                          rowStride := fieldOf 32 b 24 4, counts := fieldOf 32 b 28 4, countsStride := fieldOf 32 b 32 4
                          dst := fieldOf 32 b 36 4 })
  | 5, 1 => some (.arm (armOf 0 b))
  | 6, 1 => some (.arm (armOf 1 b))
  | 7, 1 => some (.restore (srOf b))
  | 7, 2 => some (.save (srOf b))
  | 7, 3 => some (.spill (srOf b))
  | 7, 4 => some (.unspill (srOf b))
  | 8, 1 => some (.compatLoad (fieldOf 32 b 20 4))
  | 8, 2 => some (.compatSave (fieldOf 32 b 20 4))
  | 8, 3 => some (.draw { purpose := fieldOf 8 b 16 1, tensorId := fieldOf 16 b 18 2, elemBase := fieldOf 32 b 20 4
                          count := fieldOf 32 b 24 4, dst := fieldOf 32 b 28 4, drawParam := fieldOf 32 b 32 4 })
  | _, _ => none

/-- The header that bytes spell; a reserved byte is one that the bytes of the same command do not have (R267). -/
def hdrOf (b : List Byte) (op : CoreOp) : CmdHdr :=
  let h : CmdHdr :=
    { flags := fieldOf 8 b 2 1, waitSem := fieldOf 8 b 3 1, waitCount := fieldOf 16 b 4 2, postSem := fieldOf 8 b 6 1
      postCore := fieldOf 8 b 7 1, postCount := fieldOf 16 b 8 2, deadline := fieldOf 32 b 12 4, rsvd := false }
  { h with rsvd := decide (cmdBytes h op ≠ b) }

/-- The command that 64 bytes spell (R233, R267). -/
def cmdOf (b : List Byte) : Option (CmdHdr × CoreOp) := (opOf b).map (fun op => (hdrOf b op, op))

/-- Bytes of command `i` of a stream. -/
def streamCmd (stream : List Byte) (i : Nat) : List Byte := cut stream (64 * i) 64

end Sys2Proof.Machine
end

