-- ==== Sys2Proof/Machine/CoreBase.lean ====
section
/-!
DEFINITION. Sys2Proof/Machine/CoreBase.lean: what every command of a core uses: the core's record, its scratchpad and
accumulators, bay addresses and the ridge cache, the slot it serves, and its random words (spec/04, spec/09 to spec/11).
-/
namespace Sys2Proof.Machine

open Sys2Proof

/-! ### Cores -/

/-- A unit of a core with nothing to do. -/
def unitQD : UnitQ := { queue := [], busy := none, last := { status := 0, sat := 0, degen := 0, coarse := false } }

/-- A ring descriptor before any plan declares it. -/
def ringD : RingDesc :=
  { base := 0, slotBytes := 0, slots := 0, flags := 0, fillSem := 0, roomSem := 0, producerIdx := 0, consumerIdx := 0
    head := 0, tail := 0 }

/-- A DMA descriptor before any plan declares it. -/
def descD : DmaDesc :=
  { srcKind := 0, dstKind := 0, ring := 0, flags := 0, rowBytes := 0, src := 0, dst := 0, rows := 0, srcStride := 0
    dstStride := 0, sessionRing := 0, slot := 0 }

/-- A descriptor no engine owns. -/
def dmaD : DmaSlot := { active := none, waiting := none, collided := none }

/-- A core at reset and with no plan: scratchpad and accumulators zero (R77, R229), the generator in coarse mode until its
self-test passes (R197). -/
def coreD : Core :=
  { spad := [], acc := [], sRes := 0, sems := [], rings := [], descs := [], dma := [], units := [], window := []
    loop := none, stepEnded := false, fetchIndex := 0
    prog := { walks := [], consts := [], wCycles := 0, spillBytes := 0, leadIdx := 0, commitSem := 0, stream := [], initSems := [], initRings := [], initDescs := [] }
    ctx := none, carryA := [], carryU := [], carryOut := [], rescaleOut := [], carryRun := none
    tileActive := [], tileShadow := [], wino := none
    rng := { coarse := true, tables := [], fills := [], lanes := [], cursor := [] }, gated := false, counters := [] }

/-- A core. -/
def coreOf (s : State) (c : Nat) : Core := tget coreD s.cores c
/-- Stores a core. -/
def setCore (s : State) (c : Nat) (x : Core) : State := { s with cores := tput coreD s.cores c x }
/-- Changes a core. -/
def modCore (s : State) (c : Nat) (f : Core → Core) : State := setCore s c (f (coreOf s c))

/-- Counters of a core (Tables 4.5, 5.7, 8.4, 9.9, 10.5 and 11.9, and the totals of R64), in the order of Table 21.8. -/
inductive CoreCnt where
  | satTotal
  | degenTotal
  | arrayPassCount
  | arrayStreamCycles
  | skipGroups
  | carryCycles
  | accBankWaits
  | vecBusyCycles
  | fuEvals
  | hadamardBlocks
  | rescaleElements
  | srSlowCycles
  | sampleDraws
  | greedyDraws
  | toppCuts
  | marksMade
  | markFallbacks
  | rngNativeWords
  | rngCompatWords
  | rngBlockFills
  | rngCoarseWords
  | rngParityErrors
  | spadBankWaits
  | spadCorrected
  | cmdsDispatched
  | battenStallCycles
  | queueFullCycles
  | semWaitCycles
  | dmaBytes
  | pendingArms
  deriving DecidableEq, Repr

/-- Position of a counter in `Core.counters`. -/
def CoreCnt.key (c : CoreCnt) : Nat := c.ctorIdx

/-- Width of a counter in bits (R503). -/
def CoreCnt.width : CoreCnt → Nat
  | .accBankWaits | .satTotal | .degenTotal | .srSlowCycles | .markFallbacks | .queueFullCycles | .pendingArms
  | .rngParityErrors | .spadBankWaits | .spadCorrected => 32
  | .dmaBytes => 64
  | _ => 48

/-- Advances a counter of a core. -/
def coreAdd (k : CoreCnt) (n : Nat) (x : Core) : Core := { x with counters := cntAdd x.counters k.key k.width n }

/-- A unit's queue. -/
def unitQ (x : Core) (u : Nat) : UnitQ := tget unitQD x.units u
/-- Stores a unit's queue. -/
def setUnitQ (x : Core) (u : Nat) (q : UnitQ) : Core := { x with units := tput unitQD x.units u q }

/-! ### Scratchpad and accumulators -/

/-- `n` bytes at a scratchpad address lie inside the 3 MiB (R227). -/
def spadIn (a : Int) (n : Nat) : Bool := decide (0 ≤ a) && decide (a + n ≤ (Config.spadBytes : Int))

/-- Scratchpad read; source 0x0112 beyond the 3 MiB (R246). -/
def spadRead (x : Core) (a : Int) (n : Nat) : Try (List Byte) :=
  if n = 0 ∨ spadIn a n then .ok (mread 0 x.spad a.toNat n) else .error 0x0112

/-- Scratchpad write. -/
def spadWrite (x : Core) (a : Int) (bs : List Byte) : Try Core :=
  if bs = [] ∨ spadIn a bs.length then .ok { x with spad := mwrite 0 x.spad a.toNat bs } else .error 0x0112

/-- Little-endian words of `k` bytes from bytes. -/
def toWords (k : Nat) : Nat → List Byte → List Nat
  | 0, _ => []
  | n + 1, bs => leNat (bs.take k) :: toWords k n (bs.drop k)

/-- `n` numbers of `k` bytes from the scratchpad. -/
def spadWords (x : Core) (a : Int) (k n : Nat) : Try (List Nat) :=
  match spadRead x a (k * n) with
  | .error e => .error e
  | .ok bs => .ok (toWords k n bs)

/-- `n` fp32 values from the scratchpad. -/
def spadFp (x : Core) (a : Int) (n : Nat) : Try (List W32) :=
  match spadWords x a 4 n with
  | .error e => .error e
  | .ok l => .ok (l.map (BitVec.ofNat 32))

/-- Numbers as bytes, `k` each. -/
def wordBytes (k : Nat) (l : List Nat) : List Byte := (l.map (le k)).flatten

/-- An accumulator. -/
def accGet (x : Core) (i : Nat) : Acc := tget 0 x.acc i
/-- Writes an accumulator. -/
def accPut (x : Core) (i : Nat) (v : Acc) : Core := { x with acc := tput 0 x.acc i v }

/-! ### The step a core works for -/

/-- Cores of a work group of a bay in index order: its own running cores (R255, R274), or a borrowed group's (R287). -/
def groupCores (s : State) (b gid : Nat) : List Nat :=
  match tfind s.bays b with
  | none => []
  | some bay =>
    if gid = 0 then
      let ok := (maskBits 64 bay.attr.coreMask).filter (fun c => !fenced s (uCore c))
      let n := (maskBits 64 bay.attr.coreMask).length - bay.variant.getD 0
      ok.take n
    else ((bay.groups.find? (fun g => g.gid = gid)).map (fun g => g.cores)).getD []

/-- Working state of a slot of a core's step. -/
def slotWork (s : State) (x : Core) (slot : Nat) : Option SlotWork :=
  match x.ctx with
  | none => none
  | some k =>
    match tfind s.yealms k.yealm with
    | none => none
    | some y => tfind y.work slot

/-- Stores the working state of a slot of a core's step. -/
def setSlotWork (s : State) (x : Core) (slot : Nat) (w : SlotWork) : State :=
  match x.ctx with
  | none => s
  | some k => { s with yealms := tmod s.yealms k.yealm (fun y => { y with work := tins y.work slot w }) }

/-- Slot count of a core's step (R265). -/
def nSlotsOf (x : Core) : Nat := (x.ctx.map (fun k => k.nSlots)).getD 0

/-- fixed + per_slot × n_slots (R265). -/
def slotCount (x : Core) (fixed perSlot : Nat) : Nat := fixed + perSlot * nSlotsOf x

/-! ### Random words (R44, R169, R184 to R199) -/

/-- Seed and step of a slot: the session's, or the job's while an enrolment job runs (Table 9.1, R377). -/
def slotSeed (s : State) (x : Core) (slot : Nat) : W64 × Nat :=
  match slotWork s x slot with
  | none => (Config.emptySeed s.fresh, 0)
  | some w =>
    match tfind s.sessions w.session with
    | none => (Config.emptySeed s.fresh, w.step0)
    | some ss =>
      match ss.job with
      | some j => (j.seed, j.iteration)
      | none => (ss.seed, w.step0)

/-- The slot's session draws in compatibility mode (R192). -/
def slotCompat (s : State) (x : Core) (slot : Nat) : Bool :=
  match slotWork s x slot with
  | none => false
  | some w => ((tfind s.sessions w.session).map (fun ss => ss.compat)).getD false

/-- The build whose plan a core runs. -/
def coreBuild (s : State) (x : Core) : Option Build :=
  match x.ctx with
  | none => none
  | some k =>
    match tfind s.yealms k.yealm with
    | none => none
    | some y => buildOf s y.build

/-- The EB-320 consumption order of the build a core runs (R195): purpose and element count of each segment. -/
def slotSegments (s : State) (x : Core) : List (Nat × Nat) :=
  match coreBuild s x with
  | none => []
  | some b => (b.desc.eb320.map (fun e => e.segments)).getD []

/-- Words of elements `first` to `first + n - 1` for a slot, with the core after the draw; the Bool says that a coarse
word at a position of 55 or more was taken (R199). Source 0x010C for an element beyond 2^32 − 1 or a compatibility slot
without lane tables (R202). -/
def drawWords (s : State) (x : Core) (slot purpose : Nat) (tensor : W16) (first n : Nat) :
    Try (List W32 × Core × Bool) :=
  let sd := slotSeed s x slot
  let t : RngTuple := { seed := sd.1, purpose := purpose, tensor := tensor, step := sd.2 }
  if n = 0 then .ok ([], x, false)
  else if 4294967296 < first + n then .error 0x010C
  else if x.rng.coarse then
    .ok ((List.range n).map (fun i => coarseWord t (first + i)), coreAdd .rngCoarseWords n x,
      (List.range n).any (fun i => decide (55 ≤ (first + i) % 256)))
  else if slotCompat s x slot then
    match tfind x.rng.lanes slot with
    | none => .error 0x010C
    | some ls =>
      let r := laneWords (slotSegments s x) n (tget (0, 0) x.rng.cursor slot) ls
      .ok (r.1, coreAdd .rngCompatWords n { x with rng := { x.rng with
        lanes := tins x.rng.lanes slot r.2.2, cursor := tput (0, 0) x.rng.cursor slot r.2.1 } }, false)
  else .ok (nativeWords t (n / 256 + 2) first n, coreAdd .rngNativeWords n x, false)

/-- Rounding modes of `n` elements of a command: deterministic, or stochastic with each element's word (R42 to R45). -/
def roundModes (s : State) (x : Core) (slot : Nat) (stoch : Bool) (tensor : W16) (first n : Nat) :
    Try (List RMode × Core) :=
  if ¬ stoch then .ok (List.replicate n .det, x)
  else
    match drawWords s x slot 1 tensor first n with
    | .error e => .error e
    | .ok (ws, y, _) => .ok (ws.map (fun w => if x.rng.coarse then .coarse (w.getLsbD 31) else .stoch w), y)

/-- What the table store holds once every fill still owed is made: 64 tables, the oldest giving way (R190). -/
def storeAfter (x : Core) (more : List BlockTable) : List BlockTable :=
  let l := x.rng.tables ++ x.rng.fills.map (fun f => f.table) ++ more
  l.drop (l.length - 64)

/-- Block tables that a random-consuming command lets the mixer fill (R190): in order, each that the store will not hold
when the mixer comes to it. -/
def missing (x : Core) (got need : List BlockTable) : List BlockTable :=
  need.foldl (fun got b => if (storeAfter x got).contains b then got else got ++ [b]) got

/-- Block tables that a random-consuming command reads, in order. -/
def needTables (s : State) (x : Core) (slot purpose : Nat) (tensor : W16) (first n : Nat) : List BlockTable :=
  let sd := slotSeed s x slot
  let t : RngTuple := { seed := sd.1, purpose := purpose, tensor := tensor, step := sd.2 }
  if n = 0 ∨ slotCompat s x slot ∨ x.rng.coarse then []
  else
    (List.range ((first + n - 1) / 256 - first / 256 + 1)).map (fun i =>
      { seed := sd.1, purpose := purpose, tensor := tensor, step := sd.2, block := first / 256 + i
        words := blockTable t (first / 256 + i) })

end Sys2Proof.Machine
end

