-- ==== Sys2Proof/Machine/Walk.lean ====
section
/-!
DEFINITION. Sys2Proof/Machine/Walk.lean: the address generators (R117 to R124, R135, R266): which element every operand of
a walk comes from.
-/
namespace Sys2Proof.Machine

open Sys2Proof

/-- Loop count after R265: 0xFFFF_FFFF takes n_slots. -/
def walkCount (n : Nat) (w : WalkDesc) (i : Nat) : Nat :=
  let c := w.counts.getD i 0
  if c = 0xFFFFFFFF then n else c

/-- The loop counts of a walk, loop 0 first. -/
def walkCounts (n : Nat) (w : WalkDesc) : List Nat := (List.range w.loops).map (walkCount n w)

/-- Windowed groups in use, innermost loop first. -/
def walkWins (w : WalkDesc) : List Win :=
  let l := [w.win0, w.win1].filter (fun g => g.loop ≠ 0xFF)
  match l with
  | [a, b] => if b.loop < a.loop then [b, a] else [a, b]
  | l => l

/-- Field limits of a windowed group (Table 6.4). -/
def winOk (w : WalkDesc) (g : Win) : Bool :=
  decide (g.loop < w.loops) && decide (1 ≤ g.taps) && decide (1 ≤ g.dil) && decide (1 ≤ g.stride) &&
    decide (g.padMode ≤ 2) && decide (1 ≤ g.inDil) && decide (g.inDil ≤ 16)

/-- L′ of R118. -/
def winL (g : Win) : Nat := (g.len - 1) * g.inDil + 1

/-- Output length n of R118. -/
def winN (g : Win) : Int :=
  fdiv ((winL g : Int) + g.hist + g.padLo + g.padHi - (g.dil : Int) * ((g.taps : Int) - 1) - 1) g.stride + 1

/-- Limits of a walk by its mode (Table 6.4, R126). -/
def walkModeOk (w : WalkDesc) : Bool :=
  let ws := walkWins w
  match w.mode with
  | 0 => decide (ws = [])
  | 2 => decide (ws = [])
  | 3 => decide (ws.length = 1) && ws.all (fun g => decide (g.stride = 1) && decide (g.dil = 1) && decide (g.taps ≤ 32))
  | 4 => decide (1 ≤ ws.length) && ws.all (fun g => decide (g.stride = 1) && decide (g.dil = 1) && decide (g.taps = 3) &&
      decide (g.outLo % 2 = 0) && (decide (g.outHi % 2 = 0) || decide ((g.outHi : Int) = winN g)))
  | 5 => decide (ws = []) && decide (2 ≤ w.upFactor) && decide (w.upFactor ≤ 8)
  | _ => true

/-- The checks of R135 and R267 on a walk: source 0x0117 for a reserved field, 0x0107 for a limit of Table 6.4. -/
def walkOk (n : Nat) (w : WalkDesc) : Try Unit :=
  if w.rsvd ∨ 5 < w.mode ∨ 2 ≤ w.flags ∨ ¬ (w.elemBytes = 1 ∨ w.elemBytes = 2 ∨ w.elemBytes = 4) then .error 0x0117
  else if w.loops < 1 ∨ 5 < w.loops ∨ (walkCounts n w).any (fun c => decide (65536 < c)) ∨
      (walkWins w).any (fun g => !winOk w g) ∨
      (w.win0.loop = w.win1.loop ∧ w.win0.loop ≠ 0xFF) ∨ ¬ walkModeOk w then .error 0x0107
  else .ok ()

/-- Number of outputs that a windowed loop computes (R118). -/
def winOuts (g : Win) : Nat := if g.len = 0 then 0 else (min (g.outHi : Int) (winN g) - (g.outLo : Int)).toNat

/-- Where a tap of a windowed loop reads (R119). -/
inductive TapSrc where
  | hist (row : Nat)
  | elem (i : Nat)
  | pad
  | zero
  deriving DecidableEq, Repr

/-- Folding of a padding position (R119). -/
def padFold (g : Win) (e : Int) : Int :=
  let l : Int := winL g
  if g.padMode = 1 then min (max e 0) (l - 1)
  else if l = 1 then 0
  else
    let per := 2 * (l - 1)
    let m := fmod e per
    if l ≤ m then per - m else m

/-- The source of position `e` of the dilated input (R119). History rows between undilated elements deliver
`zero_code` (R122). -/
def tapSrc (g : Win) (e : Int) : TapSrc :=
  let l : Int := winL g
  let input (e : Int) : TapSrc := if fmod e g.inDil = 0 then .elem (fdiv e g.inDil).toNat else .zero
  if -(g.hist : Int) ≤ e ∧ e < 0 then
    (let row := (e + (g.hist : Int)).toNat; if row % g.inDil = 0 then .hist row else .zero)
  else if e < -(g.hist : Int) ∨ l ≤ e then (if g.padMode = 0 then .pad else input (padFold g e))
  else input e

/-- Position read by output p at tap k (R119). -/
def tapPos (g : Win) (p k : Nat) : Int := (p * g.stride + k * g.dil : Nat) - (g.padLo : Int) - (g.hist : Int)

/-- Mixed-radix digits of a number, first radix innermost. -/
def digits : List Nat → Nat → List Nat
  | [], _ => []
  | c :: rest, e => (if c = 0 then 0 else e % c) :: digits rest (if c = 0 then 0 else e / c)

/-- Product of counts. -/
def prodL (l : List Nat) : Nat := l.foldl (· * ·) 1

/-- The innermost windowed loop; the number of loops when there is none. -/
def firstWin (w : WalkDesc) : Nat := ((walkWins w).map (fun g => g.loop)).foldl min w.loops

/-- C_in of R121: elements of the loops inside the innermost windowed loop. -/
def walkCin (n : Nat) (w : WalkDesc) : Nat := prodL ((walkCounts n w).take (firstWin w))

/-- Counts of the token loops: a windowed loop counts its outputs, or its tiles in Winograd mode (R130). -/
def tokenCounts (n : Nat) (w : WalkDesc) : List Nat :=
  ((List.range w.loops).drop (firstWin w)).map (fun i =>
    match (walkWins w).find? (fun g => g.loop = i) with
    | some g => if w.mode = 4 then (winOuts g + 1) / 2 else winOuts g
    | none => walkCount n w i)

/-- Tokens of K operands that an activation walk delivers. A plain nest delivers its elements token by token. -/
def walkTokens (n : Nat) (w : WalkDesc) (k : Nat) : Nat :=
  match w.mode with
  | 0 | 5 => if k = 0 then 0 else prodL (walkCounts n w) / k
  | 2 => if prodL (walkCounts n w) = 0 then 0 else 1
  | _ => if walkCin n w = 0 then 0 else prodL (tokenCounts n w)

/-- Byte offset of loop indices. -/
def loopOffset (w : WalkDesc) (idx : List (Nat × Nat)) : Int :=
  (idx.map (fun e => (e.2 : Int) * w.strides.getD e.1 0)).sum

/-- Base with the slot step (R265, R266). -/
def walkBase (w : WalkDesc) (slot : Nat) : Int := (w.base : Int) + (slot : Int) * w.slotStep

/-- Where an operand comes from: an address of the scratchpad or bay, or a code the walk delivers itself. -/
inductive OpSrc where
  | spad (a : Int)
  | bay (a : Int)
  | code (c : Nat)
  deriving DecidableEq, Repr

/-- An address in the space the walk's flag selects. -/
def walkAt (w : WalkDesc) (a : Int) : OpSrc := if bit w.flags 0 then .bay a else .spad a

/-- Element `e` of a plain nest; in nearest up-sampling loop 1, or loop 0 of a single loop, steps once in f (R124). DESIGN
CHOICE: no field of Table 11.13 names the loop that is up-sampled. -/
def plainSrc (n slot : Nat) (w : WalkDesc) (e : Nat) : OpSrc :=
  let ds := digits (walkCounts n w) e
  let up := if w.loops = 1 then 0 else 1
  let idx := ds.mapIdx (fun i d => (i, if w.mode = 5 ∧ i = up then d / w.upFactor else d))
  walkAt w (walkBase w slot + loopOffset w idx)

/-- Combination of the sources of the windowed loops with the other loops' offset: padding before inserted zeros before
memory. -/
def winSrc (slot : Nat) (w : WalkDesc) (rest : List (Nat × Nat)) (ts : List (Win × TapSrc)) : OpSrc :=
  if ts.any (fun t => decide (t.2 = .pad)) then .code w.padCode
  else if ts.any (fun t => decide (t.2 = .zero)) then .code w.zeroCode
  else
    let off := loopOffset w (rest ++ ts.map (fun t =>
      (t.1.loop, match t.2 with
        | .hist r => r
        | .elem i => i
        | _ => 0)))
    match ts.find? (fun t => match t.2 with | .hist _ => true | _ => false) with
    | some t => .spad ((t.1.histBase : Int) + (slot : Int) * w.slotStep + off)
    | none => walkAt w (walkBase w slot + off)

/-- Source of the operand at tap numbers `ks` (one per windowed loop, innermost first) and channel `c` of token `t`;
`step` is 2 for Winograd tiles. -/
def tapOperand (n slot : Nat) (w : WalkDesc) (t c : Nat) (ks : List Nat) : OpSrc :=
  let f := firstWin w
  let chan := (digits ((walkCounts n w).take f) c).mapIdx (fun i d => (i, d))
  let toks := (digits (tokenCounts n w) t).mapIdx (fun i d => (f + i, d))
  let wins := walkWins w
  let rest := toks.filter (fun e => wins.all (fun g => g.loop ≠ e.1))
  let ts := wins.mapIdx (fun i g =>
    let d := ((toks.find? (fun e => e.1 = g.loop)).map Prod.snd).getD 0
    let p := g.outLo + (if w.mode = 4 then 2 * d else d)
    (g, tapSrc g (tapPos g p (ks.getD i 0))))
  winSrc slot w (chan ++ rest) ts

/-- Source of operand r of token t of an activation walk with K operands a token (R121). `row` is the token row that a
repeat-count walk delivers. -/
def walkSrc (n slot : Nat) (w : WalkDesc) (row k t r : Nat) : OpSrc :=
  match w.mode with
  | 0 | 5 => plainSrc n slot w (t * k + r)
  | 2 =>
    let inner := (walkCounts n w).take (w.loops - 1)
    let idx := (digits inner r).mapIdx (fun i d => (i, d)) ++ [(w.loops - 1, row)]
    walkAt w (walkBase w slot + loopOffset w idx)
  | _ =>
    let cin := max 1 (walkCin n w)
    let tap := r / cin
    let k2 := ((walkWins w).head?.map (fun g => g.taps)).getD 1
    tapOperand n slot w t (r % cin) [tap % max 1 k2, tap / max 1 k2]

/-- Bytes at a source. -/
def srcBytes (s : State) (x : Core) (group : List Nat) (src : OpSrc) (n : Nat) : Try (List Byte) :=
  match src with
  | .spad a => spadRead x a n
  | .bay a => bayRead s group a n
  | .code c => .ok (le n c)

/-- A 10-bit operand in two's complement. -/
def op10 (c : Nat) : Int := (BitVec.ofNat 10 c).toInt

/-- Array operand from a source: a uint8 code zero-extended, or sign-extended (R51); a code of the walk is 10 bits. -/
def srcOperand (s : State) (x : Core) (group : List Nat) (w : WalkDesc) (sign : Bool) (src : OpSrc) : Try Int :=
  match src with
  | .code c => .ok (op10 c)
  | _ =>
    match srcBytes s x group src w.elemBytes with
    | .error e => .error e
    | .ok bs =>
      if w.elemBytes = 1 then .ok (if sign then leInt bs else (leNat bs : Int)) else .ok (op10 (leNat bs))

/-- The walk of an index of the variant's walk table; source 0x0117 at or beyond `walk_count` (R267). -/
def walkAtIdx (x : Core) (i : Nat) : Try WalkDesc :=
  match x.prog.walks[i]? with
  | some w => .ok w
  | none => .error 0x0117

end Sys2Proof.Machine
end

