-- ==== Sys2Proof/Machine/ArrayCmd.lean ====
section
/-!
DEFINITION. Sys2Proof/Machine/ArrayCmd.lean: what the matrix array, the Winograd unit and the state-carry path compute
(R66 to R91, R126 to R131, R140).
-/
namespace Sys2Proof.Machine

open Sys2Proof

/-- A completion with ST_OK, or ST_EMPTY_OUTPUT, and its counts (R64). -/
def completion (empty : Bool) (sat degen : Nat) (coarse : Bool) : Completion :=
  { status := if empty then 1 else 0, sat := cap16 sat, degen := cap16 degen, coarse := coarse }

/-- ST_EMPTY_OUTPUT with nothing written. -/
def emptyDone : Completion := completion true 0 0 false

/-- K_p of a cell mode (Table 4.1). -/
def cellKp (mode : Nat) : Nat := if mode % 2 = 1 then 64 else 32
/-- N_p of a cell mode. -/
def cellNp (mode : Nat) : Nat := if mode < 2 then 64 else 128

/-- Bytes of one block of a channel's weights: 32 dense indices, or 64 in sparse form (Table 4.2). -/
def blockBytes (mode : Nat) (scales : Bool) : Nat :=
  match mode with
  | 0 => 32 + b2n scales
  | 1 => 40 + 2 * b2n scales
  | 2 => 16 + b2n scales
  | _ => 24 + 2 * b2n scales

/-- Bytes of one channel's weights over K. DEDUCED: blocks in ascending K, each followed by its scales. -/
def channelWeightBytes (mode k : Nat) (scales : Bool) : Nat := ceilDiv k (cellKp mode) * blockBytes mode scales

/-- A signed nibble. -/
def nib (b : Byte) (hi : Bool) : Int := (if hi then b.extractLsb' 4 4 else b.extractLsb' 0 4 : BitVec 4).toInt

/-- Kept weight `i` of a block: int8, or int4 with the earlier element in bits [3:0] (R47). -/
def keptWeight (mode : Nat) (blk : List Byte) (i : Nat) : Int :=
  if mode < 2 then ((blk.getD i 0).toInt) else nib (blk.getD (i / 2) 0) (decide (i % 2 = 1))

/-- Dense position, within its group of four, of kept weight `i` of a sparse block (Table 4.2, R70). -/
def keptPos (mode : Nat) (blk : List Byte) (i : Nat) : Nat :=
  let g := i / 2
  let b := (blk.getD ((if mode < 2 then 32 else 16) + g / 2) 0).toNat
  let e := if g % 2 = 0 then b % 16 else b / 16
  if i % 2 = 0 then e % 4 else e / 4

/-- Dense index, within the pass, of the operand that row `i` of a block selects (R66, R69). -/
def rowIndex (mode : Nat) (blk : List Byte) (i : Nat) : Nat :=
  if mode % 2 = 0 then i else (i / 2) * 4 + keptPos mode blk i

/-- Group scale `g` of a block in units of 2^-9 with its NaN count; 1.0 without scales (R48, R49). -/
def groupScale (mode : Nat) (scales : Bool) (blk : List Byte) (g : Nat) : Int × Nat :=
  if scales then e4m3 (blk.getD (blockBytes mode true - (if mode % 2 = 0 then 1 else 2) + g) 0) else (512, 0)

/-- Sum of products of rows `lo` to `lo + n - 1` of a block with one token's operands of the pass. -/
def rowSum (mode : Nat) (blk : List Byte) (ops : List Int) (lo n : Nat) : Int :=
  ((List.range n).map (fun i =>
    keptWeight mode blk (lo + i) * ops.getD (rowIndex mode blk (lo + i)) 0)).sum

/-- The scaled partial sums of one pass for one channel and token, added exactly (R71). -/
def passSum (mode : Nat) (scales : Bool) (blk : List Byte) (ops : List Int) : Int :=
  if mode % 2 = 0 then rowSum mode blk ops 0 32 * (groupScale mode scales blk 0).1
  else rowSum mode blk ops 0 16 * (groupScale mode scales blk 0).1 +
    rowSum mode blk ops 16 16 * (groupScale mode scales blk 1).1

/-- One accumulator after the passes of a command in ascending K-tile (R71, R72, R79). -/
def accPasses (keep : Bool) (a0 : Acc) (ps : List Int) : Acc × Nat :=
  match ps with
  | [] => (a0, 0)
  | p :: rest =>
    let first := if keep then sat40 (a0.toInt + p) else sat40 p
    rest.foldl (fun r p => let q := sat40 (r.1.toInt + p); (q.1, r.2 + q.2)) first

/-- What an array command reads and the fields it works with. -/
structure ArrIn where
  m : Nat
  k : Nat
  n : Nat
  mode : Nat
  keep : Bool
  scales : Bool
  base : Nat
  /-- operands of each token -/
  ops : List (List Int)
  /-- weight bytes of each channel -/
  ws : List (List Byte)
  deriving DecidableEq, Repr

/-- Block `kt` of a channel's weights. -/
def wBlock (a : ArrIn) (ch kt : Nat) : List Byte := cut (a.ws.getD ch []) (kt * blockBytes a.mode a.scales) (blockBytes a.mode a.scales)

/-- Index of the accumulator of token t and channel c (R78). -/
def accIndex (a : ArrIn) (t c : Nat) : Nat := a.base + ((c / cellNp a.mode) * a.m + t) * cellNp a.mode + c % cellNp a.mode

/-- Result of one accumulator. -/
def arrCell (x : Core) (a : ArrIn) (t c : Nat) : Acc × Nat :=
  let kp := cellKp a.mode
  let ops := a.ops.getD t []
  accPasses a.keep (accGet x (accIndex a t c))
    ((List.range (ceilDiv a.k kp)).map (fun kt => passSum a.mode a.scales (wBlock a c kt) (cut' ops (kt * kp) kp)))
where
  /-- operands of one pass -/
  cut' (l : List Int) (i n : Nat) : List Int := (l.drop i).take n

/-- 8-row groups whose operands are all zero, over the passes of a command (R82). In sparse mode a group's operands are
those its rows select, for every channel of the pass. -/
def skipGroups (a : ArrIn) : Nat :=
  let kp := cellKp a.mode
  let np := cellNp a.mode
  ((List.range (ceilDiv a.n np)).map (fun nt =>
    ((List.range (ceilDiv a.k kp)).map (fun kt =>
      ((List.range a.m).map (fun t =>
        let ops := ((a.ops.getD t []).drop (kt * kp)).take kp
        ((List.range 4).filter (fun g =>
          if a.mode % 2 = 0 then
            decide (kt * kp + 8 * g < a.k) && ((ops.drop (8 * g)).take 8).all (fun v => v == 0)
          else
            decide (kt * kp + 16 * g < a.k) &&
              (List.range (min np (a.n - nt * np))).all (fun j =>
                (List.range 8).all (fun i =>
                  decide (ops.getD (rowIndex a.mode (wBlock a (nt * np + j) kt) (8 * g + i)) 0 = 0))))).length)).sum)).sum)).sum

/-- The weight tile of pass `p` of a command, passes in the order of R72: the block of each column's channel (R66, R67). -/
def passTile (a : ArrIn) (p : Nat) : List (List Byte) :=
  let kts := max 1 (ceilDiv a.k (cellKp a.mode))
  let np := cellNp a.mode
  (List.range (min np (a.n - p / kts * np))).map (fun j => wBlock a (p / kts * np + j) (p % kts))

/-- The tile buffers after `n` passes: they swap at the start of each pass, so the shadow tile is the tile of the pass before
(R67). -/
def swapTiles (x : Core) (tile : Nat → List (List Byte)) (n : Nat) : Core :=
  match n with
  | 0 => x
  | 1 => { x with tileActive := tile 0, tileShadow := x.tileActive }
  | n + 2 => { x with tileActive := tile (n + 1), tileShadow := tile n }

/-- The array command's result on the accumulators, the tile buffers and the counters (R67, R78 to R82, R91). -/
def arrRun (x : Core) (a : ArrIn) (satIn : Nat) : Core × Completion :=
  let cells := ((List.range a.m).map (fun t => (List.range a.n).map (fun c => (accIndex a t c, arrCell x a t c)))).flatten
  let y := cells.foldl (fun y e => accPut y e.1 e.2.1) x
  let nans := (a.ws.map (fun w => ((List.range (ceilDiv a.k (cellKp a.mode))).map (fun kt =>
    let blk := cut w (kt * blockBytes a.mode a.scales) (blockBytes a.mode a.scales)
    (groupScale a.mode a.scales blk 0).2 +
      (if a.mode % 2 = 1 ∧ kt * 64 + 32 < a.k then (groupScale a.mode a.scales blk 1).2 else 0))).sum)).sum
  let sat := satIn + nans + (cells.map (fun e => e.2.2)).sum
  let passes := ceilDiv a.k (cellKp a.mode) * ceilDiv a.n (cellNp a.mode)
  (coreAdd .skipGroups (skipGroups a) (coreAdd .arrayStreamCycles (passes * a.m) (coreAdd .arrayPassCount passes
    (swapTiles y (passTile a) passes))),
    completion false sat 0 false)

/-- S_res in the range of Table 4.4. -/
def sResOk (x : Core) : Bool := decide (x.sRes ≤ 16384) && decide (x.sRes % 1024 = 0)

/-- Limits of Table 4.4 on an array command. -/
def arrLimits (x : Core) (m k n mode base : Nat) : Bool :=
  sResOk x && decide (m ≤ 512) && decide (1 ≤ k) && decide (k ≤ 16384) && decide (1 ≤ n) && decide (n ≤ 16384) && decide (mode ≤ 3) &&
    decide (base % 64 = 0) && decide (base + m * cellNp mode * ceilDiv n (cellNp mode) ≤ 32768 - x.sRes)

/-- Generator and operand number that supply reduction index r: with two generators, A supplies the even blocks of 32
and B the odd ones (DEDUCED). -/
def genOf (two : Bool) (r : Nat) : Bool × Nat :=
  if two then (decide ((r / 32) % 2 = 1), (r / 64) * 32 + r % 32) else (false, r)

/-- Operands of one generator's share of K. -/
def genShare (two second : Bool) (k : Nat) : Nat := ((List.range k).filter (fun r => (genOf two r).1 = second)).length

/-- Matrix Bᵀ of the Winograd input transform (R128). -/
def winoBT : List (List Int) := [[1, 0, -1, 0], [0, 1, 1, 0], [0, -1, 1, 0], [0, 1, 0, -1]]

/-- Entry of Bᵀ. -/
def bt (i j : Nat) : Int := (winoBT.getD i []).getD j 0

/-- One Winograd-domain operand from the codes minus z of its tile, saturated to int10 (R54, R128). -/
def winoOperand (form pos : Nat) (d : Nat → Nat → Int) : Int × Nat :=
  let v : Int :=
    if form = 0 then ((List.range 4).map (fun a => bt pos a * d 0 a)).sum
    else ((List.range 4).map (fun a => ((List.range 4).map (fun b => bt (pos / 4) a * d a b * bt (pos % 4) b)).sum)).sum
  satTo (-512) 511 v

/-- Byte `j` of a channel's weights serves a row below K (R80): a weight, a position byte or a group scale. -/
def weightUsed (mode k : Nat) (scales : Bool) (j : Nat) : Bool :=
  let r := j / blockBytes mode scales * cellKp mode
  let i := j % blockBytes mode scales
  match mode with
  | 0 => decide (32 ≤ i) || decide (r + i < k)
  | 1 => if i < 32 then decide (r + i / 2 * 4 < k) else if i < 40 then decide (r + 8 * (i - 32) < k) else decide (r + 32 * (i - 40) < k)
  | 2 => decide (16 ≤ i) || decide (r + 2 * i < k)
  | _ => if i < 16 then decide (r + 4 * i < k) else if i < 24 then decide (r + 8 * (i - 16) < k) else decide (r + 32 * (i - 24) < k)

/-- Weight bytes of every channel below N; a byte that no row below K uses is not read (R80) and stands as 0. -/
def readWeights (s : State) (x : Core) (group : List Nat) (slot : Nat) (w : WalkDesc) (used : Nat → Bool) (per n : Nat) :
    Try (List (List Byte)) :=
  tryMap (fun ch => tryMap (fun i => if ¬ used i then .ok 0 else
    match srcBytes s x group (plainSrc (nSlotsOf x) slot w (ch * per + i)) 1 with
    | .error e => .error e
    | .ok bs => .ok (bs.getD 0 0)) (List.range per)) (List.range n)

/-- The bay channel group that a core's step addresses. -/
def coreGroup (s : State) (x : Core) : List Nat := groupOf s (x.ctx.map (fun k => k.bay))

/-- Thatch lines of some sources, each once, in the order of first use. -/
def bayLines (group : List Nat) (srcs : List OpSrc) (n : Nat) : List Nat :=
  (srcs.flatMap (fun e => match e with
    | .bay a => linesOf group a.toNat n
    | _ => [])).eraseDups

/-- What the address generators of an array command fetch through the ridge cache (R222 to R226): sources of the weight walk,
then of the activation walks. DESIGN CHOICE: a command reads each line once, in that order. -/
def walkFetch (s : State) (x : Core) (group : List Nat) (ws : List WalkDesc) (weights : List OpSrc) (acts : List (List OpSrc)) : State :=
  if ws.all (fun w => !bit w.flags 0) then s
  else
    let lines := bayLines group weights 1 ++
      (acts.zip ws).flatMap (fun e => bayLines group e.1 e.2.elemBytes)
    lines.eraseDups.foldl (fun s p => ridgeRead s ((x.ctx.map (fun k => k.bay)).getD 64) p true) s

/-- Sources of the weight bytes of every channel below N. -/
def weightSrcs (ns slot : Nat) (w : WalkDesc) (used : Nat → Bool) (per n : Nat) : List OpSrc :=
  (List.range n).flatMap (fun ch => ((List.range per).filter used).map (fun i => plainSrc ns slot w (ch * per + i)))

/-- Scratchpad address of the repeat count of token `i` of a slot (R123, R265). -/
def countAddr (w : WalkDesc) (slot i : Nat) : Int := (w.repeatBase : Int) + i + (slot : Int) * w.slotStep

/-- The repeat-count walk of slot `slot` (R123): the row it delivers, and the state with the cursor advanced. A step has one
frame for each slot (R24), and a frame delivers one row: a further repeat-count walk of the same step, on this core or on
another that a striped layer uses (R132), delivers that row and moves nothing. Source 0x0112 for a count beyond the
scratchpad. -/
def repeatServe (s : State) (x : Core) (slot : Nat) (w : WalkDesc) : Try (Nat × State) :=
  match slotWork s x slot with
  | none => .ok (0, s)
  | some k =>
    match k.row with
    | some r => .ok (r.1, s)
    | none =>
      let nTok := ((tfind s.sessions k.session).map (fun ss => ss.uttTokens)).getD 0
      let counts (i : Nat) : Nat := (tget 0 x.spad (countAddr w slot i).toNat).toNat
      let r := repeatWalk counts nTok (nTok + 1) k.pos.repTok k.pos.repRep
      let read := (List.range nTok).filter (fun i => decide (k.pos.repTok ≤ i) && decide (i ≤ r.2.1))
      if ¬ read.all (fun i => spadIn (countAddr w slot i) 1) then .error 0x0112
      else
        let flags := if r.2.2.2 then k.pos.flags ||| 1 else k.pos.flags
        let pos := { k.pos with repTok := r.2.1, repRep := r.2.2.1, flags := flags }
        .ok (r.1, setSlotWork s x slot { k with pos := pos, row := some (r.1, decide (r.2.2.1 = 1) && !r.2.2.2) })

/-- The shape of the tiles that a Winograd product writes, from its walk (R130). -/
def winoShapeOf (ns : Nat) (w : WalkDesc) (m np : Nat) : WinoShape :=
  { m := m, np := np, counts := tokenCounts ns w
    axes := (walkWins w).map (fun g => (g.loop - firstWin w, winOuts g)) }

/-- MATMUL (R78). DESIGN CHOICE: the input zero point that the Winograd transform removes (R54, R128) has no field of its
own; it is the `zero_code` of the walk that supplies the operand. DESIGN CHOICE: `wino_pos` or `wino_form` outside Table 11.15
raises source 0x0105, as the other fields of an array command do. -/
def doMatmul (s : State) (c slot : Nat) (o : ArrOps) : Try (State × Completion) := do
  let x := coreOf s c
  let ns := nSlotsOf x
  let group := coreGroup s x
  let mode := o.cellMode.toNat
  let m := slotCount x o.mFixed.toNat o.mPerSlot.toNat
  let k := o.k.toNat
  let n := o.n.toNat
  let wino := decide (o.winoPos ≠ 0xFF#8)
  let form := o.winoForm.toNat
  need (o.arrFlags.toNat < 8) 0x0117
  need (arrLimits x m k n mode o.accBase.toNat) 0x0105
  need (if wino then decide (form ≤ 1) && decide (o.winoPos.toNat < (if form = 0 then 4 else 16)) else decide (form = 0)) 0x0105
  let wa ← walkAtIdx x o.walkA.toNat
  walkOk ns wa
  let two := decide (o.walkB ≠ 0xFFFF#16)
  let wb ← (if two then walkAtIdx x o.walkB.toNat else .ok wa)
  walkOk ns wb
  let ww ← walkAtIdx x o.walkW.toNat
  walkOk ns ww
  need ([wa, wb].all (fun w => decide (w.mode = 4) == wino && (!wino || decide ((walkWins w).length = form + 1)) &&
    decide (w.mode ≠ 3))) 0x0107
  let toks := min (walkTokens ns wa (genShare two false k)) (if two then walkTokens ns wb (genShare two true k) else 512)
  let m := min m toks
  if m = 0 ∨ prodL (walkCounts ns ww) = 0 then .ok (s, emptyDone)
  else
    let served ← (if wa.mode = 2 then repeatServe s x slot wa else .ok (0, s))
    let sign := bit o.arrFlags.toNat 2
    let cells ← tryMap (fun t => tryMap (fun r =>
      let g := genOf two r
      let w := if g.1 then wb else wa
      if wino then
        let taps := if form = 0 then 1 else 4
        match tryMap (fun a => tryMap (fun b =>
            srcOperand s x group w sign (tapOperand ns slot w t g.2 (if form = 0 then [b] else [b, a])))
            (List.range 4)) (List.range taps) with
        | .error e => .error e
        | .ok d => .ok (winoOperand form o.winoPos.toNat (fun a b => (d.getD a []).getD b 0 - op10 w.zeroCode))
      else
        match srcOperand s x group w sign (walkSrc ns slot w served.1 (genShare two g.1 k) t g.2) with
        | .error e => .error e
        | .ok v => .ok (v, 0)) (List.range k)) (List.range m)
    let scales := bit o.arrFlags.toNat 1
    let ws ← readWeights s x group slot ww (weightUsed mode k scales) (channelWeightBytes mode k scales) n
    let a : ArrIn :=
      { m := m, k := k, n := n, mode := mode, keep := bit o.arrFlags.toNat 0, scales := scales, base := o.accBase.toNat
        ops := cells.map (fun l => l.map Prod.fst), ws := ws }
    let r := arrRun x a ((cells.map (fun l => (l.map Prod.snd).sum)).sum)
    let y := if wino then { r.1 with wino := some (winoShapeOf ns wa m (cellNp mode)) } else r.1
    let src (second : Bool) (w : WalkDesc) : List OpSrc :=
      (List.range m).flatMap (fun t => ((List.range k).filter (fun r => (genOf two r).1 = second)).flatMap (fun r =>
        let g := genOf two r
        if wino then (List.range (if form = 0 then 1 else 4)).flatMap (fun a => (List.range 4).map (fun b =>
          tapOperand ns slot w t g.2 (if form = 0 then [b] else [b, a])))
        else [walkSrc ns slot w served.1 (genShare two g.1 k) t g.2]))
    let s := walkFetch served.2 x group [wa, wb, ww] (weightSrcs ns slot ww (weightUsed mode k scales) (channelWeightBytes mode k scales) n)
      [src false wa, src true wb]
    .ok (setCore s c y, r.2)

/-- One output of a diagonal-mode convolution: the passes of s input channels each, in ascending order (R126). -/
def diagCell (keep : Bool) (a0 : Acc) (g taps : Nat) (w : Nat → Int) (v : Nat → Nat → Int) : Acc × Nat :=
  let sN := min g (32 / max 1 taps)
  accPasses keep a0 ((List.range (ceilDiv g (max 1 sN))).map (fun p =>
    ((List.range (min sN (g - p * sN))).map (fun i =>
      ((List.range taps).map (fun r => w ((p * sN + i) * taps + r) * v (p * sN + i) (taps - 1 - r))).sum)).sum * 512))

/-- Operands of one pass of a diagonal-mode command at the 32 rows of a column: segment i carries the taps of input channel
`lo + i` of the column's group (R126). -/
def diagRows (sN g taps lo : Nat) (v : Nat → Nat → Int) : List Int :=
  ((List.range (min sN (g - lo))).map (fun i => (List.range taps).map (fun r => v (lo + i) (taps - 1 - r)))).flatten

/-- 8-row groups whose operands are all zero in every column of a pass, over the output cycles of a diagonal-mode command
(R82). DEDUCED: the priming cycles, whose products are not kept, count none. -/
def diagSkips (m n g taps : Nat) (v : Nat → Nat → Nat → Nat → Int) : Nat :=
  let sN := max 1 (min g (32 / max 1 taps))
  ((List.range (ceilDiv n 64)).map (fun nt => ((List.range (ceilDiv g sN)).map (fun p => ((List.range m).map (fun t =>
    ((List.range 4).filter (fun q =>
      decide (8 * q < min sN (g - p * sN) * taps) &&
      (List.range (min 64 (n - nt * 64))).all (fun j =>
        (((diagRows sN g taps (p * sN) (v t (nt * 64 + j))).drop (8 * q)).take 8).all (fun a => a == 0)))).length)).sum)).sum)).sum

/-- DIAG (R126). The K field is g·taps; output channel c reads the input channels of its group (DEDUCED). -/
def doDiag (s : State) (c slot : Nat) (o : ArrOps) : Try (State × Completion) := do
  let x := coreOf s c
  let ns := nSlotsOf x
  let group := coreGroup s x
  let m := slotCount x o.mFixed.toNat o.mPerSlot.toNat
  let k := o.k.toNat
  let n := o.n.toNat
  need (o.arrFlags.toNat < 8) 0x0117
  need (arrLimits x m k n 0 o.accBase.toNat && decide (o.winoPos = 0xFF#8) && decide (o.winoForm = 0)) 0x0105
  let wa ← walkAtIdx x o.walkA.toNat
  walkOk ns wa
  let two := decide (o.walkB ≠ 0xFFFF#16)
  let wb ← (if two then walkAtIdx x o.walkB.toNat else .ok wa)
  walkOk ns wb
  let ww ← walkAtIdx x o.walkW.toNat
  walkOk ns ww
  let taps := ((walkWins wa).head?.map (fun g => g.taps)).getD 1
  let g := k / max 1 taps
  need (decide (o.cellMode = 0) && !(bit o.arrFlags.toNat 1) && decide (wa.mode = 3) && decide (wb.mode = 3) &&
    decide (k % taps = 0) && decide (1 ≤ g)) 0x0107
  let m := min m (min (walkTokens ns wa k) (walkTokens ns wb k))
  if m = 0 ∨ prodL (walkCounts ns ww) = 0 then .ok (s, emptyDone)
  else
    let chans := walkCin ns wa + (if two then walkCin ns wb else 0)
    let sign := bit o.arrFlags.toNat 2
    let ins ← tryMap (fun t => tryMap (fun ch => tryMap (fun tap =>
      let q := genOf two ch
      let w := if q.1 then wb else wa
      srcOperand s x group w sign (tapOperand ns slot w t q.2 [tap])) (List.range taps)) (List.range chans)) (List.range m)
    let ws ← readWeights s x group slot ww (fun _ => true) k n
    let groups := max 1 (chans / g)
    let v (t ch i tap : Nat) : Int := ((ins.getD t []).getD (ch * groups / n * g + i) []).getD tap 0
    let cells := ((List.range m).map (fun t => (List.range n).map (fun ch =>
      let idx := o.accBase.toNat + ((ch / 64) * m + t) * 64 + ch % 64
      (idx, diagCell (bit o.arrFlags.toNat 0) (accGet x idx) g taps (fun i => ((ws.getD ch []).getD i 0).toInt) (v t ch))))).flatten
    let y := cells.foldl (fun y e => accPut y e.1 e.2.1) x
    let sN := max 1 (min g (32 / max 1 taps))
    let kts := ceilDiv g sN
    let passes := ceilDiv n 64 * kts
    let y := swapTiles y (fun p => (List.range (min 64 (n - p / kts * 64))).map (fun j =>
      cut (ws.getD (p / kts * 64 + j) []) (p % kts * (sN * taps)) (sN * taps))) passes
    let src (second : Bool) (w : WalkDesc) : List OpSrc :=
      (List.range m).flatMap (fun t => ((List.range chans).filter (fun ch => (genOf two ch).1 = second)).flatMap (fun ch =>
        (List.range taps).map (fun tap => tapOperand ns slot w t (genOf two ch).2 [tap])))
    let s := walkFetch s x group [wa, wb, ww] (weightSrcs ns slot ww (fun _ => true) k n) [src false wa, src true wb]
    let runs := ceilDiv m (max 1 (((walkWins wa).head?.map winOuts).getD 1))
    .ok (setCore s c (coreAdd .skipGroups (diagSkips m n g taps v)
        (coreAdd .arrayStreamCycles (passes * (m + runs * (taps - 1))) (coreAdd .arrayPassCount passes y))),
      completion false ((cells.map (fun e => e.2.2)).sum) 0 false)

/-- Aᵀ of the output transform (Table 6.3). -/
def winoAT : List (List Int) := [[1, 1, 1, 0], [0, 1, -1, -1]]

/-- Row `i` of Aᵀ applied to four values by saturating additions and subtractions in ascending order (R129). -/
def winoRow (i : Nat) (v : List Acc) : Acc × Nat :=
  (List.range 4).foldl (fun r j =>
    let k := (winoAT.getD i []).getD j 0
    if k = 0 then r
    else let q := sat40 (r.1.toInt + k * (v.getD j 0).toInt); (q.1, r.2 + q.2)) (0, 0)

/-- The results of one tile (R129). -/
def winoTile (form : Nat) (m : List Acc) : List Acc × Nat :=
  if form = 0 then
    let a := winoRow 0 m
    let b := winoRow 1 m
    ([a.1, b.1], a.2 + b.2)
  else
    let cols := (List.range 2).map (fun i => (List.range 4).map (fun j =>
      winoRow i ((List.range 4).map (fun a => m.getD (4 * a + j) 0))))
    let outs := (List.range 2).map (fun i => (List.range 2).map (fun j =>
      winoRow j (((cols.getD i []).map Prod.fst))))
    ((outs.flatten).map Prod.fst, ((cols.flatten ++ outs.flatten).map Prod.snd).sum)

/-- Result `j` of the tile whose first accumulator is the `i`-th of its position's range is a surplus output of an odd axis
(R130): it lies at or beyond the outputs of a windowed loop of the product that wrote the tiles. -/
def winoSurplus (w : Option WinoShape) (form i j : Nat) : Bool :=
  match w with
  | none => false
  | some w =>
    let t := (i / max 1 w.np) % max 1 w.m
    let ds := digits w.counts t
    let at' (k : Nat) : Nat := if form = 0 then j else if k = 0 then j % 2 else j / 2
    (w.axes.mapIdx (fun k e => decide (e.2 ≤ 2 * ds.getD e.1 0 + at' k))).any (fun b => b)

/-- WINO_OUT (R129). DEDUCED: each transform-domain position is a product of its own with N = C_out, laid out by R78, and the
ranges of the positions follow one another; the command counts one tile for each accumulator of such a range, so the
accumulator of position ξ of tile i is `acc_base` + ξ · tiles + i, and the results lie at the first 2 (or 4) positions. -/
def doWinoOut (s : State) (c : Nat) (o : WinoOps) : Try (State × Completion) := do
  let x := coreOf s c
  let tiles := slotCount x o.tilesFixed.toNat o.tilesPerSlot.toNat
  let form := o.winoForm.toNat
  let per := if form = 0 then 4 else 16
  need (sResOk x && decide (form ≤ 1) && decide (o.accBase.toNat % 64 = 0) &&
    decide (o.accBase.toNat + tiles * per ≤ 32768 - x.sRes)) 0x0105
  if tiles = 0 then .ok (s, emptyDone)
  else
    let r := (List.range tiles).foldl (fun (r : Core × Nat) i =>
      let at' (j : Nat) : Nat := o.accBase.toNat + j * tiles + i
      let t := winoTile form ((List.range per).map (fun j => accGet x (at' j)))
      let kept := (t.1.mapIdx (fun j v => (j, v))).filter (fun e => !winoSurplus x.wino form i e.1)
      (kept.foldl (fun y e => accPut y (at' e.1) e.2) r.1, r.2 + t.2)) (x, 0)
    .ok (setCore s c r.1, completion false r.2 0 false)

/-! ### State-carry path (R83 to R86, R140) -/

/-- Limits of Table 4.4 on a state-carry command. DESIGN CHOICE: `streams`, `samples` and `stream_step` outside Table 11.15,
for which no table names a source, raise the same source 0x0105. -/
def carryLimits (x : Core) (o : CarryOps) : Bool :=
  sResOk x && decide (o.start.toNat % 64 = 0) && decide (64 ≤ o.len.toNat) && decide (o.len.toNat ≤ 16384) &&
    decide (o.len.toNat % 64 = 0) && decide (1 ≤ o.streams.toNat) && decide (o.streams.toNat ≤ 32) &&
    decide (o.streamStep.toNat % 64 = 0) && decide (1 ≤ o.samples.toNat) && decide (o.samples.toNat ≤ 960) &&
    decide (32768 - x.sRes ≤ o.start.toNat) &&
    decide (o.start.toNat + (o.streams.toNat - 1) * o.streamStep.toNat + o.len.toNat ≤ 32768)

/-- Elements that a state-carry command updates in all. -/
def carryTotal (o : CarryOps) : Nat := o.samples.toNat * o.streams.toNat * o.len.toNat

/-- Accumulator of the `i`-th update: sample by sample, streams in ascending base (R140). -/
def carryAcc (o : CarryOps) (i : Nat) : Nat :=
  let per := o.streams.toNat * o.len.toNat
  let j := i % max 1 per
  o.start.toNat + (j / max 1 o.len.toNat) * o.streamStep.toNat + j % max 1 o.len.toNat

/-- The updates that the decays and inputs now present allow: one element for each pair, in order (R84). -/
def carryGo : Nat → Core → Core
  | 0, x => x
  | n + 1, x =>
    match x.carryRun, x.carryA, x.carryU with
    | some r, a :: as, u :: us =>
      if carryTotal r.ops ≤ r.done then x
      else
        let i := carryAcc r.ops r.done
        let q := carryStep a (accGet x i) u
        let y := accPut x i q.1
        let y := { y with carryA := as, carryU := us, carryRun := some { r with done := r.done + 1 }
                          carryOut := if bit r.ops.carryFlags.toNat 0 then y.carryOut ++ [stateFp q.1] else y.carryOut }
        let b := (unitQ y 9).busy.map (fun e => (e.1, { e.2 with sat := cap16 (e.2.sat + q.2) }))
        let y := if (r.done + 1) % 64 = 0 then coreAdd .carryCycles 1 y else y
        carryGo n (setUnitQ y 9 { unitQ y 9 with busy := b })
    | _, _, _ => x

/-- Progress of the state-carry path with what its FIFOs hold. -/
def carryAdvance (x : Core) : Core := carryGo (x.carryA.length) x

/-- CARRY (R83): the command starts; its updates run as operands arrive. -/
def doCarry (s : State) (c : Nat) (o : CarryOps) : Try (State × Completion) := do
  let x := coreOf s c
  need (o.carryFlags.toNat < 2) 0x0117
  need (carryLimits x o) 0x0105
  .ok (setCore s c { x with carryRun := some { ops := o, done := 0 } }, completion false 0 0 false)

end Sys2Proof.Machine
end

