-- ==== Sys2Proof/Machine/VectorCmd.lean ====
section
/-!
DEFINITION. Sys2Proof/Machine/VectorCmd.lean: what the vector engine, the rescale stage and the Hadamard unit compute
(R92 to R116, R125, R57, R58, Tables 11.15 and 11.16).
-/
namespace Sys2Proof.Machine

open Sys2Proof

/-! ### Shared operands -/

/-- Element count of a vector command. -/
def vecLen (x : Core) (o : VecOps) : Nat := slotCount x o.lenFixed.toNat o.lenPerSlot.toNat

/-- An address of a vector command with its slot step (R265). -/
def vecAddr (o : VecOps) (slot : Nat) (a : W32) : Int := (a.toNat : Int) + (slot : Int) * o.slotStep.toInt

/-- First operand from the rescale stage. -/
def vecFromRescale (o : VecOps) : Bool := bit o.vecFlags.toNat 0
/-- First operand from the state-carry read-out. -/
def vecFromCarry (o : VecOps) : Bool := bit o.vecFlags.toNat 1
/-- Result to the state-carry path. -/
def vecToCarry (o : VecOps) : Bool := bit o.vecFlags.toNat 2
/-- Stochastic rounding. -/
def vecStoch (o : VecOps) : Bool := bit o.vecFlags.toNat 3

/-- Checks common to all vector commands (R115, R267): `subs` sub-operations and formats up to `fmts`. DESIGN CHOICE: a command
that names both the rescale stage and the state-carry read-out as its first operand raises source 0x0106; the spec gives the
pair no meaning. -/
def vecCheck (x : Core) (o : VecOps) (subs fmts : Nat) : Try Unit :=
  if 16 ≤ o.vecFlags.toNat then .error 0x0117
  else need (decide (o.subOp.toNat < subs) && decide (o.fmt.toNat ≤ fmts) && !(vecFromRescale o && vecFromCarry o) &&
    decide (vecLen x o ≤ 1048576)) 0x0106

/-- A parameter that Table 11.16 gives as zero. -/
def vecZero (p : W32) : Try Unit := need (decide (p = 0)) 0x0106

/-- First operand of `n` words of `k` bytes: from the rescale stage, the state-carry read-out or the scratchpad (R93). A
word that the rescale stage has not delivered is a free value. DESIGN CHOICE: the stage's output stays until its next command,
so a second lane command that names it takes the same words. -/
def vecFirst (s : State) (x : Core) (o : VecOps) (slot k n : Nat) : Try (List Nat × Core) :=
  if vecFromRescale o then
    .ok ((List.range n).map (fun i => ((x.rescaleOut.getD i (Config.freeWord (s.fresh + i))).toNat) % 256 ^ k), x)
  else if vecFromCarry o then
    .ok ((x.carryOut.take n).map (fun w => w.toNat % 256 ^ k), { x with carryOut := x.carryOut.drop n })
  else
    match spadWords x (vecAddr o slot o.src0) k n with
    | .error e => .error e
    | .ok l => .ok (l, x)

/-- A vector command that reads the state-carry read-out has its operands (R85, R93). -/
def vecReady (x : Core) (o : VecOps) : Bool := !vecFromCarry o || decide (vecLen x o ≤ x.carryOut.length)

/-- Cycles that the random-word supply adds to `n` stochastic elements (R110). -/
def vecSlow (s : State) (x : Core) (slot n : Nat) : Nat :=
  if x.rng.coarse then ceilDiv n 4 - ceilDiv n 64
  else if slotCompat s x slot then ceilDiv n 32 - ceilDiv n 64
  else 0

/-- Result words written, with the busy and slow cycles counted. -/
def vecWrite (s : State) (c : Nat) (x : Core) (dst : Int) (k : Nat) (vals : List Nat) (busy slow : Nat)
    (done : Completion) : Try (State × Completion) :=
  match spadWrite x dst (wordBytes k vals) with
  | .error e => .error e
  | .ok y => .ok (setCore s c (coreAdd .srSlowCycles slow (coreAdd .vecBusyCycles (busy + slow) y)), done)

/-- Format of a command's result words. -/
inductive ResFmt where
  | fp32
  | bf16
  | other
  deriving DecidableEq, Repr

/-- The input u that the state-carry path takes from a result word, with its count (R84): a floating-point value in state
units. DEDUCED: a result sent to the path is its input u, since only CONVERT to a decay and GATE form decays; a word that is
no floating-point value gives a free one. -/
def carryInput (f : ResFmt) (w : Nat) : Acc × Nat :=
  match f with
  | .fp32 => toState (BitVec.ofNat 32 w)
  | .bf16 => toState (ofBf16 (BitVec.ofNat 16 w))
  | .other => (Config.carryWord w, 0)

/-- The result of a lane command: into the scratchpad at `dst`, `k` bytes a word, or to the state-carry path in its place
(R93). -/
def vecResult (s : State) (c : Nat) (x : Core) (o : VecOps) (slot k : Nat) (f : ResFmt) (vals : List Nat) (busy slow : Nat)
    (done : Completion) : Try (State × Completion) :=
  if vecToCarry o then
    let us := vals.map (carryInput f)
    let x := carryAdvance { x with carryU := x.carryU ++ us.map Prod.fst }
    .ok (setCore s c (coreAdd .srSlowCycles slow (coreAdd .vecBusyCycles (busy + slow) x)),
      { done with sat := cap16 (done.sat + (us.map Prod.snd).sum) })
  else vecWrite s c x (vecAddr o slot o.dst) k vals busy slow done

/-! ### ELEMENT -/

/-- A result `r` of value operands, or the first of them that is NaN, made quiet (R95). -/
def nanFirst (ops : List W32) (r : W32) : W32 :=
  match ops.find? fpIsNan with
  | some a => fpQuiet a
  | none => r

/-- An fp32 operation of Table 5.1; `pred` is the compare's predicate. The condition of a select is no value operand
(DEDUCED). -/
def elemFp (sub pred : Nat) (a b c : W32) : W32 :=
  match sub with
  | 0 => fadd a b
  | 1 => fsub a b
  | 2 => fmul a b
  | 3 => fma a b c
  | 4 => fmin a b
  | 5 => fmax a b
  | 6 => Config.cmpWord (fcmp pred a b)
  | 7 => nanFirst [a] (a &&& 0x7FFFFFFF#32)
  | 8 => nanFirst [a] (fneg a)
  | 9 => nanFirst [a, b] ((a &&& 0x7FFFFFFF#32) ||| (b &&& 0x80000000#32))
  | _ => nanFirst [a, b] (if Config.condTrue c then a else b)

/-- A bf16 FMA (R97): bf16 multiplicands and an addend in bf16 or, where `wideC`, in fp32; one rounding to bf16 or, where
`wideD`, to fp32. -/
def fmaBf (wideC wideD : Bool) (a b : W16) (c : W32) : W32 :=
  let r := fmaW wideD (ofBf16 a) (ofBf16 b) (if wideC then c else ofBf16 (c.setWidth 16))
  if wideD then r else r >>> 16

/-- A bf16 operation of Table 5.1 but FMA, on operands and results in bf16. -/
def elemBf (sub pred : Nat) (a b : W16) : W16 :=
  let x := ofBf16 a
  let y := ofBf16 b
  let hi (w : W32) : W16 := (w >>> 16).setWidth 16
  match sub with
  | 0 => hi (faddW false x y)
  | 1 => hi (fsubW false x y)
  | 2 => hi (fmulW false x y)
  | 4 => hi (fmin x y)
  | 5 => hi (fmax x y)
  | _ => (Config.cmpWord (fcmp pred x y)).setWidth 16

/-- The predicates of Table 11.16 on two integers. -/
def icmp (pred : Nat) (a b : Int) : Bool :=
  match pred with
  | 0 => decide (a = b)
  | 1 => decide (a ≠ b)
  | 2 => decide (a < b)
  | 3 => decide (a ≤ b)
  | 4 => decide (b < a)
  | _ => decide (b ≤ a)

/-- An int32 operation of Table 5.1 (R98). -/
def elemInt (sub pred : Nat) (a b c : W32) : W32 :=
  let sh := b.toNat % 32
  match sub with
  | 0 => a + b
  | 1 => a - b
  | 2 => a * b
  | 3 => a &&& b
  | 4 => a ||| b
  | 5 => a ^^^ b
  | 6 => a <<< sh
  | 7 => a >>> sh
  | 8 => a.sshiftRight sh
  | 9 => if a.toInt ≤ b.toInt then a else b
  | 10 => if a.toInt ≤ b.toInt then b else a
  | 11 => Config.cmpWord (icmp pred a.toInt b.toInt)
  | _ => if Config.condTrue c then a else b

/-- Operations in the row of Table 5.1 of a format. -/
def elemSubs (fmt : Nat) : Nat := if fmt = 0 then 11 else if fmt = 1 then 7 else 13
/-- Position of compare in the row. -/
def elemCompare (fmt : Nat) : Nat := if fmt = 2 then 11 else 6
/-- Operands of an operation: 1, 2 or 3. -/
def elemArity (fmt sub : Nat) : Nat :=
  if fmt = 0 ∧ (sub = 7 ∨ sub = 8) then 1
  else if (fmt ≠ 2 ∧ sub = 3) ∨ (fmt = 0 ∧ sub = 10) ∨ (fmt = 2 ∧ sub = 12) then 3
  else 2

/-- Form of an element command: whether its addend is fp32 and whether its result is, in a bf16 FMA (R97). -/
def elemForm (o : VecOps) : Bool × Bool :=
  if o.fmt = 1 ∧ o.subOp = 3 then Config.fmaForm o.src2 o.dst else (false, false)

/-- One element's result word. -/
def elemOp (fmt sub pred : Nat) (wide : Bool × Bool) (a b c : Nat) : Nat :=
  match fmt with
  | 0 => (elemFp sub pred (BitVec.ofNat 32 a) (BitVec.ofNat 32 b) (BitVec.ofNat 32 c)).toNat
  | 1 =>
    if sub = 3 then (fmaBf wide.1 wide.2 (BitVec.ofNat 16 a) (BitVec.ofNat 16 b) (BitVec.ofNat 32 c)).toNat
    else (elemBf sub pred (BitVec.ofNat 16 a) (BitVec.ofNat 16 b)).toNat
  | _ => (elemInt sub pred (BitVec.ofNat 32 a) (BitVec.ofNat 32 b) (BitVec.ofNat 32 c)).toNat

/-- Result words of an element command from its operand lists. -/
def elemRun (fmt sub pred : Nat) (wide : Bool × Bool) (as bs cs : List Nat) : List Nat :=
  as.mapIdx (fun i a => elemOp fmt sub pred wide a (bs.getD i 0) (cs.getD i 0))

/-- ELEMENT (Table 5.1). -/
def doElement (s : State) (c slot : Nat) (o : VecOps) : Try (State × Completion) := do
  let x := coreOf s c
  let fmt := o.fmt.toNat
  let sub := o.subOp.toNat
  vecCheck x o (elemSubs fmt) 2
  need (if sub = elemCompare fmt then decide (o.param0.toNat ≤ 5) else decide (o.param0 = 0)) 0x0106
  vecZero o.param1
  let n := vecLen x o
  let k := if fmt = 1 then 2 else 4
  if n = 0 then .ok (s, emptyDone)
  else
    let (as, x) ← vecFirst s x o slot k n
    let bs ← (if elemArity fmt sub < 2 then .ok [] else spadWords x (vecAddr o slot o.src1) k n)
    let wide := elemForm o
    let cs ← (if elemArity fmt sub < 3 then .ok [] else spadWords x (vecAddr o slot o.src2) (if wide.1 then 4 else k) n)
    let f : ResFmt := if fmt = 2 then .other else if fmt = 1 ∧ ¬ wide.2 then .bf16 else .fp32
    vecResult s c x o slot (if wide.2 then 4 else k) f (elemRun fmt sub o.param0.toNat wide as bs cs)
      (ceilDiv n (if fmt = 1 then 128 else 64)) 0 (completion false 0 0 false)

/-! ### CONVERT -/

/-- Result word and saturation count of one conversion (R99). -/
def convOne (sub : Nat) (inv : W32) (z : Nat) (md : RMode) (w : W32) : Nat × Nat :=
  match sub with
  | 0 => let r := toInt32 md w; ((BitVec.ofInt 32 r.1).toNat, r.2)
  | 1 => ((ofInt32 w).toNat, 0)
  | 2 => ((toBf16 w).toNat, 0)
  | 3 => ((ofBf16 (w.setWidth 16)).toNat, 0)
  | 4 => codePerTensor md inv z w
  | 5 => let r := toDecay w; (r.1.toNat, r.2)
  | 6 => let r := toState w; ((r.1.signExtend 64).toNat, r.2)
  | 7 => let r := toPcm 16 w; ((BitVec.ofInt 16 r.1).toNat, r.2)
  | _ => let r := toPcm 24 w; ((BitVec.ofInt 24 r.1).toNat, r.2)

/-- Bytes of a conversion's input element. -/
def convIn (sub : Nat) : Nat := if sub = 3 then 2 else 4
/-- Bytes of a conversion's result element. DESIGN CHOICE: a result in state units stands in the scratchpad as 8 bytes,
sign-extended, as a SAVE holds it (R60); no rule gives its width there. -/
def convOut (sub : Nat) : Nat :=
  match sub with
  | 2 => 2
  | 4 => 1
  | 5 => 2
  | 6 => 8
  | 7 => 2
  | 8 => 3
  | _ => 4

/-- CONVERT (R99, R505). -/
def doConvert (s : State) (c slot : Nat) (o : VecOps) : Try (State × Completion) := do
  let x := coreOf s c
  let sub := o.subOp.toNat
  vecCheck x o 9 0
  need (if sub = 4 then invOk o.param0 && decide (o.param1.toNat ≤ 255) else decide (o.param0 = 0 ∧ o.param1 = 0)) 0x0106
  let n := vecLen x o
  if n = 0 then .ok (s, emptyDone)
  else
    let (as, x) ← vecFirst s x o slot (convIn sub) n
    let stoch := vecStoch o && decide (sub = 0 ∨ sub = 4)
    let (mds, x) ← roundModes s x slot stoch o.tensorId o.elemBase.toNat n
    let rs := as.mapIdx (fun i a => convOne sub o.param0 o.param1.toNat (mds.getD i .det) (BitVec.ofNat 32 a))
    let done := completion false ((rs.map Prod.snd).sum) 0 (stoch && x.rng.coarse)
    let slow := if stoch then vecSlow s x slot n else 0
    let vals := rs.map Prod.fst
    if vecToCarry o ∧ (sub = 5 ∨ sub = 6) then
      let x := if sub = 5 then { x with carryA := x.carryA ++ vals.map (BitVec.ofNat 16) }
        else { x with carryU := x.carryU ++ vals.map (BitVec.ofNat 40) }
      .ok (setCore s c (carryAdvance (coreAdd .vecBusyCycles (ceilDiv n 64) x)), done)
    else
      let f : ResFmt := if sub = 1 ∨ sub = 3 then .fp32 else if sub = 2 then .bf16 else .other
      vecResult s c x o slot (convOut sub) f vals (ceilDiv n 64) slow done

/-! ### FUNC, REDUCE, SOFTMAX -/

/-- A function by its sub-operation. -/
def funcOf (sub : Nat) : FuncId :=
  match sub with
  | 0 => .sigmoid
  | 1 => .tanh
  | 2 => .exp
  | 3 => .log
  | 4 => .reciprocal
  | 5 => .rsqrt
  | _ => .softplus

/-- FUNC (R101 to R104). -/
def doFunc (s : State) (c slot : Nat) (o : VecOps) : Try (State × Completion) := do
  let x := coreOf s c
  vecCheck x o 7 0
  vecZero o.param0
  vecZero o.param1
  let n := vecLen x o
  if n = 0 then .ok (s, emptyDone)
  else
    let (as, x) ← vecFirst s x o slot 4 n
    let vals := as.map (fun a => (funcUnit (funcOf o.subOp.toNat) (BitVec.ofNat 32 a)).toNat)
    vecResult s c (coreAdd .fuEvals n x) o slot 4 .fp32 vals (ceilDiv n 64) 0 (completion false 0 0 false)

/-- A list cut into pieces of `k`. -/
def chop {α : Type} (k : Nat) : Nat → List α → List (List α)
  | 0, _ => []
  | n + 1, l => l.take k :: chop k n (l.drop k)

/-- The combination of a reduction's sub-operation. -/
def reduceOp (sub : Nat) : W32 → W32 → W32 :=
  match sub with
  | 0 => fadd
  | 1 => fmax
  | _ => fmin

/-- REDUCE (R100). -/
def doReduce (s : State) (c slot : Nat) (o : VecOps) : Try (State × Completion) := do
  let x := coreOf s c
  let k := o.param0.toNat
  let n := vecLen x o
  vecCheck x o 3 0
  vecZero o.param1
  need (decide (1 ≤ k) && decide (n % k = 0)) 0x0106
  if n = 0 then .ok (s, emptyDone)
  else
    let (as, x) ← vecFirst s x o slot 4 n
    let vals := (chop k (n / k) (as.map (BitVec.ofNat 32))).map (fun r => ((reduceW (reduceOp o.subOp.toNat) r).getD 0).toNat)
    vecResult s c x o slot 4 .fp32 vals (ceilDiv n 64) 0 (completion false 0 0 false)

/-- SOFTMAX (R105). -/
def doSoftmax (s : State) (c slot : Nat) (o : VecOps) : Try (State × Completion) := do
  let x := coreOf s c
  let k := o.param0.toNat
  let n := vecLen x o
  vecCheck x o 1 0
  vecZero o.param1
  need (decide (1 ≤ k) && decide (k ≤ 16384) && decide (n % k = 0)) 0x0106
  if n = 0 then .ok (s, emptyDone)
  else
    let (as, x) ← vecFirst s x o slot 4 n
    let rows := chop k (n / k) (as.map (BitVec.ofNat 32))
    let vals := ((rows.map softmaxRow).flatten).map BitVec.toNat
    let evals := (rows.map (fun r => if r.any fpIsNan ∨ maxW r = fpNegInf then 0
      else if maxW r = fpInf then 1 else k + 1)).sum
    vecResult s c (coreAdd .fuEvals evals x) o slot 4 .fp32 vals (3 * (n / k) * ceilDiv k 64) 0
      (completion false 0 0 false)

/-! ### QUANT, RESCALE, GATE -/

/-- QUANT (R52): codes at `dst`, scale and z of each token at `src1`. -/
def doQuant (s : State) (c slot : Nat) (o : VecOps) : Try (State × Completion) := do
  let x := coreOf s c
  let k := o.param0.toNat
  let n := vecLen x o
  vecCheck x o 1 0
  vecZero o.param1
  need (decide (1 ≤ k) && decide (k ≤ 16384) && decide (n % k = 0)) 0x0106
  if n = 0 then .ok (s, emptyDone)
  else
    let (as, x) ← vecFirst s x o slot 4 n
    let stoch := vecStoch o
    let (mds, x) ← roundModes s x slot stoch o.tensorId o.elemBase.toNat n
    let toks := (chop k (n / k) (as.map (BitVec.ofNat 32))).mapIdx (fun t v =>
      quantToken (fun i => mds.getD (t * k + i) .det) v)
    let x ← spadWrite x (vecAddr o slot o.src1) (wordBytes 4 ((toks.map (fun t => [t.scale.toNat, t.z])).flatten))
    vecResult s c x o slot 1 .other ((toks.map (fun t => t.codes)).flatten) (2 * (n / k) * ceilDiv k 64)
      (if stoch then n / k * vecSlow s x slot k else 0)
      (completion false ((toks.map (fun t => t.sat)).sum) ((toks.map (fun t => t.degen)).sum) (stoch && x.rng.coarse))

/-- Operands of a lane command (R93): every vector-engine command but RESCALE. -/
def laneOps (op : CoreOp) : Option VecOps :=
  match op with
  | .element o | .convert o | .func o | .reduce o | .softmax o | .quant o | .gate o | .hadamard o | .upsample o => some o
  | _ => none

/-- Commands that follow in a core's stream: those in the vector engine's queue and the command window, then those that the
stream still holds. -/
def opsAhead (x : Core) : List CoreOp :=
  ((unitQ x 2).queue ++ x.window).map (fun q => q.op) ++
    ((List.range (x.prog.stream.length / 64)).drop x.fetchIndex).filterMap (fun i =>
      (cmdOf (streamCmd x.prog.stream i)).map Prod.snd)

/-- The next vector-engine command. -/
def nextVec (x : Core) : Option CoreOp := (opsAhead x).find? (fun op => decide (opUnit op = 2))

/-- The rescale stage's output goes to the next lane command in place of the scratchpad (R93, R109). DEDUCED: it does where
the next vector-engine command of the stream names the stage as its first operand. -/
def rescaleChained (x : Core) : Bool := (((nextVec x).bind laneOps).map vecFromRescale).getD false

/-- RESCALE (R56 to R58, R109). Accumulator i of the command is that of token i div N and channel i mod N. Source 0x0105 for
accumulators beyond the working region (R74, R76). DESIGN CHOICE: a RESCALE with bit 0, 1 or 2 of `vec_flags` set, which are
the routes of lane commands, raises source 0x0106. -/
def doRescale (s : State) (c slot : Nat) (o : VecOps) : Try (State × Completion) := do
  let x := coreOf s c
  let len := vecLen x o
  let n := o.src2.toNat
  let code := decide (o.subOp = 0)
  vecCheck x o 2 0
  need (decide (o.param1.toNat ≤ 255)) 0x0117
  need (decide (1 ≤ n) && decide (len % n = 0) && decide (o.vecFlags.toNat % 8 = 0)) 0x0106
  need (sResOk x && decide (o.src0.toNat + len ≤ 32768 - x.sRes)) 0x0105
  if len = 0 then .ok (s, emptyDone)
  else
    let table ← tryMap (fun i => match spadRead x ((o.param0.toNat + 16 * i : Nat) : Int) 16 with
      | .error e => .error e
      | .ok bs => .ok (rescaleEntry bs)) (List.range n)
    need (table.all (fun e => e.rsvdZero)) 0x0104
    let zs ← (if o.src1 = 0xFFFFFFFF#32 then .ok [] else spadWords x (vecAddr o slot o.src1) 1 (len / n))
    let stoch := vecStoch o && code
    let (mds, x) ← roundModes s x slot stoch o.tensorId o.elemBase.toNat len
    let one (i : Nat) : Nat × Nat :=
      let e := table.getD (i % n) { mult := 0, shift := 0, rsvdZero := true, bias := 0, rowsum := 0 }
      let a := (accGet x (o.src0.toNat + i)).toInt
      let z := zs.getD (i / n) 0
      if code then rescaleCode (mds.getD i .det) o.param1.toNat a z e else let r := rescaleReal a z e; (r.1.toNat, r.2)
    let rs := (List.range len).map one
    let vals := rs.map Prod.fst
    let x := coreAdd .rescaleElements len { x with rescaleOut := vals.map (BitVec.ofNat 32) }
    match (if rescaleChained x then .ok x else spadWrite x (vecAddr o slot o.dst) (wordBytes (if code then 1 else 4) vals)) with
    | .error e => .error e
    | .ok y =>
      .ok (setCore s c (coreAdd .srSlowCycles (if stoch then vecSlow s x slot len else 0) y),
        completion false ((rs.map Prod.snd).sum) 0 (stoch && x.rng.coarse))

/-- The fp32 decay of a gate pre-activation (R106). -/
def gateDecay (form : Nat) (g lam : W32) : W32 :=
  if form = 0 then funcUnit .sigmoid g else funcUnit .exp (fneg (fmul lam (funcUnit .softplus g)))

/-- One state element of a generator layer (R107): the new h and the saturation count. -/
def gateElem (form : Nat) (g lam gb v h : W32) : W32 × Nat :=
  let q := toDecay (gateDecay form g lam)
  (fma (decayFp q.1) h (fmul (funcUnit .sigmoid gb) v), q.2)

/-- GATE (R106 to R108). -/
def doGate (s : State) (c slot : Nat) (o : VecOps) : Try (State × Completion) := do
  let x := coreOf s c
  let form := o.subOp.toNat
  let n := vecLen x o
  let cell := decide (o.param1 = 1)
  vecCheck x o 2 0
  need (decide (o.param1.toNat ≤ 1) && (decide (form = 1) || decide (o.param0 = 0))) 0x0106
  if n = 0 then .ok (s, emptyDone)
  else
    let (gs, x) ← vecFirst s x o slot 4 n
    let lams ← (if form = 1 then spadFp x (o.param0.toNat : Int) n else .ok [])
    let bs ← spadFp x (vecAddr o slot o.src1) n
    let g (i : Nat) : W32 := BitVec.ofNat 32 (gs.getD i 0)
    let lam (i : Nat) : W32 := lams.getD i 0
    if cell then
      let as := (List.range n).map (fun i => toDecay (gateDecay form (g i) (lam i)))
      let us := bs.map toState
      let x := { x with carryA := x.carryA ++ as.map Prod.fst, carryU := x.carryU ++ us.map Prod.fst }
      let x := coreAdd .vecBusyCycles (ceilDiv ((form + 1) * n) 64) (coreAdd .fuEvals ((form + 1) * n) x)
      .ok (setCore s c (carryAdvance x), completion false ((as.map Prod.snd).sum + (us.map Prod.snd).sum) 0 false)
    else
      let vs ← spadFp x (vecAddr o slot o.src2) n
      let hs ← spadFp x (vecAddr o slot o.dst) n
      let rs := (List.range n).map (fun i => gateElem form (g i) (lam i) (bs.getD i 0) (vs.getD i 0) (hs.getD i 0))
      vecResult s c (coreAdd .fuEvals ((form + 2) * n) x) o slot 4 .fp32 (rs.map (fun r => r.1.toNat))
        (ceilDiv ((form + 2) * n) 64) 0 (completion false ((rs.map Prod.snd).sum) 0 false)

/-! ### HADAMARD, UPSAMPLE -/

/-- HADAMARD (R111, R112). -/
def doHadamard (s : State) (c slot : Nat) (o : VecOps) : Try (State × Completion) := do
  let x := coreOf s c
  let k := o.param0.toNat
  let n := vecLen x o
  vecCheck x o 1 0
  vecZero o.param1
  need (decide (k = 32 ∨ k = 64 ∨ k = 128 ∨ k = 256) && decide (n % k = 0)) 0x0106
  if n = 0 then .ok (s, emptyDone)
  else
    let (as, x) ← vecFirst s x o slot 4 n
    let vals := (mapBlocks (hadBlock (Nat.log2 k)) k (n / k) (as.map (BitVec.ofNat 32))).map BitVec.toNat
    vecResult s c (coreAdd .hadamardBlocks (n / k) x) o slot 4 .fp32 vals (ceilDiv n 64) 0
      (completion false 0 0 false)

/-- c_r of R125: (r + 1) / f to nearest fp32. -/
def upConst (f r : Nat) : W32 := fdiv32 (dyFp32 (dyInt ((r + 1 : Nat) : Int)) false) (dyFp32 (dyInt (f : Int)) false)

/-- Outputs of R125 for the inputs of one row, from the carried previous input. -/
def upsampleRow (f : Nat) : W32 → List W32 → List W32
  | _, [] => []
  | prev, v :: rest =>
    let d := fsub v prev
    (List.range f).map (fun r => fma (upConst f r) d prev) ++ upsampleRow f v rest

/-- UPSAMPLE (R125). -/
def doUpsample (s : State) (c slot : Nat) (o : VecOps) : Try (State × Completion) := do
  let x := coreOf s c
  let f := o.param0.toNat
  let n := vecLen x o
  vecCheck x o 1 0
  vecZero o.param1
  need (decide (2 ≤ f) && decide (f ≤ 8)) 0x0107
  if n = 0 then .ok (s, emptyDone)
  else
    let (as, x) ← vecFirst s x o slot 4 n
    let prev ← spadFp x (vecAddr o slot o.src1) 1
    let vals := (upsampleRow f (prev.getD 0 0) (as.map (BitVec.ofNat 32))).map BitVec.toNat
    vecResult s c x o slot 4 .fp32 vals (ceilDiv n 64 + ceilDiv (n * f) 64) 0 (completion false 0 0 false)

end Sys2Proof.Machine
end

