-- ==== Sys2Proof/Machine/SampleCmd.lean ====
section
/-!
DEFINITION. Sys2Proof/Machine/SampleCmd.lean: what the token sampler, the mark decoder and the random-number generator
do for their commands (R164 to R204).
-/
namespace Sys2Proof.Machine

open Sys2Proof

/-- One sampler row's outcome with the core after its draw. -/
def sampleRow (s : State) (x : Core) (o : SampleOps) (cb : Codebook) (tensor : W16) (r : Nat) : Try (DrawOut × Core) := do
  let l ← spadFp x ((o.logits.toNat + o.rowStride.toNat * r : Nat) : Int) o.vocab.toNat
  if (sampleCode cb l 0).used then do
    let (ws, y, _) ← drawWords s x r 0 tensor o.codebook.toNat 1
    .ok (sampleCode cb l (ws.getD 0 0), coreAdd .sampleDraws 1 y)
  else .ok (sampleCode cb l 0, coreAdd .greedyDraws 1 x)

/-- Rows `r` and up of a sampler command, in ascending order. -/
def sampleRows (s : State) (o : SampleOps) (cb : Codebook) (tensor : W16) : Nat → Nat → Core → Try (List DrawOut × Core)
  | 0, _, x => .ok ([], x)
  | n + 1, r, x => do
    let (d, y) ← sampleRow s x o cb tensor r
    let (ds, z) ← sampleRows s o cb tensor n (r + 1) y
    .ok (d :: ds, z)

/-- SAMPLE (R165 to R172). -/
def doSample (s : State) (c : Nat) (o : SampleOps) : Try (State × Completion) := do
  let x := coreOf s c
  let rows := slotCount x o.sFixed.toNat o.sPerSlot.toNat
  let v := o.vocab.toNat
  need (decide (1 ≤ v) && decide (v ≤ 16384) && decide (rows ≤ 32) && decide (o.sPerSlot.toNat ≤ 1)) 0x0108
  match coreBuild s x with
  | none => .error 0x0108
  | some b =>
    match b.desc.codebooks[o.codebook.toNat]? with
    | none => .error 0x0108
    | some cb =>
      if rows = 0 then .ok (s, emptyDone)
      else do
        let (ds, y) ← sampleRows s o cb b.desc.sampleTensor rows 0 x
        let y := coreAdd .toppCuts ((ds.filter (fun d => d.cut)).length) y
        let z ← spadWrite y (o.dst.toNat : Int) (wordBytes 2 (ds.map (fun d => d.code)))
        .ok (setCore s c z, completion false ((ds.map (fun d => d.sat)).sum) 0 false)

/-! ### Marks -/

/-- Samples per chunk of a build (R173). -/
def chunkSamples (b : Build) : Nat := b.outputRate / 50

/-- Ring 0's plan pointer that is current for a session (R251). -/
def planPtr (act : Bool) (r : SRing) : Nat := if act then r.planB else r.planA

/-- The entry of ring 0 that holds token `i` of a slot's utterance: the plan pointer stays at the utterance's first token
until the utterance ends (DEDUCED). -/
def tokenEntry (ss : Session) (act : Bool) (i : Nat) : List Byte :=
  match tfind ss.rings 0 with
  | none => zeros 8
  | some r => if r.entries = 0 then zeros 8 else tget (zeros 8) r.data ((planPtr act r + i) % r.entries)

/-- Active half of a slot of a core's step, as its commit record stands. -/
def slotActive (s : State) (x : Core) (slot : Nat) : Bool :=
  match x.ctx with
  | none => false
  | some k =>
    match tfind s.yealms k.yealm with
    | none => false
    | some y => bit y.rcd.active slot

/-- The marks of one slot's frame (R174, R177), with the number of fallbacks, and the NaN count of its scores. -/
def slotMarks (s : State) (x : Core) (o : MarkOps) (b : Build) (r : Nat) : Try (List (List Byte) × Nat × Nat) :=
  match slotWork s x r with
  | none => .ok ([], 0, 0)
  | some w =>
    match tfind s.sessions w.session with
    | none => .ok ([], 0, 0)
    | some ss =>
      let mp := b.desc.marks
      let ns := chunkSamples b
      let first := w.step0 * ns
      if bit w.pos.flags.toNat 0 then
        .ok (if bit mp.kinds.toNat 2 then [markBytes first ss.uttTokens 2 false 0] else [], 0, 0)
      else
        match w.row with
        | some (i, true) => do
          let sc ← (if mp.h = 0 then .ok []
            else spadFp x ((o.scores.toNat + o.rowStride.toNat * r : Nat) : Int) (2 * mp.p))
          let cAt := o.counts.toNat + o.countsStride.toNat * r + i
          let ci ← spadWords x (cAt : Int) 1 1
          let cp ← (if i = 0 then .ok [] else spadWords x ((cAt - 1 : Nat) : Int) 1 1)
          let q := markOnset mp sc cp.head? (ci.getD 0 0)
          let onset := ((first : Int) + q.1 * ((ns / max 1 mp.p : Nat) : Int)).toNat
          let e := tokenEntry ss (slotActive s x r) i
          let code := fld e 0 2
          let word := if bit mp.kinds.toNat 1 ∧ mp.wordClasses.getLsbD (fld e 4 1) then [markBytes onset i 1 q.2 code] else []
          let phon := if bit mp.kinds.toNat 0 then [markBytes onset i 0 q.2 code] else []
          .ok (word ++ phon, b2n q.2, (sc.filter fpIsNan).length)
        | _ => .ok ([], 0, 0)

/-- MARK (R174 to R179): the records of slot r are staged at `dst` + 32·r. -/
def doMark (s : State) (c : Nat) (o : MarkOps) : Try (State × Completion) := do
  let x := coreOf s c
  let rows := slotCount x o.sFixed.toNat o.sPerSlot.toNat
  match coreBuild s x with
  | none => .error 0x0109
  | some b => do
    let len := if b.desc.marks.h = 0 then 0 else 8 * b.desc.marks.p
    need (decide (rows ≤ 32) && decide (o.sPerSlot.toNat ≤ 1) &&
      (List.range rows).all (fun r => spadIn ((o.scores.toNat + o.rowStride.toNat * r : Nat) : Int) len)) 0x0109
    if rows = 0 then .ok (s, emptyDone)
    else do
      let ms ← tryMap (slotMarks s x o b) (List.range rows)
      let y ← (ms.mapIdx (fun r m => (r, m.1))).foldl (fun (t : Try Core) e =>
        match t with
        | .error f => .error f
        | .ok y => spadWrite y ((o.dst.toNat + 32 * e.1 : Nat) : Int) e.2.flatten) (.ok x)
      let y := coreAdd .marksMade ((ms.map (fun m => m.1.length)).sum) (coreAdd .markFallbacks ((ms.map (fun m => m.2.1)).sum) y)
      let s := setCore s c y
      let s := (ms.mapIdx (fun r m => (r, m.1))).foldl (fun s e =>
        match slotWork s y e.1 with
        | none => s
        | some w => if e.2 = [] then s else setSlotWork s y e.1 { w with marks := w.marks ++ e.2 }) s
      .ok (s, completion false ((ms.map (fun m => m.2.2)).sum) 0 false)

/-! ### Random-number generator -/

/-- Bytes of a compatibility segment with 32 lane tables (R159). -/
@[irreducible] def compatBytes : Nat := 7176

/-- COMPAT_LOAD: the lane tables of slot `cur_slot` from its compatibility segment (R159, R192, R196). In coarse mode the
tables are not read (R197). -/
def doCompatLoad (s : State) (c slot : Nat) (spad : W32) : Try (State × Completion) := do
  let x := coreOf s c
  let bs ← spadRead x (spad.toNat : Int) compatBytes
  if x.rng.coarse then .ok (s, completion false 0 0 false)
  else
    let ls := (List.range 32).map (fun l => laneOf (cut bs (8 + 224 * l) 224))
    .ok (setCore s c { x with rng := { x.rng with lanes := tins x.rng.lanes slot ls, cursor := tdel x.rng.cursor slot } },
      completion false 0 0 false)

/-- The compatibility segment of lane tables. -/
def compatSegment (ls : List LaneTab) : List Byte := le 4 32 ++ zeros 4 ++ (ls.map laneBytes).flatten

/-- COMPAT_SAVE: the reverse; source 0x010C for a slot without lane tables (R202). In coarse mode the tables are not read, so
there is nothing to write (R197). -/
def doCompatSave (s : State) (c slot : Nat) (spad : W32) : Try (State × Completion) :=
  let x := coreOf s c
  if x.rng.coarse then
    if spadIn (spad.toNat : Int) compatBytes then .ok (s, completion false 0 0 false) else .error 0x0112
  else match tfind x.rng.lanes slot with
  | none => .error 0x010C
  | some ls => do
    let y ← spadWrite x (spad.toNat : Int) (compatSegment ls)
    .ok (setCore s c y, completion false 0 0 false)

/-- Value of one draw (Table 9.3): drop as 0 or 1, init as fp32, dither as fp32 in LSB of the target code. DEDUCED: the
forms of the drop and dither results. -/
def drawValue (purpose : Nat) (tDrop a : W32) (r : W32) : W32 :=
  match purpose with
  | 2 => drawDrop tDrop r
  | 3 => drawInit a r
  | _ => dyFp32 { m := drawDither r, e := -8 } false

/-- The job threshold that a drop draw of a slot uses (R377); 0 where the slot serves no job. -/
def slotDrop (s : State) (x : Core) (slot : Nat) : W32 :=
  match slotWork s x slot with
  | none => 0
  | some w =>
    match tfind s.sessions w.session with
    | none => 0
    | some ss => (ss.job.map (fun j => j.tDrop)).getD 0

/-- DRAW (R189, R202). -/
def doDraw (s : State) (c slot : Nat) (o : DrawOps) : Try (State × Completion) := do
  let x := coreOf s c
  let n := o.count.toNat
  let p := o.purpose.toNat
  need (decide (p ≤ 4)) 0x010C
  need (decide (2 ≤ p) && decide (1 ≤ n) && decide (n ≤ 1048576) && (decide (p = 3) || decide (o.drawParam = 0))) 0x0117
  let (ws, y, coarse) ← drawWords s x slot p o.tensorId o.elemBase.toNat n
  let z ← spadWrite y (o.dst.toNat : Int) (wordBytes 4 (ws.map (fun w =>
    (drawValue p (slotDrop s x slot) o.drawParam w).toNat)))
  .ok (setCore s c z, completion false 0 0 coarse)

end Sys2Proof.Machine
end

