-- ==== Sys2Proof/Machine/SessBase.lean ====
section
/-!
DEFINITION. Sys2Proof/Machine/SessBase.lean: shared operations on sessions and yealms: handles, state halves and the
position block (R136, R137, R145), commit record bits (R147, R152), and what a session sends (R314, R365, R372).
-/
namespace Sys2Proof.Machine

open Sys2Proof

/-! ### Sessions and yealms -/

/-- Session handle (R355). -/
def handleOf (i : Nat) (ss : Session) : Nat := ss.gen * 65536 + i

/-- The sessions that claim a slot of a yealm, with their index, in ascending index. -/
def claimants (s : State) (y : Nat) : List (Nat × Session) :=
  s.sessions.filter (fun e => match e.2.attach with
    | some a => decide (a.yealm = y)
    | none => false)

/-- The session that holds a slot of a yealm by an ATTACH in effect. -/
def slotSession (s : State) (y slot : Nat) : Option (Nat × Session) :=
  (claimants s y).find? (fun e => match e.2.attach with
    | some a => decide (a.slot = slot) && a.effective && decide (e.2.st ≠ .lost)
    | none => false)

/-- The attachment of a session that is in effect. -/
def effAttach (ss : Session) : Option Attachment := ss.attach.filter (fun a => a.effective)

/-- Active half of a session: its slot's bit of the commit record while attached, its own bit otherwise (R152). -/
def sessActive (s : State) (ss : Session) : Bool :=
  match effAttach ss with
  | some a => match yealmOf s a.yealm with
    | some y => bit y.rcd.active a.slot
    | none => ss.active
  | none => ss.active

/-- Previous-valid bit of a session, by the same rule. -/
def sessPrev (s : State) (ss : Session) : Bool :=
  match effAttach ss with
  | some a => match yealmOf s a.yealm with
    | some y => bit y.rcd.prevValid a.slot
    | none => ss.prevValid
  | none => ss.prevValid

/-- Sets or clears a mask bit. -/
def setBit (m i : Nat) (b : Bool) : Nat := if b then m ||| 2 ^ i else if bit m i then m - 2 ^ i else m

/-! ### State halves -/

/-- Position block from bytes (Table 7.2). -/
def posOf (bs : List Byte) : Pos :=
  { chunkCount := fld bs 0 8, encNext := fld bs 8 4, repTok := fld bs 12 4, repRep := fld bs 16 1
    flags := BitVec.ofNat 8 (fld bs 17 1), yPrev := BitVec.ofNat 32 (fld bs 20 4), anchorTurns := fld bs 24 4
    anchorSteps := fld bs 28 4 }

/-- Position block in bytes. -/
def posBytes (p : Pos) : List Byte :=
  le 8 p.chunkCount ++ le 4 p.encNext ++ le 4 p.repTok ++ le 1 p.repRep ++ [p.flags] ++ zeros 2 ++ le 4 p.yPrev.toNat ++
    le 4 p.anchorTurns ++ le 4 p.anchorSteps

/-- Committed position block of a session. -/
def sessPos (s : State) (ss : Session) : Pos := posOf (halfOf ss (sessActive s ss))

/-- Writes the active half's position block. -/
def putPos (s : State) (i : Nat) (p : Pos) : State :=
  match sessOf s i with
  | none => s
  | some ss =>
    let h := sessActive s ss
    modSess s i (fun _ => putHalf ss h (splice (halfOf ss h) 0 (posBytes p)))

/-- Size of a component padded to 8 bytes (R145). -/
def compSize (c : Component) : Nat := (c.elemBytes * c.elements + 7) / 8 * 8

/-- Offset and entry of a component in a half: the position block comes first. -/
def compAt (id : Nat) : Nat → List Component → Option (Nat × Component)
  | _, [] => none
  | off, c :: rest => if c.id = id then some (off, c) else compAt id (off + compSize c) rest

/-- A component of a build's half. -/
def findComp (d : ModelDesc) (id : Nat) : Option (Nat × Component) := compAt id 32 d.layout

/-- Samples a session has produced (R176). -/
def sessSamples (s : State) (ss : Session) : Nat :=
  match buildOf s ss.build with
  | some b => (sessPos s ss).chunkCount * chunkSamples b
  | none => 0

/-! ### Ring traffic of I/O blocks (R213, R232) -/

/-- `f` on the bytes of `n` entries of a session ring from count `e` on, which may wrap (R250). -/
def ringSpan (f : State → Area → Nat → Nat → State) (s : State) (i r e n : Nat) : State :=
  match sessOf s i with
  | none => s
  | some ss =>
    let g := sringOf ss r
    let o := e % max 1 g.entries
    let k := min n (g.entries - o)
    let s := f s (.entries i r) (o * g.entryBytes) (k * g.entryBytes)
    if n - k = 0 then s else f s (.entries i r) 0 ((n - k) * g.entryBytes)

/-- The network engine or firmware has written `n` entries into a ring, up to its `io_ptr`. -/
def ringWritten (s : State) (i r n : Nat) : State :=
  match sessOf s i with
  | none => s
  | some ss => ioUse (ringSpan areaWrote s i r ((sringOf ss r).io + 4294967296 - n) n) i (n * (sringOf ss r).entryBytes)

/-- The network engine or the audio block reads `n` entries of a ring from its `io_ptr`. -/
def ringTaken (s : State) (i r n : Nat) : State :=
  match sessOf s i with
  | none => s
  | some ss => ioOut (ringSpan areaRead s i r (sringOf ss r).io n) i (n * (sringOf ss r).entryBytes)

/-- Bytes of a session's eaves buffer that an I/O block reads. -/
def eavesTaken (s : State) (i o n : Nat) : State := ioOut (areaRead s (.eaves i) o n) i n

/-! ### Stream messages of a session -/

/-- The connection of a session's `client_tag` that was opened last, of those that `ok`. -/
def lastConn (s : State) (ss : Session) (ok : Conn → Bool) : Option Nat :=
  ((s.conns.filter (fun e => decide (e.2.tag = ss.tag) && ok e.2)).foldl (fun (b : Option (Nat × Nat)) e =>
    match b with
    | none => some (e.1, e.2.opened)
    | some (_, o) => if o < e.2.opened then some (e.1, e.2.opened) else b) none).map Prod.fst

/-- The connection that a session's output goes to (R365): the open one opened last; where every one is HELD or CLOSING, the last of
those, which discards and counts it (R314, R324). -/
def sessConn (s : State) (ss : Session) : Option Nat :=
  (lastConn s ss (fun x => decide (x.st = .open))).orElse (fun _ => lastConn s ss (fun _ => true))

/-- EVENT body (Table 15.7). -/
def eventBody (h code status sample detail : Nat) : List Byte :=
  le 4 h ++ le 2 code ++ le 2 status ++ zeros 4 ++ le 8 sample ++ le 8 detail

/-- A stream message of a session, reliably; the Bool says that it left. -/
def streamTo (s : State) (ss : Session) (typ : Nat) (body : List Byte) (cls : MsgClass) : State × Bool :=
  match sessConn s ss with
  | none => (s, false)
  | some c => sendStream s c typ body cls

/-- The OUTPUT_GAP event after a discard (R314, Table 15.8): when it is itself discarded, what it covers stays for the
next one. -/
def sendGap (s : State) (i : Nat) : State :=
  match sessOf s i with
  | none => s
  | some ss =>
    let body := eventBody (handleOf i ss) 0x0004 0 (ss.gapFirst.getD (sessSamples s ss))
      (min ss.gapSamples 4294967295 + min ss.gapMsgs 65535 * 4294967296)
    let r := streamTo s ss 0x0303 body .marks
    if r.2 then modSess r.1 i (fun x => { x with gapFirst := none, gapSamples := 0, gapMsgs := 0 }) else r.1

/-- Account of a discarded MARK, EVENT or FAULT_MARKER. -/
def gapMsg (s : State) (i : Nat) : State :=
  sendGap (modSess s i (fun x => { x with gapMsgs := min 65535 (x.gapMsgs + 1) })) i

/-- Account of discarded AUDIO samples. -/
def gapAudio (s : State) (i first n : Nat) : State :=
  sendGap (modSess s i (fun x => { x with gapFirst := some (x.gapFirst.getD first)
                                          gapSamples := min 4294967295 (x.gapSamples + n) })) i

/-- An EVENT of a session (R370, R372). -/
def sendEvent (s : State) (i code status sample detail : Nat) : State :=
  match sessOf s i with
  | none => s
  | some ss =>
    let r := streamTo s ss 0x0303 (eventBody (handleOf i ss) code status sample detail) .marks
    if r.2 then r.1 else gapMsg r.1 i

/-- SUSPENDED or READMITTED to every session attached to a yealm (R283). -/
def yealmEvents (s : State) (y code : Nat) : State :=
  (claimants s y).foldl (fun s e => if e.2.st = .lost then s else sendEvent s e.1 code 0 (sessSamples s e.2) y) s

/-! ### Session states and the stop point -/

/-- State of an open session from what it holds (Tables 15.1 and 15.2). -/
def stateOfSess (ss : Session) : SState :=
  if ss.st = .lost then .lost
  else if (effAttach ss).isNone then .detached
  else if ss.job.isSome then .enrolling
  else if 0 < ss.uttTokens ∨ ss.queuedTokens.isSome then .speaking
  else .idle

/-- Brings a session's state up to date. -/
def fixState (s : State) (i : Nat) : State := modSess s i (fun ss => { ss with st := stateOfSess ss })

/-- Moves ring 0's plan pointer past `n` tokens, in both copies. -/
def passTokens (ss : Session) (act : Bool) (n : Nat) : Session :=
  let g := sringOf ss 0
  let p := planPtr act g + n
  putRing ss 0 (setPlanPtr (setPlanPtr g true p) false p)

/-- Clears a session's previous-valid bit, in the commit record while attached. -/
def clearPrev (s : State) (i : Nat) : State :=
  match sessOf s i with
  | none => s
  | some ss =>
    match effAttach ss with
    | some a => modRcd s a.yealm (fun r => { r with prevValid := setBit r.prevValid a.slot false })
    | none => modSess s i (fun x => { x with prevValid := false })

/-- Drops a session's admitted chunk (R155, R363): its slot runs the steps not yet begun empty. -/
def dropChunk (s : State) (i : Nat) : State :=
  match sessOf s i with
  | none => s
  | some ss =>
    let s := modSess s i (fun x => { x with admitted := none })
    match effAttach ss with
    | none => s
    | some a =>
      match yealmOf s a.yealm with
      | none => s
      | some y => modBay s y.bay (fun b => { b with todo := b.todo.map (fun t =>
          if t.yealm = a.yealm ∧ ¬ t.begun then { t with mask := setBit t.mask a.slot false } else t) })

/-- One STOPPED event and one response of a stop point. -/
def stopOne (i sample : Nat) (first : Nat) (s : State) (w : StopWait) : State :=
  let s := sendEvent s i 0x0003 0 sample (b2n w.barge + (first + w.drop) * 4294967296)
  match w.resp with
  | some rt => respond s rt stOk (le 8 sample)
  | none => s

/-- The stop point of a session whose STOPs wait (R363): the four actions, then the responses. -/
def stopPoint (s : State) (i : Nat) : State :=
  match sessOf s i with
  | none => s
  | some ss =>
    match ss.stopWait with
    | [] => s
    | w :: rest =>
      let n := ss.uttTokens + (ss.stopWait.map (fun w => w.drop)).sum
      let p := sessPos s ss
      let s := modSess s i (fun x => { passTokens x (sessActive s ss) n with uttTokens := 0, stopWait := [], admitted := none })
      let s := putPos s i { p with encNext := 0, repTok := 0, repRep := 0, flags := 0 }
      let s := fixState (clearPrev s i) i
      let sample := (sessOf s i).elim 0 (sessSamples s)
      rest.foldl (stopOne i sample 0) (stopOne i sample ss.uttTokens s w)

/-- A step that never commits leaves its utterance queued (R149, R150): what its start had taken from the queue goes back. -/
def unstartUtt (s : State) (i : Nat) : State :=
  modSess s i (fun ss =>
    if ss.queuedTokens.isNone ∧ 0 < ss.uttTokens ∧ ¬ bit (posOf (halfOf ss (sessActive s ss))).flags.toNat 1 then
      { ss with queuedTokens := some ss.uttTokens, uttTokens := 0 }
    else ss)

end Sys2Proof.Machine
end

