-- ==== Sys2Proof/Machine/MoveCmd.lean ====
section
/-!
DEFINITION. Sys2Proof/Machine/MoveCmd.lean: what moves data for a core: the DMA engines with their descriptors and rings
(R242 to R253), and the save/restore engine (R145 to R150, R288, R289).
-/
namespace Sys2Proof.Machine

open Sys2Proof

/-! ### Descriptor and ring images -/

/-- A DMA descriptor from its 64-byte image (Table 11.3); source 0x0117 for a reserved byte. -/
def descOf (bs : List Byte) : Try DmaDesc :=
  if isZero bs 38 26 then
    .ok { srcKind := BitVec.ofNat 8 (fld bs 0 1), dstKind := BitVec.ofNat 8 (fld bs 1 1), ring := BitVec.ofNat 8 (fld bs 2 1)
          flags := BitVec.ofNat 8 (fld bs 3 1), rowBytes := BitVec.ofNat 32 (fld bs 4 4), src := BitVec.ofNat 64 (fld bs 8 8)
          dst := BitVec.ofNat 64 (fld bs 16 8), rows := BitVec.ofNat 32 (fld bs 24 4)
          srcStride := BitVec.ofNat 32 (fld bs 28 4), dstStride := BitVec.ofNat 32 (fld bs 32 4)
          sessionRing := BitVec.ofNat 8 (fld bs 36 1), slot := BitVec.ofNat 8 (fld bs 37 1) }
  else .error 0x0117

/-- A ring descriptor's fields from its 32-byte image (Table 11.2), before its limits are checked. -/
def ringOf (bs : List Byte) : RingDesc :=
  { base := BitVec.ofNat 64 (fld bs 0 8), slotBytes := BitVec.ofNat 32 (fld bs 8 4), slots := BitVec.ofNat 8 (fld bs 12 1)
    flags := BitVec.ofNat 8 (fld bs 13 1), fillSem := BitVec.ofNat 8 (fld bs 14 1), roomSem := BitVec.ofNat 8 (fld bs 15 1)
    producerIdx := BitVec.ofNat 8 (fld bs 16 1), consumerIdx := BitVec.ofNat 8 (fld bs 17 1)
    head := BitVec.ofNat 8 (fld bs 18 1), tail := BitVec.ofNat 8 (fld bs 19 1) }

/-- Limits of Tables 11.2 and 11.8 on a ring image. -/
def ringImageOk (bs : List Byte) : Bool :=
  let r := ringOf bs
  let n := r.slotBytes.toNat
  decide (3 ≤ r.slots.toNat) && decide (r.slots.toNat ≤ 16) && decide (r.flags.toNat < 8) && isZero bs 20 12 &&
    (if bit r.flags.toNat 0 then decide (128 ≤ n) && decide (n ≤ 16777216) && decide (n % 128 = 0)
     else decide (64 ≤ n) && decide (n ≤ 1048576) && decide (n % 64 = 0))

/-- A ring descriptor of a core. -/
def coreRing (x : Core) (i : Nat) : RingDesc := tget ringD x.rings i
/-- Stores a ring descriptor. -/
def setCoreRing (x : Core) (i : Nat) (r : RingDesc) : Core := { x with rings := tput ringD x.rings i r }
/-- A DMA descriptor of a core. -/
def coreDesc (x : Core) (i : Nat) : DmaDesc := tget descD x.descs i
/-- Stores a DMA descriptor. -/
def setCoreDesc (x : Core) (i : Nat) (d : DmaDesc) : Core := { x with descs := tput descD x.descs i d }
/-- Ownership of a descriptor. -/
def dmaOf (x : Core) (i : Nat) : DmaSlot := tget dmaD x.dma i
/-- Stores the ownership of a descriptor. -/
def setDma (x : Core) (i : Nat) (d : DmaSlot) : Core := { x with dma := tput dmaD x.dma i d }

/-- Bytes of the plan's constant area; source 0x0117 beyond it. -/
def constBytes (x : Core) (a : W32) (n : Nat) : Try (List Byte) :=
  if a.toNat + n ≤ x.prog.consts.length then .ok (cut x.prog.consts a.toNat n) else .error 0x0117

/-- DESC_WRITE: source 0x0116 for a descriptor owned or pending (R248). -/
def doDescWrite (s : State) (c : Nat) (desc : Byte) (constAt : W32) : Try (State × Completion) := do
  let x := coreOf s c
  need (decide (desc.toNat < 128)) 0x0117
  let bs ← constBytes x constAt 64
  let d ← descOf bs
  need (decide ((dmaOf x desc.toNat).active = none)) 0x0116
  .ok (setCore s c (setCoreDesc x desc.toNat d), completion false 0 0 false)

/-- RING_WRITE: `head` and `tail` become 0 (Table 11.15). -/
def doRingWrite (s : State) (c : Nat) (ring : Byte) (constAt : W32) : Try (State × Completion) := do
  let x := coreOf s c
  need (decide (ring.toNat < 64)) 0x0117
  let bs ← constBytes x constAt 32
  need (ringImageOk bs) 0x0117
  .ok (setCore s c (setCoreRing x ring.toNat { ringOf bs with head := 0, tail := 0 }), completion false 0 0 false)

/-! ### Arms and transfers -/

/-- Field limits of an armed descriptor (Tables 11.3 and 11.8). -/
def descOk (d : DmaDesc) : Bool :=
  decide (d.srcKind.toNat ≤ 2) && decide (d.dstKind.toNat ≤ 2) && (decide (d.ring.toNat < 64) || decide (d.ring = 0xFF#8)) &&
    decide (d.flags.toNat < 2) && decide (64 ≤ d.rowBytes.toNat) && decide (d.rowBytes.toNat ≤ 16777216) &&
    decide (d.rowBytes.toNat % 64 = 0) && decide (d.rows.toNat ≤ 65536) && decide (d.sessionRing.toNat < 16) &&
    decide (d.slot.toNat < 32)

/-- The transfer writes the ring its descriptor names: the core is the ring's producer and, where it is the consumer too,
the destination lies in the ring's memory (DEDUCED). -/
def writesRing (d : DmaDesc) (r : RingDesc) : Bool :=
  bit r.flags.toNat 1 && (!bit r.flags.toNat 2 || decide (d.dstKind.toNat = b2n (bit r.flags.toNat 0)))

/-- Transfers in progress on a ring's written or read end. -/
def ringInFlight (x : Core) (ring : Nat) (writes : Bool) : Nat :=
  (x.dma.filter (fun e => match e.2.active with
    | some t => decide (t.ring.toNat = ring) && (t.writesRing == writes)
    | none => false)).length

/-- Slot address of a ring end for the next transfer or command (R243, Table 11.6). -/
def ringSlotAddr (x : Core) (ring : Nat) (writes : Bool) : Int :=
  let r := coreRing x ring
  let p := (if writes then r.head.toNat else r.tail.toNat) + ringInFlight x ring writes
  (r.base.toNat : Int) + ((p % max 1 r.slots.toNat) * r.slotBytes.toNat : Nat)

/-- An end of a transfer of kind 0, 1 or 2. -/
def xferEnd (s : State) (x : Core) (kind : Nat) (addr : Int) (d : DmaDesc) (slot : Nat) : XferEnd :=
  match kind with
  | 0 => .spad addr
  | 1 => .bay addr
  | _ => .sess (((slotWork s x slot).map (fun w => w.session)).getD 65536) d.sessionRing.toNat

/-- Addresses that a transfer's end reaches lie inside its memory (R246). -/
def xferIn (group : List Nat) (e : XferEnd) (rowBytes rows : Nat) (stride : Int) : Try Unit :=
  match e with
  | .spad a => need ((List.range rows).all (fun i => spadIn (a + (i : Int) * stride) rowBytes)) 0x0112
  | .bay a => need ((List.range rows).all (fun i => bayIn group (a + (i : Int) * stride) rowBytes)) 0x0113
  | .sess _ _ => .ok ()

/-- The transfer an arm starts, with the descriptor and ring as they stand (R245 to R247); `none` for no rows. -/
def startXfer (s : State) (c desc : Nat) (q : ArmReq) : Try (Option Transfer) := do
  let x := coreOf s c
  let d := coreDesc x desc
  need (descOk d) 0x0117
  if d.rows = 0 then .ok none
  else do
    let named := decide (d.ring ≠ 0xFF#8)
    let r := coreRing x d.ring.toNat
    let wr := named && writesRing d r
    let slot := q.slot.getD d.slot.toNat
    let sa : Int := if named && !wr then ringSlotAddr x d.ring.toNat false else d.src.toInt
    let da : Int := if wr then ringSlotAddr x d.ring.toNat true else d.dst.toInt
    let src := xferEnd s x d.srcKind.toNat (sa + q.srcStep) d slot
    let dst := xferEnd s x d.dstKind.toNat (da + q.dstStep) d slot
    let group := coreGroup s x
    xferIn group src d.rowBytes.toNat d.rows.toNat d.srcStride.toInt
    xferIn group dst d.rowBytes.toNat d.rows.toNat d.dstStride.toInt
    .ok (some { arm := q, src := src, dst := dst, rowBytes := d.rowBytes.toNat, rows := d.rows.toNat
                srcStride := d.srcStride.toInt, dstStride := d.dstStride.toInt, ring := d.ring, writesRing := wr
                alloc := !bit d.flags.toNat 0 })

/-- What an arm did: it started a transfer, is held pending, or had no rows and completes at once. -/
inductive ArmDone where
  | started
  | held
  | empty
  deriving DecidableEq, Repr

/-- ARM (R245 to R248). -/
def doArm (s : State) (c slot : Nat) (post : Post) (o : ArmOps) : Try (State × ArmDone) := do
  let x := coreOf s c
  let i := o.desc.toNat
  need (decide (i < 128) && decide (o.armFlags.toNat < 2)) 0x0117
  let q : ArmReq :=
    { engine := o.engine, post := post, srcStep := (slot : Int) * o.srcSlotStep.toInt
      dstStep := (slot : Int) * o.dstSlotStep.toInt, slot := if bit o.armFlags.toNat 0 then some slot else none }
  let own := dmaOf x i
  match own.active with
  | some _ =>
    match own.waiting with
    | some _ => .error 0x0116
    | none => .ok (setCore s c (coreAdd .pendingArms 1 (setDma x i { own with waiting := some q })), .held)
  | none => do
    let t ← startXfer s c i q
    match t with
    | none => .ok (s, .empty)
    | some t => .ok (setCore s c (setDma x i { own with active := some t }), .started)

/-! ### Copying -/

/-- Session ring of a kind-2 end. -/
def sessRing (s : State) (i r : Nat) : SRing := ((sessOf s i).map (fun ss => sringOf ss r)).getD ringAbsent

/-- Working plan pointer of a session ring during a step: the copy of the inactive half (R251). -/
def workPtr (s : State) (i r : Nat) : Nat :=
  match sessOf s i with
  | none => 0
  | some ss => planPtr (!sessActive s ss) (sringOf ss r)

/-- Index of the entry at which a step reads ring 0: the next token to encode (R24), or any other ring at its working
pointer. -/
def entryStart (s : State) (i r : Nat) : Nat :=
  match sessOf s i with
  | none => 0
  | some ss =>
    if r = 0 then
      planPtr (sessActive s ss) (sringOf ss 0) + (sessPos s ss).encNext
    else workPtr s i r

/-- The `io_ptr` recorded at t0 for a session's ring (R252). -/
def recordedIo (s : State) (x : Core) (i r : Nat) : Nat :=
  match x.ctx with
  | none => 0
  | some k =>
    match yealmOf s k.yealm with
    | none => 0
    | some y => ((y.work.find? (fun e => e.2.session = i)).map (fun e => e.2.ioPtrs.getD r 0)).getD 0

/-- Lines of `n` bytes of a session ring from a byte offset past entry `e` (R250). -/
def ringLines (s : State) (i r e off n : Nat) : List Nat :=
  let g := sessRing s i r
  let w := max 1 g.entryBytes
  if n = 0 then []
  else ((List.range ((off + n - 1) / w - off / w + 1)).flatMap (fun k =>
    areaLines s (.entries i r) ((e + off / w + k) % max 1 g.entries * w) w)).eraseDups

/-- One byte of a session ring at a byte offset from the entry where the step reads; an entry at or beyond the recorded
`io_ptr` gives a free value. -/
def sessByte (s : State) (x : Core) (i r k : Nat) : Byte :=
  let g := sessRing s i r
  if g.entries = 0 then Config.freeByte (s.fresh + k)
  else
    let e := (entryStart s i r + k / max 1 g.entryBytes) % 4294967296
    if g.dir = 0 ∧ ¬ (0 < cnt32 (recordedIo s x i r) e ∧ cnt32 (recordedIo s x i r) e ≤ g.entries) then
      Config.freeByte (s.fresh + k)
    else (entryGet g e).getD (k % max 1 g.entryBytes) 0

/-- Bytes that row `i` of a transfer reads. -/
def readRow (s : State) (c : Nat) (t : Transfer) (i : Nat) : Try (List Byte × State) :=
  let x := coreOf s c
  let group := coreGroup s x
  match t.src with
  | .spad a =>
    match spadRead x (a + (i : Int) * t.srcStride) t.rowBytes with
    | .error e => .error e
    | .ok bs => .ok (bs, s)
  | .bay a =>
    let at' := a + (i : Int) * t.srcStride
    match bayRead s group at' t.rowBytes with
    | .error e => .error e
    | .ok bs =>
      let b := (x.ctx.map (fun k => k.bay)).getD 64
      .ok (bs, (linesOf group at'.toNat t.rowBytes).foldl (fun s p => ridgeRead s b p t.alloc) s)
  | .sess j r =>
    let lines := ringLines s j r (entryStart s j r) (i * t.rowBytes) t.rowBytes
    match linesClean s lines with
    | .error e => .error e
    | .ok _ => .ok ((List.range t.rowBytes).map (fun k => sessByte s x j r (i * t.rowBytes + k)), readLines s lines)

/-- Writes bytes into a session ring from a byte offset of its working pointer (R251). An entry that its consumer has not
passed is not overwritten (R253). -/
def sessWrite (s : State) (i r off : Nat) (bs : List Byte) : State :=
  let g := sessRing s i r
  let n := max 1 g.entryBytes
  let p := workPtr s i r
  if g.entries = 0 ∨ g.dir = 0 ∨ g.entries < cnt32 (p + (off + bs.length + n - 1) / n) g.io then s
  else
    let g := (bs.mapIdx (fun k b => (off + k, b))).foldl (fun g e =>
      let idx := p + e.1 / n
      entryPut g idx ((entryGet g idx).set (e.1 % n) e.2)) g
    modSess s i (fun ss => putRing ss r g)

/-- Writes row `i` of a transfer. -/
def writeRow (s : State) (c : Nat) (t : Transfer) (i : Nat) (bs : List Byte) : Try State :=
  let x := coreOf s c
  let group := coreGroup s x
  match t.dst with
  | .spad a =>
    match spadWrite x (a + (i : Int) * t.dstStride) bs with
    | .error e => .error e
    | .ok y => .ok (setCore s c y)
  | .bay a =>
    let at' := a + (i : Int) * t.dstStride
    match bayWrite s group at' bs with
    | .error e => .error e
    | .ok s =>
      let b := (x.ctx.map (fun k => k.bay)).getD 64
      .ok ((linesOf group at'.toNat bs.length).foldl (fun s p => ridgeWrite s b p) s)
  | .sess j r =>
    .ok (wroteLines (sessWrite s j r (i * t.rowBytes) bs) (ringLines s j r (workPtr s j r) (i * t.rowBytes) bs.length))

/-- Rows `i` and up of a transfer. -/
def copyRows (c : Nat) (t : Transfer) : Nat → Nat → State → Try State
  | 0, _, s => .ok s
  | n + 1, i, s =>
    match readRow s c t i with
    | .error e => .error e
    | .ok (bs, s) =>
      match writeRow s c t i bs with
      | .error e => .error e
      | .ok s => copyRows c t n (i + 1) s

/-- A kind-2 end moves its ring's working pointer past the entries moved (R251). Ring 0 and the output rings 2 to 4 keep
theirs: the commit moves them (R24, R361, R369). -/
def moveRingPtr (s : State) (e : XferEnd) (n : Nat) : State :=
  match e with
  | .sess i r =>
    if r = 0 ∨ r = 2 ∨ r = 3 ∨ r = 4 then s
    else
      match sessOf s i with
      | none => s
      | some ss =>
        let g := sringOf ss r
        if g.entries = 0 then s
        else
          modSess s i (fun ss => putRing ss r (setPlanPtr g (!sessActive s ss) (workPtr s i r + n / max 1 g.entryBytes)))
  | _ => s

/-- Advances one end of a ring on completion (R243). -/
def ringAdvance (x : Core) (ring : Nat) (writes : Bool) : Core :=
  let r := coreRing x ring
  let m := max 1 (2 * r.slots.toNat)
  if writes then setCoreRing x ring { r with head := BitVec.ofNat 8 ((r.head.toNat + 1) % m) }
  else setCoreRing x ring { r with tail := BitVec.ofNat 8 ((r.tail.toNat + 1) % m) }

/-- The writes of a transfer that completes, and its ring (R243, R247, R263). -/
def runXfer (s : State) (c : Nat) (t : Transfer) : Try State :=
  match copyRows c t t.rows 0 s with
  | .error e => .error e
  | .ok s =>
    let n := t.rows * t.rowBytes
    let s := moveRingPtr (moveRingPtr s t.src n) t.dst n
    let x := coreAdd .dmaBytes n (coreOf s c)
    .ok (setCore { s with fresh := s.fresh + n } c
      (if t.ring = 0xFF#8 then x else ringAdvance x t.ring.toNat t.writesRing))

/-! ### Save and restore -/

/-- Where a SAVE or RESTORE component lies in a half: offset, element bytes and elements; the position block and the
compatibility tables are moved whole. -/
def srPlace (b : Build) (component : Nat) : Option (Nat × Nat × Nat) :=
  if component = 0xFFFF then some (0, 1, 32)
  else if component = 0xFFFE then some (b.stateBytes, 1, compatBytes)
  else (findComp b.desc component).map (fun e => (e.1, e.2.elemBytes, e.2.elements))

/-- Logical elements that a SAVE or RESTORE moves (R146). -/
def srElems (o : SrOps) (total : Nat) : List Nat :=
  if 0xFFFE ≤ o.component.toNat then List.range total
  else (List.range o.elements.toNat).map (fun i => o.firstElem.toNat + i * o.elemStep.toNat)

/-- `n` accumulators from `acc_base` lie in the resident region, where the command names accumulators (R74); source 0x0105
else (R76). -/
def srRegion (x : Core) (o : SrOps) (n : Nat) : Try Unit :=
  need (!bit o.srFlags.toNat 0 || (sResOk x && decide (32768 - x.sRes ≤ o.accBase.toNat) &&
    decide (o.accBase.toNat + n ≤ 32768))) 0x0105

/-- Checks of a SAVE or RESTORE (Table 11.15, R76, R267). -/
def srCheck (x : Core) (o : SrOps) (elemBytes total : Nat) : Try Unit := do
  need (decide (o.srFlags.toNat < 2) && (srElems o total).all (fun i => decide (i < total)) &&
    (!bit o.srFlags.toNat 0 || decide (elemBytes = 8))) 0x0117
  srRegion x o (srElems o total).length

/-- RESTORE (Table 7.7, Table 11.15). A slot that takes no part has no half to read, and the command writes nothing. -/
def doRestore (s : State) (c slot : Nat) (o : SrOps) : Try (State × Completion) := do
  let x := coreOf s c
  match coreBuild s x with
  | none => .error 0x0117
  | some b =>
    match srPlace b o.component.toNat with
    | none => .error 0x0117
    | some (off, eb, total) => do
      srCheck x o eb total
      let es := srElems o total
      if es = [] then .ok (s, emptyDone)
      else
        match slotWork s x slot with
        | none => .ok (s, completion false 0 0 false)
        | some w =>
          match sessOf s w.session with
          | none => .ok (s, completion false 0 0 false)
          | some ss => do
            needClean s (.half w.session (sessActive s ss)) off (eb * total)
            let half := halfOf ss (sessActive s ss)
            let s := areaRead s (.half w.session (sessActive s ss)) off (eb * total)
            let src := if w.anchored ∧ b.anchors.comps.contains o.component.toNat then b.initHalf else half
            let src := if o.component.toNat = 0xFFFF then posBytes w.pos else src
            let vals := es.map (fun i => cut src (off + i * eb) eb)
            if bit o.srFlags.toNat 0 then
              .ok (setCore s c ((vals.mapIdx (fun i v => (i, v))).foldl (fun y e =>
                accPut y (o.accBase.toNat + e.1) (BitVec.ofNat 40 (leNat e.2))) x), completion false 0 0 false)
            else do
              let y ← spadWrite x (o.spad.toNat : Int) vals.flatten
              .ok (setCore s c y, completion false 0 0 false)

/-- SAVE (Table 7.7, R60): the inactive half of the slot. The position block's fields are those the sequencers hold, with
`y_prev` from the bytes at `spad`. -/
def doSave (s : State) (c slot : Nat) (o : SrOps) : Try (State × Completion) := do
  let x := coreOf s c
  match coreBuild s x with
  | none => .error 0x0117
  | some b =>
    match srPlace b o.component.toNat with
    | none => .error 0x0117
    | some (off, eb, total) => do
      srCheck x o eb total
      let es := srElems o total
      if es = [] then .ok (s, emptyDone)
      else do
        let vals ← (if bit o.srFlags.toNat 0 then
            .ok ((List.range es.length).map (fun i => le 8 ((accGet x (o.accBase.toNat + i)).signExtend 64).toNat))
          else match spadRead x (o.spad.toNat : Int) (eb * es.length) with
            | .error e => .error e
            | .ok bs => .ok (chop eb es.length bs))
        match slotWork s x slot with
        | none => .ok (s, completion false 0 0 false)
        | some w =>
          match sessOf s w.session with
          | none => .ok (s, completion false 0 0 false)
          | some ss =>
            let h := !sessActive s ss
            let done := completion false 0 0 false
            let s := areaWrote s (.half w.session h) off (eb * total)
            if o.component.toNat = 0xFFFF then
              let pos := { w.pos with yPrev := BitVec.ofNat 32 (fld vals.flatten 20 4) }
              let s := setSlotWork s x slot { w with pos := pos }
              .ok (modSess s w.session (fun ss => putHalf ss h (splice (halfOf ss h) 0 (posBytes pos))), done)
            else
              let half := (es.zip vals).foldl (fun bs e => splice bs (off + e.1 * eb) e.2) (halfOf ss h)
              .ok (modSess s w.session (fun ss => putHalf ss h half), done)

/-- Key of a core's spill area. -/
def spillKey (k : CoreCtx) : Nat := k.yealm * 64 + k.idx

/-- Checks of SPILL and UNSPILL. Bytes 28 to 31 and 36 to 39 are reserved in them (Table 11.15). -/
def spillCheck (x : Core) (o : SrOps) : Try Unit := do
  need (decide (o.srFlags.toNat < 2) && decide (o.component = 0) && decide (o.firstElem = 0) && decide (o.elemStep = 0) &&
    decide (o.elements.toNat ≤ x.prog.spillBytes) && (!bit o.srFlags.toNat 0 || decide (o.elements.toNat % 8 = 0))) 0x0117
  srRegion x o (o.elements.toNat / 8)

/-- Copies a live set's bytes or accumulators from one core record to another at the same places. DESIGN CHOICE: a spill
area holds each byte at the place it came from. -/
def copyLive (src dst : Core) (o : SrOps) : Try Core :=
  if bit o.srFlags.toNat 0 then
    .ok ((List.range (o.elements.toNat / 8)).foldl (fun y i => accPut y (o.accBase.toNat + i) (accGet src (o.accBase.toNat + i))) dst)
  else
    match spadRead src (o.spad.toNat : Int) o.elements.toNat with
    | .error e => .error e
    | .ok bs => spadWrite dst (o.spad.toNat : Int) bs

/-- SPILL (R288). -/
def doSpill (s : State) (c : Nat) (o : SrOps) : Try (State × Completion) := do
  let x := coreOf s c
  spillCheck x o
  match x.ctx with
  | none => .ok (s, emptyDone)
  | some k => do
    let y ← copyLive x (tget coreD s.spills (spillKey k)) o
    let s := { s with spills := tput coreD s.spills (spillKey k) y }
    .ok (areaWrote s (.spill (spillKey k)) o.spad.toNat o.elements.toNat, completion (decide (o.elements = 0)) 0 0 false)

/-- UNSPILL (R289). -/
def doUnspill (s : State) (c : Nat) (o : SrOps) : Try (State × Completion) := do
  let x := coreOf s c
  spillCheck x o
  match x.ctx with
  | none => .ok (s, emptyDone)
  | some k => do
    let y ← copyLive (tget coreD s.spills (spillKey k)) x o
    let s := areaRead s (.spill (spillKey k)) o.spad.toNat o.elements.toNat
    .ok (setCore s c y, completion (decide (o.elements = 0)) 0 0 false)

end Sys2Proof.Machine
end

