-- ==== Sys2Proof/Machine/Contain.lean ====
section
/-!
DEFINITION. Sys2Proof/Machine/Contain.lean: containment of a fault in the work of a core or link: dispatch stops, queued
commands are dropped, the step waits for its replay, and four failed attempts suspend the yealm (R289, R413, R415).
-/
namespace Sys2Proof.Machine

open Sys2Proof

/-- Advances a counter of Table 17.7: 0 `gp_sram_corrected`, 1 `fw_verify_failed`, 2 `fw_rollback_refused`,
3 `step_give_ups`, 4 `fatal_faults`. -/
def gpCnt (s : State) (k : Nat) : State := { s with gpCounters := cntAdd s.gpCounters k 32 1 }

/-- Width of a bay counter (Table 12.5). -/
def bayCntWidth (k : Nat) : Nat := if k = 0 ∨ k = 7 then 48 else if k = 4 then 64 else 32

/-- Advances a bay counter: 0 `slices_run`, 1 `replays`, 3 `suspensions`, 4 `lend_core_cycles`, 5 `reclaims`,
7 `be_overrun`. -/
def bayCnt (s : State) (b k n : Nat) : State :=
  modBay s b (fun y => { y with counters := cntAdd y.counters k (bayCntWidth k) n })

/-- Raises a record counter: 2 `lateness_max`, 6 `reclaim_max`. -/
def bayMax (s : State) (b k n : Nat) : State :=
  modBay s b (fun y => { y with counters := tput 0 y.counters k (max (tget 0 y.counters k) (min n 4294967295)) })

/-- A core that stops dispatch and drops its queued commands, its arms and its part of the step (R413, R254). -/
def stopCore (x : Core) : Core :=
  { x with units := x.units.filterMap (fun e =>
             let q : UnitQ := { queue := [], busy := none, last := e.2.last }
             if q = unitQD then none else some (e.1, q))
           window := [], loop := none, stepEnded := false, dma := [], carryRun := none, carryA := [], carryU := []
           carryOut := [], rescaleOut := [], wino := none, ctx := none, rng := { x.rng with fills := [] } }

/-- Every core whose step is that of a work group of a bay. -/
def workCores (s : State) (b gid : Nat) : List Nat :=
  (s.cores.filter (fun e => match e.2.ctx with
    | some k => decide (k.bay = b ∧ k.group = gid)
    | none => false)).map Prod.fst

/-- Stops every core of a work group; signals between them are dropped with the work. -/
def stopWork (s : State) (b gid : Nat) : State :=
  let cs := workCores s b gid
  let s := cs.foldl (fun s c => modCore s c stopCore) s
  { s with mesh := s.mesh.filter (fun m => !cs.contains m.src && !cs.contains m.dst) }

/-- Spill areas of a yealm, discarded (R289). -/
def dropSpills (s : State) (y : Nat) : State :=
  { modYealm s y (fun v => { v with spilled := none }) with
    spills := s.spills.filter (fun e => decide (e.1 / 64 ≠ y)) }

/-- A step that is given up after four failed attempts (R415). -/
def giveUp (s : State) (b y : Nat) : State :=
  let s := modYealm s y (fun v => { v with admitted := false, susp := .givenUp, attempts := 0, beStep := none })
  let s := modBay s b (fun v => { v with todo := v.todo.filter (fun t => t.yealm ≠ y) })
  let s := gpCnt (bayCnt s b 3 1) 3
  let s := (claimants s y).foldl (fun s e =>
    unstartUtt (stopPoint (modSess s e.1 (fun x => { x with admitted := none })) e.1) e.1) s
  yealmEvents s y 0x0005

/-- The running step of a work group has failed: it stops, and it waits for its replay or is given up (R413, R415). -/
def failWork (s : State) (b gid y : Nat) : State :=
  let s := dropSpills (stopWork s b gid) y
  let s := modYealm s y (fun v => { v with attempts := v.attempts + 1 })
  let s := modBay s b (fun v =>
    { v with running := if gid = 0 then false else v.running
             groups := v.groups.map (fun g => if g.gid = gid then { g with stepping := false } else g) })
  if 4 ≤ ((yealmOf s y).map (fun v => v.attempts)).getD 0 then giveUp s b y else s

/-- The work of a core fails, if it runs a step. -/
def failCore (s : State) (c : Nat) : State :=
  match (coreOf s c).ctx with
  | none => modCore s c stopCore
  | some k => failWork s k.bay k.group k.yealm

/-- A generator fault puts the core's generator into coarse mode (R197, Table 9.7). -/
def coarseOn (src : Nat) (x : Core) : Core :=
  if src = 0x010A ∨ src = 0x010B ∨ src = 0x010C then
    { x with rng := { x.rng with coarse := true, tables := [], fills := [] } }
  else x

/-- A contained fault of a core (R413): logged, the core flashed, and the step it works for failed. -/
def coreFault (s : State) (c : Nat) (f : FaultEvent) : State :=
  let s := flash (logFault s f) (uCore c)
  let s := if f.source = 0x010B#16 then modCore s c (coreAdd .rngParityErrors 1) else s
  failCore (modCore s c (coarseOn f.source.toNat)) c

/-- Syndrome of a core fault (Table 17.2). -/
def coreSyn (status unit index : Nat) : Nat := status * 2 ^ 48 + unit * 2 ^ 40 + index % 4294967296

/-- A contained fault of a link: logged, the link flashed, the step that waits on it failed (R260). -/
def linkFault (s : State) (b gid y : Nat) (f : FaultEvent) : State := failWork (flash (logFault s f) f.unit) b gid y

end Sys2Proof.Machine
end

