-- ==== Sys2Proof/Machine/Sched.lean ====
section
/-!
DEFINITION. Sys2Proof/Machine/Sched.lean: certificates, the running variant, the time and power conditions of admission,
and the replay allowance (R37, R226, R274, R279 to R286).
-/
namespace Sys2Proof.Machine

open Sys2Proof

/-! ### Variants and certificates -/

/-- Cores of a bay, ascending. -/
def bayCores (b : Bay) : List Nat := maskBits 64 b.attr.coreMask

/-- Cores of a bay that are fenced. -/
def fencedCores (s : State) (b : Bay) : Nat := ((bayCores b).filter (fun c => fenced s (uCore c))).length

/-- A plan of a build. -/
def planOf (b : Build) (i : Nat) : Option Plan := b.plans.find? (fun p => p.index = i)

/-- The certificate entry of a plan, variant and slot count (R37). -/
def certOf (b : Build) (plan variant slots : Nat) : Option Cert :=
  b.certs.find? (fun c => c.plan = plan ∧ c.variant = variant ∧ c.slots = slots)

/-- A bound plan has a variant: the certificate table holds it (R274). -/
def boundHas (s : State) (v : Nat) (p : Bound) : Bool :=
  match buildOf s p.build with
  | none => false
  | some b => b.certs.any (fun c => decide (c.plan = p.plan ∧ c.variant = v))

/-- The running variant of a bay; `none` is stopped (R274). -/
def variantNow (s : State) (b : Bay) : Option Nat :=
  let f := fencedCores s b
  if f ≤ 2 ∧ f < (bayCores b).length ∧ b.plans.all (boundHas s f) then some f else none

/-- The variant on which a bay may start a slice: a stopped bay waits for the next chunk boundary (R274). -/
def sliceVariant (s : State) (b : Bay) : Option Nat := if b.lastVariant.isNone then none else variantNow s b

/-- The certificate entry of a yealm at a variant. -/
def yealmCert (s : State) (y : Yealm) (v : Nat) : Option Cert :=
  match buildOf s y.build with
  | none => none
  | some b => certOf b y.plan v y.slots

/-- W of a yealm at a variant, in cycles. -/
def yealmW (s : State) (y : Yealm) (v : Nat) : Option Nat := (yealmCert s y v).map (fun c => c.wCycles)

/-- W at the running variant + 1, or at the running variant where that one does not exist (R280). -/
def yealmWPlus (s : State) (y : Yealm) (v : Nat) : Nat := (yealmW s y (v + 1)).getD ((yealmW s y v).getD 0)

/-- Yealms of a bay in slice order. -/
def bayYealms (s : State) (b : Bay) : List (Nat × Yealm) :=
  b.order.filterMap (fun i => (yealmOf s i).map (fun y => (i, y)))

/-- Admitted yealms of a bay in slice order. -/
def admittedYealms (s : State) (b : Bay) : List (Nat × Yealm) := (bayYealms s b).filter (fun e => e.2.admitted)

/-- s_i − T_k of a yealm of a latency-critical bay at a variant (R279). -/
def sliceOffset (s : State) (b : Bay) (v y : Nat) : Nat :=
  (((admittedYealms s b).takeWhile (fun e => e.1 ≠ y)).map (fun e => (yealmW s e.2 v).getD 0 + Config.sliceBoundary)).sum

/-- The replay allowance Δ of a bay, in cycles (R280). -/
def replayAllowance (s : State) (b : Bay) (v : Nat) : Nat :=
  let l := (admittedYealms s b).map Prod.snd
  l.foldl (fun m y => max m (yealmWPlus s y v + Config.sliceBoundary)) 0 +
    (l.map (fun y => yealmWPlus s y v - (yealmW s y v).getD 0)).sum

/-! ### Channels -/

/-- A channel of a bay's group is fenced: the bay runs no slice (Table 17.3). -/
def groupFenced (s : State) (b : Bay) : Bool := (maskBits 48 b.attr.channelMask).any (fun c => fenced s (uChannel c))

/-- The bay starts no slice: stopped, paused, or without one of its channels (R274, R422, Table 17.3). -/
def bayBlocked (s : State) (b : Bay) : Bool := (variantNow s b).isNone || b.paused || groupFenced s b

/-- Three or more ridge slices are fenced: admission stops in a bay that has ways (R226). -/
def slicesStop (s : State) (b : Bay) : Bool :=
  decide (3 ≤ ((List.range 48).filter (fun i => fenced s (uSlice i))).length) && decide (b.attr.wayMask ≠ 0)

/-- A plan bound in a bay uses a link (R260): a ring that some core of the plan declares, or a session ring of the plan's
build. -/
def linkUsed (s : State) (bayId : Nat) (build : W64) (plan : Nat) (u : W32) : Bool :=
  match buildOf s build with
  | none => false
  | some b =>
    match planOf b plan with
    | none => false
    | some p =>
      decide (unitType u = 6) && decide (unitIdx u / 65536 = bayId) &&
        (let core := unitIdx u / 256 % 256
         let ring := unitIdx u % 256
         if 64 ≤ ring then decide (ring % 64 - 6 < b.desc.rings.length)
         else p.variants.any (fun v => decide ((((v.inits[core]?).map (fun i => (tget ringD i.rings ring).slots)).getD 0).toNat ≠ 0)))

/-- A link of a plan of a bay is fenced, for good where `perm` (R260). -/
def planFenced (s : State) (bayId : Nat) (build : W64) (plan : Nat) (perm : Bool) : Bool :=
  s.units.any (fun e => linkUsed s bayId build plan (BitVec.ofNat 32 e.1) &&
    (if perm then decide (e.2.fence = .permanent) else decide (e.2.fence ≠ .inService)))

/-! ### The time condition (R281) -/

/-- R281 for a list of yealms at a variant. -/
def timeFits (s : State) (v : Nat) (ys : List Yealm) : Bool :=
  match ys.mapM (fun y => yealmW s y v) with
  | none => false
  | some ws => decide ((ws.map (fun w => w + Config.sliceBoundary)).sum ≤ Config.admissionBudget)

/-- R281 with `fence_reserve`: also at the running variant + 1, where it exists for every yealm. -/
def timeOk (s : State) (b : Bay) (v : Nat) (ys : List Yealm) : Bool :=
  decide (b.attr.cls ≠ 0) ||
    (timeFits s v ys &&
      (decide (b.attr.fenceReserve = 0) || ys.any (fun y => (yealmW s y (v + 1)).isNone) || timeFits s (v + 1) ys))

/-! ### Power (R285) -/

/-- Largest certified power of yealms at a variant, in mW. -/
def maxPower (s : State) (v : Nat) (ys : List Yealm) : Nat :=
  ys.foldl (fun m y => max m (((yealmCert s y v).map (fun c => c.powerMw)).getD 0)) 0

/-- Power of a borrowed group: the largest of its bay's admitted yealms at its variant. -/
def groupPower (s : State) (borrower : Bay) (g : Group) : Nat :=
  maxPower s g.variant ((admittedYealms s borrower).map Prod.snd)

/-- Borrowed groups that run on a lender's cores: borrowing bay and group. -/
def groupsOn (s : State) (lender : Nat) : List (Nat × Bay × Group) :=
  s.bays.flatMap (fun e => (e.2.groups.filter (fun g => g.lender = some lender)).map (fun g => (e.1, e.2, g)))

/-- P_bay of a bay (R285), where `adm` gives the admitted yealms of each bay. -/
def bayPower (s : State) (adm : Nat → List Yealm) (i : Nat) (b : Bay) : Nat :=
  let ys := adm i
  if ys = [] then 0
  else
    let own := maxPower s ((variantNow s b).getD 0) ys
    if b.attr.cls = 0 then (groupsOn s i).foldl (fun m e => max m (maxPower s e.2.2.variant (adm e.1))) own
    else
      own + ((b.groups.filter (fun g => match g.lender with
        | none => false
        | some l => decide (adm l = []))).map (fun g => maxPower s g.variant ys)).sum

/-- Admitted yealms of bay `j` as they stand. -/
def admNow (s : State) (j : Nat) : List Yealm := ((bayOf s j).map (fun b => (admittedYealms s b).map Prod.snd)).getD []

/-- P_adm in mW (R285), with the admitted yealms of bay `i` replaced by `ys`. -/
def admittedPower (s : State) (i : Nat) (ys : List Yealm) : Nat :=
  let adm (j : Nat) : List Yealm := if j = i then ys else admNow s j
  Config.basePowerMw + (s.bays.map (fun e => bayPower s adm e.1 e.2)).sum

/-- P_adm as it stands. -/
def powerNow (s : State) : Nat := admittedPower s 64 []

/-- POWER_CAP in mW; 0 stands for 320 W (R286). -/
def capMw (s : State) : Nat := if s.power.capMw = 0 then 320000 else s.power.capMw

/-! ### Admission at a chunk boundary (R282, R283, R284) -/

/-- A yealm may be admitted beside those already taken. A yealm that stays admitted is held off by a link fenced for good, any
other by a link that is fenced at all (R260). `later` are the admitted yealms behind it in slice order: their power counts in
P_adm (R286). -/
def mayAdmit (s : State) (i : Nat) (b : Bay) (v : Nat) (taken : List Yealm) (y : Yealm) (later : List Yealm) : Bool :=
  decide (y.susp ≠ .givenUp) && !planFenced s i y.build y.plan y.admitted && (yealmW s y v).isSome && timeOk s b v (taken ++ [y]) &&
    (y.admitted ||
      (!s.power.alarm && !slicesStop s b && decide (admittedPower s i (taken ++ [y] ++ later) ≤ capMw s)))

/-- R282 over the yealms in slice order: the ids admitted. -/
def admitScan (s : State) (i : Nat) (b : Bay) (v : Nat) : List Yealm → List (Nat × Yealm) → List Nat
  | _, [] => []
  | taken, (k, y) :: rest =>
    if mayAdmit s i b v taken y ((rest.map Prod.snd).filter (fun z => z.admitted)) then k :: admitScan s i b v (taken ++ [y]) rest
    else admitScan s i b v taken rest

/-- A step that stays in a bay's list when its yealm is suspended: it has begun, or it belongs to an earlier chunk, of which no
step is skipped (R279). -/
def stepStays (s : State) (t : Step) : Bool := t.begun || decide (t.chunk < s.chunk)

/-- Suspension of a yealm (R283): its slots take part in no step of the chunk that begins. -/
def suspend (s : State) (i y : Nat) : State :=
  let s := modYealm s y (fun v => { v with admitted := false, susp := if v.susp = .givenUp then .givenUp else .capacity })
  let begun := ((bayOf s i).map (fun b => b.todo.any (fun t => decide (t.yealm = y) && stepStays s t))).getD false
  let s := modBay s i (fun b => { b with todo := b.todo.filter (fun t => t.yealm ≠ y ∨ stepStays s t) })
  let s := if begun then s else
    (claimants s y).foldl (fun s e => stopPoint (modSess s e.1 (fun x => { x with admitted := none })) e.1) s
  yealmEvents (bayCnt s i 3 1) y 0x0005

/-- Readmission of a yealm (R283). -/
def readmit (s : State) (y : Nat) : State :=
  yealmEvents (modYealm s y (fun v => { v with admitted := true, susp := .no })) y 0x0006

/-- Admission of one bay at a boundary: R282 where the variant changed, a yealm waits, or the bay is blocked. -/
def admitBay (s : State) (i : Nat) : State :=
  match bayOf s i with
  | none => s
  | some b =>
    let v := variantNow s b
    let ys := bayYealms s b
    let keep := if bayBlocked s b then [] else
      match v with
      | none => []
      | some v => admitScan s i b v [] ys
    let fencedPlan := ys.any (fun e => e.2.admitted && planFenced s i e.2.build e.2.plan true)
    let due := decide (b.lastVariant ≠ v) || bayBlocked s b || fencedPlan || ys.any (fun e => decide (e.2.susp = .capacity))
    let s := modBay s i (fun b => { b with variant := v, lastVariant := v })
    if ¬ due then s
    else
      ys.foldl (fun s e =>
        let now := keep.contains e.1
        if e.2.admitted ∧ ¬ now then suspend s i e.1
        else if ¬ e.2.admitted ∧ now ∧ e.2.susp = .capacity then readmit s e.1
        else s) s

end Sys2Proof.Machine
end

