-- ==== Sys2Proof/Machine/AudioBase.lean ====
section
/-!
DEFINITION. Sys2Proof/Machine/AudioBase.lean: TDM ports and slots as shared operations: their records, counters and slot
buffers (R384 to R390, R402).
-/
namespace Sys2Proof.Machine

open Sys2Proof

/-- A slot with nothing to play. -/
def tslotD : TSlot :=
  { buf := [], lag := none, ready := 0, phase := 0, starved := none, out := 0, inp := 0, activeBlocks := 0
    quietBlocks := 0, armed := true }

/-- A port that is stopped. -/
def tdmD : Tdm :=
  { st := .stopped, period := 0, recent := [], glitchRun := 0, backFrames := 0, ramping := false
    relockAfterLoss := false, offNominal := false, rampAt := 0, safe := false, gain := 0, slots := [], counters := [] }

/-- A TDM port. -/
def tdmOf (s : State) (n : Nat) : Tdm := tget tdmD s.tdm n
/-- Stores a TDM port. -/
def setTdm (s : State) (n : Nat) (t : Tdm) : State := { s with tdm := tput tdmD s.tdm n t }
/-- Changes a TDM port. -/
def modTdm (s : State) (n : Nat) (f : Tdm → Tdm) : State := setTdm s n (f (tdmOf s n))
/-- A slot of a port. -/
def tslotOf (t : Tdm) (i : Nat) : TSlot := tget tslotD t.slots i
/-- Stores a slot. -/
def setTslot (t : Tdm) (i : Nat) (x : TSlot) : Tdm := { t with slots := tput tslotD t.slots i x }
/-- Changes a slot of a port. -/
def modTslot (s : State) (n i : Nat) (f : TSlot → TSlot) : State :=
  modTdm s n (fun t => setTslot t i (f (tslotOf t i)))

/-- Active TDM record of a port (Table 16.3). -/
def tdmRec (s : State) (n : Nat) : List Byte := act s (0x10 + n) 0
/-- `tdm_mode`. -/
def tdmMode (s : State) (n : Nat) : Nat := fld (tdmRec s n) 0 1
/-- Slots of a port. -/
def tdmSlots (s : State) (n : Nat) : Nat := fld (tdmRec s n) 2 1
/-- An output slot is enabled (R384). -/
def outEnabled (s : State) (n i : Nat) : Bool :=
  decide (tdmMode s n ≠ 0) && decide (i < tdmSlots s n) && bit (fld (tdmRec s n) 8 8) i
/-- An input slot is enabled. -/
def inEnabled (s : State) (n i : Nat) : Bool :=
  decide (tdmMode s n ≠ 0) && decide (i < tdmSlots s n) && bit (fld (tdmRec s n) 16 8) i

/-- Width of a port counter (Table 16.9). -/
def tdmCntWidth (k : Nat) : Nat := if k = 0 ∨ k = 5 then 48 else 32
/-- Advances a port counter: 0 `frames`, 1 `glitches`, 2 `clock_losses`, 3 `relocks`, 4 `underruns`, 5 `out_dropped`,
6 `out_clips`, 7 `barge_triggers`; 8 is `lag_max_us`. -/
def tdmCnt (s : State) (n k m : Nat) : State :=
  modTdm s n (fun t => { t with counters := cntAdd t.counters k (tdmCntWidth k) m })
/-- Raises `lag_max_us`. -/
def tdmLagMax (s : State) (n us : Nat) : State :=
  modTdm s n (fun t => { t with counters := tput 0 t.counters 8 (max (tget 0 t.counters 8) (min us 4294967295)) })

/-- Discards what a slot's buffer holds, counted in `out_dropped`, and clears its lag. -/
def clearSlot (s : State) (n i : Nat) : State :=
  let k := (tslotOf (tdmOf s n) i).buf.length
  tdmCnt (modTslot s n i (fun x => { x with buf := [], lag := none, starved := none, phase := 0 })) n 5 k

/-- Discards what every slot of a port holds. -/
def clearPort (s : State) (n : Nat) : State := iter (fun i s => clearSlot s n i) 64 s

/-- Committed samples enter a slot buffer of 4,096 samples (R369, R389, R390 rules 1 and 4, R392): the oldest of a full
buffer are dropped. A slot that the mask does not enable takes none (R366), nor does a fenced port (Table 16.8). -/
def tdmFeed (s : State) (n i session chunk : Nat) (codes : List Int) : State :=
  if ¬ outEnabled s n i then s
  else if fenced s (uAudio n) ∨ (tdmOf s n).safe then tdmCnt s n 5 codes.length
  else
    let x := tslotOf (tdmOf s n) i
    let buf := x.buf ++ codes.mapIdx (fun j c => (c, session, chunk, j))
    let excess := buf.length - 4096
    let x := { x with buf := buf.drop excess, ready := if x.buf = [] then s.now + Config.converterDelay else x.ready }
    let s := modTslot s n i (fun _ => x)
    if excess = 0 then s else tdmCnt s n 5 excess

/-- The session whose TDM binding names an output slot (R385). -/
def slotBound (s : State) (n i : Nat) : Option (Nat × Session) :=
  s.sessions.find? (fun e => bit e.2.bindFlags.toNat 1 && decide (e.2.tdmPort = n ∧ e.2.tdmSlot = i))

end Sys2Proof.Machine
end

