-- ==== Sys2Proof/Machine/StepCmd.lean ====
section
/-!
DEFINITION. Sys2Proof/Machine/StepCmd.lean: one yealm step: its start on the cores of a bay or work group, and its commit
(R75, R144, R147 to R156, R249 to R255, R279, R287 to R289, R361 to R363, R369, R378, R379).
-/
namespace Sys2Proof.Machine

open Sys2Proof

/-! ### Taking part (R148) -/

/-- A job whose training has started. -/
def training (ss : Session) : Bool := ((ss.job.map (fun j => j.training && decide (j.iteration < j.iterations))).getD false)

/-- Largest `chunk_count` at which a session takes part (R137). -/
def chunkLimit : Nat := 2 ^ 40 - 1

/-- A session has an utterance, or an iteration, for a step of grid chunk `k` (R148, R360, R377). -/
def hasWork (ss : Session) (k : Nat) : Bool :=
  match ss.job with
  | some _ => training ss
  | none => decide (0 < ss.uttTokens) || (ss.queuedTokens.isSome && decide (ss.queuedChunk < k))

/-- A session may take part in a step decided now. -/
def eligible (s : State) (ss : Session) (k : Nat) : Bool :=
  decide (ss.st ≠ .lost) && (effAttach ss).isSome && ss.stopWait.isEmpty && ss.detachWait.isNone && hasWork ss k &&
    decide ((sessPos s ss).chunkCount < chunkLimit)

/-- The slots of a yealm that take part in a step of grid chunk `k`. -/
def takingPart (s : State) (y k : Nat) : Nat :=
  maskOf ((claimants s y).filterMap (fun e => match effAttach e.2 with
    | some a => if eligible s e.2 k then some a.slot else none
    | none => none))

/-- The mask that a step starts with: slots whose session is still there and has work. -/
def startMask (s : State) (p : Step) : Nat :=
  maskOf ((maskBits 32 p.mask).filter (fun slot => match slotSession s p.yealm slot with
    | some (_, ss) => p.begun || hasWork ss p.chunk
    | none => false))

/-! ### Start -/

/-- Counters of a turn boundary and whether the listed components return to their initial values (R144). -/
def anchorTurn (a : Anchors) (p : Pos) : Pos × Bool :=
  let turns := min (p.anchorTurns + 1) 4294967295
  if (a.periodTurns ≠ 0 ∧ a.periodTurns ≤ turns) ∨ (a.maxSteps ≠ 0 ∧ a.maxSteps ≤ p.anchorSteps) then
    ({ p with anchorTurns := 0, anchorSteps := 0 }, true)
  else ({ p with anchorTurns := turns }, false)

/-- Working state of a taking-part slot at t0 (R144, R252, R360). -/
def startSlot (b : Build) (i : Nat) (ss : Session) (active : Bool) (old : Option SlotWork) : SlotWork :=
  let p := posOf (halfOf ss active)
  let io := match old with
    | some w => if w.session = i then w.ioPtrs else (List.range 16).map (fun r => (sringOf ss r).io)
    | none => (List.range 16).map (fun r => (sringOf ss r).io)
  let turn := !bit p.flags.toNat 1 && ss.job.isNone
  let a := if turn then anchorTurn b.anchors p else (p, false)
  let p := if turn then { a.1 with encNext := 0, repTok := 0, repRep := 0, flags := 2 } else a.1
  let p := if a.2 ∧ b.anchors.comps.contains 0x0101 then { p with yPrev := (posOf b.initHalf).yPrev } else p
  { session := i, pos := p, step0 := p.chunkCount, turn := turn, anchored := a.2, marks := [], row := none, ioPtrs := io }

/-- What the start of a step does to a taking-part session: a queued utterance starts where none is in progress, and each
ring's working pointer takes the committed value (R251, R360). -/
def startSession (active : Bool) (ss : Session) : Session :=
  let ss := if ss.uttTokens = 0 ∧ ss.job.isNone then
      { ss with uttTokens := ss.queuedTokens.getD 0, queuedTokens := none }
    else ss
  { ss with rings := ss.rings.map (fun e => (e.1, setPlanPtr e.2 (!active) (planPtr active e.2))) }

/-- Accumulators that change region where S_res becomes `n` hold what the spec leaves open (R75). -/
def regionChange (fresh n : Nat) (x : Core) : Core :=
  let hi := min Config.accCount (max x.sRes n)
  (List.range (hi - min x.sRes n)).foldl (fun x j =>
    accPut x (Config.accCount - hi + j) (Config.freeAcc fresh (Config.accCount - hi + j))) x

/-- A core at t0 of a step: the plan's semaphores, rings and descriptors at their initial values, and S_res with the
contents that change region left open (R75, R254). -/
def loadCore (fresh : Nat) (k : CoreCtx) (p : Plan) (v : Variant) (c : Cert) (x : Core) : Core :=
  let x := stopCore x
  let init := (v.inits[k.idx]?).getD { sems := [], rings := [], descs := [] }
  let x := regionChange fresh v.sRes x
  { x with
    sRes := v.sRes, sems := init.sems, rings := init.rings, descs := init.descs, dma := [], window := [], loop := none
    stepEnded := false, fetchIndex := 0, ctx := some k, gated := false
    prog := { walks := v.walks, consts := p.consts, wCycles := c.wCycles, spillBytes := c.spillBytes
              leadIdx := v.leadIdx, commitSem := v.commitSem
              stream := (v.streams[k.idx]?).getD []
              initSems := init.sems, initRings := init.rings, initDescs := init.descs }
    rng := { x.rng with lanes := [], cursor := [] } }

/-- A core that takes up a preempted step again (R289): the sequencer as it stood, the core's own memory, counters and
generator mode. UNSPILL commands bring the live set back. -/
def resumeCore (fresh : Nat) (k : CoreCtx) (rec x : Core) : Core :=
  { rec with spad := x.spad, acc := (regionChange fresh rec.sRes x).acc, counters := x.counters, gated := false, ctx := some k
             rng := { rec.rng with coarse := x.rng.coarse } }

/-- The links of a yealm's plan that wait for a replay's t0 return to service (R260, Table 17.3). -/
def linksReturn (s : State) (b : Nat) (y : Yealm) : State :=
  s.units.foldl (fun s e =>
    let u := BitVec.ofNat 32 e.1
    if linkUsed s b y.build y.plan u ∧ e.2.fence ≠ .permanent ∧ e.2.fence ≠ .inService then unitReturn s u else s) s

/-- t0 of a step on a work group's cores (Table 7.7). -/
def beginStep (s : State) (i gid : Nat) (cores : List Nat) (v : Nat) (p : Step) : State :=
  match yealmOf s p.yealm with
  | none => s
  | some y =>
    match buildOf s y.build with
    | none => s
    | some b =>
      match planOf b y.plan, certOf b y.plan v y.slots with
      | some pl, some c =>
        match pl.variants[v]? with
        | none => s
        | some vr =>
          let s := areaRead s (.record p.yealm) 0 64
          let s := if p.begun then linksReturn (bayCnt s i 1 1) i y else s
          let mask := startMask s p
          let slots := (maskBits 32 mask).filterMap (fun k => (slotSession s p.yealm k).map (fun e => (k, e)))
          let work := slots.map (fun e =>
            let ss := startSession (bit y.rcd.active e.1) e.2.2
            (e.1, startSlot b e.2.1 ss (bit y.rcd.active e.1) (tfind y.work e.1)))
          let s := slots.foldl (fun s e => modSess s e.2.1 (startSession (bit y.rcd.active e.1))) s
          let p := { p with mask := mask, begun := true }
          let s := modYealm s p.yealm (fun y => { y with work := work, beStep := if gid = 0 ∧ y.beStep.isNone then none else some p })
          let s := (cores.mapIdx (fun n core => (n, core))).foldl (fun s e =>
            modCore s e.2 (loadCore s.fresh { bay := i, group := gid, idx := e.1, yealm := p.yealm, nSlots := y.slots } pl vr c)) s
          bayCnt { s with fresh := s.fresh + 1 } i 0 1
      | _, _ => s

/-- A step may start now: the device runs steps, and no warm reset waits (R417, R439, Table 18.6). -/
def stepsRun (s : State) : Bool :=
  s.boot.complete && s.fault.isNone && !s.boot.warmPending && (decide (s.power.state = .run) || decide (s.power.state = .trim))

/-- SLICE_START in a latency-critical bay: the first admitted step that waits (R279, R280). No slice starts before its scheduled
start (R34): the clock moves there where it is behind it. -/
def startLc (s : State) (i : Nat) (b : Bay) (v : Nat) : State :=
  match b.todo.find? (fun t => ((yealmOf s t.yealm).map (fun y => decide (y.susp ≠ .givenUp) && (yealmCert s y v).isSome)).getD false) with
  | none => s
  | some p =>
    if b.running ∨ b.lent then s
    else
      let s := modBay (timeTo s (max s.now p.start)) i (fun b => { b with variant := some v })
      let mask := startMask s p
      let s := beginStep s i 0 (groupCores s i 0) v p
      modBay s i (fun b => { b with running := true, window := false
                                    todo := { p with begun := true, mask := mask } :: b.todo.erase p })

/-- A best-effort yealm has work (R287): a spilled or failed step, or a slot that takes part. -/
def beWork (s : State) (y : Nat) (v : Yealm) : Bool :=
  v.admitted && (v.beStep.isSome || decide (takingPart s y (s.chunk + 1) ≠ 0))

/-- `l` turned so that it begins after item `a`. -/
def rotateAfter (l : List Nat) (a : Option Nat) : List Nat :=
  match a with
  | none => l
  | some a =>
    let after := (l.dropWhile (fun x => x ≠ a)).drop 1
    if l.contains a then after ++ l.take (l.length - after.length) else l

/-- The yealm that a free group runs next: its own while its time slice lasts, else the next of the rotation that runs in
no other group. -/
def beNext (s : State) (b : Bay) (g : Group) : Option Nat :=
  let work (y : Nat) : Bool := ((yealmOf s y).map (beWork s y)).getD false
  let elsewhere (y : Nat) : Bool := b.groups.any (fun h => decide (h.gid ≠ g.gid ∧ h.yealm = some y))
  match g.yealm with
  | some y => if work y then some y else (rotateAfter b.order g.rot).find? (fun y => work y && !elsewhere y)
  | none => (rotateAfter b.order g.rot).find? (fun y => work y && !elsewhere y)

/-- Cores and variant of a group as it would start now. -/
def groupReady (s : State) (i : Nat) (g : Group) (v : Nat) : Option (List Nat × Nat) :=
  if g.stepping ∨ g.reclaim then none
  else
    match g.lender with
    | none => some (groupCores s i 0, v)
    | some _ => if g.cores.any (fun c => fenced s (uCore c)) then none else some (g.cores, g.variant)

/-- Starts, resumes or restarts a yealm's step on a best-effort group (R287 to R289). -/
def startGroup (s : State) (i : Nat) (g : Group) (cores : List Nat) (v y : Nat) : State :=
  match yealmOf s y with
  | none => s
  | some yy =>
    let s := modBay s i (fun b => { b with
      rot := some y
      groups := b.groups.map (fun h => if h.gid = g.gid then
        { h with yealm := some y, stepping := true, rot := some y, variant := v
                 sliceEnd := if h.yealm = some y then h.sliceEnd
                   else s.now + b.attr.beSlice * Config.cyclesPerUs - yy.overrun } else h) })
    let s := if g.yealm = some y then s else modYealm s y (fun v => { v with overrun := 0 })
    match yy.spilled with
    | some (n, w) =>
      if n = cores.length ∧ w = v then
        let s := (cores.mapIdx (fun n c => (n, c))).foldl (fun s e =>
          modCore s e.2 (resumeCore s.fresh { bay := i, group := g.gid, idx := e.1, yealm := y, nSlots := yy.slots }
            (tget coreD s.spills (y * 64 + e.1)))) s
        bayCnt (modYealm s y (fun v => { v with spilled := none })) i 0 1
      else
        let s := dropSpills s y
        beginStep s i g.gid cores v (yy.beStep.getD { yealm := y, chunk := s.chunk + 1, start := 0, due := 0, mask := 0, begun := true })
    | none =>
      match yy.beStep with
      | some p => beginStep s i g.gid cores v p
      | none =>
        let p : Step := { yealm := y, chunk := s.chunk + 1, start := 0, due := 0, mask := takingPart s y (s.chunk + 1), begun := false }
        let s := modYealm s y (fun v => { v with beStep := some p })
        let s := (claimants s y).foldl (fun s e => match effAttach e.2 with
          | some a => if bit p.mask a.slot then modSess s e.1 (fun x => { x with admitted := some s.chunk }) else s
          | none => s) s
        beginStep s i g.gid cores v p

/-- SLICE_START in a best-effort bay: the first free group that has a yealm to run. -/
def startBe (s : State) (i : Nat) (b : Bay) (v : Nat) : State :=
  let s := modBay s i (fun b => { b with variant := some v })
  match b.groups.findSome? (fun g => match groupReady s i g v with
    | none => none
    | some (cores, w) => (beNext s b g).map (fun y => (g, cores, w, y))) with
  | none => s
  | some (g, cores, w, y) => startGroup s i g cores w y

/-- SLICE_START (R279, R287). -/
def startSlice (s : State) (i : Nat) : State :=
  match bayOf s i with
  | none => s
  | some b =>
    match sliceVariant s b with
    | none => s
    | some v =>
      if ¬ stepsRun s ∨ bayBlocked s b then s
      else if b.attr.cls = 0 then startLc s i b v
      else startBe s i b v

/-! ### Commit -/

/-- The final position block of a slot (R24, R137, R144, R362). -/
def finalPos (b : Build) (w : SlotWork) (tokens : Nat) : Pos :=
  let ended := bit w.pos.flags.toNat 0
  let p := { w.pos with chunkCount := w.step0 + 1, anchorSteps := min (w.pos.anchorSteps + 1) 4294967295 }
  if ended then { p with encNext := 0, repTok := 0, repRep := 0, flags := 0 }
  else { p with encNext := min (p.encNext + b.tEnc) tokens, flags := 2 }

/-- An EVENT entry of ring 4 (Table 15.6). -/
def eventEntry (code status sample detail : Nat) : List Byte :=
  le 2 code ++ le 2 status ++ zeros 4 ++ le 8 sample ++ le 8 detail ++ zeros 8

/-- Appends entries at a ring's plan pointer of half `h` and moves it (R251). -/
def ringAppend (h : Bool) (r : SRing) (es : List (List Byte)) : SRing :=
  es.foldl (fun r e => setPlanPtr (entryPut r (planPtr h r) e) h (planPtr h r + 1)) r

/-- Publication of a chunk in rings 0 and 2 to 4 of a session (R251, R361, R368, R369). -/
def publish (b : Build) (h : Bool) (w : SlotWork) (ss : Session) : Session :=
  let ns := chunkSamples b
  let ended := bit w.pos.flags.toNat 0
  let r0 := sringOf ss 0
  let r0 := if ended then setPlanPtr r0 h (planPtr h r0 + ss.uttTokens) else r0
  let r2 := sringOf ss 2
  let gated := bit (fld (entryGet r2 (planPtr h r2)) 18 1) 1
  let audio := le 8 w.step0 ++ le 8 (w.step0 * ns) ++ le 2 ns ++ le 1 (b2n ended + 2 * b2n gated) ++ le 1 w.marks.length ++ zeros 44
  let evs := (if w.turn then [eventEntry 0x0001 0 (w.step0 * ns) ss.uttTokens] else []) ++
    (if ended then [eventEntry 0x0002 0 ((w.step0 + 1) * ns) ss.uttTokens] else [])
  let ss := putRing ss 0 r0
  let ss := putRing ss 2 (ringAppend h r2 [audio])
  let ss := putRing ss 3 (ringAppend h (sringOf ss 3) w.marks)
  putRing ss 4 (ringAppend h (sringOf ss 4) evs)

/-- A byte of a session's areas in the thatch, by bay address of the group that holds it (R157). -/
def areaByte (s : State) (ss : Session) (a : Nat) : Byte := bayByte s (groupOf s ss.home) a

/-- A ring of a build is carried between bays: its other end is a plan bound in a bay other than `bay` (R256). -/
def crossBay (s : State) (bay : Nat) (build : W64) (d : RingDecl) : Bool :=
  decide (d.role ≠ 0) && s.bays.any (fun e => decide (e.1 ≠ bay) && e.2.plans.any (fun p => decide (p.build = build) &&
    (if d.role = 1 then decide (p.plan = d.peerPlan) else decide (p.plan ≠ d.peerPlan))))

/-- Queues the carriage of the cross-bay rings that a commit published (R212). -/
def queueCarries (s : State) (b : Build) (bay i : Nat) : State :=
  (b.desc.rings.mapIdx (fun n d => (6 + n, d))).foldl (fun s e =>
    match sessOf s i with
    | none => s
    | some ss =>
      let g := sringOf ss e.1
      let n := cnt32 (planPtr (sessActive s ss) g) g.io
      let queued := ((bayOf s bay).map (fun y => y.bulk.any (fun k => k.kind = .ringCarry i e.1))).getD false
      if g.dir = 1 ∧ 0 < n ∧ g.entries ≠ 0 ∧ crossBay s bay b.id e.2 ∧ ¬ queued then
        modBay s bay (fun y => { y with bulk := y.bulk ++
          [{ kind := .ringCarry i e.1, left := n * g.entryBytes, running := false, resp := none }] })
      else s) s

/-- PCM24 samples of chunk `c` in the eaves buffer (R367). -/
def eavesPcm (s : State) (ss : Session) (c n : Nat) : List Int :=
  (List.range n).map (fun j => leInt ((List.range 3).map (fun k => areaByte s ss (ss.eavesBase + c % 8 * 8192 + 3 * j + k))))

/-- Commit of one taking-part slot's session, its part in the record's new halves (R137, R251). -/
def commitSession (s : State) (b : Build) (active : Bool) (w : SlotWork) : State :=
  match sessOf s w.session with
  | none => s
  | some ss =>
    let h := !active
    match ss.job with
    | some j =>
      let work := Config.trainStep (j.seed, j.rank, ss.build, j.iteration, j.tDrop)
        [((List.range j.text).map (fun k => tokenEntry ss active k)).flatten, j.audio, j.working]
      modSess s w.session (fun x =>
        { putHalf x h (splice (halfOf x h) 0 (posBytes w.pos)) with
          job := some { j with iteration := j.iteration + 1, working := work } })
    | none =>
      let p := finalPos b w ss.uttTokens
      modSess s w.session (fun x =>
        let x := publish b h w (putHalf x h (splice (halfOf x h) 0 (posBytes p)))
        { x with uttTokens := if bit w.pos.flags.toNat 0 then 0 else x.uttTokens })

/-! ### Enrolment jobs that end (R377 to R379) -/

/-- Bytes of stored adapters. -/
def adapterBytes (s : State) : Nat := (s.adapters.map (fun a => a.size)).sum

/-- Bytes of a session's areas in the thatch: two halves, rings and the eaves buffer (R136, R145, R250, R367). -/
def sessBytes (ss : Session) : Nat :=
  ss.halfA.length + ss.halfB.length + (ss.rings.map (fun e => e.2.entries * e.2.entryBytes + 32)).sum + 65536

/-- Bytes of session areas in a bay's group, or in the store group. -/
def homeBytes (s : State) (home : Option Nat) : Nat :=
  ((s.sessions.filter (fun e => decide (e.2.home = home))).map (fun e => sessBytes e.2)).sum

/-- Bytes of adapters that the sessions attached in a bay use (R376). -/
def bayAdapterBytes (s : State) (bay : Nat) : Nat :=
  ((s.adapters.filter (fun a => s.sessions.any (fun e => decide (e.2.adapter = a.id) &&
    (match e.2.attach with
     | some x => ((yealmOf s x.yealm).map (fun y => decide (y.bay = bay))).getD false
     | none => false)))).map (fun a => a.size)).sum

/-- Slots of core rings that a variant places: core index, first byte and bytes, in the thatch (`true`) or in the scratchpad
(Table 11.2). -/
def ringSlots (v : Variant) (thatch : Bool) : List (Nat × Nat × Nat) :=
  (v.inits.mapIdx (fun n i => (i.rings.filter (fun e => decide (e.2.slots ≠ 0) && decide (bit e.2.flags.toNat 0 = thatch))).map
    (fun e => (n, e.2.base.toNat, e.2.slotBytes.toNat * e.2.slots.toNat)))).flatten

/-- Bytes of thatch ring slots that a plan declares: its variants take turns at the same ones. -/
def ringBytes (p : Plan) : Nat := (p.variants.map (fun v => ((ringSlots v true).map (fun e => e.2.2)).sum)).foldl max 0

/-- The plans bound in a bay. -/
def boundPlans (s : State) (b : Bay) : List Plan :=
  b.plans.filterMap (fun p => (buildOf s p.build).bind (fun d => planOf d p.plan))

/-- Bytes of bay copies whose making still goes on (R211). -/
def pendingCopyBytes (s : State) (i : Nat) (b : Bay) : Nat :=
  ((s.builds.filter (fun d => b.plans.any (fun p => decide (p.build = d.id) && !p.ready) &&
    d.copies.all (fun c => c.kind ≠ 2 + i))).map (fun d => d.image.length)).sum

/-- Bytes that lie in one bay's group beside finished copies of builds: session areas, adapters, commit records, spill areas for
the cores it may borrow (Table 10.2), the thatch ring slots of its plans (R256), and copies still being made. -/
def bayBytes (s : State) (i : Nat) (b : Bay) : Nat :=
  homeBytes s (some i) + bayAdapterBytes s i + 64 * b.order.length + b.attr.borrowMax * 3145728 +
    ((boundPlans s b).map ringBytes).sum + pendingCopyBytes s i b

/-- Bytes in use in a channel: every object is spread over the channels it lies on. -/
def chUsed (s : State) (ch : Nat) : Nat :=
  (s.builds.map (fun b => (b.copies.map (fun c =>
    if bit c.channels ch then ceilDiv b.image.length (maskBits 48 c.channels).length else 0)).sum)).sum +
  (s.loads.map (fun l => (if l.channels.contains ch then ceilDiv l.size l.channels.length else 0) +
    (if l.mirrorOn.contains ch then ceilDiv l.size l.mirrorOn.length else 0))).sum +
  (match s.bays.find? (fun e => bit e.2.attr.channelMask ch) with
   | some e => ceilDiv (bayBytes s e.1 e.2) (maskBits 48 e.2.attr.channelMask).length
   | none => ceilDiv (homeBytes s none + adapterBytes s) (groupOf s none).length)

/-- Free bytes in a list of channels. -/
def freeIn (s : State) (chs : List Nat) : Nat := (chs.map (fun ch => Config.channelBytes - chUsed s ch)).sum

/-- Free bytes of the store group (R209, Table 10.2). -/
def storeFree (s : State) : Nat := freeIn s (groupOf s none)

/-- An adapter of `n` bytes fits the store (R375). -/
def adapterFits (s : State) (n : Nat) : Bool := decide (s.adapters.length < 16384) && decide (n ≤ storeFree s)

/-- End of a job with a status (R379): ENROLL_DONE is published in ring 4, the transcript is dropped, and the session is
Idle. -/
def endJob (s : State) (i status : Nat) : State :=
  match sessOf s i with
  | none => s
  | some ss =>
    match ss.job with
    | none => s
    | some j =>
      let act := sessActive s ss
      let r := sringOf ss 4
      let r := entryPut r (planPtr act r) (eventEntry 0x0008 status 0 j.adapter.toNat)
      let n := planPtr act r + 1
      let s := modSess s i (fun x =>
        let x := putRing x 4 (setPlanPtr (setPlanPtr r true n) false n)
        { passTokens x act j.text with unspoken := x.unspoken - j.text, job := none })
      fixState s i

/-- What a committed iteration brings: an abort by STOP, or the stored adapter after the last (R363, R377, R379). -/
def jobCommitted (s : State) (i : Nat) : State :=
  match sessOf s i with
  | none => s
  | some ss =>
    match ss.job with
    | none => s
    | some j =>
      if j.stopping ≠ [] then
        let s := endJob s i stDiscarded
        j.stopping.foldl (fun s rt => respond s rt stOk (le 8 (sessSamples s ss))) s
      else
        if j.iteration < j.iterations then s
        else if s.adapters.any (fun a => a.id = j.adapter) then endJob s i stBusy
        else if ¬ adapterFits s j.working.length then endJob s i stNoResource
        else
          let a : Adapter := { id := j.adapter, build := ss.build, rank := j.rank, flags := 0, size := j.working.length
                               crc := crc32c j.working, bytes := j.working }
          endJob { s with adapters := s.adapters ++ [a] } i stOk

/-! ### What the commit instant resolves -/

/-- Completion of a DETACH (R152, R154): the slot's bits go back to the session, and the slot is free. -/
def detachDone (s : State) (i : Nat) : State :=
  match sessOf s i with
  | none => s
  | some ss =>
    match effAttach ss with
    | none => modSess s i (fun x => { x with detachWait := none, detachDrop := false })
    | some a =>
      let act := sessActive s ss
      let prev := sessPrev s ss
      let s := modRcd s a.yealm (fun r => { r with member := setBit r.member a.slot false })
      let s := modSess s i (fun x => { x with active := act, prevValid := prev, attach := none, detachWait := none, detachDrop := false, admitted := none })
      let s := fixState s i
      match ss.detachWait with
      | some rt => answer s rt (if ss.detachDrop then stDiscarded else stOk)
      | none => s

/-- The chunk of a session that waited on a late commit is admitted now, unless a DETACH or STOP came first (R153). -/
def admitNext (s : State) (i y slot bay : Nat) : State :=
  match sessOf s i with
  | none => s
  | some ss =>
    if ss.detachWait.isSome ∨ ¬ ss.stopWait.isEmpty then dropChunk s i
    else
      let next := (bayOf s bay).bind (fun b => b.todo.find? (fun t => decide (t.yealm = y) && bit t.mask slot))
      modSess s i (fun x => { x with admitted := next.map (fun t => t.chunk) })

/-- What follows the commit instant for one session: admission of a chunk that waited, its stop point, its DETACH. -/
def afterCommit (bay y slot : Nat) (s : State) (i : Nat) : State :=
  let s := jobCommitted (admitNext s i y slot bay) i
  let s := match sessOf s i with
    | some ss => if ss.stopWait.isEmpty then fixState s i else stopPoint s i
    | none => s
  match sessOf s i with
  | some ss => if ss.detachWait.isSome ∧ ss.admitted.isNone then detachDone s i else s
  | none => s

/-- The audio block reads the PCM24 copy of a step's chunk and feeds the session's TDM slot (R369). -/
def readTdm (s : State) (i step chunk : Nat) : State :=
  match sessOf s i with
  | none => s
  | some ss =>
    match buildOf s ss.build with
    | none => s
    | some b =>
      let s := eavesTaken s i (step % 8 * 8192) (3 * chunkSamples b)
      tdmFeed s ss.tdmPort ss.tdmSlot i chunk (eavesPcm s ss step (chunkSamples b))

/-- The PCM24 copy of a committed chunk enters the session's TDM slot (R369), in a later chunk where the slot's traffic has no room
left (R213). -/
def feedTdm (s : State) (b : Build) (chunk : Nat) (w : SlotWork) : State :=
  match sessOf s w.session with
  | none => s
  | some ss =>
    if bit ss.bindFlags.toNat 1 ∧ ss.job.isNone then
      if ss.tdmOwed = [] ∧ ioFits s ss (3 * chunkSamples b) then readTdm s w.session w.step0 chunk
      else modSess s w.session (fun x => { x with tdmOwed := x.tdmOwed ++ [(w.step0, chunk)] })
    else s

/-- The step that runs for a yealm: its bay, work group and step. -/
def runningStep (s : State) (y : Nat) : Option (Nat × Nat × Step) :=
  match yealmOf s y with
  | none => none
  | some v =>
    match bayOf s v.bay with
    | none => none
    | some b =>
      if b.attr.cls = 0 then
        match b.todo with
        | p :: _ => if b.running ∧ p.yealm = y then some (v.bay, 0, p) else none
        | [] => none
      else
        match b.groups.find? (fun g => decide (g.yealm = some y) && g.stepping), v.beStep with
        | some g, some p => some (v.bay, g.gid, p)
        | _, _ => none

/-- Cores after a commit hold nothing that a later step reads (R150): in a latency-critical bay they are clock-gated
until the next slice (R34). A core that still owes the flash of a collision is flashed (R248). -/
def releaseCores (s : State) (b gid : Nat) (lc : Bool) : State :=
  let cs := workCores s b gid
  let s := (cs.filter (fun c => (coreOf s c).dma.any (fun e => e.2.collided.isSome))).foldl (fun s c => flash s (uCore c)) s
  let s := cs.foldl (fun s c => modCore s c (fun x => { stopCore x with gated := lc })) s
  { s with mesh := s.mesh.filter (fun m => !cs.contains m.src && !cs.contains m.dst) }

/-- The lead core's commit command can write the record (R255): the commit semaphore counts every core of the running
variant. -/
def commitReady (s : State) (b gid : Nat) : Bool :=
  let cs := workCores s b gid
  cs.any (fun c =>
    let x := coreOf s c
    ((x.ctx.map (fun k => decide (k.idx = x.prog.leadIdx))).getD false) && decide (cs.length ≤ (tget 0 x.sems x.prog.commitSem).toNat))

/-- COMMIT (R147, R148, R255, R369): the record's flip, the publication of every slot's chunk, and what the commit instant
resolves. -/
def commitYealm (s : State) (y : Nat) : State :=
  match yealmOf s y, runningStep s y with
  | some v, some (i, gid, p) =>
    match bayOf s i, buildOf s v.build with
    | some bay, some b =>
      if s.fault.isSome ∨ ¬ commitReady s i gid then s
      else
        let lc := decide (bay.attr.cls = 0)
        let mask := maskOf (v.work.map Prod.fst)
        let s := v.work.foldl (fun s e => commitSession s b (bit v.rcd.active e.1) e.2) s
        let s := dropSpills s y
        let s := modYealm s y (fun v => { v with attempts := 0, beStep := none, work := [] })
        let s := areaWrote (modRcd s y (fun r => { r with
          stepCount := r.stepCount + 1, active := r.active ^^^ mask, prevValid := r.prevValid ||| mask })) (.record y) 0 64
        let s := releaseCores s i gid lc
        let s := modBay s i (fun c => if lc then
            { c with running := false, commitAt := s.now, todo := c.todo.drop 1, window := decide (c.todo.length ≤ 1 ∧ s.chunk ≤ p.chunk) }
          else { c with groups := c.groups.map (fun g => if g.gid = gid then { g with stepping := false } else g) })
        let s := if lc then bayMax s i 2 (s.now - p.due) else s
        let s := v.work.foldl (fun s e => queueCarries (feedTdm s b p.chunk e.2) b i e.2.session) s
        v.work.foldl (fun s e => afterCommit i y e.1 s e.2.session) s
    | _, _ => s
  | _, _ => s

/-- SLICE_START (R279). -/
def execSliceStart (bay : Nat) (s : State) : Host.Outcome State Fault Refusal := .next (startSlice s bay)
/-- COMMIT (R148). -/
def execCommit (yealm : Nat) (s : State) : Host.Outcome State Fault Refusal := .next (commitYealm s yealm)

end Sys2Proof.Machine
end

