-- ==== Sys2Proof/Machine/Output.lean ====
section
/-!
DEFINITION. Sys2Proof/Machine/Output.lean: what the network engine takes from a session's rings and sends (R63, R366, R369,
R371 to R373), in release order.
-/
namespace Sys2Proof.Machine

open Sys2Proof

/-- Bytes of a sample in an encoding. -/
def sampleBytes (enc : Nat) : Nat := if enc = 0 then 2 else if enc = 1 then 3 else 1

/-- `pcm` of chunk `c`'s samples `first` to `first + n - 1` in an encoding, from the eaves buffer (R367). -/
def chunkPcm (s : State) (ss : Session) (c first n : Nat) : List Byte :=
  let base := ss.eavesBase + c % 8 * 8192
  if ss.encoding = 1 then (List.range (3 * n)).map (fun k => areaByte s ss (base + 3 * first + k))
  else
    let raw := (List.range (2 * n)).map (fun k => areaByte s ss (base + 4096 + 2 * first + k))
    if ss.encoding = 0 then raw
    else ((List.range n).map (fun j =>
      let x := fldS raw (2 * j) 2
      if ss.encoding = 2 then muLaw x else aLaw x))

/-! ### AUDIO -/

/-- AUDIO body (Table 15.7). -/
def audioBody (i : Nat) (ss : Session) (first n flags frag frags : Nat) (pcm : List Byte) : List Byte :=
  le 4 (handleOf i ss) ++ le 8 first ++ le 2 n ++ le 1 ss.encoding ++ le 1 flags ++ le 1 frag ++ le 1 frags ++ zeros 2 ++ pcm

/-- Largest payload on a path of a connection (R306). -/
def pathPayload (s : State) (x : Conn) (net : Nat) : Nat :=
  let p := pathOf x net
  min x.hostMax (portMtu s p.port - (if p.v6 then 84 else 64))

/-- P of R373: over the active path, or over every bound path for dual sending. -/
def dgramPayload (s : State) (x : Conn) (dual : Bool) : Nat :=
  if dual then
    [0, 1].foldl (fun m net => if (pathOf x net).bound then min m (pathPayload s x net) else m) x.hostMax
  else pathPayload s x x.active

/-- One AUDIO message of a session as a datagram (R315): a datagram for which no path is up is discarded and counted. -/
def audioDgram (s : State) (i c : Nat) (body : List Byte) (dual : Bool) (first n : Nat) : State :=
  let r := sendDgram s c 0x0301 body dual
  if r.2 then r.1 else gapAudio r.1 i first n

/-- AUDIO of one chunk (R369, R373). -/
def sendAudio (s : State) (i c first n flags : Nat) : State :=
  match sessOf s i with
  | none => s
  | some ss =>
    if ¬ bit ss.bindFlags.toNat 0 then s
    else
      let o := c % 8 * 8192 + (if ss.encoding = 1 then 0 else 4096)
      let bytes := n * (if ss.encoding = 1 then 3 else 2)
      let s := eavesTaken s i o bytes
      if (areaLines s (.eaves i) o bytes).any (poisonedAt s) then gapAudio s i first n else
      let whole := audioBody i ss first n flags 0 1 (chunkPcm s ss c 0 n)
      match sessConn s ss with
      | none => gapAudio s i first n
      | some k =>
        if ¬ bit ss.bindFlags.toNat 2 then
          let r := sendStream s k 0x0301 whole .audio
          if r.2 then r.1 else gapAudio r.1 i first n
        else
          match connOf s k with
          | none => s
          | some x =>
            let dual := bit ss.bindFlags.toNat 3
            let q := max 1 ((dgramPayload s x dual - 32) / sampleBytes ss.encoding)
            let f := ceilDiv n q
            (List.range f).foldl (fun s m =>
              let k' := min q (n - m * q)
              audioDgram s i k (audioBody i ss (first + m * q) k' flags m f (chunkPcm s ss c (m * q) k')) dual (first + m * q) k') s

/-! ### Rings 2 to 4 -/

/-- Moves a ring's `io_ptr` past `n` entries. -/
def moveIo (s : State) (i r n : Nat) : State :=
  modSess s i (fun ss => putRing ss r { sringOf ss r with io := ((sringOf ss r).io + n) % 4294967296 })

/-- Entries of a ring that are published and not taken. -/
def published (s : State) (i r : Nat) : Nat :=
  match sessOf s i with
  | none => 0
  | some ss =>
    let g := sringOf ss r
    if g.entries = 0 then 0 else cnt32 (planPtr (sessActive s ss) g) g.io

/-- Takes the events at the head of ring 4 while `ok` of code and sample holds. -/
def takeEvents (i : Nat) (ok : Nat → Nat → Bool) : Nat → State → State
  | 0, s => s
  | n + 1, s =>
    match sessOf s i with
    | none => s
    | some ss =>
      let g := sringOf ss 4
      let e := entryGet g g.io
      if published s i 4 = 0 ∨ ¬ ok (fld e 0 2) (fld e 8 8) ∨ ¬ ioFits s ss 32 then s
      else takeEvents i ok n (sendEvent (moveIo (ringTaken s i 4 1) i 4 1) i (fld e 0 2) (fld e 2 2) (fld e 8 8) (fld e 16 8))

/-- MARK of a chunk with `n` marks in ring 3. -/
def takeMarks (s : State) (i n : Nat) : State :=
  match sessOf s i with
  | none => s
  | some ss =>
    let g := sringOf ss 3
    let n := min n (published s i 3)
    if n = 0 then s
    else
      let recs := (List.range n).flatMap (fun k => (entryGet g (g.io + k)).take 16)
      let s := moveIo (ringTaken s i 3 n) i 3 n
      let r := streamTo s ss 0x0302 (le 4 (handleOf i ss) ++ le 1 n ++ zeros 3 ++ recs) .marks
      if r.2 then r.1 else gapMsg r.1 i

/-- Largest traffic of a chunk's output: its audio entry, its marks, the events published, and its samples (R213). -/
def chunkCost (s : State) (i : Nat) (ss : Session) (e : List Byte) : Nat :=
  64 + 16 * fld e 19 1 + 32 * published s i 4 +
    (if bit ss.bindFlags.toNat 0 then fld e 16 2 * (if ss.encoding = 1 then 3 else 2) else 0)

/-- One entry of ring 2: the chunk's output in the order of R369. It waits while the slot's traffic has no room for it (R213). -/
def takeChunk (i : Nat) (s : State) : State :=
  match sessOf s i with
  | none => s
  | some ss =>
    let g := sringOf ss 2
    let e := entryGet g g.io
    let first := fld e 8 8
    let n := fld e 16 2
    if ¬ ioFits s ss (chunkCost s i ss e) then s else
    let s := moveIo (ringTaken s i 2 1) i 2 1
    let s := takeEvents i (fun code sample => decide (code = 1 ∧ sample ≤ first)) 64 s
    let s := takeMarks s i (fld e 19 1)
    let s := sendAudio s i (fld e 0 8) first n (fld e 18 1)
    let s := modSess s i (fun x => { x with nextSample := first + n })
    takeEvents i (fun code sample => decide (code = 2 ∧ sample ≤ first + n)) 64 s

/-- RING_OUTPUT_TAKE (R253, R369): everything published and not taken. Nothing is taken in the FAULT state (R371). -/
def takeOutput (s : State) (i : Nat) : State :=
  match sessOf s i with
  | none => s
  | some ss =>
    if s.fault.isSome ∨ ss.st = .lost then s
    else
      let s := iter (fun _ s => takeChunk i s) (published s i 2) s
      if published s i 2 = 0 then takeEvents i (fun _ _ => true) 64 s else s

/-- RING_OUTPUT_TAKE (R253). -/
def execRingOutputTake (session : Nat) (s : State) : Host.Outcome State Fault Refusal := .next (takeOutput s session)

end Sys2Proof.Machine
end

