-- ==== Sys2Proof/Machine/BestEffort.lean ====
section
/-!
DEFINITION. Sys2Proof/Machine/BestEffort.lean: best-effort time slices, lending and reclaim of cores, and bulk transfers in
reserve windows (R212, R257, R286 to R293).
-/
namespace Sys2Proof.Machine

open Sys2Proof

/-! ### Time slices (R287, R288) -/

/-- The live set of a group's running step goes to the spill areas; the sequencers' own state is kept with it. -/
def spillGroup (s : State) (b gid y : Nat) : State :=
  (workCores s b gid).foldl (fun s c =>
    let x := coreOf s c
    match x.ctx with
    | none => s
    | some k =>
      let old := tget coreD s.spills (y * 64 + k.idx)
      modCore { s with spills := tput coreD s.spills (y * 64 + k.idx) { x with spad := old.spad, acc := old.acc } } c stopCore) s

/-- The fetch point of a core has reached a preemption point: a command with that flag, or the end of its step's commands, with
no descriptor armed or pending (R238). -/
def atPoint (x : Core) : Bool :=
  (match x.window with
   | q :: _ => bit q.hdr.flags.toNat 1
   | [] => x.stepEnded || bit (fld (streamCmd x.prog.stream x.fetchIndex) 0 1) 1) &&
    x.dma.all (fun e => e.2.active.isNone && e.2.waiting.isNone)

/-- Every core of a group's running step stands at a preemption point (R288). -/
def groupAtPoint (s : State) (b : Nat) (g : Group) : Bool :=
  !g.stepping || (workCores s b g.gid).all (fun c => atPoint (coreOf s c))

/-- A group leaves its yealm; a step in progress is spilled (R288). -/
def leaveGroup (s : State) (b : Nat) (g : Group) (overrun : Nat) : State :=
  match g.yealm with
  | none => s
  | some y =>
    let n := (workCores s b g.gid).length
    let s := if g.stepping then modYealm (spillGroup s b g.gid y) y (fun x => { x with spilled := some (n, g.variant) }) else s
    let s := modYealm s y (fun x => { x with overrun := overrun })
    modBay s b (fun x => { x with groups := x.groups.map (fun h =>
      if h.gid = g.gid then { h with yealm := none, stepping := false } else h) })

/-- BE_SLICE_END (R287, R288). -/
def beSliceEnd (s : State) (b gid overrun : Nat) : State :=
  match bayOf s b with
  | none => s
  | some bay =>
    match bay.groups.find? (fun g => g.gid = gid) with
    | none => s
    | some g => if g.yealm.isNone ∨ ¬ groupAtPoint s b g then s else bayCnt (leaveGroup s b g overrun) b 7 overrun

/-- The cores of a borrowed group have been lent until now (Table 12.5). -/
def countLoan (s : State) (b : Nat) (g : Group) : State :=
  match g.lender with
  | none => s
  | some l => bayCnt (bayCnt s l 4 (g.cores.length * (s.now - g.since))) b 4 (g.cores.length * (s.now - g.since))

/-! ### Lending (R290, R291) -/

/-- Next scheduled start of a latency-critical bay's cores (R279, R290); `none` while it has no admitted yealm. -/
def nextStart (s : State) (b : Bay) : Option Nat :=
  match b.todo with
  | p :: _ => some p.start
  | [] => if admittedYealms s b = [] then none else some (s.t0 + (s.chunk + 1) * Config.chunkCycles)

/-- Cores of a bay that it can lend now. -/
def lendable (s : State) (i : Nat) (b : Bay) : List Nat :=
  let out := (groupsOn s i).flatMap (fun e => e.2.2.cores)
  (bayCores b).filter (fun c => !fenced s (uCore c) && !out.contains c)

/-- Cores that a bay borrows. -/
def borrowed (b : Bay) : Nat := ((b.groups.filter (fun g => g.lender.isSome)).map (fun g => g.cores.length)).sum

/-- Groups of a bay that wait for a yealm. -/
def idleGroups (b : Bay) : Nat := (b.groups.filter (fun g => g.yealm.isNone && !g.reclaim)).length

/-- Yealms of a bay that have work and run in no group. -/
def readyYealms (s : State) (b : Bay) : Nat :=
  (b.order.filter (fun y => ((yealmOf s y).map (beWork s y)).getD false && b.groups.all (fun g => g.yealm ≠ some y))).length

/-- A new borrowed group of a best-effort bay from free lent cores: c cores where possible, else c − 1 or c − 2 (R287,
R291). -/
def formGroup (s : State) (lender b : Nat) (cores : List Nat) : Option (State × List Nat) :=
  match bayOf s b with
  | none => none
  | some bay =>
    if bay.attr.cls = 0 ∨ s.power.alarm ∨ bay.destroying.isSome ∨ bay.paused ∨ groupFenced s bay then none
    else
      let c := (bayCores bay).length
      [0, 1, 2].findSome? (fun v =>
        let n := c - v
        if v < c ∧ n ≤ cores.length ∧ borrowed bay + n ≤ bay.attr.borrowMax ∧ bay.plans.all (boundHas s v) then
          let g : Group := { gid := bay.nextGroup, lender := some lender, cores := cores.take n, variant := v, yealm := none
                             rot := bay.rot, stepping := false, reclaim := false, sliceEnd := 0, since := s.now }
          let t := modBay s b (fun x => { x with groups := x.groups ++ [g], nextGroup := x.nextGroup + 1 })
          if idleGroups bay < readyYealms s bay ∧ powerNow t ≤ capMw s then some (t, cores.drop n) else none
        else none)

/-- Lent cores go to best-effort bays in ascending `bay_id` (R291). -/
def giveCores (lender : Nat) : Nat → List Nat → List Nat → State → State
  | 0, _, _, s => s
  | _, [], _, s => s
  | n + 1, b :: bs, cores, s =>
    match formGroup s lender b cores with
    | some (t, rest) => giveCores lender n (b :: bs) rest t
    | none => giveCores lender n bs cores s

/-- CORE_LEND (R290). -/
def lendCores (s : State) (i : Nat) : State :=
  match bayOf s i with
  | none => s
  | some b =>
    let room : Bool := match nextStart s b with
      | none => true
      | some t => decide (b.commitAt + 705000 ≤ t) && decide (s.now + 235000 ≤ t)
    if b.attr.cls ≠ 0 ∨ b.attr.lend = 0 ∨ b.running ∨ b.destroying.isSome ∨ ¬ stepsRun s ∨ ¬ room then s
    else giveCores i 192 (s.bays.map Prod.fst) (lendable s i b) (modBay s i (fun b => { b with lent := true }))

/-- RECLAIM_START (R292): every group on the lender's cores is marked. -/
def reclaimStart (s : State) (i : Nat) : State :=
  { s with bays := s.bays.map (fun e => (e.1, { e.2 with groups := e.2.groups.map (fun g =>
      if g.lender = some i then { g with reclaim := true } else g) })) }

/-- A core that comes back from a loan (Table 12.4). -/
def returnCore (s : State) (c : Nat) : State :=
  modCore s c (fun x => { stopCore x with sems := [], rings := [], descs := [], gated := true })

/-- One marked group goes back to its lender: its step is spilled, its cores are reset and clock-gated. -/
def reclaimGroup (i : Nat) (s : State) (e : Nat × Group) : State :=
  let s := bayCnt (countLoan (leaveGroup s e.1 e.2 0) e.1 e.2) i 5 1
  let s := e.2.cores.foldl returnCore s
  modBay s e.1 (fun b => { b with groups := b.groups.filter (fun g => g.gid ≠ e.2.gid) })

/-- RECLAIM_COMPLETE (R292, Table 12.4). -/
def reclaimComplete (s : State) (i cycles : Nat) : State :=
  match bayOf s i with
  | none => s
  | some b =>
    let gs := s.bays.flatMap (fun e => (e.2.groups.filter (fun g =>
      decide (g.lender = some i) && g.reclaim && groupAtPoint s e.1 g)).map (fun g => (e.1, g)))
    let s := gs.foldl (reclaimGroup i) s
    let s := if gs = [] then s else bayMax s i 6 cycles
    if b.lent ∧ (groupsOn s i).isEmpty then modBay s i (fun b => { b with lent := false }) else s

/-- The borrowed groups of a bay go back to their lenders at once. -/
def returnBorrowed (s : State) (i : Nat) : State :=
  (((bayOf s i).map (fun b => b.groups)).getD []).foldl (fun s g => match g.lender with
    | some l => reclaimGroup l s (i, g)
    | none => s) s

/-! ### Power cap (R286) -/

/-- The state as it will be once every marked group is back. -/
def dropMarked (s : State) : State :=
  { s with bays := s.bays.map (fun (e : Nat × Bay) => (e.1, { e.2 with groups := e.2.groups.filter (fun g => !g.reclaim) })) }

/-- The unmarked borrowed group of highest power: bay, group id and power. -/
def topGroup (s : State) : Option (Nat × Nat × Nat) :=
  (s.bays.flatMap (fun e => (e.2.groups.filter (fun g => g.lender.isSome && !g.reclaim)).map (fun g =>
    (e.1, g.gid, groupPower s e.2 g)))).foldl (fun (m : Option (Nat × Nat × Nat)) x => match m with
      | none => some x
      | some y => if y.2.2 < x.2.2 then some x else some y) none

/-- Borrowed groups are marked for reclaim, highest power first, until P_adm is within the cap. -/
def capReclaim : Nat → State → State
  | 0, s => s
  | n + 1, s =>
    if powerNow (dropMarked s) ≤ capMw s then s
    else
      match topGroup s with
      | none => s
      | some (b, gid, _) =>
        capReclaim n (modBay s b (fun x => { x with groups := x.groups.map (fun g => if g.gid = gid then { g with reclaim := true } else g) }))

/-- A cap comes into force (R286). -/
def setCap (s : State) (mw : Nat) : State := capReclaim 64 { s with power := { s.power with capMw := mw } }

/-! ### Copies of builds -/

/-- A copy of a build. -/
def copyOf (b : Build) (kind : Nat) : Option BuildCopy := b.copies.find? (fun c => c.kind = kind)

/-- Changes a resident build. -/
def modBuild (s : State) (id : W64) (f : Build → Build) : State :=
  { s with builds := s.builds.map (fun (b : Build) => if b.id = id then f b else b) }

/-- A bay needs a copy of a build of its own: the home copy does not lie entirely in its group (Table 10.2). -/
def needsCopy (b : Build) (i : Nat) (channels : Nat) : Bool :=
  (copyOf b (2 + i)).isNone && ((copyOf b 0).map (fun c => decide (c.channels &&& channels ≠ c.channels))).getD true

/-- The bay copy of a build is in place (R210, R211): the image's bytes, read from the home copy and written into the group. -/
def placeCopy (s : State) (i : Nat) (id : W64) : State :=
  match bayOf s i, buildOf s id with
  | some bay, some b =>
    if needsCopy b i bay.attr.channelMask then
      let n := b.image.length
      let base := placeAt (maskBits 48 bay.attr.channelMask) s.fresh n
      let s := areaRead { s with fresh := s.fresh + 1 } (.image id 0) 0 n
      areaPlaced (modBuild s id (fun b => { b with copies := b.copies ++
        [{ kind := 2 + i, channels := bay.attr.channelMask, base := base, written := [], badPages := [] }] })) (.image id (2 + i)) 0 n
    else s
  | _, _ => s

/-! ### Running work and lost pages (R413, R422) -/

/-- Running steps of a bay: work group and yealm. -/
def runningOf (s : State) (i : Nat) : List (Nat × Nat) :=
  match bayOf s i with
  | none => []
  | some b =>
    if b.attr.cls = 0 then
      match b.todo with
      | p :: _ => if b.running then [(0, p.yealm)] else []
      | [] => []
    else b.groups.filterMap (fun g => if g.stepping then g.yealm.map (fun y => (g.gid, y)) else none)

/-- Every running step of a bay fails (R413). -/
def failBay (s : State) (i : Nat) : State := (runningOf s i).foldl (fun s e => failWork s i e.1 e.2) s

/-- The copy of a build that a bay reads: its own bay copy, or the home copy where it serves (Table 10.2). -/
def readsCopy (b : Build) (bay : Nat) : Nat := if (copyOf b (2 + bay)).isSome then 2 + bay else 0

/-- Bays that read a copy of a build. -/
def copyReaders (s : State) (b : Build) (kind : Nat) : List Nat :=
  (s.bays.filter (fun e => e.2.plans.any (fun p => p.build = b.id) && decide (readsCopy b e.1 = kind))).map Prod.fst

/-- A bay reads a copy that holds a bad page. -/
def readsBad (s : State) (i : Nat) (b : Bay) : Bool :=
  b.plans.any (fun p => match buildOf s p.build with
    | none => false
    | some d => ((copyOf d (readsCopy d i)).map (fun c => decide (c.badPages ≠ []))).getD false)

/-- Brings every bay's pause up to date. -/
def fixPaused (s : State) : State :=
  { s with bays := s.bays.map (fun (e : Nat × Bay) => (e.1, { e.2 with paused := readsBad s e.1 e.2 })) }

/-- A copy holds a page intact. -/
def copyIntact (c : BuildCopy) (page : Nat) : Bool := !c.badPages.contains page

/-- A page has an intact copy. -/
def pageIntact (b : Build) (page : Nat) : Bool := b.copies.any (fun c => copyIntact c page)

/-- A page of a copy is lost: the bays that read it fail their running steps and pause until the rewrite; with no intact
copy left the page is requested of the host. -/
def pageLost (s : State) (id : W64) (kind page : Nat) : State :=
  match buildOf s id with
  | none => s
  | some b =>
    let s := (copyReaders s b kind).foldl failBay s
    let s := modBuild s id (fun b =>
      let b := { b with copies := b.copies.map (fun (c : BuildCopy) =>
        if c.kind = kind ∧ copyIntact c page then { c with badPages := c.badPages ++ [page] } else c) }
      if pageIntact b page ∨ b.requested.contains page then b else { b with requested := b.requested ++ [page] })
    fixPaused s

/-- A page written intact into a copy: its lines are whole again, and out of the ridge cache (R224). -/
def pageMended (s : State) (id : W64) (kind page : Nat) : State :=
  let s := areaPlaced s (.image id kind) (page * 65536) 65536
  let s := modBuild s id (fun b =>
    let b := { b with copies := b.copies.map (fun (c : BuildCopy) => if c.kind = kind then
      { c with badPages := c.badPages.filter (fun (p : Nat) => p ≠ page)
               written := c.written.filter (fun e => decide (e.1 / 65536 ≠ page)) } else c) }
    { b with requested := if pageIntact b page then b.requested.filter (fun p => p ≠ page) else b.requested
             allRequested := b.allRequested && b.copies.any (fun c => c.badPages ≠ []) })
  fixPaused s

/-! ### State images (R158) -/

/-- Header and body of a native state image (Table 7.8). -/
def nativeImage (ss : Session) (stateBytes : Nat) (half : List Byte) : List Byte :=
  let head := le 4 0x49534D4C ++ le 2 1 ++ le 2 (b2n ss.compat) ++ le 8 ss.build.toNat ++ le 8 ss.seed.toNat ++
    le 8 ss.adapter.toNat ++ le 4 stateBytes ++ le 4 (if ss.compat then compatBytes else 0) ++ zeros 16
  head ++ le 4 (crc32c head).toNat ++ le 4 (crc32c half).toNat ++ half

/-- Tokens of a session, from the first of the utterance in progress. -/
def sessText (s : State) (ss : Session) : List Byte :=
  (List.range (ss.uttTokens + ss.queuedTokens.getD 0 + ss.unspoken)).flatMap (tokenEntry ss (sessActive s ss))

/-! ### Bulk transfers (R212) -/

/-- A bay has slices, so its transfers wait for reserve windows (R212). -/
def hasSlices (s : State) (bay : Nat) : Bool := ((bayOf s bay).map (fun b => decide (admittedYealms s b ≠ []))).getD false

/-- Worst-case time of a piece of `n` bytes over `c` channels, in cycles (R214, R215): 4 KiB bursts of 34 slots, four slots a cycle,
behind refresh and maintenance. DEDUCED: the guarantees of R214 and R215, solved for the time. -/
def pieceCycles (n c : Nat) : Nat := ceilDiv (ceilDiv (ceilDiv n 4096) (max 1 c) * 34 * 250000 + 2026640000) 944375

/-- A piece that starts now ends before the bay's window closes (R212). -/
def pieceFits (s : State) (i n : Nat) : Bool :=
  !((bayOf s i).map (fun b => b.window)).getD false ||
    decide (s.now + pieceCycles n (groupOf s (some i)).length ≤ s.t0 + (s.chunk + 1) * Config.chunkCycles)

/-- The bay whose group holds some of the channels of a mask. -/
def bayOver (s : State) (mask : Nat) : Option Nat :=
  (s.bays.find? (fun e => decide (e.2.attr.channelMask &&& mask ≠ 0))).map Prod.fst

/-- Where the entries of a session's cross-bay ring go (R256): bay and session of the consuming plan. DESIGN CHOICE: the session
in the slot of the same number, of the first such yealm. -/
def carryTarget (s : State) (i r : Nat) : Option (Nat × Nat) :=
  match sessOf s i with
  | none => none
  | some ss =>
    match effAttach ss, buildOf s ss.build with
    | some a, some b =>
      match yealmOf s a.yealm, b.desc.rings[r - 6]? with
      | some y, some d =>
        (s.yealms.filter (fun e => decide (e.2.bay ≠ y.bay ∧ e.2.build = y.build) &&
          (if d.role = 1 then decide (e.2.plan = d.peerPlan) else decide (e.2.plan ≠ d.peerPlan)))).findSome? (fun e =>
            (slotSession s e.1 a.slot).map (fun t => (e.2.bay, t.1)))
      | _, _ => none
    | _, _ => none

/-- The windows that a piece of a job needs are open, and the piece ends in them. -/
def bulkOpen (s : State) (i : Nat) (k : Bulk) : Bool :=
  let n := min k.left Config.bulkPiece
  let ok (j : Nat) : Bool := windowOpen s j && pieceFits s j n
  ok i && (match k.kind with
    | .attachMove _ (some j) => decide (j = i) || ok j || (bayOf s j).isNone
    | .ringCarry j r => ((carryTarget s j r).map (fun e => ok e.1)).getD false
    | .planCopy id _ =>
      (match ((buildOf s id).bind (fun b => copyOf b 0)).bind (fun c => bayOver s c.channels) with
       | some j => decide (j = i) || ok j
       | none => true)
    | _ => true)

/-- RESERVE_WINDOW_PIECE (R212). -/
def startPiece (s : State) (i : Nat) : State :=
  match bayOf s i with
  | none => s
  | some b =>
    match b.bulk with
    | k :: rest => if k.running ∨ ¬ bulkOpen s i k ∨ s.fault.isSome then s
      else modBay s i (fun b => { b with bulk := { k with running := true } :: rest })
    | [] => s

/-- The grid index of the next boundary: `first_chunk` of an ATTACH (Table 15.3). -/
def firstChunk (s : State) : Nat := s.chunk + 1

/-- An ATTACH whose moves are done is accepted (R156, R157). -/
def acceptAttach (s : State) (i : Nat) (resp : Option RespTo) : State :=
  let s := modSess s i (fun ss => { ss with attach := ss.attach.map (fun a => { a with ready := true }) })
  match resp with
  | some rt => respond s rt stOk (le 8 (firstChunk s))
  | none => s

/-- The physical address of a byte of an object. -/
def areaPhys (s : State) (a : Area) (o : Nat) : Option Nat :=
  (spanOf s a).bind (fun p => match physOf p.group ((p.base + o : Nat) : Int) with
    | .ok x => some x
    | .error _ => none)

/-- A byte at a physical address, where there is one. -/
def physGet (s : State) (p : Option Nat) : Byte := (p.map (physByte s)).getD 0

/-- The areas of a session with their bytes, given its index. -/
def sessAreas (ss : Session) : List (Nat → Area × Nat) :=
  [fun i => (.half i false, ss.halfA.length), fun i => (.half i true, ss.halfB.length), fun i => (.eaves i, 65536)] ++
    (List.range 16).flatMap (fun r =>
      [fun i => (Area.control i r, 32), fun i => (Area.entries i r, (sringOf ss r).entries * (sringOf ss r).entryBytes)])

/-- Firmware chooses where a session's areas lie in a group (R210). -/
def placeSess (g : List Nat) (draw : Nat) (ss : Session) : Session :=
  { ss with
    areaBase := placeAt g draw (ss.halfA.length + ss.halfB.length), ctrlBase := placeAt g (draw + 1) 512
    eavesBase := placeAt g (draw + 2) 65536
    rings := ss.rings.map (fun e => (e.1, if e.2.entries = 0 then e.2
      else { e.2 with base := placeAt g (draw + 3 + e.1) (e.2.entries * e.2.entryBytes) })) }

/-- The state area of a session moves to a bay's group (R157): the active half and the record bits move, and the
previous-valid bit is cleared. -/
@[irreducible] def moveArea (s : State) (i bay : Nat) : State :=
  let s := { s with fresh := s.fresh + 1 }
  match sessOf s i with
  | none => s
  | some ss =>
    let g := groupOf s (some bay)
    let bs := (List.range 65536).map (fun k => physGet s (areaPhys s (.eaves i) k))
    let s := (sessAreas ss).foldl (fun s a => areaRead s (a i).1 0 (a i).2) s
    let s := modSess s i (fun x => placeSess g s.fresh { x with home := some bay, prevValid := false })
    let s := (sessAreas ss).foldl (fun s a => areaPlaced s (a i).1 0 (a i).2) { s with fresh := s.fresh + 19 }
    (bs.mapIdx (fun k b => (k, b))).foldl (fun s e => (areaPhys s (.eaves i) e.1).elim s (fun p => physPut s p e.2)) s

/-- Firmware carries the entries of a cross-bay ring into the consumer's ring (R256), as many as its consumer leaves room for
(R253); the rest waits for a later window. DESIGN CHOICE: the ring's one declaration gives the producer's direction, so the
consumer's copy points into the plan. -/
def carryEntries (s : State) (bay i r : Nat) (resp : Option RespTo) : State :=
  match sessOf s i, carryTarget s i r with
  | some ss, some (_, j) =>
    match sessOf s j with
    | none => s
    | some tt =>
      let g := sringOf ss r
      let h := { sringOf tt r with dir := 0 }
      let n := cnt32 (planPtr (sessActive s ss) g) g.io
      let m := min n (h.entries - cnt32 h.io (planPtr (sessActive s tt) h))
      let es := (List.range m).map (fun e => entryGet g (g.io + e))
      let s := modSess s i (fun x => putRing x r { g with io := (g.io + m) % 4294967296 })
      let s := modSess s j (fun x => putRing x r (ringPush h es))
      if m < n then modBay s bay (fun b => { b with bulk := b.bulk ++
        [{ kind := .ringCarry i r, left := (n - m) * g.entryBytes, running := false, resp := resp }] })
      else s
  | _, _ => s

/-- Body of the response to SESSION_EXPORT (R158, R374). -/
def exportBody (s : State) (ss : Session) : List Byte :=
  let n := ((buildOf s ss.build).map (fun b => b.stateBytes)).getD 0
  let img := nativeImage ss n (halfOf ss (sessActive s ss))
  le 4 img.length ++ le 4 ss.uttTokens ++ le 4 (ss.queuedTokens.getD 0) ++ le 4 ss.unspoken ++ img ++ sessText s ss

/-- The state image and text of a session leave (R158). A session that is gone, or has attached, answers as its checks do. -/
def exportDone (s : State) (i : Nat) (resp : Option RespTo) : State :=
  match resp with
  | none => s
  | some rt =>
    match sessOf s i with
    | none => answer s rt stBadMessage
    | some ss =>
      if ss.attach.isSome then answer s rt stBusy
      else respond (areaRead s (.half i (sessActive s ss)) 0 ss.halfA.length) rt stOk (exportBody s ss)

/-- What a finished bulk job does. -/
def bulkDone (s : State) (i : Nat) (k : Bulk) : State :=
  match k.kind with
  | .planCopy build plan =>
    let s := placeCopy s i build
    let s := modBay s i (fun b => { b with plans := b.plans.map (fun p =>
      if p.build = build ∧ p.plan = plan then { p with ready := true } else p) })
    (match k.resp with
     | some rt => answer s rt stOk
     | none => s)
  | .attachMove j src =>
    if ((sessOf s j).map (fun ss => ss.attach.isSome)).getD false then
      acceptAttach (if src = some i then s else moveArea s j i) j k.resp
    else
      (match k.resp with
       | some rt => respond s rt stOk (le 8 (firstChunk s))
       | none => s)
  | .ringCarry j r => carryEntries s i j r k.resp
  | .pageReload id c page =>
    let s := pageMended s id c page
    (match k.resp with
     | some rt =>
       if s.bays.any (fun e => e.2.bulk.any (fun m => decide (m.resp = some rt))) then s else respond s rt stOk (le 8 65536)
     | none => s)
  | .sessionExport j => exportDone s j k.resp

/-- BULK_TRANSFER_PIECE_DONE (R212). -/
def pieceDone (s : State) (i : Nat) : State :=
  match bayOf s i with
  | none => s
  | some b =>
    match b.bulk with
    | k :: rest =>
      if ¬ k.running then s
      else if Config.bulkPiece < k.left then
        modBay s i (fun b => { b with bulk := { k with left := k.left - Config.bulkPiece, running := false } :: rest })
      else bulkDone (modBay s i (fun b => { b with bulk := rest })) i k
    | [] => s

/-- BE_SLICE_END (R288). -/
def execBeSliceEnd (bay group overrun : Nat) (s : State) : Host.Outcome State Fault Refusal := .next (beSliceEnd s bay group overrun)
/-- CORE_LEND (R290). -/
def execCoreLend (bay : Nat) (s : State) : Host.Outcome State Fault Refusal := .next (lendCores s bay)
/-- RECLAIM_START (R292). -/
def execReclaimStart (bay : Nat) (s : State) : Host.Outcome State Fault Refusal := .next (reclaimStart s bay)
/-- RECLAIM_COMPLETE (R292). -/
def execReclaimComplete (bay cycles : Nat) (s : State) : Host.Outcome State Fault Refusal := .next (reclaimComplete s bay cycles)
/-- RESERVE_WINDOW_PIECE (R212). -/
def execReserveWindowPiece (bay : Nat) (s : State) : Host.Outcome State Fault Refusal := .next (startPiece s bay)
/-- BULK_TRANSFER_PIECE_DONE (R212). -/
def execBulkTransferPieceDone (bay : Nat) (s : State) : Host.Outcome State Fault Refusal := .next (pieceDone s bay)

end Sys2Proof.Machine
end

