-- ==== Sys2Proof/Machine/Lmx.lean ====
section
/-!
DEFINITION. Sys2Proof/Machine/Lmx.lean: the meanings of the transport's commands: received segments, timers of
connections, and the Ethernet functions (spec/13).
-/
namespace Sys2Proof.Machine

open Sys2Proof

/-! ### Received segments -/

/-- Header and payload of a received segment are well formed but for its connection and epoch (R303, R307). -/
def segFormOk (typ : Nat) (g : Seg) : Bool :=
  decide (g.crc = crc32c (segRxHead typ g ++ g.payload)) && decide (g.magic = 0x4D4C#16) && decide (g.version = 1#8) &&
    decide (g.rsv7 = 0) && decide (g.rsv30 = 0) && decide (g.flags.toNat < 8) &&
    decide (g.payload.length = g.payloadLen.toNat) && decide (1 ≤ typ) && decide (typ ≤ 8) &&
    (match typ with
     | 3 => decide (g.payload.length = 12) && isZero g.payload 2 2 && decide (512 ≤ fld g.payload 0 2) &&
         decide (fld g.payload 0 2 ≤ 9130) && decide (g.connId = 0xFFFF#16)
     | 6 => decide (g.payload.length = 4) && isZero g.payload 1 3
     | _ => true)

/-- The segment names an open connection and its epoch. -/
def segConnOk (s : State) (g : Seg) : Bool :=
  match connOf s g.connId.toNat with
  | none => false
  | some x => decide (x.epoch = g.epoch)

/-- An OPEN that repeats an existing connection (R308). -/
def openRepeats (g : Seg) (x : Conn) : Bool :=
  decide (x.st ≠ .closing) && decide (x.tag = BitVec.ofNat 64 (fld g.payload 4 8)) &&
    (decide (x.peerIp = g.srcIp ∧ x.peerUdp = g.srcUdp) || (decide (x.peerIp ≠ g.srcIp) && !x.dataAcked))

/-- Payload of an OPEN_ACK (Table 13.6). -/
def openAckPayload (s : State) (tag : W64) : List Byte := le 2 (devMaxPayload s) ++ zeros 2 ++ le 8 tag.toNat

/-- A connection whose OPEN_ACK leaves again (R308): it carries the acknowledgement, and its first copy gives no round-trip sample
(R312). -/
def reopened (x : Conn) : Conn :=
  { x with ackDue := none, dataAcked := x.dataAcked || x.dataSeen
           unacked := x.unacked.map (fun t => if t.typ = 4 then { t with resent := true } else t) }

/-- Receipt of a valid OPEN (R305 to R308). -/
def rxOpen (g : Seg) (s : State) : State :=
  let net := netOf g.port
  let tag : W64 := BitVec.ofNat 64 (fld g.payload 4 8)
  match s.conns.find? (fun e => openRepeats g e.2) with
  | some e =>
    let head := segHead e.1 4 0 e.2.isn e.2.rxNext (sackMap e.2) 12 e.2.epoch (rxWindow s e.1 e.2)
    txFrame (setConn s e.1 (reopened e.2)) g.port (.segment g.port g.srcIp g.srcUdp g.frame.src (ipHdr s g.port g.v6 .control)
      (segBytes head (openAckPayload s tag)))
  | none =>
    match (List.range 4096).find? (fun c => (connOf s c).isNone) with
    | none => resetTo s g 2
    | some c =>
      let isn := Config.freeSeq s.fresh
      let p : Path := { pathD with bound := true, up := true, port := g.port, v6 := g.v6, ip := g.srcIp, udp := g.srcUdp
                                   mac := g.frame.src }
      let ack : TxSeg := { seq := isn, typ := 4, flags := 0, payload := openAckPayload s tag, cls := .control
                           sentAt := s.now, net := net, resent := false, sacked := false }
      let x : Conn :=
        { st := .open, epoch := tget 0 s.epochs c, tag := tag, opened := s.opened, peerIp := g.srcIp, peerUdp := g.srcUdp
          hostMax := fld g.payload 0 2, paths := tput pathD [] net p, active := net, rxNext := g.seq + 1, rxBuf := []
          asm := none, asmSegs := 0, oversize := false, dataSeen := false, dataAcked := false, ackDue := none, isn := isn, txNext := isn + 1
          unacked := [ack], waiting := [], respWait := [], peerWindow := g.window.toNat, msgNo := 0, dgramNo := 0
          bufLimit := fld (act s 0x03 0) 12 4, counters := [] }
      let s := { s with conns := tins s.conns c x, opened := s.opened + 1, fresh := s.fresh + 1
                        epochs := tput 0 s.epochs c (tget 0 s.epochs c + 1) }
      sendSeg s c net 4 0 isn ack.payload .control

/-- A protocol error of R310: RESET reason 5 on every up path, and the connection is FREE. -/
def protocolError (s : State) (c : Nat) : State := freeConn (sendReset s c 5) c

/-- The answer to a message that passes 16,777,216 bytes (R310), of the layout its type's response has (R331). -/
def tooLong (s : State) (c : Nat) (got : List Byte) : State :=
  let typ := fld got 0 2 % 32768
  queueResp { s with fresh := s.fresh + 1 } c (msgBytes (typ + 32768) stBadMessage (fld got 4 4) (failBody s typ)) (respClass typ)

/-- One DATA or CLOSE segment taken in sequence (R309, R310). The Bool says that the connection goes on. -/
def takeSeg (s : State) (c : Nat) (flags typ : Nat) (pl : List Byte) : State × Bool :=
  match connOf s c with
  | none => (s, false)
  | some x =>
    if typ = 5 then (setConn s c { x with st := .closing, asm := none, asmSegs := 0, oversize := false }, true)
    else if x.st = .closing then (sendReset s c 5, true)
    else if (bit flags 0 ∧ (x.asm.isSome ∨ x.oversize)) ∨ (¬ bit flags 0 ∧ x.asm.isNone ∧ ¬ x.oversize) then
      (protocolError s c, false)
    else
      let got := (x.asm.getD []) ++ pl
      let big := !x.oversize && decide (Config.maxMessage < got.length)
      let last := bit flags 1
      let drop := x.oversize || big
      let n := x.asmSegs + 1
      let s := setConn s c { x with dataSeen := true, asm := if last ∨ drop then none else some got
                                    asmSegs := if last ∨ drop then 0 else n, oversize := drop && !last }
      if big then (tooLong s c got, true)
      else if last ∧ ¬ drop then (deliver s c got n, true)
      else (s, true)

/-- Takes every buffered segment that is next in sequence. -/
def drainRx (c : Nat) : Nat → State → State
  | 0, s => s
  | n + 1, s =>
    match connOf s c with
    | none => s
    | some x =>
      match tfind x.rxBuf x.rxNext.toNat with
      | none => s
      | some (flags, typ, pl) =>
        let s := setConn s c { x with rxBuf := tdel x.rxBuf x.rxNext.toNat, rxNext := x.rxNext + 1 }
        let r := takeSeg s c flags typ pl
        if r.2 then drainRx c n r.1 else r.1

/-- Receipt of a valid sequenced segment of the host, DATA or CLOSE (R304, R309, R310). -/
def rxSequenced (typ : Nat) (g : Seg) (s : State) : State :=
  let c := g.connId.toNat
  match connOf s c with
  | none => s
  | some x =>
    let d := (g.seq - x.rxNext).toNat
    if 2147483648 ≤ d then sendBare s c (netOf g.port) 2
    else if 256 ≤ d then portCnt s g.port 6 32
    else
      let s := setConn s c { x with rxBuf := tins x.rxBuf g.seq.toNat (g.flags.toNat, typ, g.payload)
                                    ackDue := some (netOf g.port) }
      drainRx c 257 s

/-- What an IP packet carrying a segment must meet to reach LMX (Table 13.2). -/
def udpReaches (s : State) (g : Seg) : Bool :=
  (if g.v6 then decide (g.dstIp = portIp6 s g.port) && decide (g.dstIp ≠ 0)
   else decide (g.dstIp = portIp4 s g.port) && decide (g.dstIp ≠ 0)) && decide (g.dstUdp = udpPort s)

/-- The drop of an invalid segment (R307): counted, and answered with RESET reason 1 where its only faults are its
connection or epoch, once per millisecond and source address, whatever the port. -/
def rxInvalid (typ : Nat) (g : Seg) (s : State) : State :=
  let s := portCnt s g.port 6 32
  if segFormOk typ g ∧ typ ≠ 3 ∧ typ ≠ 6 ∧ typ ≠ 7 ∧ ¬ segConnOk s g then
    match s.resets.find? (fun r => r.1 = g.srcIp) with
    | some r =>
      if s.now < r.2 + Config.cyclesPerMs then s
      else resetTo { s with resets := (g.srcIp, s.now) :: s.resets.filter (fun r => r.1 ≠ g.srcIp) } g 1
    | none => resetTo { s with resets := (g.srcIp, s.now) :: s.resets } g 1
  else s

/-- A received segment of a type (R301 to R315): the frame, the packet, the segment's validity, and what the segment
does. A valid OPEN_ACK of a host has no effect of its own. -/
def rxSeg (typ : Nat) (g : Seg) (s : State) : State :=
  let r := rxFrame s g.port g.frame
  let s := r.1
  if ¬ r.2 then s
  else if ¬ udpReaches s g then portCnt s g.port 5 32
  else if typ = 7 ∨ devMaxPayload s < g.payload.length then portCnt s g.port 6 32
  else if ¬ segFormOk typ g ∨ (typ ≠ 3 ∧ ¬ segConnOk s g) then rxInvalid typ g s
  else
    let c := g.connId.toNat
    if typ = 3 then rxOpen g s
    else if typ = 6 then freeConn s c
    else
      let s := takeAck (bindPath s c (netOf g.port) g) c g.ack g.sack g.window
      match typ with
      | 1 => rxSequenced 1 g s
      | 5 => rxSequenced 5 g s
      | 8 => sendBare s c (netOf g.port) 2
      | _ => s

/-- OPEN (R305). -/
def execLmxOpen (g : Seg) (s : State) : Host.Outcome State Fault Refusal := .next (rxSeg 3 g s)
/-- DATA (R310). -/
def execLmxData (g : Seg) (s : State) : Host.Outcome State Fault Refusal := .next (rxSeg 1 g s)
/-- ACK (R312). -/
def execLmxAck (g : Seg) (s : State) : Host.Outcome State Fault Refusal := .next (rxSeg 2 g s)
/-- CLOSE (R309). -/
def execLmxClose (g : Seg) (s : State) : Host.Outcome State Fault Refusal := .next (rxSeg 5 g s)
/-- RESET (R307, Table 13.7). -/
def execLmxReset (g : Seg) (s : State) : Host.Outcome State Fault Refusal := .next (rxSeg 6 g s)
/-- KEEPALIVE (R304). -/
def execLmxKeepalive (g : Seg) (s : State) : Host.Outcome State Fault Refusal := .next (rxSeg 8 g s)
/-- A DGRAM that a host sends (R307). -/
def execDgramFromHost (g : Seg) (s : State) : Host.Outcome State Fault Refusal := .next (rxSeg 7 g s)
/-- A segment of any type that R307 may find invalid. -/
def execInvalidSegment (segType : Byte) (g : Seg) (s : State) : Host.Outcome State Fault Refusal :=
  .next (rxSeg segType.toNat g s)

/-! ### Timers of a connection -/

/-- ACK_DELAY_EXPIRY (R304). -/
def execAckDelayExpiry (conn : Nat) (s : State) : Host.Outcome State Fault Refusal :=
  .next (match connOf s conn with
    | none => s
    | some x =>
      match x.ackDue with
      | none => s
      | some net => sendBare s conn net 2)

/-- Retransmission of the earliest unacknowledged segment on a path whose RTO expired (R312), and the third expiry in a
row (R313). -/
def rtoExpire (conn net : Nat) (s : State) : State :=
  match connOf s conn with
  | none => s
  | some x =>
    let p := pathOf x net
    match x.unacked.find? (fun t => !t.sacked && decide (t.net = net)) with
    | none => s
    | some t =>
      if ¬ p.up then s
      else if 2 ≤ p.expiries then pathDown s conn net true
      else
        let x := setPath x net { p with rto := min 50000000 (2 * p.rto), expiries := p.expiries + 1 }
        let x := { x with unacked := x.unacked.map (fun u =>
          if u.seq = t.seq then { u with resent := true, sentAt := s.now } else u) }
        sendSeg (connCnt (setConn s conn x) conn 0) conn net t.typ (t.flags ||| 4) t.seq t.payload t.cls

/-- RTO_EXPIRY (R312). -/
def execRtoExpiry (conn : Nat) (net : Fin 2) (s : State) : Host.Outcome State Fault Refusal := .next (rtoExpire conn net s)

/-- A KEEPALIVE that is due (R311, R313). -/
def keepaliveExpire (conn net : Nat) (s : State) : State :=
  match connOf s conn with
  | none => s
  | some x =>
    let p := pathOf x net
    if ¬ p.bound then s
    else if p.up then
      if 3 ≤ p.probes then pathDown s conn net true
      else sendBare (setConn s conn (setPath x net { p with probes := p.probes + 1 })) conn net 8
    else sendRaw s conn net 8 0 0 [] .control

/-- KEEPALIVE_TIMER_EXPIRY (R313). -/
def execKeepaliveTimerExpiry (conn : Nat) (net : Fin 2) (s : State) : Host.Outcome State Fault Refusal :=
  .next (keepaliveExpire conn net s)

/-- HOLD_EXPIRY (Table 13.7): RESET reason 3 to both peers, then FREE. -/
def execHoldExpiry (conn : Nat) (s : State) : Host.Outcome State Fault Refusal :=
  .next (match connOf s conn with
    | none => s
    | some x =>
      if x.st = .held then
        let pl := le 1 3 ++ zeros 3
        freeConn (sendRaw (sendRaw s conn 0 6 0 0 pl .control) conn 1 6 0 0 pl .control) conn
      else s)

/-- CLOSING_END (Table 13.7): CLOSE on every up path, then FREE. -/
def execClosingEnd (conn : Nat) (s : State) : Host.Outcome State Fault Refusal :=
  .next (match connOf s conn with
    | none => s
    | some x =>
      if x.st = .closing then
        freeConn (sendSeg (sendSeg s conn 0 5 0 x.txNext [] .control) conn 1 5 0 x.txNext [] .control) conn
      else s)

/-! ### Ethernet and IP functions (R297 to R300) -/

/-- A frame the MAC accepted whose content Table 13.2 excludes. -/
def dropFrame (s : State) (p : Nat) : State := portCnt s p 5 32

/-- ARP_REQUEST (Table 13.2). -/
def execArpRequest (port : Fin 8) (f : FrameHdr) (senderIp targetIp : W32) (s : State) : Host.Outcome State Fault Refusal :=
  let r := rxFrame s port f
  .next (if ¬ r.2 then r.1
    else if targetIp.toNat = portIp4 r.1 port ∧ targetIp ≠ 0 then
      txFrame r.1 port (.arpReply port f.src senderIp.toNat (arpHdr r.1 port))
    else dropFrame r.1 port)

/-- NEIGHBOUR_SOLICITATION (Table 13.2). -/
def execNeighbourSolicitation (port : Fin 8) (f : FrameHdr) (_srcIp target : BitVec 128) (s : State) :
    Host.Outcome State Fault Refusal :=
  let r := rxFrame s port f
  .next (if ¬ r.2 then r.1
    else if portIp6 r.1 port ≠ 0 ∧
        (target.toNat = portIp6 r.1 port ∨ target.toNat = linkLocal (portMac r.1 port)) then
      txFrame r.1 port (.neighbourAdvert port f.src target.toNat (ipHdr r.1 port true .control))
    else dropFrame r.1 port)

/-- An echo request the port answers: enabled, addressed to it, and whole within the MTU. -/
def echoAnswers (s : State) (p : Nat) (v6 : Bool) (dstIp : Nat) (payload : List Byte) : Bool :=
  bit (ipFlags s p) 0 &&
    (if v6 then decide (portIp6 s p ≠ 0) && decide (dstIp = portIp6 s p ∨ dstIp = linkLocal (portMac s p)) &&
        decide (payload.length + 48 ≤ portMtu s p)
     else decide (portIp4 s p ≠ 0) && decide (dstIp = portIp4 s p) && decide (payload.length + 28 ≤ portMtu s p))

/-- ECHO_REQUEST (Table 13.2): at most 1,000 replies per second and port. -/
def execEchoRequest (port : Fin 8) (f : FrameHdr) (v6 : Bool) (srcIp dstIp : Nat) (payload : List Byte) (s : State) :
    Host.Outcome State Fault Refusal :=
  let r := rxFrame s port f
  let s := r.1
  let x := portOf s port
  let recent := x.echoes.filter (fun t => s.now < t + Config.cyclesPerSecond)
  .next (if ¬ r.2 then s
    else if echoAnswers s port v6 dstIp payload ∧ recent.length < 1000 then
      txFrame (setPort s port { x with echoes := s.now :: recent }) port (.echoReply port f.src v6 srcIp payload (ipHdr s port v6 .control))
    else dropFrame s port)

/-- Cycles of a pause: a quantum is 512 bit times at 100 Gb/s. PRESUMED, see notes/assumptions/95.md. -/
def pauseCycles (quanta : Nat) : Nat := ceilDiv (quanta * 48128) 10000

/-- The MAC takes a frame as a pause frame: untagged, sent to the MAC control group or to the port, whole, and honoured (R298).
PRESUMED, see notes/assumptions/95.md. -/
def pauseOk (s : State) (p : Nat) (f : FrameHdr) : Bool :=
  f.fcsOk && decide (64 ≤ f.bytes ∧ f.bytes ≤ 9216) && bit (portFlags s p) 1 && decide (f.tags = []) &&
    (decide (f.dest = 0x0180C2000001) || decide (f.dest = portMac s p))

/-- PAUSE_FRAME (R298): the port sends nothing until the pause ends; a new one replaces the rest of the last. -/
def execPauseFrame (port : Fin 8) (f : FrameHdr) (quanta : W16) (s : State) : Host.Outcome State Fault Refusal :=
  .next (if ¬ linkIsUp s port then s
    else
      let s := portCnt s port 0 64
      let s := if f.fcsOk then s else portCnt s port 3 32
      if pauseOk s port f then
        releasePort (setPort s port { portOf s port with pauseEnd := s.now + pauseCycles quanta.toNat }) port
      else dropFrame s port)

/-- UNSUPPORTED_FRAME (R300). -/
def execUnsupportedFrame (port : Fin 8) (f : FrameHdr) (s : State) : Host.Outcome State Fault Refusal :=
  let r := rxFrame s port f
  .next (if r.2 then dropFrame r.1 port else r.1)

/-- The announcements of link up and of an address change (Table 13.2), of the families asked for. -/
def announceOf (s : State) (p : Nat) (v4 v6 : Bool) : State :=
  let s := if v4 ∧ portIp4 s p ≠ 0 then txFrame s p (.gratuitousArp p (arpHdr s p)) else s
  if v6 ∧ portIp6 s p ≠ 0 then txFrame s p (.unsolicitedAdvert p (ipHdr s p true .control)) else s

/-- Both announcements. -/
def announce (s : State) (p : Nat) : State := announceOf s p true true

/-- The reference of a port's network runs (R434); both run unless an SDREF_LOST says otherwise. -/
def sdrefRuns (s : State) (p : Nat) : Bool := tget true s.power.sdref (netOf p)

/-- Link up (R297); for a flashed port it is the pass of its self-test (R323). -/
def linkComesUp (p : Nat) (s : State) : State :=
  let h := (unitOf s (uPort p)).fence
  let x := portOf s p
  if x.link ∨ ¬ portEnabled s p ∨ x.sealedDown ∨ ¬ sdrefRuns s p ∨ ¬ s.boot.resetN ∨ h = .permanent ∨ h = .quiet then s
  else
    let s := if h = .selfTest then unitReturn s (uPort p) else s
    announce (setPort s p { portOf s p with link := true, training := false }) p

/-- LINK_UP (R297). -/
def execLinkUp (port : Fin 8) (s : State) : Host.Outcome State Fault Refusal := .next (linkComesUp port s)

/-- A port negotiates (R297): auto-negotiation enabled in a KR or CR mode, the link down, and the port neither taken down nor
fenced before its training (R323). -/
def negotiates (s : State) (p : Nat) : Bool :=
  let x := portOf s p
  let h := (unitOf s (uPort p)).fence
  decide (1 ≤ portMode s p ∧ portMode s p ≤ 4) && bit (portFlags s p) 0 && !x.link && !x.sealedDown && s.boot.resetN && sdrefRuns s p &&
    decide (h ≠ .permanent) && decide (h ≠ .quiet)

/-- AN_FAIL (R297). -/
def execAnFail (port : Fin 8) (s : State) : Host.Outcome State Fault Refusal :=
  .next (if negotiates s port then portCnt s port 4 32 else s)

/-- A port is flashed with a source (R313, Table 17.3): its link is down and its paths go down. -/
def flashPort (s : State) (p : Nat) (src : Nat) : State :=
  let s := flash (logFault s (mkFault src (uPort p) 0)) (uPort p)
  portPathsDown (setPort s p (linkDown (portOf s p))) p

/-- LINK_LOST (source 0x0303). -/
def execLinkLost (port : Fin 8) (s : State) : Host.Outcome State Fault Refusal :=
  .next (if linkIsUp s port then flashPort s port 0x0303 else s)

end Sys2Proof.Machine
end

