-- ==== Sys2Proof/Machine/Recovery.lean ====
section
/-!
DEFINITION. Sys2Proof/Machine/Recovery.lean: contained and fatal faults, quiet periods, self-tests, lost pages and lost
sessions, the FAULT state and the warm re-initialisation (spec/17, R151, R231, R260, R323, R401).
-/
namespace Sys2Proof.Machine

open Sys2Proof

/-! ### Lost sessions (R151) -/

/-- A session's state is lost: waiting messages are answered, SESSION_LOST is sent, and the slot empties at the next
boundary. Output that a commit had already published leaves first. -/
def loseSession (s : State) (source : Nat) (i : Nat) : State :=
  match sessOf s i with
  | none => s
  | some ss =>
    if ss.st = .lost then s
    else
      let s := takeOutput s i
      let sample := sessSamples s ss
      let waits := ss.stopWait.filterMap (fun w => w.resp) ++ ss.detachWait.toList ++ ((ss.job.map (fun j => j.stopping)).getD [])
      let bulk := s.bays.flatMap (fun e => e.2.bulk.filterMap (fun k => match k.kind with
        | .attachMove j _ => if j = i then k.resp else none
        | _ => none))
      let s := { s with bays := s.bays.map (fun (e : Nat × Bay) => (e.1, { e.2 with bulk := e.2.bulk.filter (fun k => match k.kind with
        | .attachMove j _ => decide (j ≠ i)
        | _ => true) })), sessLost := s.sessLost + 1 }
      let s := modSess s i (fun x => { x with
        st := .lost, uttTokens := 0, queuedTokens := none, unspoken := 0, stopWait := [], detachWait := none, detachDrop := false
        admitted := none, job := none
        attach := x.attach.filter (fun a => a.effective) })
      let s := sendEvent s i 0x0007 stSessionLost sample source
      (waits ++ bulk).foldl (fun s rt => answer s rt stSessionLost) s

/-- Sessions whose areas lie in a group that holds a channel end (Table 17.6). -/
def loseGroup (s : State) (ch source : Nat) : State :=
  (s.sessions.filter (fun e => (groupOf s e.2.home).contains ch)).foldl (fun s e => loseSession s source e.1) s

/-- A half of a session holds an uncorrectable line. -/
def halfBad (s : State) (i : Nat) (h : Bool) : Bool :=
  ((sessOf s i).map (fun ss => (areaLines s (.half i h) 0 (halfOf ss h).length).any (poisonedAt s))).getD false

/-- An uncorrectable error in a session's active half (R151): rebuilt from the inactive half, which reproduces it bit for
bit, is written whole, and is the bay's replay; or the session is lost, also where the inactive half is uncorrectable. -/
def halfLost (s : State) (i : Nat) : State :=
  match sessOf s i with
  | none => s
  | some ss =>
    let act := sessActive s ss
    if sessPrev s ss ∧ ¬ halfBad s i (!act) then
      let s := areaPlaced (areaRead s (.half i (!act)) 0 (halfOf ss (!act)).length) (.half i act) 0 (halfOf ss act).length
      match (effAttach ss).bind (fun a => yealmOf s a.yealm) with
      | some y => bayCnt s y.bay 1 1
      | none => s
    else loseSession s 0x0203 i

/-- An uncorrectable line of a session's halves, by its physical address: of the active half (R151), or of the inactive half,
whose previous-valid bit is cleared (Table 10.4) unless the active half is lost with it. -/
def halfHit (s : State) (i phys : Nat) : State :=
  match sessOf s i, areaAt s phys with
  | some ss, some (.half j h, _) =>
    if j = i ∧ h ≠ sessActive s ss then
      (if halfBad s i (sessActive s ss) then loseSession s 0x0203 i else clearPrev s i)
    else halfLost s i
  | _, _ => halfLost s i

/-! ### Running work -/

/-- Steps of a bay that have not begun do not run (Table 17.3). -/
def dropUnbegun (s : State) (i : Nat) : State :=
  match bayOf s i with
  | none => s
  | some b =>
    let gone := b.todo.filter (fun t => !t.begun)
    let s := modBay s i (fun b => { b with todo := b.todo.filter (fun t => t.begun) })
    gone.foldl (fun s t => (claimants s t.yealm).foldl (fun s e =>
      stopPoint (modSess s e.1 (fun x => { x with
        admitted := if (s.bays.any (fun c => c.2.todo.any (fun u => u.yealm = t.yealm))) then x.admitted else none })) e.1) s) s

/-- Bays whose group includes a channel. -/
def baysOn (s : State) (ch : Nat) : List Nat := (s.bays.filter (fun e => bit e.2.attr.channelMask ch)).map Prod.fst

/-- A flashed channel (Table 17.3); for good, its sessions end (Table 17.6). -/
def flashChannel (s : State) (ch source : Nat) : State :=
  let s := flash (setUnit s (uChannel ch) { unitOf s (uChannel ch) with source := source }) (uChannel ch)
  let s := (baysOn s ch).foldl (fun s i => dropUnbegun (failBay s i) i) s
  if (unitOf s (uChannel ch)).fence = .permanent then loseGroup s ch source else s

/-! ### Lost pages (R422) -/

/-- PAGE_REWRITE_COMPLETE (R422): the page is rewritten from an intact copy. -/
def pageRewritten (s : State) (id : W64) (kind page : Nat) : State :=
  match buildOf s id with
  | none => s
  | some b => if pageIntact b page then pageMended s id kind page else s

/-- The resident build and page that a syndrome names (Table 17.2). -/
def synPage (s : State) (f : FaultEvent) : Option (Build × Nat) :=
  let page := f.syndrome.toNat % 4294967296
  (s.builds.find? (fun b => decide (b.id.toNat % 4294967296 = f.syndrome.toNat / 4294967296 ∧ page * 65536 < b.image.length))).map
    (fun b => (b, page))

/-- The copy of a build that lies on a channel: a bay's own copy before a home copy placed there earlier. -/
def copyOn (b : Build) (ch : Nat) : Option Nat :=
  (((b.copies.filter (fun c => decide (2 ≤ c.kind))) ++ b.copies.filter (fun c => decide (c.kind < 2))).find?
    (fun c => bit c.channels ch)).map (fun c => c.kind)

/-- What a scrubbed line brings at a chunk boundary, or a found page at once (Table 10.4). -/
def scrubHit (s : State) (h : ScrubHit) : State :=
  match h with
  | .page b c p => pageLost s b c p
  | .active i => halfLost s i
  | .inactive i => clearPrev s i

/-! ### Contained and corrected faults (Table 17.1) -/

/-- A maintenance slot that displaces foreground work spends a credit (R215). -/
def spendCredits (s : State) (ch : Nat) : State :=
  let x := channelOf s ch
  setChannel s ch { x with credits := x.credits - 1 }

/-- A corrected fault is counted, and nothing else (R403). A write accepted after a retry took 1 to 3 retries (R220): which, no
message says; each needs a credit (R216), of which one stands for all. -/
def corrected (s : State) (f : FaultEvent) : State :=
  let i := unitIdx f.unit
  match f.source.toNat with
  | 0x0110 => modCore s i (coreAdd .spadCorrected 1)
  | 0x0201 => channelCnt s i 2 32 1
  | 0x0205 => spendCredits (channelCnt { s with fresh := s.fresh + 1 } i 3 32 (1 + (Config.freeByte s.fresh).toNat % 3)) i
  | 0x0210 =>
    let x := sliceOf s i
    let recent := x.errors.filter (fun t => s.now ≤ t + Config.cyclesPerMs)
    let x := { x with errors := s.now :: recent, counters := cntAdd x.counters 3 32 1
                      lines := x.lines.filter (fun e => e.2 ≠ f.syndrome.toNat % 2 ^ 37 / 128) }
    let s := setSlice s i x
    if 16 < x.errors.length then
      flash (logFault (setSlice s i { x with lines := [], errors := [] }) (mkFault 0x0211 (uSlice i) (f.syndrome.toNat % 2 ^ 37))) (uSlice i)
    else s
  | 0x0301 => portCnt s i 2 48
  | 0x0302 => portCnt s i 3 32
  | 0x0304 => portCnt s i 6 32
  | 0x0401 => tdmCnt s i 1 1
  | 0x0502 => gpCnt s 0
  | 0x0701 => gpCnt s 1
  | 0x0702 => gpCnt s 2
  | _ => s

/-- A flashed audio port or PDM block (R401, Table 16.8). -/
def flashAudio (s : State) (i : Nat) : State :=
  let s := flash s (uAudio i)
  if i < 4 then clearPort s i else s

/-- A core reads a line of the thatch by a transfer in progress. -/
def readsLine (s : State) (x : Core) (phys : Nat) : Bool :=
  x.dma.any (fun e => match e.2.active with
    | some t => (match t.src with
      | .bay a => (List.range t.rows).any (fun i =>
          (linesOf (coreGroup s x) (a + (i : Int) * t.srcStride).toNat t.rowBytes).contains (phys / 128 * 128))
      | .sess j r => (areaLines s (.entries j r) 0 ((sessRing s j r).entries * (sessRing s j r).entryBytes)).contains (phys / 128 * 128)
      | .spad _ => false)
    | none => false)

/-- The steps that an uncorrectable read of a line affects (source 0x0204): those whose commit record or running transfer it
is. DESIGN CHOICE: where no transfer in progress reads it, every running step of the bays on the channel. -/
def lineReaders (s : State) (ch phys : Nat) : List (Nat × Nat × Nat) :=
  let all := (baysOn s ch).flatMap (fun b => (runningOf s b).map (fun e => (b, e.1, e.2)))
  let owner := match areaAt s phys with
    | some (.record y, _) => all.filter (fun e => e.2.2 = y)
    | _ => all.filter (fun e => (workCores s e.1 e.2.1).any (fun c => readsLine s (coreOf s c) phys))
  if owner = [] then all else owner

/-- The affected steps of an uncorrectable read of another region fail (Table 10.4). -/
def failReaders (s : State) (ch phys : Nat) : State :=
  (lineReaders s ch phys).foldl (fun s e => failWork s e.1 e.2.1 e.2.2) s

/-- A contained fault by its source (Table 17.1). -/
def contained (s : State) (f : FaultEvent) : State :=
  let i := unitIdx f.unit
  match f.source.toNat with
  | 0x0100 | 0x010A => coreFault s i f
  | 0x0114 | 0x0115 =>
    let b := i / 65536
    (match runningOf s b with
     | (gid, y) :: _ => linkFault s b gid y f
     | [] => flash (logFault s f) f.unit)
  | 0x0202 =>
    let s := logFault s f
    (match synPage s f with
     | some (b, p) => (match copyOn b i with
       | some k => pageLost s b.id k p
       | none => s)
     | none => s)
  | 0x0203 => halfHit (logFault s f) i (f.syndrome.toNat % 2 ^ 37)
  | 0x0204 => failReaders (logFault s f) i (f.syndrome.toNat % 2 ^ 37)
  | 0x0206 => flashChannel (logFault (channelCnt s i 3 32 3) f) i 0x0206
  | 0x0208 => flashChannel (logFault s f) i 0x0208
  | 0x0207 =>
    let s := logFault s f
    (match synPage s f with
     | some (b, p) => (match copyOn b i with
       | some k => { s with scrubFound := s.scrubFound ++ [.page b.id k p] }
       | none => s)
     | none => s)
  | 0x0211 =>
    let s := flash (logFault s f) f.unit
    setSlice s i { sliceOf s i with lines := [] }
  | 0x0303 | 0x0307 | 0x0604 => if i < 8 then flashPort s i f.source.toNat else s
  | 0x0305 => pathDown s (i / 2) (i % 2) true
  | 0x0306 => logFault s f
  | 0x0308 => protocolError (logFault s f) i
  | 0x0403 | 0x0404 => flashAudio (logFault s f) i
  | _ => coreFault s i f

/-- CONTAINED_FAULT: a fault that the device does not treat as fatal (R403, R413). -/
def faultEvent (s : State) (f : FaultEvent) : State :=
  if ¬ faultKnown f.source ∨ ¬ s.boot.complete then s
  else
    match faultClass f.source with
    | .corrected => corrected s f
    | .contained => contained s f
    | .fatal => s

/-- CONTAINED_FAULT (R413). -/
def execContainedFault (f : FaultEvent) (s : State) : Host.Outcome State Fault Refusal := .next (faultEvent s f)
/-- PAGE_REWRITE_COMPLETE (R422). -/
def execPageRewriteComplete (build : W64) (copy page : Nat) (s : State) : Host.Outcome State Fault Refusal :=
  .next (pageRewritten s build copy page)

/-! ### Quiet periods and self-tests (R409, R410) -/

/-- A flashed unit's quiet period ends: its self-test starts (link training for a port). -/
def quietEnd (s : State) (u : W32) : State :=
  let h := unitOf s u
  if h.fence ≠ .quiet ∨ unitType u = 5 ∨ unitType u = 6 then s
  else
    let s := setUnit s u { h with fence := .selfTest }
    if unitType u = 4 then setPort s (unitIdx u) { portOf s (unitIdx u) with training := true } else s

/-- A core after a passed self-test: memories zero and the generator out of coarse mode (R77, R197, R229). -/
def testedCore (x : Core) : Core :=
  { stopCore x with spad := [], acc := [], sems := [], rings := [], descs := []
                    rng := { coarse := false, tables := [], fills := [], lanes := [], cursor := [] } }

/-- Bays that stand stopped stay so until the next chunk boundary (R274). -/
def holdStopped (s : State) : State :=
  { s with bays := s.bays.map (fun (e : Nat × Bay) =>
      (e.1, if (variantNow s e.2).isNone then { e.2 with lastVariant := none } else e.2)) }

/-- What a passed self-test leaves in a unit. -/
def testPassed (s : State) (u : W32) : State :=
  let i := unitIdx u
  match unitType u with
  | 1 => modCore s i testedCore
  | 2 => setSlice s i { sliceOf s i with lines := [] }
  | _ => s

/-- A failed self-test of a core is logged; no other unit's has a source of its own (Table 17.1). DEDUCED: the failure is the
generator's (R201, source 0x010A) where the generator is in coarse mode, which only a passed self-test ends (R197), and another
part's (0x0100) elsewhere. -/
def coreTestFailed (s : State) (u : W32) : State :=
  if unitType u = 1 then
    logFault s (mkFault (if (coreOf s (unitIdx u)).rng.coarse then 0x010A else 0x0100) u (coreSyn 0 0xFF 0xFFFFFFFF))
  else s

/-- The self-test that a reset runs on a core ends (R201): a pass ends coarse mode, a failure leaves the core flashed. -/
def bootTestEnd (s : State) (u : W32) (pass : Bool) : State :=
  if pass then testPassed s u else flash (coreTestFailed s u) u

/-- SELF_TEST_COMPLETE (R201, R409). A port's pass is its link up (R323). -/
def selfTestEnd (s : State) (u : W32) (pass : Bool) : State :=
  let h := unitOf s u
  if unitType u = 1 ∧ unitIdx u < 64 ∧ h.fence = .inService ∧ s.boot.pwrok ∧ s.boot.resetN ∧ ¬ s.boot.complete then bootTestEnd s u pass
  else if h.fence ≠ .selfTest then s
  else if pass then
    (if unitType u = 4 then (if unitIdx u < 8 then linkComesUp (unitIdx u) s else s) else testPassed (unitReturn (holdStopped s) u) u)
  else
    let s := coreTestFailed s u
    let dead := decide (selftestTries s ≤ h.tries + 1)
    let s := setUnit s u { h with tries := h.tries + 1, fence := if dead then .permanent else .quiet }
    if dead ∧ unitType u = 3 then loseGroup s (unitIdx u) h.source else s

/-- QUIET_PERIOD_EXPIRY (R409). -/
def execQuietPeriodExpiry (unit : W32) (s : State) : Host.Outcome State Fault Refusal := .next (quietEnd s unit)
/-- SELF_TEST_COMPLETE (R409). -/
def execSelfTestComplete (unit : W32) (pass : Bool) (s : State) : Host.Outcome State Fault Refusal := .next (selfTestEnd s unit pass)

/-! ### Fatal faults (R417 to R421) -/

/-- `dev_backoff_s` in cycles. -/
def backoffCycles (s : State) : Nat := fld (act s 0x30 0) 16 4 * Config.cyclesPerSecond

/-- Every running step stops where it is (R417): no commit record is written; the steps wait for the re-initialisation
(R419), and borrowed cores go back. -/
def haltWork (s : State) : State :=
  let s := s.bays.foldl (fun s e => e.2.groups.foldl (fun s g => countLoan s e.1 g) s) s
  let s := { s with cores := s.cores.map (fun (e : Nat × Core) => (e.1, stopCore e.2)), mesh := [], spills := [] }
  { s with
    yealms := s.yealms.map (fun (e : Nat × Yealm) => (e.1, { e.2 with spilled := none }))
    bays := s.bays.map (fun (e : Nat × Bay) => (e.1, { e.2 with
      running := false, lent := false, bulk := e.2.bulk.map (fun (k : Bulk) => { k with running := false })
      groups := (e.2.groups.filter (fun g => g.lender.isNone)).map (fun g => { g with yealm := none, stepping := false }) })) }

/-- FAULT_MARKER to a Speaking session with a network binding (R371). -/
def faultMarker (f : FaultEvent) (s : State) (e : Nat × Session) : State :=
  if e.2.st = .speaking ∧ bit e.2.bindFlags.toNat 0 then
    let body := le 4 (handleOf e.1 e.2) ++ le 2 f.source.toNat ++ zeros 2 ++ le 4 f.unit.toNat ++ le 8 e.2.nextSample
    let r := streamTo s e.2 0x0304 body .audio
    if r.2 then r.1 else gapMsg r.1 e.1
  else s

/-- Puts a message that was accepted and took no effect back at the head of its mailbox (R418), under the connection and tag it
came with. -/
def requeue (s : State) (rt : RespTo) (m : HostMsg) : State :=
  let s := { s with unanswered := s.unanswered.filter (fun r => !sameMsg rt r) }
  let b := rt.conn % 64
  setMailbox s b ({ typ := rt.typ, msg := m, epoch := rt.epoch, tag := rt.tag, segs := 0 } :: mailbox s b)

/-- An entry to a power state is abandoned; its POWER_STATE is processed afresh later (R418, R424). -/
def abandonEntry (s : State) : State :=
  match s.power.trans with
  | none => s
  | some t =>
    let s := { s with power := { s.power with trans := none } }
    match t.resp, t.msg with
    | some rt, some m => requeue s rt m.msg
    | _, _ => s

/-- A firmware update and an ATTEST in progress are abandoned (R465, R469): pieces not yet programmed are processed afresh
(R418), and the ATTEST is never answered. -/
def abandonFw (s : State) : State :=
  let ps := ((s.boot.update).map (fun u => u.queue)).getD []
  let s := ps.reverse.foldl (fun s p => requeue s p.resp p.msg) s
  let s := match s.boot.attest with
    | some (rt, _) => { s with unanswered := s.unanswered.filter (fun r => !sameMsg rt r) }
    | none => s
  { s with boot := { s.boot with update := none, attest := none } }

/-- Ports that Sealed took down train again (R444). -/
def portsUnseal (s : State) : State :=
  iter (fun p s => if (portOf s p).sealedDown then setPort s p { portOf s p with sealedDown := false, training := true } else s) 8 s

/-- A fatal fault (R417, R420). -/
def fatal (s : State) (f : FaultEvent) : State :=
  let s := gpCnt (logFault s f) 4
  let gp := decide (unitType f.unit = 9)
  match s.fault with
  | some x =>
    { s with fault := some { x with since := s.now, fwReady := x.fwReady && !gp, reinit := false
                                    lostChannels := if f.source = 0x0209 then unitIdx f.unit :: x.lostChannels else x.lostChannels } }
  | none =>
    let n := match s.lastReinit with
      | some t => if s.now ≤ t + backoffCycles s then s.fatalRun + 1 else 0
      | none => 0
    let s := haltWork (abandonFw (abandonEntry s))
    let s := s.sessions.foldl (faultMarker f) s
    let s := iter (fun n s => modTdm (clearPort s n) n (fun t => { t with safe := true })) 4 s
    { s with
      fatalRun := n
      boot := { s.boot with faultN := true }
      fault := some { source := f.source, unit := f.unit, fwReady := !gp, since := s.now, reinit := false
                      lostChannels := if f.source = 0x0209 then [unitIdx f.unit] else [] } }

/-- FATAL_FAULT for a source of the fatal class. -/
def fatalEvent (s : State) (f : FaultEvent) : State :=
  if faultClass f.source = .fatal ∧ faultKnown f.source ∧ s.boot.complete then fatal s f else s

/-- Every page of every copy that lies on a lost channel is bad (R421, R422). -/
def loseChannelPages (s : State) (ch : Nat) : State :=
  let s := { s with builds := s.builds.map (fun (b : Build) =>
    let pages := b.pageCrcs.map Prod.fst
    let b := { b with copies := b.copies.map (fun (c : BuildCopy) => if bit c.channels ch then { c with badPages := pages } else c) }
    { b with allRequested := b.allRequested || pages.any (fun p => !pageIntact b p) }) }
  let s := (s.builds.filter (fun b => b.copies.any (fun c => bit c.channels ch) && b.allRequested)).foldl (fun s b =>
    logFault s (mkFault 0x0202 (uChannel ch) (b.id.toNat % 4294967296 * 4294967296 + 0xFFFFFFFF))) s
  fixPaused s

/-- Content of a channel treated as lost (R421): pages, session halves, and commit records, whose sessions lie in the same
group. -/
def loseChannel (s : State) (ch : Nat) : State := loseGroup (loseChannelPages s ch) ch 0x0209

/-- The forced PHY recalibration of every channel on exit from self-refresh (R218). -/
def exitChannels (s : State) : State :=
  iter (fun ch s => channelCnt (setChannel s ch { channelOf s ch with recalAt := s.now }) ch 5 32 1) 48 s

/-- WARM_REINIT_COMPLETE (R417, R419, R421). -/
def reinitDone (s : State) : State :=
  match s.fault with
  | none => s
  | some x =>
    if ¬ x.reinit then s
    else
      let s := { s with
        fault := none, lastReinit := some s.now, deviceRecoveries := min (s.deviceRecoveries + 1) 4294967295
        boot := { s.boot with faultN := false }, power := { s.power with state := .run, bias := biasOf .run, trans := none }
        cores := s.cores.map (fun (e : Nat × Core) => (e.1, testedCore e.2))
        slices := s.slices.map (fun (e : Nat × Slice) => (e.1, { e.2 with lines := [] })) }
      let s := portsUnseal (iter (fun n s => modTdm s n (fun t => { t with safe := false })) 4 s)
      x.lostChannels.foldl loseChannel (exitChannels s)

/-- FATAL_FAULT (R417). -/
def execFatalFault (f : FaultEvent) (s : State) : Host.Outcome State Fault Refusal := .next (fatalEvent s f)
/-- FIRMWARE_WATCHDOG_EXPIRY (R404). -/
def execFirmwareWatchdogExpiry (s : State) : Host.Outcome State Fault Refusal := .next (fatalEvent s (mkFault 0x0504 uGable 0))
/-- FIRMWARE_RELOAD_COMPLETE (R417, R461): where verification fails the device stays in FAULT without firmware. -/
def execFirmwareReloadComplete (verified : Bool) (s : State) : Host.Outcome State Fault Refusal :=
  .next (match s.fault with
    | some x => if verified then { s with fault := some { x with fwReady := true } } else s
    | none => s)
/-- A sensor reads below 100 °C. -/
def cool (r : W16) : Bool := decide (r.toInt < 1600)
/-- DEVICE_QUIET_PERIOD_EXPIRY (R420): the warm re-initialisation starts where every sensor is below 100 °C and firmware
runs. -/
def execDeviceQuietPeriodExpiry (s : State) : Host.Outcome State Fault Refusal :=
  .next (match s.fault with
    | some x => if x.fwReady ∧ s.power.sensors.all (fun e => cool e.2) then { s with fault := some { x with reinit := true } } else s
    | none => s)
/-- WARM_REINIT_COMPLETE (R419). -/
def execWarmReinitComplete (s : State) : Host.Outcome State Fault Refusal := .next (reinitDone s)
/-- BACKOFF_EXPIRY (R420). -/
def execBackoffExpiry (s : State) : Host.Outcome State Fault Refusal :=
  .next (if s.fault.isSome then s else { s with fatalRun := 0, lastReinit := none })

end Sys2Proof.Machine
end

