-- ==== Sys2Proof/Machine/Memory.lean ====
section
/-!
DEFINITION. Sys2Proof/Machine/Memory.lean: refresh, maintenance credits, patrol scrub and PHY recalibration of the thatch
channels (R214 to R218, R231).
-/
namespace Sys2Proof.Machine

open Sys2Proof

/-- Largest credit store (R215). -/
def creditMax : Nat := 7520

/-- Lines of a channel (R217). -/
def channelLines : Nat := 16777216

/-- The channels are out of self-refresh: Run or Trim, outside FAULT (R217, Table 17.5, Table 18.6). -/
def thatchActive (s : State) : Bool :=
  s.boot.complete && s.fault.isNone && (decide (s.power.state = .run) || decide (s.power.state = .trim))

/-- REFRESH (R214): an interval begins; a refresh that is not performed is fatal. DEDUCED: the syndrome's address is that
of the channel's first line. -/
def refreshRun (s : State) (ch : Nat) (performed : Bool) : State :=
  if ¬ thatchActive s then s
  else if performed then
    let x := channelOf s ch
    setChannel s ch { x with refreshes := x.refreshes + 1 }
  else fatal s (mkFault 0x0209 (uChannel ch) (ch * Config.channelBytes))

/-- MAINTENANCE_CREDIT (R215). -/
def earnCredit (s : State) (ch : Nat) : State :=
  let x := channelOf s ch
  setChannel s ch { x with credits := min (x.credits + 1) creditMax }

/-- A foreground transfer in progress has an end in a channel's group: it waits for a maintenance slot that comes first. DEDUCED:
the model moves a transfer's bursts at its end, so the channel has foreground requests for as long as the transfer runs. -/
def channelBusy (s : State) (ch : Nat) : Bool :=
  s.cores.any (fun e => (coreGroup s e.2).contains ch && e.2.dma.any (fun d => match d.2.active with
    | some t => (match t.src, t.dst with
      | .spad _, .spad _ => false
      | _, _ => true)
    | none => false))

/-- PHY_RECALIBRATION (R216, R218): in an interval without foreground requests; a forced one, once 1 s has passed since the
last, waits for a full credit store and spends it. -/
def recalibrate (s : State) (ch : Nat) (forced ok : Bool) : State :=
  if ¬ thatchActive s then s
  else
    let x := channelOf s ch
    if forced ∧ (x.credits < creditMax ∨ s.now < x.recalAt + Config.cyclesPerSecond) ∨ ¬ forced ∧ channelBusy s ch then s
    else
      let s := setChannel s ch { x with recalAt := s.now, credits := if forced then 0 else x.credits }
      let s := if forced then channelCnt s ch 5 32 1 else s
      if ok then s else flashChannel (logFault s (mkFault 0x0208 (uChannel ch) (ch * Config.channelBytes))) ch 0x0208

/-- What an uncorrectable line holds, where it lies in a weight or table page or in a session half (Table 10.4). -/
def ownerOf (s : State) (phys : Nat) : Option ScrubHit :=
  match areaAt s phys with
  | some (.image id k, o) =>
    if ((buildOf s id).map (fun b => b.pageCrcs.any (fun p => p.1 = o / 65536))).getD false then some (.page id k (o / 65536)) else none
  | some (.half i h, _) =>
    if ((sessOf s i).map (fun ss => decide (sessActive s ss = h))).getD false then some (.active i) else some (.inactive i)
  | _ => none

/-- Syndrome of a 0x0207 entry: the page, or the line's address (Table 17.2). -/
def scrubSyn (h : Option ScrubHit) (phys : Nat) : Nat :=
  match h with
  | some (.page b _ p) => b.toNat % 4294967296 * 4294967296 + p
  | _ => phys

/-- PATROL_SCRUB (R217, Table 10.4): in an idle slot, or for a credit where foreground work waits (R216). -/
def scrub (s : State) (ch : Nat) (r : LineRead) : State :=
  if ¬ thatchActive s ∨ (channelBusy s ch ∧ (channelOf s ch).credits = 0) then s
  else
    let s := if channelBusy s ch then spendCredits s ch else s
    let x := channelOf s ch
    let phys := ch * Config.channelBytes + x.scrubLine * 128
    let advanceLine (x : Channel) : Channel :=
      { x with scrubLine := (x.scrubLine + 1) % channelLines, counters := cntAdd x.counters 4 48 1 }
    match r with
    | .clean => setChannel s ch (advanceLine { x with poisoned := x.poisoned.filter (fun l => l ≠ x.scrubLine) })
    | .corrected =>
      channelCnt (setChannel s ch (advanceLine { x with poisoned := x.poisoned.filter (fun l => l ≠ x.scrubLine) })) ch 2 32 1
    | .uncorrectable =>
      let h := ownerOf s phys
      let bad := x.poisoned.filter (fun l => l ≠ x.scrubLine) ++ [x.scrubLine]
      let s := setChannel s ch (advanceLine { x with poisoned := bad })
      let s := logFault s (mkFault 0x0207 (uChannel ch) (scrubSyn h phys))
      { s with scrubFound := s.scrubFound ++ h.toList }

/-- REFRESH (R214). -/
def execRefresh (channel : Fin 48) (performed : Bool) (s : State) : Host.Outcome State Fault Refusal :=
  .next (refreshRun s channel performed)
/-- PATROL_SCRUB (R217). -/
def execPatrolScrub (channel : Fin 48) (r : LineRead) (s : State) : Host.Outcome State Fault Refusal := .next (scrub s channel r)
/-- PHY_RECALIBRATION (R218). -/
def execPhyRecalibration (channel : Fin 48) (forced ok : Bool) (s : State) : Host.Outcome State Fault Refusal :=
  .next (recalibrate s channel forced ok)
/-- MAINTENANCE_CREDIT (R215). -/
def execMaintenanceCredit (channel : Fin 48) (s : State) : Host.Outcome State Fault Refusal := .next (earnCredit s channel)

end Sys2Proof.Machine
end

