-- ==== Sys2Proof/Machine/Records.lean ====
section
/-!
DEFINITION. Sys2Proof/Machine/Records.lean: the layouts of the configuration records as checks: instances, reserved fields,
ranges, the rules between fields and against the device, and stop-only fields (R268 to R270, R318 to R321, R345 to R347,
R381, R386, R397, R411, R448, R453).
-/
namespace Sys2Proof.Machine

open Sys2Proof

/-! ### Instances, reserved fields, defaults -/

/-- The id and instance stand in Table 14.10. -/
def recListed (id inst : Nat) : Bool :=
  if id = 0x01 ∨ id = 0x02 then decide (inst < 8)
  else if id = 0x20 then decide (inst < 64)
  else decide (inst = 0) && [0x03, 0x10, 0x11, 0x12, 0x13, 0x18, 0x30, 0x40].contains id

/-- The record instance exists: a bay record only while its bay does (R345). -/
def recExists (s : State) (id inst : Nat) : Bool :=
  recListed id inst && (decide (id ≠ 0x20) || (bayOf s inst).isSome)

/-- Reserved bits of byte `k` of a record. -/
def resMask (id k : Nat) : Nat :=
  match id with
  | 0x01 => if k = 1 then 0xFC else if k = 11 then 0x70 else if k = 13 then 0xF0 else if 14 ≤ k then 0xFF else 0
  | 0x02 => if k = 20 then 0xFE else if 22 ≤ k then 0xFF else 0
  | 0x03 => if 16 ≤ k then 0xFF else 0
  | 0x18 => if 29 ≤ k then 0xFF else 0
  | 0x20 => if k = 18 ∨ k = 19 ∨ k = 23 ∨ 28 ≤ k then 0xFF else 0
  | 0x30 => if 24 ≤ k then 0xFF else 0
  | 0x40 => if k = 7 ∨ 10 ≤ k then 0xFF else 0
  | _ => if k = 1 then 0xF0 else if (29 ≤ k ∧ k ≤ 31) ∨ 55 ≤ k then 0xFF else 0

/-- Reserved bits of bytes written at an offset of a record are zero (R5, R346). -/
def reservedOk (id off : Nat) (bs : List Byte) : Bool :=
  (bs.mapIdx (fun i b => decide (b.toNat &&& resMask id (off + i) = 0))).all (fun x => x)

/-- What a record that the profile does not carry holds (R453). -/
def recDefault (id : Nat) : List Byte :=
  match id with
  | 0x01 => le 2 0 ++ le 2 1500 ++ zeros 28
  | 0x02 => zeros 21 ++ le 1 64 ++ zeros 10
  | 0x03 => le 2 47360 ++ zeros 4 ++ le 2 1000 ++ le 4 10000 ++ le 4 2097152 ++ zeros 16
  | 0x18 => zeros 28 ++ le 1 10 ++ zeros 35
  | 0x20 => zeros 32
  | 0x30 => le 4 100 ++ le 2 8 ++ le 2 3 ++ le 4 3600 ++ le 4 1000 ++ le 4 600 ++ le 4 64000 ++ zeros 8
  | 0x40 => le 4 0 ++ le 2 1600 ++ le 1 3 ++ zeros 1 ++ le 2 10 ++ zeros 22
  | _ => zeros 28 ++ le 1 5 ++ zeros 35

/-- `lo ≤ x ≤ hi`. -/
def within (x lo hi : Nat) : Bool := decide (lo ≤ x) && decide (x ≤ hi)
/-- `lo ≤ x ≤ hi` for signed values. -/
def withinS (x lo hi : Int) : Bool := decide (lo ≤ x) && decide (x ≤ hi)

/-! ### Bay records (Table 12.1, Table 14.8) -/

/-- Attributes from a bay block. -/
def bayAttr (bs : List Byte) : BayAttr :=
  { cls := fld bs 1 1, fenceReserve := fld bs 2 1, lend := fld bs 3 1, coreMask := fld bs 4 8
    channelMask := fld bs 12 8, wayMask := fld bs 20 2, borrowMax := fld bs 22 1, beSlice := fld bs 24 4 }

/-- Ranges of a bay block that depend on no other field. -/
def bayFixedOk (bs : List Byte) : Bool :=
  let a := bayAttr bs
  within (fld bs 0 1) 0 63 && within a.cls 0 1 && within a.fenceReserve 0 1 && within a.lend 0 1 &&
    decide (a.coreMask ≠ 0) && decide (a.channelMask ≠ 0) && (decide (a.beSlice = 0) || within a.beSlice 1000 100000)

/-- Channels in a bay's group. -/
def groupSize (a : BayAttr) : Nat := (maskBits 48 a.channelMask).length

/-- Ranges that depend on another field, and attributes of the other class (R268, R269). -/
def bayPairsOk (a : BayAttr) : Bool :=
  if a.cls = 0 then decide (a.borrowMax = 0) && decide (a.beSlice = 0)
  else decide (a.fenceReserve = 0) && decide (a.lend = 0) && within a.beSlice 1000 100000 &&
    decide (a.borrowMax ≤ 2 * groupSize a)

/-- Core, channel or way masks overlap those of a bay other than `inst` (R209, R223, R269). -/
def bayOverlap (s : State) (inst : Nat) (a : BayAttr) : Bool :=
  s.bays.any (fun e => decide (e.1 ≠ inst) && (decide (e.2.attr.coreMask &&& a.coreMask ≠ 0) ||
    decide (e.2.attr.channelMask &&& a.channelMask ≠ 0) || decide (e.2.attr.wayMask &&& a.wayMask ≠ 0)))

/-- Step 3 of R347 for a bay record: with a plan bound, neither the core count nor the group changes (R270). -/
def bayRecOk (s : State) (inst : Nat) (bs : List Byte) : Bool :=
  let a := bayAttr bs
  bayFixedOk bs && decide (fld bs 0 1 = inst) && bayPairsOk a && !bayOverlap s inst a &&
    (match bayOf s inst with
     | none => true
     | some b => decide (b.plans = []) ||
        (decide ((maskBits 64 a.coreMask).length = (bayCores b).length) && decide (a.channelMask = b.attr.channelMask)))

/-! ### Port, IP and LMX records (R318 to R321) -/

/-- Two enabled ports share a MAC, IPv4 or IPv6 address, with the candidate records of port `p`. -/
def portClash (s : State) (p : Nat) (port ip : List Byte) : Bool :=
  decide (fld port 0 1 ≠ 0) && ((List.range 8).any (fun o =>
    decide (o ≠ p) && portEnabled s o &&
      (decide (beNat (cut port 4 6) = portMac s o) ||
        (decide (beNat (cut ip 0 4) ≠ 0) && decide (beNat (cut ip 0 4) = portIp4 s o)) ||
        (decide (beNat (cut ip 4 16) ≠ 0) && decide (beNat (cut ip 4 16) = portIp6 s o)))))

/-- A connection has a bound path on a network. -/
def netBound (s : State) (net : Nat) : Bool := s.conns.any (fun e => (pathOf e.2 net).bound)

/-- Port record. -/
def portRecOk (s : State) (p : Nat) (bs : List Byte) : Bool :=
  let mode := fld bs 0 1
  let vlan := fld bs 10 2
  let vid := vlan % 4096
  within mode 0 6 && within (fld bs 2 2) 1280 9194 && !bit (fld bs 4 1) 0 &&
    !(bit (fld bs 1 1) 0 && decide (mode = 5 ∨ mode = 6)) && !(bit vlan 15 && decide (vid = 0 ∨ vid = 4095)) &&
    !portClash s p bs (act s 0x02 p) &&
    (decide (mode ≠ 0) || !netBound s (netOf p) ||
      (List.range 8).any (fun o => decide (o ≠ p ∧ netOf o = netOf p) && portEnabled s o))

/-- Unicast IPv4 address or zero. PRESUMED: an address below 224.0.0.0 is unicast. -/
def ip4Ok (bs : List Byte) : Bool := decide (fld bs 0 1 < 224)
/-- Global unicast or unique-local IPv6 address, or zero. PRESUMED: 2000::/3 and fc00::/7. -/
def ip6Ok (bs : List Byte) : Bool :=
  decide (beNat (cut bs 4 16) = 0) || decide (fld bs 4 1 / 32 = 1) || decide (fld bs 4 1 / 2 = 0x7E)

/-- IP record. -/
def ipRecOk (s : State) (p : Nat) (bs : List Byte) : Bool :=
  ip4Ok bs && ip6Ok bs && within (fld bs 21 1) 1 255 && !portClash s p (act s 0x01 p) bs

/-- LMX record. -/
def lmxRecOk (bs : List Byte) : Bool :=
  within (fld bs 0 2) 1 65535 && (List.range 4).all (fun k => within (fld bs (2 + k) 1) 0 63) &&
    within (fld bs 6 2) 10 10000 && within (fld bs 8 4) 100 600000 && within (fld bs 12 4) 262144 16777216 &&
    decide (fld bs 12 4 % 4096 = 0)

/-! ### TDM and PDM records (R381, R386, R397) -/

/-- Nominal frame rate in Hz of a rate code. -/
def rateHz (code : Nat) : Nat :=
  match code with
  | 0 => 8000
  | 1 => 16000
  | 2 => 24000
  | 3 => 32000
  | 4 => 48000
  | _ => 96000

/-- Microphone mask of a meter in a PDM record. -/
def meterMics (pdm : List Byte) (n : Nat) : Nat := fld pdm (20 + 2 * n) 2
/-- A meter has enabled microphones in a PDM record. -/
def meterLive (pdm : List Byte) (n : Nat) : Bool :=
  decide (fld pdm 0 1 ≠ 0) && decide (meterMics pdm n &&& fld pdm 2 2 ≠ 0)

/-- TDM record. -/
def tdmRecOk (s : State) (bs : List Byte) : Bool :=
  let mode := fld bs 0 1
  if mode = 0 then true
  else
    let slots := fld bs 2 1
    let w := fld bs 3 1
    let lim := 2 ^ slots
    within mode 0 4 && within slots 1 64 && [16, 24, 32].contains w && [16, 24].contains (fld bs 4 1) &&
      within (fld bs 5 1) 0 5 && (!bit (fld bs 1 1) 0 || within (fld bs 6 2) 1 256) && within (fld bs 28 1) 1 20 &&
      withinS (fldS bs 48 1) (-90) (-10) && within (fld bs 49 1) 10 250 &&
      (decide (fld bs 50 1 < 4) || decide (fld bs 50 1 = 255)) && within (fld bs 51 1) 0 24 &&
      withinS (fldS bs 52 1) (-120) 0 && within (fld bs 53 1) 0 32 && within (fld bs 54 1) 1 20 &&
      decide (slots * w ≤ 2048) && decide (slots * w * rateHz (fld bs 5 1) ≤ 49152000) && decide (fld bs 4 1 ≤ w) &&
      (decide (mode ≠ 1 ∧ mode ≠ 2) || decide (slots = 2)) &&
      [8, 16, 32, 40].all (fun o => decide (fld bs o 8 < lim)) &&
      decide (fld bs 32 8 &&& fld bs 16 8 = fld bs 32 8) &&
      (decide (fld bs 50 1 = 255) || meterLive (act s 0x18 0) (fld bs 50 1))

/-- Microphones that enrolment captures use now (R377). -/
def captureMics (s : State) : List Nat :=
  s.sessions.filterMap (fun e => match e.2.job with
    | some j => if j.source = 1 ∧ ¬ j.training then some j.mic else none
    | none => none)

/-- PDM record. -/
def pdmRecOk (s : State) (bs : List Byte) : Bool :=
  let rate := fld bs 0 1
  let en := fld bs 2 2
  let named := (List.range 4).filterMap (fun n =>
    let g := fld (tdmRec s n) 50 1
    if tdmMode s n ≠ 0 ∧ g < 4 then some g else none)
  within rate 0 2 &&
    (decide (rate = 0) ||
      (within (fld bs 1 1) 1 255 && (List.range 16).all (fun m => withinS (fldS bs (4 + m) 1) (-48) 48) &&
        within (fld bs 28 1) 1 60 && (List.range 4).all (fun n => decide (meterMics bs n &&& en = meterMics bs n)))) &&
    named.all (fun n => meterLive bs n) && (captureMics s).all (fun m => decide (rate ≠ 0) && bit en m)

/-! ### Fault timing and power records (R411, R448) -/

/-- Fault timing record. -/
def timingRecOk (bs : List Byte) : Bool :=
  within (fld bs 0 4) 10 10000 && within (fld bs 4 2) 1 255 && within (fld bs 6 2) 1 15 && within (fld bs 8 4) 60 86400 &&
    within (fld bs 12 4) 1000 64000 && within (fld bs 16 4) 60 86400 && within (fld bs 20 4) 1000 64000 &&
    decide (fld bs 12 4 ≤ fld bs 20 4)

/-- Power record. -/
def powerRecOk (bs : List Byte) : Bool :=
  (decide (fld bs 0 4 = 0) || within (fld bs 0 4) 40000 320000) && within (fld bs 4 2) 960 1600 &&
    within (fld bs 6 1) 1 10 && within (fld bs 8 2) 1 1000

/-! ### All records -/

/-- Step 3 of R347: every rule that the record's chapter states, against the device as it stands. -/
def recOk (s : State) (id inst : Nat) (bs : List Byte) : Bool :=
  reservedOk id 0 bs &&
    (match id with
     | 0x01 => portRecOk s inst bs
     | 0x02 => ipRecOk s inst bs
     | 0x03 => lmxRecOk bs
     | 0x18 => pdmRecOk s bs
     | 0x20 => bayRecOk s inst bs
     | 0x30 => timingRecOk bs
     | 0x40 => powerRecOk bs
     | _ => tdmRecOk s bs)

/-- A stop-only field differs between two copies of a record (Tables 13.9, 13.11, 16.3, 16.7 and 12.1). -/
def stopChanged (id : Nat) (a b : List Byte) : Bool :=
  match id with
  | 0x01 => decide (fld a 0 1 ≠ fld b 0 1) || decide (fld a 1 1 % 2 ≠ fld b 1 1 % 2)
  | 0x03 => decide (fld a 0 2 ≠ fld b 0 2)
  | 0x10 | 0x11 | 0x12 | 0x13 =>
    decide (cut a 0 1 ≠ cut b 0 1) || decide (fld a 1 1 &&& 0x0B ≠ fld b 1 1 &&& 0x0B) || decide (cut a 2 6 ≠ cut b 2 6)
  | 0x18 => decide (cut a 0 2 ≠ cut b 0 2)
  | 0x20 => decide (cut a 1 1 ≠ cut b 1 1) || decide (cut a 4 16 ≠ cut b 4 16)
  | _ => false

end Sys2Proof.Machine
end

