-- ==== Sys2Proof/Machine/ConfigMsg.lean ====
section
/-!
DEFINITION. Sys2Proof/Machine/ConfigMsg.lean: CONFIG_WRITE, CONFIG_COMMIT, CONFIG_READ and the apply of a record at its safe
boundary (R268 to R270, R296, R318 to R322, R345 to R347, R385, R387, R411, R448).
-/
namespace Sys2Proof.Machine

open Sys2Proof

/-! ### Messages -/

/-- BAY_DESTROY of the bay of a record 0x20 has been accepted (R271). -/
def recBayBusy (s : State) (id inst : Nat) : Bool :=
  decide (id = 0x20) && ((bayOf s inst).map (fun b => b.destroying.isSome)).getD false

/-- Fields of CONFIG_WRITE (Table 14.11). -/
def configWriteFields (b : List Byte) : Bool :=
  isZero b 6 2 && within (fld b 4 2) 1 64 && decide (fld b 4 2 = b.length - 8)

/-- CONFIG_WRITE (R346). -/
def configWrite (body : List Byte) (rt : RespTo) (s : State) : State :=
  let id := fld body 0 1
  let inst := fld body 1 1
  let off := fld body 2 2
  let data := body.drop 8
  if ¬ recExists s id inst then answer s rt stBadMessage
  else if recBayBusy s id inst then answer s rt stBusy
  else if recSize id < off + data.length ∨ ¬ reservedOk id off data then answer s rt stBadMessage
  else
    let r := recOf s id inst
    let r := { r with shadow := splice r.shadow off data, shadowGen := r.shadowGen + 1 }
    respond (setRec s id inst r) rt stOk (le 4 r.shadowGen.toNat)

/-- CONFIG_READ (Table 14.11). -/
def configRead (body : List Byte) (rt : RespTo) (s : State) : State :=
  let id := fld body 0 1
  let inst := fld body 1 1
  if ¬ recExists s id inst then answer s rt stBadMessage
  else
    let r := recOf s id inst
    let act := decide (fld body 2 1 = 0)
    let bytes := if act then r.active else r.shadow
    let gen := if act then r.activeGen else r.shadowGen
    respond s rt stOk (le 4 gen.toNat ++ le 2 (recSize id) ++ zeros 2 ++ bytes)

/-! ### Apply -/

/-- Stores a capture as the active copy, with its generation (R346). -/
def storeActive (s : State) (id inst : Nat) (bytes : List Byte) (gen : W32) : State :=
  setRec s id inst { recOf s id inst with active := bytes, activeGen := gen }

/-- Groups on a bay's cores go back at once, for a change of its cores (R292). -/
def reclaimAll (s : State) (i : Nat) : State := reclaimComplete (reclaimStart s i) i 0

/-- In Trim, cores that are in no bay are clock-gated and cores in a bay are clocked (R445, Table 18.6). -/
def gateCores (s : State) (old new : Nat) : State :=
  let inBay (c : Nat) : Bool := s.bays.any (fun e => bit e.2.attr.coreMask c)
  let s := (maskBits 64 (old - (old &&& new))).foldl (fun s c =>
    if inBay c then s else modCore s c (fun x => { x with gated := decide (s.power.state = .trim) })) s
  if s.power.state = .trim then
    (maskBits 64 (new - (old &&& new))).foldl (fun s c => modCore s c (fun x => { x with gated := false })) s
  else s

/-- Ways leave their bay: every slice invalidates them (R224). -/
def dropWays (s : State) (ways : Nat) : State :=
  if ways = 0 then s
  else { s with slices := s.slices.map (fun (e : Nat × Slice) =>
    (e.1, { e.2 with lines := e.2.lines.filter (fun l => !bit ways l.1) })) }

/-- Work groups of a bay of a class: a best-effort bay has its own cores as group 0 (R287). -/
def ownGroups (cls : Nat) : List Group :=
  if cls = 0 then []
  else [{ gid := 0, lender := none, cores := [], variant := 0, yealm := none, stepping := false, reclaim := false
          rot := none, sliceEnd := 0, since := 0 }]

/-- A bay takes the attributes of its record (R268, R270, R292). -/
def applyBay (s : State) (i : Nat) (a : BayAttr) : State :=
  match bayOf s i with
  | none => s
  | some b =>
    let s := if b.attr.coreMask = a.coreMask ∧ b.attr.cls = a.cls then s else returnBorrowed (reclaimAll s i) i
    let s := if b.attr.lend = a.lend then s else reclaimStart s i
    let s := dropWays s (b.attr.wayMask &&& (65535 - a.wayMask % 65536))
    let s := modBay s i (fun b => { b with attr := a, groups := if b.attr.cls = a.cls then b.groups else ownGroups a.cls })
    gateCores s b.attr.coreMask a.coreMask

/-- A port restarts with a new record: its link goes down, and an enabled port trains (R322). -/
def restartPort (s : State) (p mode : Nat) : State :=
  portPathsDown (setPort s p { linkDown (portOf s p) with training := decide (mode ≠ 0) }) p

/-- Every connection is closed with RESET reason 4 (R309, R322). -/
def closeConns (s : State) : State := s.conns.foldl (fun s e => freeConn (sendReset s e.1 4) e.1) s

/-- A TDM port with a new record: what its slots hold stays; a port that is disabled or restarted is stopped. -/
def applyTdm (s : State) (n : Nat) (restart : Bool) : State :=
  if restart then
    let s := clearPort s n
    modTdm s n (fun t => { t with st := .stopped, period := 0, recent := [], glitchRun := 0, backFrames := 0
                                  ramping := false, relockAfterLoss := false, offNominal := false })
  else
    iter (fun i s => if outEnabled s n i then s else clearSlot s n i) 64 s

/-- What the block does when its record applies. -/
def applyEffect (s : State) (id inst : Nat) (old new : List Byte) (restart : Bool) : State :=
  match id with
  | 0x01 => if restart then restartPort s inst (fld new 0 1) else if cut old 4 6 = cut new 4 6 then s else announce s inst
  | 0x02 => announceOf s inst (decide (cut old 0 4 ≠ cut new 0 4)) (decide (cut old 4 16 ≠ cut new 4 16))
  | 0x03 => if restart then closeConns s else s
  | 0x10 | 0x11 | 0x12 | 0x13 => applyTdm s (id - 0x10) restart
  | 0x20 => applyBay s inst (bayAttr new)
  | 0x40 => if fld old 0 4 = fld new 0 4 then s else setCap s (fld new 0 4)
  | _ => s

/-- The requesting connection keeps a path through a restart of port `p` (R322). -/
def pathStays (s : State) (rt : RespTo) (p : Nat) : Bool :=
  match connOf s rt.conn with
  | none => false
  | some x => (List.range 2).any (fun n => (pathOf x n).up && decide ((pathOf x n).port ≠ p))

/-- The response of an apply leaves just before the change (R322). -/
def respFirst (s : State) (id inst : Nat) (restart : Bool) (resp : Option RespTo) : Bool :=
  restart && (decide (id = 0x03) || (decide (id = 0x01) &&
    (match resp with
     | some rt => !pathStays s rt inst
     | none => false)))

/-- A response with `active_gen`, or with a failure status. -/
def commitAnswer (s : State) (resp : Option RespTo) (gen : W32) : State :=
  match resp with
  | some rt => respond s rt stOk (le 4 gen.toNat)
  | none => s

/-- The captured copy still passes its checks (step 5 of R347). -/
def captureOk (s : State) (id inst : Nat) (c : CommitReq) : Bool :=
  recExists s id inst && recOk s id inst c.bytes &&
    !(decide (id = 0x20) && stopChanged id (act s id inst) c.bytes &&
      ((bayOf s inst).map (fun b => decide (b.order ≠ []))).getD false)

/-- Step 5 of R347: the safe boundary of a record with a pending commit. -/
def applyCommit (s : State) (id inst : Nat) : State :=
  let r := recOf s id inst
  match r.commit with
  | none => s
  | some c =>
    let s := setRec s id inst { r with commit := none }
    if ¬ captureOk s id inst c then
      (match c.resp with
       | some rt => respond s rt stConfigMismatch (le 4 r.activeGen.toNat)
       | none => s)
    else
      let first := respFirst s id inst c.restart c.resp
      let s := if first then commitAnswer s c.resp c.gen else s
      let s := applyEffect (storeActive s id inst c.bytes c.gen) id inst r.active c.bytes c.restart
      if first then s else commitAnswer s c.resp c.gen

/-- The TDM port has a frame clock (R385). -/
def tdmClocked (s : State) (n : Nat) : Bool := decide ((tdmOf s n).st = .running ∨ (tdmOf s n).st = .relocking)

/-- What a commit does at once: a record without a safe boundary to wait for applies, and the ramp of a stop-apply-restart
starts (R385, R387, R411). -/
def commitStart (s : State) (id inst : Nat) (restart : Bool) : State :=
  if id = 0x30 then applyCommit s id inst
  else if id = 0x18 then (if fld (act s 0x18 0) 0 1 = 0 then applyCommit s id inst else s)
  else if 0x10 ≤ id ∧ id ≤ 0x13 then
    (if ¬ tdmClocked s (id - 0x10) then applyCommit s id inst
     else if restart then modTdm s (id - 0x10) (fun t => { t with ramping := true })
     else s)
  else s

/-- Fields of CONFIG_COMMIT. -/
def configCommitFields (b : List Byte) : Bool := decide (fld b 2 1 < 2) && isZero b 3 1

/-- CONFIG_COMMIT (R347, R270, R322). -/
def configCommit (body : List Byte) (rt : RespTo) (s : State) : State :=
  let id := fld body 0 1
  let inst := fld body 1 1
  let r := recOf s id inst
  let fail (st : Nat) : State := respond s rt st (le 4 r.activeGen.toNat)
  if ¬ recExists s id inst then answer s rt stBadMessage
  else if recBayBusy s id inst then fail stBusy
  else if r.commit.isSome then fail stBusy
  else if fld body 4 4 ≠ r.shadowGen.toNat then fail stConfigMismatch
  else
    let stop := stopChanged id r.active r.shadow
    let formed := ((bayOf s inst).map (fun b => decide (b.order ≠ []))).getD false
    let flag := bit (fld body 2 1) 0
    if id = 0x20 ∧ stop ∧ formed then fail stBusyRunning
    else if ¬ recOk s id inst r.shadow then fail stConfigMismatch
    else if id ≠ 0x20 ∧ stop ∧ ¬ flag then fail stBusyRunning
    else if r.shadow = r.active then
      respond (setRec s id inst { r with activeGen := r.shadowGen }) rt stOk (le 4 r.shadowGen.toNat)
    else
      let restart := stop && decide (id ≠ 0x20)
      let c : CommitReq := { bytes := r.shadow, gen := r.shadowGen, restart := restart, idle := [], resp := some rt }
      commitStart (setRec s id inst { r with commit := some c }) id inst restart

/-! ### Safe boundaries -/

/-- CONFIG_APPLY (R325, R347): the safe boundary of a record has come. A TDM record that restarts its port applies at the
end of its ramp instead. -/
def configApply (s : State) (id inst : Nat) : State :=
  let restart := (((recOf s id inst).commit).map (fun c => c.restart)).getD false
  if s.fault.isSome ∨ ¬ s.boot.complete ∨ ¬ recListed id inst ∨ (0x10 ≤ id ∧ id ≤ 0x13 ∧ restart ∧ (tdmOf s (id - 0x10)).ramping) then s
  else applyCommit s id inst

/-- Enabled ports that have not been link-idle since a commit of the LMX record. -/
def portsBusy (s : State) (idle : List Nat) : Bool := (List.range 8).any (fun p => portEnabled s p && !idle.contains p)

/-- PORT_LINK_IDLE_POINT (R321): the port's records apply; the LMX record once every enabled port has been idle. -/
def linkIdle (s : State) (p : Nat) : State :=
  if s.fault.isSome ∨ ¬ s.boot.complete then s
  else
    let s := applyCommit (applyCommit s 0x01 p) 0x02 p
    let r := recOf s 0x03 0
    match r.commit with
    | none => s
    | some c =>
      let c := { c with idle := if c.idle.contains p then c.idle else p :: c.idle }
      let s := setRec s 0x03 0 { r with commit := some c }
      if portsBusy s c.idle then s else applyCommit s 0x03 0

/-- CONFIG_WRITE (R346). -/
def execConfigWrite (m : HostMsg) (s : State) : Host.Outcome State Fault Refusal :=
  .next (accept 0x0130 configWriteFields m (configWrite m.body) s)
/-- CONFIG_COMMIT (R347). -/
def execConfigCommit (m : HostMsg) (s : State) : Host.Outcome State Fault Refusal :=
  .next (accept 0x0131 configCommitFields m (configCommit m.body) s)
/-- CONFIG_READ (Table 14.11). -/
def execConfigRead (m : HostMsg) (s : State) : Host.Outcome State Fault Refusal :=
  .next (accept 0x0132 (fun b => decide (fld b 2 1 < 2) && isZero b 3 1) m (configRead m.body) s)
/-- CONFIG_APPLY (R325, R347). -/
def execConfigApply (recordId recInst : Byte) (s : State) : Host.Outcome State Fault Refusal :=
  .next (configApply s recordId.toNat recInst.toNat)
/-- PORT_LINK_IDLE_POINT (R321). -/
def execPortLinkIdlePoint (port : Fin 8) (s : State) : Host.Outcome State Fault Refusal := .next (linkIdle s port)
/-- TDM_RESTART_RAMP_DONE (R387). -/
def execTdmRestartRampDone (tdm : Fin 4) (s : State) : Host.Outcome State Fault Refusal :=
  .next (if (tdmOf s tdm).ramping ∧ s.fault.isNone then applyCommit s (0x10 + tdm) 0 else s)

end Sys2Proof.Machine
end

