-- ==== Sys2Proof/Machine/Bays.lean ====
section
/-!
DEFINITION. Sys2Proof/Machine/Bays.lean: BAY_CREATE, BAY_DESTROY, PLAN_BIND, PLAN_UNBIND, YEALM_FORM, YEALM_RELEASE and
POWER_CAP (R256, R257, R268 to R277, R281 to R286, R343, R344, R448).
-/
namespace Sys2Proof.Machine

open Sys2Proof

/-! ### Bays -/

/-- Fields of BAY_CREATE: the fixed ranges and reserved fields of the bay block (R268, R343). -/
def bayCreateFields (b : List Byte) : Bool := reservedOk 0x20 0 (b.take 32) && bayFixedOk b

/-- What BAY_CREATE checks, in order (R269). -/
def bayCreateStatus (s : State) (bs : List Byte) : Nat :=
  let a := bayAttr bs
  let i := fld bs 0 1
  if ¬ bayPairsOk a ∨ bayOverlap s i a then stConfigMismatch
  else if (bayOf s i).isSome then stBusy
  else stOk

/-- A new bay with its record 0x20 (R268). -/
def makeBay (s : State) (bs : List Byte) : State :=
  let a := bayAttr bs
  let i := fld bs 0 1
  let bay : Bay :=
    { attr := a, plans := [], order := [], variant := none, lastVariant := none, destroying := none, todo := [], running := false
      paused := false, window := false, lent := false, groups := ownGroups a.cls, rot := none, commitAt := 0, bulk := [], nextGroup := 1
      counters := [] }
  let s := { s with bays := tins s.bays i bay }
  let s := modBay s i (fun b => { b with variant := variantNow s b, lastVariant := variantNow s b })
  let s := setRec s 0x20 i { active := bs.take 32, shadow := bs.take 32, activeGen := 0, shadowGen := 0, commit := none }
  gateCores s 0 a.coreMask

/-- BAY_CREATE (R268, R269). -/
def bayCreate (body : List Byte) (rt : RespTo) (s : State) : State :=
  let st := bayCreateStatus s body
  if st = stOk then answer (makeBay s body) rt stOk else answer s rt st

/-- BAY_DESTROY (R271): binds that still copy complete first; then plans are unbound, bay copies freed and lent cores
reclaimed. The bay goes at the next chunk boundary. -/
def bayDestroy (body : List Byte) (rt : RespTo) (s : State) : State :=
  let i := fld body 0 1
  match bayOf s i with
  | none => answer s rt stBadMessage
  | some b =>
    if b.destroying.isSome ∨ b.order ≠ [] then answer s rt stBusy
    else
      let s := modBay s i (fun b => { b with bulk := [] })
      let s := b.bulk.foldl (fun s k => bulkDone s i k) s
      let s := { s with builds := s.builds.map (fun (d : Build) => { d with copies := d.copies.filter (fun (c : BuildCopy) => c.kind ≠ 2 + i) }) }
      let s := modBay (returnBorrowed (reclaimStart s i) i) i (fun b => { b with plans := [], destroying := some rt })
      fixPaused s

/-- The cores leave a destroyed bay, its channels join the store group, and the response leaves (R271, R344). -/
def endBay (s : State) (i : Nat) : State :=
  match bayOf s i with
  | none => s
  | some b =>
    match b.destroying with
    | none => s
    | some rt =>
      let s := dropWays (returnBorrowed (reclaimAll s i) i) b.attr.wayMask
      let s := { s with bays := tdel s.bays i, recs := tdel s.recs (recKey 0x20 i) }
      answer (gateCores s b.attr.coreMask 0) rt stOk

/-! ### Plans -/

/-- Bindings as vertices of the wait-for graph: bay, build, plan. -/
def bindings (s : State) : List (Nat × W64 × Nat) :=
  s.bays.flatMap (fun e => e.2.plans.map (fun p => (e.1, p.build, p.plan)))

/-- An edge from a producing binding to a consuming one, in different bays (R256, R257). -/
def waitEdge (s : State) (u v : Nat × W64 × Nat) : Bool :=
  decide (u.1 ≠ v.1) && decide (u.2.1 = v.2.1) &&
    (match buildOf s u.2.1 with
     | none => false
     | some b => b.desc.rings.any (fun r =>
        if r.entries = 0 then false
        else if r.role = 1 then decide (u.2.2 ≠ r.peerPlan ∧ v.2.2 = r.peerPlan)
        else if r.role = 2 then decide (u.2.2 = r.peerPlan ∧ v.2.2 ≠ r.peerPlan)
        else false))

/-- Vertices left after those without a predecessor are taken away, again and again. -/
def pruneGraph (s : State) : Nat → List (Nat × W64 × Nat) → List (Nat × W64 × Nat)
  | 0, l => l
  | n + 1, l => pruneGraph s n (l.filter (fun v => l.any (fun u => waitEdge s u v)))

/-- The wait-for graph with one more binding has a cycle (R257). -/
def waitCycle (s : State) (v : Nat × W64 × Nat) : Bool :=
  let l := v :: bindings s
  decide (pruneGraph s l.length l ≠ [])

/-- Channels of a bay's group. -/
def bayCount (bay : Bay) : Nat := (maskBits 48 bay.attr.channelMask).length

/-- Bytes that the bay copy of a build still takes in a bay's group (R211): none where one is there, or is being made. -/
def copyNeeds (i : Nat) (bay : Bay) (b : Build) : Nat :=
  if needsCopy b i bay.attr.channelMask && bay.plans.all (fun p => decide (p.build ≠ b.id)) then b.image.length else 0

/-- The bay copy of a build fits the bay's group (R211). -/
def copyFits (s : State) (i : Nat) (bay : Bay) (b : Build) : Bool :=
  decide (copyNeeds i bay b ≤ freeIn s (maskBits 48 bay.attr.channelMask))

/-- The ring slots of a variant fit (R256): no two links share one, scratchpad slots lie within the 3 MiB, and thatch slots within
the bay's group and apart from those of the plans bound beside it. -/
def slotsFit (s : State) (bay : Bay) (v : Variant) : Bool :=
  let sp := ringSlots v false
  let th := (ringSlots v true).map Prod.snd
  let others := (boundPlans s bay).flatMap (fun p => p.variants.flatMap (fun w => (ringSlots w true).map Prod.snd))
  (List.range 64).all (fun n => disjointSpans ((sp.filter (fun e => e.1 = n)).map Prod.snd)) &&
    sp.all (fun e => decide (e.2.1 + e.2.2 ≤ Config.spadBytes)) && disjointSpans th &&
    th.all (fun e => decide (e.1 + e.2 ≤ (bayCount bay) * Config.channelBytes) &&
      others.all (fun o => decide (e.1 + e.2 ≤ o.1 ∨ o.1 + o.2 ≤ e.1)))

/-- The reservations of R256 for a plan fit a bay beside `n` bytes of a bay copy. The semaphores and descriptors of a plan always
fit: every step has each core's whole set for itself (R254). -/
def reserveFits (s : State) (bay : Bay) (p : Plan) (n : Nat) : Bool :=
  p.variants.all (slotsFit s bay) && decide (n + ringBytes p ≤ freeIn s (maskBits 48 bay.attr.channelMask))

/-- PLAN_BIND (R256, R257, R272). -/
def planBind (body : List Byte) (rt : RespTo) (s : State) : State :=
  let i := fld body 0 1
  let p := fld body 1 1
  let id := BitVec.ofNat 64 (fld body 4 8)
  match bayOf s i with
  | none => answer s rt stBadMessage
  | some bay =>
    if bay.destroying.isSome then answer s rt stBusy
    else
      match buildOf s id with
      | none => answer s rt stNotSupported
      | some b =>
        if ((planOf b p).map (fun x => decide (x.coreCount = (bayCores bay).length))).getD false = false then answer s rt stNotSupported
        else if bay.plans.any (fun x => x.build = id ∧ x.plan = p) then answer s rt stBusy
        else if 16 ≤ bay.plans.length ∨ ¬ copyFits s i bay b ∨
            ((planOf b p).map (fun x => reserveFits s bay x (copyNeeds i bay b))).getD true = false then answer s rt stNoResource
        else if waitCycle s (i, id, p) then answer s rt stRingCycle
        else
          let slow := needsCopy b i bay.attr.channelMask && decide (admittedYealms s bay ≠ [])
          let s := modBay s i (fun x => { x with plans := x.plans ++ [{ build := id, plan := p, ready := !slow }] })
          if slow then
            modBay s i (fun x => { x with bulk := x.bulk ++
              [{ kind := .planCopy id p, left := b.image.length, running := false, resp := some rt }] })
          else answer (fixPaused (placeCopy s i id)) rt stOk

/-- PLAN_UNBIND (R273). -/
def planUnbind (body : List Byte) (rt : RespTo) (s : State) : State :=
  let i := fld body 0 1
  let p := fld body 1 1
  let id := BitVec.ofNat 64 (fld body 4 8)
  match bayOf s i with
  | none => answer s rt stBadMessage
  | some bay =>
    if bay.destroying.isSome then answer s rt stBusy
    else
      match bay.plans.find? (fun x => x.build = id ∧ x.plan = p) with
      | none => answer s rt stBadMessage
      | some x =>
        if ¬ x.ready ∨ (bayYealms s bay).any (fun e => e.2.build = id ∧ e.2.plan = p) then answer s rt stBusy
        else
          let s := modBay s i (fun b => { b with plans := b.plans.filter (fun x => x.build ≠ id ∨ x.plan ≠ p) })
          let last := !(((bayOf s i).map (fun b => b.plans.any (fun x => x.build = id))).getD false)
          let s := if last then modBuild s id (fun d => { d with copies := d.copies.filter (fun (c : BuildCopy) => c.kind ≠ 2 + i) }) else s
          answer (fixPaused s) rt stOk

/-! ### Yealms -/

/-- Lowest free yealm id. -/
def freeYealm (s : State) : Option Nat := (List.range 4096).find? (fun i => (yealmOf s i).isNone)

/-- A yealm as it is formed. -/
def newYealm (s : State) (bay : Nat) (b : Bay) (build : W64) (plan slots : Nat) : Yealm :=
  { bay := bay, build := build, plan := plan, slots := slots
    readyAt := if b.lent then s.now + 235000 else s.now
    admitted := true, susp := .no, releasing := none, attempts := 0
    rcd := sealRcd { stepCount := 0, active := 0, prevValid := 0, member := 0, reserved := [], crc := 0 }
    rcdBase := placeAt (maskBits 48 b.attr.channelMask) s.fresh 64
    work := [], beStep := none, spilled := none, overrun := 0 }

/-- The checks of Table 12.2 from check 2 on. -/
def yealmStatus (s : State) (i : Nat) (b : Bay) (y : Yealm) : Nat :=
  match sliceVariant s b with
  | none => stFenced
  | some v =>
    let adm := (admittedYealms s b).map Prod.snd
    if planFenced s i y.build y.plan false then stFenced
    else if (yealmW s y v).isNone ∨ (b.attr.fenceReserve = 1 ∧ v < 2 ∧ boundHas s (v + 1) { build := y.build, plan := y.plan, ready := true } ∧
        (yealmW s y (v + 1)).isNone) then stNotSupported
    else if (freeYealm s).isNone ∨ 256 ≤ b.order.length ∨ freeIn s (maskBits 48 b.attr.channelMask) < 64 then stNoResource
    else if s.power.alarm ∨ slicesStop s b then stAdmissionDenied
    else if ¬ timeOk s b v (adm ++ [y]) then stAdmissionDenied
    else if capMw s < admittedPower s i (adm ++ [y]) then stAdmissionDenied
    else stOk

/-- YEALM_FORM (R275, Table 12.2). -/
def yealmForm (body : List Byte) (rt : RespTo) (s : State) : State :=
  let i := fld body 0 1
  let p := fld body 1 1
  let slots := fld body 2 1
  let id := BitVec.ofNat 64 (fld body 4 8)
  match bayOf s i with
  | none => answer s rt stBadMessage
  | some b =>
    if b.destroying.isSome then answer s rt stBusy
    else if ¬ b.plans.any (fun x => decide (x.build = id ∧ x.plan = p) && x.ready) ∨
        ((buildOf s id).map (fun d => decide (slots ≤ d.maxSlots))).getD false = false then answer s rt stBadMessage
    else
      let y := newYealm s i b id p slots
      let st := yealmStatus s i b y
      if st ≠ stOk then answer s rt st
      else
        match freeYealm s with
        | none => answer s rt stNoResource
        | some k =>
          let pos := b.order.length
          let s := areaPlaced { s with yealms := tins s.yealms k y, fresh := s.fresh + 1 } (.record k) 0 64
          let s := modBay s i (fun b => { b with order := b.order ++ [k], variant := variantNow s b })
          respond s rt stOk (le 2 k ++ le 2 pos)

/-- YEALM_RELEASE (R277). -/
def yealmRelease (body : List Byte) (rt : RespTo) (s : State) : State :=
  let k := fld body 0 2
  match yealmOf s k with
  | none => answer s rt stBadMessage
  | some y =>
    if claimants s k ≠ [] ∨ y.releasing.isSome then answer s rt stBusy
    else modYealm s k (fun y => { y with releasing := some rt })

/-- A release takes effect (R277, R344): a best-effort step in progress ends with the yealm. -/
def endYealm (s : State) (k : Nat) : State :=
  match yealmOf s k with
  | none => s
  | some y =>
    match y.releasing with
    | none => s
    | some rt =>
      let s := (runningOf s y.bay).foldl (fun s e => if e.2 = k then stopWork s y.bay e.1 else s) s
      let s := dropSpills s k
      let s := modBay s y.bay (fun b => { b with
        order := b.order.filter (fun j => j ≠ k), todo := b.todo.filter (fun t => t.yealm ≠ k)
        running := b.running && decide ((b.todo.head?).map (fun t => t.yealm) ≠ some k)
        groups := b.groups.map (fun g =>
          let g := if g.yealm = some k then { g with yealm := none, stepping := false } else g
          if g.rot = some k then { g with rot := none } else g)
        rot := if b.rot = some k then none else b.rot })
      answer { s with yealms := tdel s.yealms k } rt stOk

/-! ### POWER_CAP (R286, R448) -/

/-- Fields of POWER_CAP. -/
def powerCapFields (b : List Byte) : Bool := decide (fld b 0 4 = 0) || within (fld b 0 4) 40000 320000

/-- POWER_CAP: the cap is in force from acceptance, and stands in both copies of record 0x40. -/
def powerCap (body : List Byte) (rt : RespTo) (s : State) : State :=
  let r := recOf s 0x40 0
  let gen := r.shadowGen + 1
  let v := le 4 (fld body 0 4)
  let padm := powerNow s
  let s := setRec s 0x40 0 { r with active := splice r.active 0 v, shadow := splice r.shadow 0 v, activeGen := gen, shadowGen := gen }
  respond (setCap s (fld body 0 4)) rt stOk (le 4 padm)

/-- BAY_CREATE (R268). -/
def execBayCreate (m : HostMsg) (s : State) : Host.Outcome State Fault Refusal :=
  .next (accept 0x0120 bayCreateFields m (bayCreate m.body) s)
/-- BAY_DESTROY (R271). -/
def execBayDestroy (m : HostMsg) (s : State) : Host.Outcome State Fault Refusal :=
  .next (accept 0x0121 (fun b => isZero b 1 3 && within (fld b 0 1) 0 63) m (bayDestroy m.body) s)
/-- PLAN_BIND (R272). -/
def execPlanBind (m : HostMsg) (s : State) : Host.Outcome State Fault Refusal :=
  .next (accept 0x0122 (fun b => isZero b 2 2) m (planBind m.body) s)
/-- PLAN_UNBIND (R273). -/
def execPlanUnbind (m : HostMsg) (s : State) : Host.Outcome State Fault Refusal :=
  .next (accept 0x0123 (fun b => isZero b 2 2) m (planUnbind m.body) s)
/-- YEALM_FORM (R275). -/
def execYealmForm (m : HostMsg) (s : State) : Host.Outcome State Fault Refusal :=
  .next (accept 0x0124 (fun b => isZero b 3 1 && within (fld b 2 1) 1 32) m (yealmForm m.body) s)
/-- YEALM_RELEASE (R277). -/
def execYealmRelease (m : HostMsg) (s : State) : Host.Outcome State Fault Refusal :=
  .next (accept 0x0125 (fun b => isZero b 2 2) m (yealmRelease m.body) s)
/-- POWER_CAP (R286). -/
def execPowerCap (m : HostMsg) (s : State) : Host.Outcome State Fault Refusal :=
  .next (accept 0x0105 powerCapFields m (powerCap m.body) s)

end Sys2Proof.Machine
end

