-- ==== Sys2Proof/Machine/Image.lean ====
section
/-!
DEFINITION. Sys2Proof/Machine/Image.lean: the build image as the device reads and checks it (R21, R35 to R41, R143, R164, R173,
R264, Tables 2.8 to 2.13 and 11.10 to 11.12).
-/
namespace Sys2Proof.Machine

open Sys2Proof

/-- `n` rounded up to a multiple of 8. -/
def pad8 (n : Nat) : Nat := (n + 7) / 8 * 8

/-- `a, a + step, …`: the bytes of `n` entries of `size` bytes. -/
def entriesOf (bs : List Byte) (size n : Nat) : List (List Byte) := (List.range n).map (fun k => cut bs (size * k) size)

/-! ### Header and section directory (R35, R36) -/

/-- A section directory entry (Table 2.9). -/
def sectionAt (bs : List Byte) (k : Nat) : Section :=
  let e := cut bs (64 + 32 * k) 32
  { typ := fld e 0 2, index := fld e 2 2, offset := fld e 8 8, size := fld e 16 8, crc := BitVec.ofNat 32 (fld e 24 4) }

/-- Number of sections. -/
def sectionCount (bs : List Byte) : Nat := fld bs 20 2

/-- The section directory. -/
def imageDir (bs : List Byte) : List Section := (List.range (sectionCount bs)).map (sectionAt bs)

/-- Bytes of header and directory. -/
def headBytes (bs : List Byte) : Nat := 64 + 32 * sectionCount bs

/-- Check 1 of R38. -/
def imageKnown (bs : List Byte) : Bool :=
  decide (fld bs 0 4 = 0x424B4C53) && decide (fld bs 4 2 = 3) && decide (fld bs 6 2 = 1) && decide (fld bs 16 4 = 0x640)

/-- Ranges and reserved fields of the header (Table 2.8). -/
def headerFieldsOk (bs : List Byte) : Bool :=
  decide (BitVec.ofNat 32 (fld bs 48 4) = crc32c (bs.take 48)) && isZero bs 42 6 && isZero bs 52 12 &&
    within (sectionCount bs) 1 4096 && within (fld bs 22 2) 0 1 && within (fld bs 32 1) 0 2 &&
    within (fld bs 33 1) 4 64 && decide (fld bs 33 1 % 4 = 0) && within (fld bs 34 1) 1 32 &&
    within (fld bs 36 4) 1 262144 && within (fld bs 40 2) 1 64

/-- One directory entry (R36). -/
def sectionOk (bs : List Byte) (k : Nat) : Bool :=
  let x := sectionAt bs k
  let e := cut bs (64 + 32 * k) 32
  within x.typ 1 7 && isZero e 4 4 && isZero e 28 4 && decide (x.offset % 4096 = 0) && decide (1 ≤ x.size) &&
    decide (headBytes bs ≤ x.offset) && decide (x.offset + x.size ≤ fld bs 24 8) &&
    (decide (x.typ ≠ 2) || decide (x.size % 65536 = 0))

/-- Numbers and index values of the sections of one type (R36, Table 2.10). -/
def typeOk (bs : List Byte) (typ : Nat) : Bool :=
  let ix := ((imageDir bs).filter (fun x => x.typ = typ)).map (fun x => x.index)
  (List.range ix.length).all (fun i => ix.contains i) && decide (1 ≤ ix.length) &&
    (decide (typ ≠ 1 ∧ typ ≠ 6 ∧ typ ≠ 7) || decide (ix.length = 1)) && (decide (typ ≠ 5) || decide (ix.length = fld bs 40 2))

/-- Check 2, part a, of R38 on the piece at offset 0, but for the message's own fields. -/
def imageHeadOk (bs : List Byte) : Bool :=
  headerFieldsOk bs && decide (headBytes bs ≤ bs.length) && (List.range (sectionCount bs)).all (sectionOk bs) &&
    disjointSpans ((imageDir bs).map (fun x => (x.offset, x.size))) && [1, 2, 3, 4, 5, 6, 7].all (typeOk bs)

/-! ### Model descriptor (R40, R41) -/

/-- The blocks of a descriptor: type and body, of `n` blocks from an offset; `none` where one breaks R40. -/
def descBlocks (d : List Byte) (limit : Nat) : Nat → Nat → Option (List (Nat × List Byte))
  | 0, _ => some []
  | n + 1, off =>
    let size := fld d (off + 4) 4
    if limit < off + 8 ∨ size < 8 ∨ size % 8 ≠ 0 ∨ limit < off + size ∨ fld d (off + 2) 2 ≠ 0 then none
    else (descBlocks d limit n (off + size)).map (fun l => (fld d off 2, cut d (off + 8) (size - 8)) :: l)

/-- A block's body, of `n` bytes padded with zeros to a multiple of 8. DESIGN CHOICE: R40 makes `block_bytes` a multiple of 8
and does not say how a shorter body is filled; the model takes zeros, up to the next multiple, and refuses anything else. -/
def blockBody (l : List (Nat × List Byte)) (typ n : Nat) : Option (List Byte) :=
  match l.find? (fun e => e.1 = typ) with
  | none => none
  | some e => if e.2.length = pad8 n ∧ isZero e.2 n (e.2.length - n) then some (e.2.take n) else none

/-- Body of a block that may hold any number of 8-byte entries. -/
def blockAny (l : List (Nat × List Byte)) (typ : Nat) : List Byte := ((l.find? (fun e => e.1 = typ)).map Prod.snd).getD []

/-- Sampling parameters in range (Table 8.1). -/
def codebookOk (e : List Byte) : Bool :=
  let t := BitVec.ofNat 32 (fld e 4 4)
  let p := BitVec.ofNat 32 (fld e 12 4)
  within (fld e 0 2) 2 4096 && isZero e 2 2 &&
    (fpIsZero t || (!fpIsNan t && fcmp 5 t 0x3C800000#32 && fcmp 3 t 0x42800000#32)) &&
    within (fld e 8 2) 1 256 && isZero e 10 2 && !fpIsNan p && fcmp 4 p 0#32 && fcmp 3 p fpOne && isZero e 16 4

/-- A codebook entry. -/
def codebookOf (e : List Byte) : Codebook :=
  { codes := fld e 0 2, invTemp := BitVec.ofNat 32 (fld e 4 4), topK := fld e 8 2, topP := BitVec.ofNat 32 (fld e 12 4) }

/-- The mark parameter block in range (Table 8.2). -/
def marksOk (b : List Byte) : Bool :=
  [1, 2, 4, 8, 16, 32].contains (fld b 0 1) && decide (fld b 1 1 ≤ fld b 0 1) && within (fld b 4 1) 0 7 && isZero b 5 3

/-- A recurrent layer entry in range. -/
def layerOk (e : List Byte) : Bool :=
  within (fld e 0 2) 64 4096 && decide (fld e 0 2 % 64 = 0) && within (fld e 2 1) 0 1 &&
    (within (fld e 3 1) 0 3 || decide (fld e 3 1 = 255)) && within (fld e 8 1) 0 1 &&
    (if fld e 8 1 = 1 then within (fld e 9 1) 5 8 else decide (fld e 9 1 = 0)) && isZero e 10 6

/-- A recurrent layer. -/
def layerOf (e : List Byte) : Layer :=
  { stateDim := fld e 0 2, decayForm := fld e 2 1, exitIndex := fld e 3 1, exitThreshold := BitVec.ofNat 32 (fld e 4 4)
    rotated := bit (fld e 8 1) 0, hadamardLog2 := fld e 9 1 }

/-- The exit heads stand after exactly one layer each (R41). -/
def exitsOk (heads : Nat) (ls : List Layer) : Bool :=
  let ix := (ls.map (fun l => l.exitIndex)).filter (fun i => i ≠ 255)
  decide (ix.length = heads) && (List.range heads).all (fun h => ix.contains h)

/-- Form-1 decay scales that the layers and the cell need (R41). -/
def lambdaCount (ls : List Layer) (cellForm cellState : Nat) : Nat :=
  ((ls.filter (fun l => l.decayForm = 1)).map (fun l => l.stateDim)).sum + (if cellForm = 1 then cellState else 0)

/-- A state layout entry. -/
def componentOf (e : List Byte) : Component := { id := fld e 0 2, elemBytes := fld e 2 2, elements := fld e 4 4 }

/-- Place of a component in the order of R145; 0 for an id that Table 7.5 does not give. -/
def compRank (id : Nat) : Nat :=
  if id = 0xFFFF then 1
  else if id ≤ 0x1F then 2 + id
  else if id = 0x100 then 40
  else if 0x200 ≤ id ∧ id ≤ 0x3FF then id
  else 0

/-- One layout entry fits its component (Table 7.1). -/
def componentOk (ls : List Layer) (cellState : Nat) (c : Component) : Bool :=
  decide (compRank c.id ≠ 0) && [1, 4, 8].contains c.elemBytes &&
    (if c.id = 0xFFFF then decide (c.elemBytes * c.elements = 32)
     else if c.id ≤ 0x1F then decide (c.elemBytes = 4) && decide ((ls[c.id]?).map (fun l => l.stateDim) = some c.elements)
     else if c.id = 0x100 then decide (c.elemBytes = 8 ∧ c.elements = cellState)
     else true)

/-- The state layout (R41, R145): the order, the components that are always present, and the sum. -/
def layoutOk (ls : List Layer) (cellState stateBytes : Nat) (cs : List Component) : Bool :=
  (cs.zip (cs.drop 1)).all (fun p => decide (compRank p.1.id < compRank p.2.id)) && cs.all (componentOk ls cellState) &&
    cs.any (fun c => c.id = 0xFFFF) && cs.any (fun c => c.id = 0x100) &&
    (List.range ls.length).all (fun l => cs.any (fun c => c.id = l)) && decide ((cs.map compSize).sum = stateBytes)

/-- `n` is a power of two from `lo` to `hi`. -/
def pow2In (n lo hi : Nat) : Bool := within n lo hi && (List.range 17).any (fun k => decide (n = 2 ^ k))

/-- A session ring entry in range (Tables 2.13, 11.4 and 11.8): `plans` plan sections, of which `peer_plan` names one. The
ranges of `dir`, `role` and `peer_plan` hold for an absent ring too; the sizes are those of a present one. -/
def ringDeclOk (plans : Nat) (e : List Byte) : Bool :=
  isZero e 11 5 && within (fld e 8 1) 0 1 && within (fld e 9 1) 0 2 && (decide (fld e 10 1 = 255) || decide (fld e 10 1 < plans)) &&
    (decide (fld e 0 4 = 0) ||
      (pow2In (fld e 0 4) 4 65536 && pow2In (fld e 4 4) 8 4096 && (decide (fld e 9 1 = 0) == decide (fld e 10 1 = 255))))

/-- A session ring declaration. -/
def ringDeclOf (e : List Byte) : RingDecl :=
  { entries := fld e 0 4, entryBytes := fld e 4 4, dir := fld e 8 1, role := fld e 9 1, peerPlan := fld e 10 1 }

/-- The EB-320 counterpart block. -/
def eb320Of (b : List Byte) : Option Eb320 :=
  let nc := fld b 8 4
  let ns := fld b 12 4
  if b.length < 16 ∨ b.length ≠ 16 + 8 * (nc + ns) then none
  else
    let cs := entriesOf (b.drop 16) 8 nc
    let gs := entriesOf (b.drop (16 + 8 * nc)) 8 ns
    if cs.all (fun e => (decide (compRank (fld e 0 2) ≠ 0) || decide (fld e 0 2 = 0x101)) && [4, 8].contains (fld e 2 2)) &&
        gs.all (fun e => within (fld e 0 1) 0 4 && isZero e 1 3) then
      some { buildId := BitVec.ofNat 64 (fld b 0 8), comps := cs.map componentOf, segments := gs.map (fun e => (fld e 0 1, fld e 4 4)) }
    else none

/-- An adapter target entry in range. DESIGN CHOICE: Table 2.13 gives `d_in` and `d_out` no range; the model refuses 0. -/
def targetOk (e : List Byte) : Bool :=
  decide (1 ≤ fld e 0 2) && decide (1 ≤ fld e 2 2) && within (fld e 4 1) 1 2 && within (fld e 5 1) 0 4 && isZero e 8 8

/-- An adapter target. -/
def targetOf (e : List Byte) : Target :=
  { dIn := fld e 0 2, dOut := fld e 2 2, stage := fld e 4 1, kind := fld e 5 1, layer := fld e 6 2 }

/-- Ranges and reserved fields of the descriptor header (Table 2.12). -/
def descHeadOk (d : List Byte) : Bool :=
  decide (64 ≤ d.length) && decide (fld d 0 4 = 0x444D4C53) && decide (fld d 4 2 = 1) && within (fld d 6 2) 1 64 &&
    within (fld d 8 2) 256 4096 && decide (fld d 8 2 % 64 = 0) && within (fld d 10 2) 2 4096 && within (fld d 12 1) 1 16 &&
    within (fld d 13 1) 1 32 && isZero d 14 2 && within (fld d 16 2) 32 1024 && decide (fld d 16 2 % 32 = 0) &&
    within (fld d 18 1) 0 1 && within (fld d 19 1) 0 4 && within (fld d 26 2) 1 1024 && isZero d 28 32 &&
    within (fld d 60 4) 64 d.length

/-- Which blocks stand in a descriptor (R41): none twice, none reserved, every required one. -/
def blocksOk (l : List (Nat × List Byte)) (lambdas : Bool) : Bool :=
  l.all (fun e => within e.1 1 9 && decide ((l.filter (fun f => f.1 = e.1)).length = 1)) &&
    [1, 2, 3, 5, 6, 7, 9].all (fun t => l.any (fun e => e.1 = t)) && (l.any (fun e => e.1 = 4)) == lambdas

/-- The model descriptor of a section, where it passes R40, R41, R164, R173 and the ring limits of Table 11.8. -/
def descParse (d : List Byte) (stateBytes planCount : Nat) : Option ModelDesc := do
  if ¬ descHeadOk d then none
  let l ← descBlocks d (fld d 60 4) (fld d 6 2) 64
  let nc := fld d 12 1
  let nl := fld d 13 1
  let cell := fld d 16 2
  let form := fld d 18 1
  let layers ← blockBody l 3 (16 * nl)
  let les := entriesOf layers 16 nl
  let ls := les.map layerOf
  let nlam := lambdaCount ls form cell
  let lam ← if nlam = 0 then some [] else blockBody l 4 (4 * nlam)
  let cbs ← blockBody l 1 (20 * nc)
  let marks ← blockBody l 2 8
  let rings ← blockBody l 6 160
  let targets ← blockBody l 9 (16 * fld d 26 2)
  let lay := blockAny l 5
  let kinds := blockAny l 7
  let layout := (entriesOf lay 8 (lay.length / 8)).map componentOf
  let kes := entriesOf kinds 8 (kinds.length / 8)
  let eb := (l.find? (fun e => e.1 = 8)).map (fun e => eb320Of e.2)
  if blocksOk l (decide (nlam ≠ 0)) && les.all layerOk && exitsOk (fld d 19 1) ls && (entriesOf cbs 20 nc).all codebookOk &&
      marksOk marks && layoutOk ls cell stateBytes layout && (entriesOf rings 16 10).all (ringDeclOk planCount) &&
      kes.all (fun e => within (fld e 1 1) 0 1 && isZero e 2 6) && decide (eb ≠ some none) &&
      (entriesOf targets 16 (fld d 26 2)).all targetOk then
    some { dModel := fld d 8 2, vocab := fld d 10 2, cellState := cell, cellForm := form, exitHeads := fld d 19 1
           silence := BitVec.ofNat 32 (fld d 20 4), sampleTensor := BitVec.ofNat 16 (fld d 24 2)
           codebooks := (entriesOf cbs 20 nc).map codebookOf
           marks := { p := fld marks 0 1, h := fld marks 1 1, wordClasses := BitVec.ofNat 16 (fld marks 2 2)
                      kinds := BitVec.ofNat 8 (fld marks 4 1) }
           layers := ls
           lambdas := (entriesOf lam 4 nlam).map (fun e => BitVec.ofNat 32 (fld e 0 4))
           layout := layout.filter (fun c => c.id ≠ 0xFFFF)
           rings := (entriesOf rings 16 10).map ringDeclOf
           planKinds := kes.map (fun e => (fld e 0 1, fld e 1 1))
           eb320 := (eb.getD none)
           targets := (entriesOf targets 16 (fld d 26 2)).map targetOf }
  else none

/-! ### Plan sections (R264) -/

/-- A windowed-loop group (Table 11.14). -/
def winOf (e : List Byte) : Win :=
  { loop := fld e 0 1, padMode := fld e 1 1, inDil := fld e 2 1, taps := fld e 3 1, len := fld e 4 2, dil := fld e 6 2
    stride := fld e 8 2, padLo := fld e 10 2, padHi := fld e 12 2, outLo := fld e 14 2, outHi := fld e 16 2
    hist := fld e 18 2, histBase := fld e 20 4 }

/-- A walk descriptor (Table 11.13). -/
def walkOf (e : List Byte) : WalkDesc :=
  { base := fld e 0 8, mode := fld e 8 1, loops := fld e 9 1, flags := fld e 10 1, elemBytes := fld e 11 1
    counts := (List.range 5).map (fun k => fld e (12 + 4 * k) 4)
    strides := (List.range 5).map (fun k => fldS e (32 + 4 * k) 4)
    slotStep := fldS e 52 4, win0 := winOf (cut e 56 24), win1 := winOf (cut e 80 24)
    padCode := fld e 104 2, zeroCode := fld e 106 2, repeatBase := fld e 108 4, upFactor := fld e 112 1
    rsvd := !isZero e 113 15 || decide (1024 ≤ fld e 104 2) || decide (1024 ≤ fld e 106 2) ||
      (decide (fld e 8 1 ≠ 2) && decide (fld e 108 4 ≠ 0)) || (decide (fld e 8 1 ≠ 5) && decide (fld e 112 1 ≠ 0)) }

/-- The entries of a list that differ from a default, as a table. -/
def listTab {α : Type} [DecidableEq α] (d : α) (l : List α) : Tab α :=
  (l.mapIdx (fun i x => (i, x))).filter (fun e => decide (e.2 ≠ d))

/-- A walk descriptor keeps to the reserved parts and codes of Tables 11.13 and 11.14. DEDUCED: these are what a section must
not break (R264); the limits of Table 6.4 hold for the values after R265 and are checked by the command (R135, R266). -/
def walkShapeOk (w : WalkDesc) : Bool :=
  !w.rsvd && decide (w.mode ≤ 5) && decide (w.flags < 2) && [1, 2, 4].contains w.elemBytes &&
    [w.win0, w.win1].all (fun g => decide (g.loop ≤ 4) || decide (g.loop = 0xFF))

/-- An initial ring descriptor is absent, or keeps to Tables 11.2 and 11.8. -/
def initRingOk (e : List Byte) : Bool :=
  isZero e 0 32 || (ringImageOk e && decide (fld e 18 1 < 2 * fld e 12 1) && decide (fld e 19 1 < 2 * fld e 12 1))

/-- An initial DMA descriptor is absent, or keeps to Tables 11.3 and 11.8. -/
def initDescOk (e : List Byte) : Bool :=
  isZero e 0 64 || (match descOf e with
    | .ok d => descOk d
    | .error _ => false)

/-- One core's initial values: 256 semaphores, 64 rings, 128 DMA descriptors in 10,752 bytes (R264). -/
def coreInitOf (b : List Byte) : Option CoreInit :=
  let rings := entriesOf (cut b 512 2048) 32 64
  let descs := (entriesOf (b.drop 2560) 64 128).map (fun e => match descOf e with
    | .ok d => some d
    | .error _ => none)
  if descs.all (fun d => d.isSome) && rings.all initRingOk && (entriesOf (b.drop 2560) 64 128).all initDescOk then
    some { sems := listTab 0 ((entriesOf b 2 256).map (fun e => BitVec.ofNat 16 (fld e 0 2)))
           rings := listTab ringD (rings.map ringOf), descs := listTab descD (descs.map (fun d => d.getD descD)) }
  else none

/-- One variant of a plan section, with the extents that must not overlap. -/
def variantParse (sec : List Byte) (coreCount v : Nat) : Option (Variant × List (Nat × Nat)) :=
  let e := cut sec (64 + 32 * v) 32
  let cores := fld e 1 1
  let nw := fld e 6 2
  let dirAt := fld e 8 4
  let walkAt := fld e 12 4
  let initAt := fld e 16 4
  let dir := entriesOf (cut sec dirAt (16 * cores)) 16 cores
  let inits := (entriesOf (cut sec initAt (10752 * cores)) 10752 cores).map coreInitOf
  let stream (d : List Byte) : Nat × Nat := (fld d 4 4, 64 * fld d 8 4)
  if decide (fld e 0 1 = v) && decide (cores + v = coreCount) && decide (fld e 2 1 < cores) && isZero e 20 12 && decide (dirAt % 16 = 0) && decide (walkAt % 128 = 0) &&
      decide (initAt % 64 = 0) && decide (dirAt + 16 * cores ≤ sec.length) && decide (walkAt + 128 * nw ≤ sec.length) &&
      decide (initAt + 10752 * cores ≤ sec.length) &&
      (dir.mapIdx (fun i d => decide (fld d 0 1 = i) && isZero d 1 3 && isZero d 12 4 && decide (fld d 4 4 % 64 = 0) &&
        within (fld d 8 4) 1 16777216 && decide ((stream d).1 + (stream d).2 ≤ sec.length) &&
        bit (fld sec ((stream d).1 + (stream d).2 - 62) 1) 2)).all (fun x => x) && inits.all (fun x => x.isSome) &&
      (entriesOf (cut sec walkAt (128 * nw)) 128 nw).all (fun e => walkShapeOk (walkOf e)) then
    some ({ cores := cores, leadIdx := fld e 2 1, commitSem := fld e 3 1, sRes := fld e 4 2
            walks := (entriesOf (cut sec walkAt (128 * nw)) 128 nw).map walkOf
            inits := inits.map (fun x => x.getD { sems := [], rings := [], descs := [] })
            streams := dir.map (fun d => cut sec (stream d).1 (stream d).2) },
      [(walkAt, 128 * nw), (initAt, 10752 * cores)] ++ dir.map stream)
  else none

/-- A plan section (Table 11.10). -/
def planParse (sec : List Byte) (index maxSlots : Nat) : Option Plan := do
  let cores := fld sec 5 1
  let nv := fld sec 6 1
  let ca := fld sec 8 4
  let cb := fld sec 12 4
  if ¬ (decide (64 + 32 * nv ≤ sec.length) && decide (fld sec 0 4 = 0x4E4C5053) && decide (fld sec 4 1 = index) &&
      within cores 1 64 && within nv 1 (min 3 cores) && decide (fld sec 7 1 = maxSlots) && decide (ca % 64 = 0) &&
      decide (ca + cb ≤ sec.length) && isZero sec 16 48) then none
  let vs ← (List.range nv).mapM (variantParse sec cores)
  if disjointSpans ((ca, cb) :: vs.flatMap Prod.snd) then
    some { index := index, coreCount := cores, variants := vs.map Prod.fst, consts := cut sec ca cb }
  else none

/-! ### Certificates and initial state (R37, R143) -/

/-- A certificate entry. -/
def certOfBytes (e : List Byte) : Cert :=
  { coreCount := fld e 0 1, variant := fld e 1 1, slots := fld e 2 1, plan := fld e 3 1, wCycles := fld e 4 4
    powerMw := fld e 8 4, spillBytes := fld e 12 4 }

/-- The certificate table, where every entry is in range (Table 2.11). -/
def certsParse (sec : List Byte) : Option (List Cert) :=
  let cs := (entriesOf sec 16 (sec.length / 16)).map certOfBytes
  if sec.length % 16 = 0 ∧ cs.all (fun c => within c.coreCount 1 64 && within c.variant 0 2 && within c.slots 1 32 &&
      within c.spillBytes 0 3145728) then some cs
  else none

/-- Initial half and anchoring table (Table 7.5). -/
def initParse (sec : List Byte) (stateBytes : Nat) : Option (List Byte × Anchors) :=
  let at8 := pad8 stateBytes
  let n := fld sec at8 2
  if sec.length < at8 + 8 ∨ 255 < n ∨ sec.length < at8 + 8 + 2 * n then none
  else some (sec.take stateBytes, { periodTurns := fld sec (at8 + 2) 2, maxSteps := fld sec (at8 + 4) 4
                                    comps := (List.range n).map (fun k => fld sec (at8 + 8 + 2 * k) 2) })

/-- Bytes of a section. -/
def sectionBytes (img : List Byte) (x : Section) : List Byte := cut img x.offset x.size

/-- Check 4 and the part-b checks that need one section alone. -/
def sectionGood (img : List Byte) (x : Section) : Bool :=
  let b := sectionBytes img x
  decide (crc32c b = x.crc) &&
    (match x.typ with
     | 1 => (descParse b (fld img 36 4) (fld img 40 2)).isSome
     | 5 => (planParse b x.index (fld img 34 1)).isSome
     | 6 => (certsParse b).isSome
     | 7 => (initParse b (fld img 36 4)).isSome
     | _ => true)

/-- First section of a type. -/
def sectionOfType (img : List Byte) (typ : Nat) : List Byte :=
  (((imageDir img).find? (fun x => x.typ = typ)).map (sectionBytes img)).getD []

/-- The certificates match the plans and `max_slots`: one entry for each plan, variant and slot count (R37). -/
def certsMatch (maxSlots : Nat) (ps : List Plan) (cs : List Cert) : Bool :=
  cs.all (fun c => decide (c.slots ≤ maxSlots) &&
    ps.any (fun p => decide (p.index = c.plan ∧ p.coreCount = c.coreCount ∧ c.variant < p.variants.length))) &&
    ps.all (fun p => (List.range p.variants.length).all (fun v => (List.range maxSlots).all (fun k =>
      decide ((cs.filter (fun c => c.plan = p.index ∧ c.variant = v ∧ c.slots = k + 1)).length = 1))))

/-- Weight pages with their CRC-32C, by page index (Table 17.2, R341). -/
def weightPages (img : List Byte) : List (Nat × W32) :=
  ((imageDir img).filter (fun x => x.typ = 2)).flatMap (fun x => (List.range (x.size / 65536)).map (fun k =>
    ((x.offset + 65536 * k) / 65536, crc32c (cut img (x.offset + 65536 * k) 65536))))

/-- Output rate of a rate code (Table 2.8). -/
def outputHz (code : Nat) : Nat := if code = 0 then 16000 else if code = 1 then 24000 else 48000

/-- A whole image as a build, where the relations between its sections hold (part b of check 2 of R38). -/
def imageParse (img : List Byte) : Option Build := do
  let stateBytes := fld img 36 4
  let maxSlots := fld img 34 1
  let d ← descParse (sectionOfType img 1) stateBytes (fld img 40 2)
  let ps ← ((imageDir img).filter (fun x => x.typ = 5)).mapM (fun x => planParse (sectionBytes img x) x.index maxSlots)
  let cs ← certsParse (sectionOfType img 6)
  let (half, anchors) ← initParse (sectionOfType img 7) stateBytes
  if ps.all (fun p => decide ((d.planKinds.filter (fun k => k.1 = p.index)).length = 1)) &&
      decide (d.planKinds.length = ps.length) && certsMatch maxSlots ps cs &&
      anchors.comps.all (fun c => decide (c = 0x101) || d.layout.any (fun x => x.id = c)) then
    some { id := BitVec.ofNat 64 (fld img 8 8), image := img, flags := BitVec.ofNat 16 (fld img 22 2)
           outputRate := outputHz (fld img 32 1), maxRank := fld img 33 1, maxSlots := maxSlots
           tEnc := if fld img 35 1 = 0 then 256 else fld img 35 1, stateBytes := stateBytes, desc := d, plans := ps
           certs := cs, initHalf := half, anchors := anchors, pageCrcs := weightPages img, copies := [], requested := []
           allRequested := false }
  else none

end Sys2Proof.Machine
end

