-- ==== Sys2Proof/Machine/Builds.lean ====
section
/-!
DEFINITION. Sys2Proof/Machine/Builds.lean: LOAD_BUILD in pieces, its abort and range reload, UNLOAD_BUILD, VOICE_STORE and
VOICE_DROP (R30, R36 to R41, R211, R340 to R342, R352, R375, R422).
-/
namespace Sys2Proof.Machine

open Sys2Proof

/-! ### LOAD_BUILD (R38, R340) -/

/-- Fields of LOAD_BUILD (Table 14.7). -/
def loadFields (b : List Byte) : Bool := within (fld b 24 1) 0 7 && isZero b 25 7

/-- Channel groups that may take home copies, in order: the store group, then the groups of bays with no admitted yealm
(Table 10.2, R211). -/
def homeGroups (s : State) : List (List Nat) :=
  (groupOf s none :: (s.bays.filter (fun e => admittedYealms s e.2 = [])).map (fun e => maskBits 48 e.2.attr.channelMask)).filter
    (fun g => decide (g ≠ []))

/-- Channels for the home copy of an image of `n` bytes and, where asked for, for its mirror, which shares none of them
(Table 10.2). DESIGN CHOICE: the first group that takes the home copy; the two halves of one group where they suffice, before a
second group for the mirror. -/
def homeChannels (s : State) (n : Nat) (mirror : Bool) : Option (List Nat × List Nat) :=
  let ok (chs : List Nat) : Bool := decide (chs ≠ []) && decide (n ≤ freeIn s chs)
  let gs := homeGroups s
  if ¬ mirror then (gs.find? ok).map (fun g => (g, []))
  else
    (gs.flatMap (fun g =>
      let half := (g.length + 1) / 2
      (g.take half, g.drop half) :: (gs.filter (fun h => decide (h ≠ g))).map (fun h => (g, h)))).find? (fun p => ok p.1 && ok p.2)

/-- A load in progress. -/
def loadOf (s : State) (id : W64) : Option Load := s.loads.find? (fun l => l.id = id)

/-- Discards a load in progress. -/
def dropLoad (s : State) (id : W64) : State := { s with loads := s.loads.filter (fun l => l.id ≠ id) }

/-- The copies that a loaded image forms (Table 10.2), at addresses that firmware chooses. -/
def loadCopies (fresh : Nat) (l : Load) : List BuildCopy :=
  { kind := 0, channels := maskOf l.channels, base := placeAt l.channels fresh l.size, written := [], badPages := [] } ::
    (if l.mirror then
      [{ kind := 1, channels := maskOf l.mirrorOn, base := placeAt l.mirrorOn (fresh + 1) l.size, written := [], badPages := [] }]
    else [])

/-- Every section that ends above `lo` and at or below `hi`. -/
def sectionsDone (dir : List Section) (lo hi : Nat) : List Section :=
  (sortKey (fun x => x.offset) dir).filter (fun x => decide (lo < x.offset + x.size ∧ x.offset + x.size ≤ hi))

/-- Bytes of a load arrive: completed sections are checked, and the build is resident at the last byte (R38, R39). -/
def loadTake (s : State) (rt : RespTo) (l : Load) (data : List Byte) : State :=
  let bytes := l.bytes ++ data
  let all := l.dir.all (fun x => decide (x.offset + x.size ≤ bytes.length))
  let good := (sectionsDone l.dir l.bytes.length bytes.length).all (sectionGood bytes)
  if ¬ good ∨ (all ∧ (imageParse bytes).isNone) then respond (dropLoad s l.id) rt stBadMessage (le 8 0)
  else if bytes.length < l.size then
    respond { s with loads := s.loads.map (fun (x : Load) => if x.id = l.id then { x with bytes := bytes } else x) } rt stOk (le 8 bytes.length)
  else
    match imageParse bytes with
    | none => respond (dropLoad s l.id) rt stBadMessage (le 8 0)
    | some b =>
      let s := dropLoad s l.id
      let cs := loadCopies s.fresh l
      let s := { s with builds := s.builds ++ [{ b with copies := cs }], fresh := s.fresh + 2 }
      respond (cs.foldl (fun s c => areaPlaced s (.image l.id c.kind) 0 l.size) s) rt stOk (le 8 bytes.length)

/-- The piece at offset 0: checks 1 to 3 of R38. -/
def loadFirst (s : State) (rt : RespTo) (id : W64) (size : Nat) (mirror : Bool) (data : List Byte) : State :=
  let fail (st : Nat) : State := respond s rt st (le 8 0)
  if data.length < 64 then fail stBadMessage
  else if ¬ imageKnown data then fail stNotSupported
  else if ¬ imageHeadOk data ∨ fld data 8 8 ≠ id.toNat ∨ fld data 24 8 ≠ size ∨ size < data.length then fail stBadMessage
  else if (buildOf s id).isSome then fail stBusy
  else if 4 ≤ s.loads.length ∨ 64 ≤ s.builds.length + s.loads.length then fail stNoResource
  else
    match homeChannels s size mirror with
    | none => fail stNoResource
    | some chs =>
      let l : Load := { id := id, size := size, mirror := mirror, bytes := [], dir := imageDir data, channels := chs.1, mirrorOn := chs.2 }
      loadTake { s with loads := s.loads ++ [l] } rt l data

/-- A piece of a load (R340). -/
def loadPiece (s : State) (rt : RespTo) (id : W64) (offset size : Nat) (mirror : Bool) (data : List Byte) : State :=
  match loadOf s id with
  | some l =>
    if offset ≠ l.bytes.length ∨ size ≠ l.size ∨ l.size < offset + data.length then
      respond s rt stBadMessage (le 8 l.bytes.length)
    else loadTake s rt l data
  | none => if offset = 0 then loadFirst s rt id size mirror data else respond s rt stBadMessage (le 8 0)

/-- The abort of a load (R340). -/
def loadAbort (s : State) (rt : RespTo) (id : W64) (data : List Byte) : State :=
  if data ≠ [] then respond s rt stBadMessage (le 8 (((loadOf s id).map (fun l => l.bytes.length)).getD 0))
  else respond (dropLoad s id) rt stOk (le 8 0)

/-- The weight page that begins at an image offset, with its recorded CRC-32C. -/
def pageAtOffset (b : Build) (offset : Nat) : Option (Nat × W32) :=
  if ((imageDir b.image).any (fun x => decide (x.typ = 2 ∧ x.offset ≤ offset ∧ offset < x.offset + x.size ∧
      (offset - x.offset) % 65536 = 0))) then b.pageCrcs.find? (fun p => p.1 = offset / 65536)
  else none

/-- A bay with slices whose group holds part of a copy: its reserve windows carry what is written there (R211). -/
def slicedOver (s : State) (c : BuildCopy) : Option Nat := (bayOver s c.channels).filter (hasSlices s)

/-- A reloaded page goes into every copy that lacks it intact: at once, or in the reserve windows of the bay that the copy lies
under; the response follows the last. -/
def reloadPage (s : State) (rt : RespTo) (id : W64) (page : Nat) (lacking : List BuildCopy) : State :=
  let s := (lacking.filter (fun c => (slicedOver s c).isNone)).foldl (fun s c => pageMended s id c.kind page) s
  let slow := lacking.filterMap (fun c => (slicedOver s c).map (fun b => (b, c.kind)))
  let s := slow.foldl (fun s e => modBay s e.1 (fun b => { b with bulk := b.bulk ++
    [{ kind := .pageReload id e.2 page, left := 65536, running := false, resp := some rt }] })) s
  if slow = [] then respond s rt stOk (le 8 65536) else s

/-- A range reload (R341, R422): the page goes into every copy that lacks it intact. -/
def loadRange (s : State) (rt : RespTo) (id : W64) (offset : Nat) (data : List Byte) : State :=
  match (buildOf s id).bind (fun b => (pageAtOffset b offset).map (fun p => (b, p))) with
  | none => respond s rt stBusy (le 8 0)
  | some (b, p) =>
    if ¬ (b.allRequested ∨ b.requested.contains p.1) then respond s rt stBusy (le 8 0)
    else if data.length ≠ 65536 ∨ crc32c data ≠ p.2 then respond s rt stBadMessage (le 8 0)
    else
      reloadPage s rt id p.1 (b.copies.filter (fun c => !copyIntact c p.1))

/-- LOAD_BUILD by its flags: abort, range reload, or a piece. -/
def loadMsg (body : List Byte) (rt : RespTo) (s : State) : State :=
  let id := BitVec.ofNat 64 (fld body 0 8)
  let flags := fld body 24 1
  let data := body.drop 32
  if bit flags 2 then loadAbort s rt id data
  else if bit flags 1 then loadRange s rt id (fld body 8 8) data
  else loadPiece s rt id (fld body 8 8) (fld body 16 8) (bit flags 0) data

/-- UNLOAD_BUILD (R342). -/
def unloadMsg (body : List Byte) (rt : RespTo) (s : State) : State :=
  let id := BitVec.ofNat 64 (fld body 0 8)
  if (buildOf s id).isNone then answer s rt stNotSupported
  else if s.bays.any (fun e => e.2.plans.any (fun p => p.build = id)) ∨ s.sessions.any (fun e => e.2.build = id) ∨
      s.adapters.any (fun a => a.build = id) then answer s rt stBusy
  else answer { s with builds := s.builds.filter (fun b => b.id ≠ id) } rt stOk

/-- LOAD_BUILD (R340). -/
def execLoadBuild (m : HostMsg) (s : State) : Host.Outcome State Fault Refusal := .next (accept 0x0110 loadFields m (loadMsg m.body) s)
/-- LOAD_BUILD with the abort bit (R340). -/
def execLoadBuildAbort (m : HostMsg) (s : State) : Host.Outcome State Fault Refusal :=
  .next (accept 0x0110 loadFields m (loadMsg m.body) s)
/-- LOAD_BUILD with the range-reload bit (R341). -/
def execRangeReload (m : HostMsg) (s : State) : Host.Outcome State Fault Refusal :=
  .next (accept 0x0110 loadFields m (loadMsg m.body) s)
/-- UNLOAD_BUILD (R342). -/
def execUnloadBuild (m : HostMsg) (s : State) : Host.Outcome State Fault Refusal :=
  .next (accept 0x0111 (fun _ => true) m (unloadMsg m.body) s)

/-! ### Voices (R352, R375) -/

/-- Fields of VOICE_STORE (Table 14.15). -/
def voiceFields (b : List Byte) : Bool :=
  decide (fld b 0 8 ≠ 0) && within (fld b 16 1) 4 64 && decide (fld b 16 1 % 4 = 0) && within (fld b 17 1) 0 1 && isZero b 18 2 &&
    isZero b 32 4

/-- A stored adapter. -/
def adapterOf (s : State) (id : W64) : Option Adapter := s.adapters.find? (fun a => a.id = id)

/-- An open session uses an adapter. -/
def adapterUsed (s : State) (id : W64) : Bool := s.sessions.any (fun e => e.2.adapter = id)

/-- An adapter id that is taken and may not be replaced now (R352). -/
def adapterBusy (s : State) (id : W64) (replace : Bool) : Bool :=
  (adapterOf s id).isSome && (!replace || adapterUsed s id)

/-- One target entry of an adapter. -/
def adapterTargetOk (b : Build) (bs : List Byte) (rank k : Nat) : Bool :=
  let e := cut bs (32 + 16 * k) 16
  let off := fld e 4 4
  let size := fld e 8 4
  isZero e 12 4 && decide (off % 64 = 0) && decide (off + size ≤ bs.length) &&
    (match b.desc.targets[fld e 0 4]? with
     | none => false
     | some t => decide (size = rank * (t.dIn + 4) + t.dOut * (rank + 4)))

/-- Layout of an adapter (Table 15.9): the status of the first check that fails. -/
def adapterStatus (b : Build) (a : Adapter) : Nat :=
  let bs := a.bytes
  let n := fld bs 16 2
  let ts := entriesOf (bs.drop 32) 16 n
  if fld bs 0 4 ≠ 0x44414C53 ∨ fld bs 4 2 ≠ 1 then stNotSupported
  else if fld bs 8 8 = a.build.toNat ∧ fld bs 6 1 = a.rank ∧ isZero bs 7 1 ∧ isZero bs 18 10 ∧
      BitVec.ofNat 32 (fld bs 28 4) = crc32c (bs.take 28) ∧ within n 1 1024 ∧ 32 + 16 * n ≤ bs.length ∧
      (List.range n).all (adapterTargetOk b bs a.rank) ∧
      ts.all (fun e => decide ((ts.filter (fun f => fld f 0 4 = fld e 0 4)).length = 1)) ∧
      disjointSpans ((0, 32 + 16 * n) :: ts.map (fun e => (fld e 4 4, fld e 8 4))) then stOk
  else stBadMessage

/-- The last piece of an adapter has arrived: its CRC, its layout, and the store (R352, R375). -/
def voiceEnd (s : State) (rt : RespTo) (a : Adapter) : State :=
  let s := { s with stores := s.stores.filter (fun x => x.id ≠ a.id) }
  if crc32c a.bytes ≠ a.crc then answer s rt stBadMessage
  else
    match buildOf s a.build with
    | none => answer s rt stNotSupported
    | some b =>
      if adapterStatus b a ≠ stOk then answer s rt (adapterStatus b a)
      else if adapterBusy s a.id (bit a.flags.toNat 0) then answer s rt stBusy
      else answer { s with adapters := s.adapters.filter (fun x => x.id ≠ a.id) ++ [a] } rt stOk

/-- Bytes of a store arrive. -/
def voiceTake (s : State) (rt : RespTo) (a : Adapter) (data : List Byte) : State :=
  let a := { a with bytes := a.bytes ++ data }
  let s := { s with stores := s.stores.filter (fun x => x.id ≠ a.id) ++ [a] }
  if a.bytes.length < a.size then answer s rt stOk else voiceEnd s rt a

/-- The adapter that a VOICE_STORE names, without bytes. -/
def voiceHead (b : List Byte) : Adapter :=
  { id := BitVec.ofNat 64 (fld b 0 8), build := BitVec.ofNat 64 (fld b 8 8), rank := fld b 16 1
    flags := BitVec.ofNat 8 (fld b 17 1), size := fld b 20 4, crc := BitVec.ofNat 32 (fld b 28 4), bytes := [] }

/-- VOICE_STORE (R352). -/
def voiceStoreMsg (body : List Byte) (rt : RespTo) (s : State) : State :=
  let h := voiceHead body
  let off := fld body 24 4
  let data := body.drop 36
  match s.stores.find? (fun x => x.id = h.id) with
  | some a =>
    if off ≠ a.bytes.length ∨ { a with bytes := [] } ≠ h ∨ a.size < off + data.length then answer s rt stBadMessage
    else voiceTake s rt a data
  | none =>
    let old := ((adapterOf s h.id).map (fun a => a.size)).getD 0
    if off ≠ 0 then answer s rt stBadMessage
    else if (buildOf s h.build).isNone then answer s rt stNotSupported
    else if adapterBusy s h.id (bit h.flags.toNat 0) then answer s rt stBusy
    else if h.size < 64 ∨ 268435456 < h.size ∨ 16384 ≤ (s.adapters.filter (fun a => a.id ≠ h.id)).length + s.stores.length ∨
        storeFree s + old < h.size then answer s rt stNoResource
    else if h.size < data.length then answer s rt stBadMessage
    else voiceTake s rt h data

/-- VOICE_DROP (R352). -/
def voiceDropMsg (body : List Byte) (rt : RespTo) (s : State) : State :=
  let id := BitVec.ofNat 64 (fld body 0 8)
  if (adapterOf s id).isNone then answer s rt stNotSupported
  else if adapterUsed s id then answer s rt stBusy
  else answer { s with adapters := s.adapters.filter (fun a => a.id ≠ id) } rt stOk

/-- VOICE_STORE (R352). -/
def execVoiceStore (m : HostMsg) (s : State) : Host.Outcome State Fault Refusal :=
  .next (accept 0x0160 voiceFields m (voiceStoreMsg m.body) s)
/-- VOICE_DROP (R352). -/
def execVoiceDrop (m : HostMsg) (s : State) : Host.Outcome State Fault Refusal :=
  .next (accept 0x0161 (fun _ => true) m (voiceDropMsg m.body) s)

end Sys2Proof.Machine
end

