-- ==== Sys2Proof/Machine/Profile.lean ====
section
/-!
DEFINITION. Sys2Proof/Machine/Profile.lean: profiles of the boot flash: format, validity and choice (R438, R453, R454), and
PROFILE_SELECT (R338).
-/
namespace Sys2Proof.Machine

open Sys2Proof

/-- Bytes of the boot flash; an erased byte reads 0xFF (Table 19.1). -/
@[irreducible] def flashRead (s : State) (a n : Nat) : List Byte := mread 0xFF s.flash a n

/-- Region of a profile. -/
def profileRegion (p : Nat) : Nat := 0x10000 + 0x10000 * p

/-- Entries of a profile: record id, instance and record bytes, of `n` entries from an offset, which end at `prof_bytes`. -/
def profEntries (bs : List Byte) (stop : Nat) : Nat → Nat → Option (List (Nat × Nat × List Byte))
  | 0, off => if off = stop then some [] else none
  | n + 1, off =>
    let id := fld bs off 1
    let inst := fld bs (off + 1) 1
    let size := fld bs (off + 2) 2
    if stop < off + 4 ∨ ¬ recListed id inst ∨ size ≠ 4 + recSize id ∨ stop < off + size then none
    else (profEntries bs stop n (off + size)).map (fun l => (id, inst, cut bs (off + 4) (size - 4)) :: l)

/-- Header of a profile (Table 18.11). -/
def profHeaderOk (bs : List Byte) (p : Nat) : Bool :=
  decide (fld bs 0 4 = 0x46504D4C) && decide (fld bs 4 2 = 1) && decide (fld bs 6 1 = p) && isZero bs 7 1 && isZero bs 14 42 &&
    within (fld bs 8 4) 64 65536 && within (fld bs 12 2) 0 1024 &&
    decide (BitVec.ofNat 32 (fld bs 60 4) = crc32c (bs.take 60)) &&
    decide (BitVec.ofNat 32 (fld bs 56 4) = crc32c (cut bs 64 (fld bs 8 4 - 64)))

/-- Every record instance but the bays (Table 14.10). -/
def fixedRecs : List (Nat × Nat) :=
  (List.range 8).map (fun i => (0x01, i)) ++ (List.range 8).map (fun i => (0x02, i)) ++
    [0x03, 0x10, 0x11, 0x12, 0x13, 0x18, 0x30, 0x40].map (fun id => (id, 0))

/-- A record at boot: the shadow equals the active copy (R346). -/
def bootCopy (bs : List Byte) : CfgRec := { active := bs, shadow := bs, activeGen := 0, shadowGen := 0, commit := none }

/-- The records that a profile gives, with the defaults of R453. -/
def profRecs (es : List (Nat × Nat × List Byte)) (s : State) : State :=
  fixedRecs.foldl (fun s r => setRec s r.1 r.2 (bootCopy
    (((es.find? (fun e => e.1 = r.1 ∧ e.2.1 = r.2)).map (fun e => e.2.2)).getD (recDefault r.1)))) { s with recs := [] }

/-- A device with the profile's records and nothing else, against which the records are checked. -/
def profScratch (es : List (Nat × Nat × List Byte)) : State := profRecs es State.reset

/-- The entries of a valid profile (R454). -/
def profileOf (s : State) (p : Nat) : Option (List (Nat × Nat × List Byte)) :=
  let bs := flashRead s (profileRegion p) 65536
  if ¬ profHeaderOk bs p then none
  else
    match profEntries bs (fld bs 8 4) (fld bs 12 2) 64 with
    | none => none
    | some es =>
      let t := profScratch es
      if es.all (fun e => decide ((es.filter (fun f => f.1 = e.1 ∧ f.2.1 = e.2.1)).length = 1)) &&
          fixedRecs.all (fun r => recOk t r.1 r.2 (act t r.1 r.2)) then some es
      else none

/-- A profile is valid. -/
def profileValid (s : State) (p : Nat) : Bool := (profileOf s p).isSome

/-- The profile of steps 2 and 3 of R438, or of all three where a choice of PROFILE_SELECT is given. -/
def profileFor (s : State) (choice : Option Nat) (profsel : Nat) : Option Nat :=
  let p := choice.getD profsel
  if profileValid s p then some p else (List.range 4).find? (profileValid s)

/-- PROFILE_SELECT (R338). With bit 0 set, a warm reset waits for the running steps (R439). -/
def profileSelectMsg (body : List Byte) (rt : RespTo) (s : State) : State :=
  let p := fld body 0 1
  if ¬ profileValid s p then answer s rt stNotSupported
  else
    let s := answer s rt stOk
    { s with boot := { s.boot with profileChoice := some p, warmPending := s.boot.warmPending || bit (fld body 1 1) 0 } }

/-- PROFILE_SELECT (R338). -/
def execProfileSelect (m : HostMsg) (s : State) : Host.Outcome State Fault Refusal :=
  .next (accept 0x0103 (fun b => within (fld b 0 1) 0 3 && within (fld b 1 1) 0 1 && isZero b 2 2) m (profileSelectMsg m.body) s)

end Sys2Proof.Machine
end

