-- ==== Sys2Proof/Machine/Firmware.lean ====
section
/-!
DEFINITION. Sys2Proof/Machine/Firmware.lean: boot records, verification and slot selection of firmware images, FW_UPDATE and
ATTEST (R351, R455 to R465, R467 to R469).
-/
namespace Sys2Proof.Machine

open Sys2Proof

/-! ### Boot records (R456) -/

/-- A boot record copy, where its `magic` and `record_crc` are correct (Table 19.2). -/
def bootRecAt (s : State) (k : Nat) : Option BootRec :=
  let b := flashRead s (0x1000 * k) 32
  if fld b 0 4 = 0x52424D4C ∧ BitVec.ofNat 32 (fld b 28 4) = crc32c (b.take 28) then
    some { seq := BitVec.ofNat 32 (fld b 4 4), slot := fld b 8 1 % 2, trial := bit (fld b 9 1) 0, trialBoots := fld b 10 1 }
  else none

/-- The current record with its copy. -/
def currentRec (s : State) : Option (Nat × BootRec) :=
  match bootRecAt s 0, bootRecAt s 1 with
  | some a, some b => if seqAfter b.seq a.seq then some (1, b) else some (0, a)
  | some a, none => some (0, a)
  | none, some b => some (1, b)
  | none, none => none

/-- The record that slot selection reads: without a valid copy, slot 0 and not on trial (R460). -/
def recNow (s : State) : BootRec :=
  ((currentRec s).map Prod.snd).getD { seq := 0, slot := 0, trial := false, trialBoots := 0 }

/-- Bytes of a boot record. -/
def bootRecBytes (r : BootRec) : List Byte :=
  let b := le 4 0x52424D4C ++ le 4 r.seq.toNat ++ le 1 r.slot ++ le 1 (b2n r.trial) ++ le 1 r.trialBoots ++ zeros 17
  b ++ le 4 (crc32c b).toNat

/-- A write of a record: to the other copy, with `sequence` one higher. -/
def writeRec (s : State) (slot : Nat) (trial : Bool) (boots : Nat) : State :=
  let k := ((currentRec s).map (fun e => 1 - e.1)).getD 0
  let r : BootRec := { seq := (recNow s).seq + 1, slot := slot, trial := trial, trialBoots := boots }
  { s with flash := mwrite 0xFF s.flash (0x1000 * k) (bootRecBytes r) }

/-! ### Verification (Table 19.4) -/

/-- Start of a firmware slot. -/
def slotBase (k : Nat) : Nat := 0x100000 + 0x400000 * k

/-- Check 1, on a manifest. -/
def manifestOk (m : List Byte) : Bool :=
  decide (fld m 0 4 = 0x57464D4C) && decide (fld m 4 2 = 1) && within (fld m 16 4) 1 3145728 && isZero m 6 2 && isZero m 492 20 &&
    isZero m 8752 3536 && decide (fld m 456 4 = 65537)

/-- A key slot may verify a key (check 2). -/
def keyOk (slots : List KeySlot) (i : Nat) (key : List Byte) : Bool :=
  match slots[i]? with
  | none => false
  | some k => k.programmed && !k.revoked && decide (k.hash = Config.sha384 key)

/-- A slot outside a mask is not revoked (check 3). -/
def slotLeft (slots : List KeySlot) (mask : Nat) : Bool :=
  (slots.mapIdx (fun i k => !k.revoked && !bit mask i)).any (fun x => x)

/-- Table 19.4 on a slot: the status of the first check that fails. -/
def fwVerify (s : State) (slot : Nat) : Nat :=
  let m := flashRead s (slotBase slot) 12288
  let block := m.take 512
  let mask := fld m 15 1
  if ¬ manifestOk m then stSignatureFail
  else if ¬ keyOk s.fuses.rsa (fld m 13 1) (cut m 72 388) ∨ ¬ keyOk s.fuses.slh (fld m 14 1) (cut m 460 32) then stSignatureFail
  else if bit mask (fld m 13 1) ∨ bit mask (4 + fld m 14 1) ∨ ¬ slotLeft s.fuses.rsa (mask % 16) ∨ ¬ slotLeft s.fuses.slh (mask / 16) then
    stSignatureFail
  else if ¬ Config.rsaVerify (cut m 72 384) (cut m 512 384) block then stSignatureFail
  else if ¬ Config.slhVerify (cut m 460 32) (cut m 896 7856) block then stSignatureFail
  else if Config.sha384 (flashRead s (slotBase slot + 12288) (fld m 16 4)) ≠ cut m 24 48 then stSignatureFail
  else if fld m 12 1 < s.fuses.counter then stRollback
  else stOk

/-- The firmware of a slot, once it has passed. -/
def fwOfSlot (s : State) (slot : Nat) (trial : Bool) : Firmware :=
  let m := flashRead s (slotBase slot) 512
  { version := BitVec.ofNat 32 (fld m 8 4), secVersion := fld m 12 1, rsaSlot := fld m 13 1, slhSlot := fld m 14 1
    revokeMask := fld m 15 1, payloadHash := cut m 24 48, trial := trial, slot := slot }

/-! ### Slot selection (R460) -/

/-- The boot ROM's choice, with the record writes it requires; no firmware starts where neither slot verifies. -/
def selectFw (s : State) : State :=
  let br := recNow s
  let a : State × Nat :=
    if br.trial then
      (if 2 ≤ br.trialBoots then (writeRec s (1 - br.slot) false 0, 1 - br.slot) else (writeRec s br.slot true (br.trialBoots + 1), br.slot))
    else (s, br.slot)
  let s := a.1
  let k := a.2
  if fwVerify s k = stOk then { s with boot := { s.boot with fw := some (fwOfSlot s k (recNow s).trial) } }
  else if fwVerify s (1 - k) = stOk then
    let s := writeRec s (1 - k) false 0
    { s with boot := { s.boot with fw := some (fwOfSlot s (1 - k) false) } }
  else { s with boot := { s.boot with fw := none } }

/-- Revoked bits of a mask blown in four key slots. -/
def revoke (slots : List KeySlot) (mask : Nat) : List KeySlot :=
  slots.mapIdx (fun i k => { k with revoked := k.revoked || bit mask i })

/-- Confirmation at boot complete (R462). -/
def confirmFw (s : State) : State :=
  match s.boot.fw with
  | none => s
  | some f =>
    let s := if f.trial then writeRec s f.slot false 0 else s
    { s with
      fuses := { s.fuses with counter := max s.fuses.counter f.secVersion, rsa := revoke s.fuses.rsa (f.revokeMask % 16)
                              slh := revoke s.fuses.slh (f.revokeMask / 16) }
      boot := { s.boot with fw := some { f with trial := false } } }

/-! ### FW_UPDATE (R351, R463 to R465) -/

/-- Stores the update in progress. -/
def setUpdate (s : State) (u : Option FwUpdate) : State := { s with boot := { s.boot with update := u } }

/-- An update ends: pieces accepted after its end are refused, and an abort among them finds nothing to do. -/
def endUpdate (s : State) (rest : List FwPiece) : State :=
  rest.foldl (fun s p => answer s p.resp (if p.abort then stOk else stBadMessage)) (setUpdate s none)

/-- Verification failed: counted (sources 0x0701 and 0x0702). -/
def fwRefused (s : State) (status : Nat) : State :=
  corrected s (mkFault (if status = stRollback then 0x0702 else 0x0701) uGable 0)

/-- Checks of the piece at offset 0. -/
def fwFirst (s : State) (rt : RespTo) (m : HostMsg) (size : Nat) (last : Bool) (data : List Byte) : State :=
  if data.length < 12288 ∨ size < data.length ∨ 3158016 < size then answer s rt stBadMessage
  else if ¬ manifestOk (data.take 12288) then answer (fwRefused s stSignatureFail) rt stSignatureFail
  else setUpdate s (some { slot := 1 - (recNow s).slot, size := size, got := data.length, erasing := true
                           queue := [{ resp := rt, msg := m, offset := 0, data := data, last := last, abort := false }] })

/-- A FW_UPDATE that aborts (R465): after the pieces accepted before it. -/
def fwAbort (s : State) (rt : RespTo) (m : HostMsg) : State :=
  match s.boot.update with
  | none => answer s rt stOk
  | some u =>
    if u.queue = [] then answer (setUpdate s none) rt stOk
    else setUpdate s (some { u with queue := u.queue ++ [{ resp := rt, msg := m, offset := 0, data := [], last := false, abort := true }] })

/-- FW_UPDATE (Table 14.14). -/
def fwUpdateMsg (m : HostMsg) (rt : RespTo) (s : State) : State :=
  let off := fld m.body 0 4
  let size := fld m.body 4 4
  let flags := fld m.body 8 1
  let data := m.body.drop 12
  if bit flags 1 then fwAbort s rt m
  else
    match s.boot.update with
    | none => if off = 0 then fwFirst s rt m size (bit flags 0) data else answer s rt stBadMessage
    | some u =>
      if off = 0 ∧ u.got ≠ 0 then answer s rt stBusy
      else if off ≠ u.got ∨ size ≠ u.size ∨ u.size < off + data.length ∨ u.queue.any (fun p => p.abort) then answer s rt stBadMessage
      else setUpdate s (some { u with
        got := u.got + data.length
        queue := u.queue ++ [{ resp := rt, msg := m, offset := off, data := data, last := bit flags 0, abort := false }] })

/-- Programs bytes into a slot. -/
def fwProgram (s : State) (slot : Nat) (p : FwPiece) : State :=
  { s with flash := mwrite 0xFF s.flash (slotBase slot + p.offset) p.data }

/-- An abort that has become the oldest of the queue takes effect. -/
def fwNext (s : State) : State :=
  match s.boot.update with
  | none => s
  | some u =>
    match u.queue with
    | p :: rest => if p.abort then endUpdate (answer s p.resp stOk) rest else s
    | [] => s

/-- FLASH_SLOT_ERASE_DONE (R463, step 1): the slot reads erased, and takes the first piece. -/
def fwErased (s : State) : State :=
  match s.boot.update with
  | none => s
  | some u =>
    if ¬ u.erasing then s
    else
      let s := { s with flash := s.flash.filter (fun e => decide (e.1 < slotBase u.slot ∨ slotBase u.slot + 0x400000 ≤ e.1)) }
      match u.queue with
      | [] => s
      | p :: rest =>
        if p.last then setUpdate s (some { u with erasing := false })
        else fwNext (answer (setUpdate (fwProgram s u.slot p) (some { u with erasing := false, queue := rest })) p.resp stOk)

/-- FLASH_PROGRAM_DONE (R463, steps 2 to 4). -/
def fwProgrammed (s : State) : State :=
  match s.boot.update with
  | none => s
  | some u =>
    match u.queue with
    | [] => s
    | p :: rest =>
      if u.erasing then s
      else
        let s := fwProgram s u.slot p
        if ¬ p.last then fwNext (answer (setUpdate s (some { u with queue := rest })) p.resp stOk)
        else
          let st := fwVerify s u.slot
          if st = stOk then endUpdate (answer (writeRec s u.slot true 0) p.resp stOk) rest
          else endUpdate (answer (fwRefused s st) p.resp st) rest

/-- Fields of FW_UPDATE. -/
def fwFields (b : List Byte) : Bool := within (fld b 8 1) 0 3 && isZero b 9 3

/-- FW_UPDATE (R463). -/
def execFwUpdate (m : HostMsg) (s : State) : Host.Outcome State Fault Refusal := .next (accept 0x0150 fwFields m (fwUpdateMsg m) s)
/-- FW_UPDATE with the abort bit (R465). -/
def execFwUpdateAbort (m : HostMsg) (s : State) : Host.Outcome State Fault Refusal :=
  .next (accept 0x0150 fwFields m (fwUpdateMsg m) s)
/-- FLASH_SLOT_ERASE_DONE (R463). -/
def execFlashSlotEraseDone (s : State) : Host.Outcome State Fault Refusal := .next (fwErased s)
/-- FLASH_PROGRAM_DONE (R463). -/
def execFlashProgramDone (s : State) : Host.Outcome State Fault Refusal := .next (fwProgrammed s)

/-! ### ATTEST (R467 to R469) -/

/-- The certificate area. -/
def certArea (s : State) : List Byte := flashRead s 0x50000 65536

/-- The area is empty: all ones or all zeros (R467). -/
def certEmpty (s : State) : Bool := (certArea s).all (fun b => b == 0xFF) || (certArea s).all (fun b => b == 0)

/-- Mask of revoked slots. -/
def revokedMask (slots : List KeySlot) : Nat := maskOf ((List.range 4).filter (fun i => ((slots[i]?).map (fun k => k.revoked)).getD false))

/-- The attested block: bytes 12 to 135 of the response (Table 19.5). -/
def attestBlock (s : State) (nonce : List Byte) : List Byte :=
  let f := s.boot.fw.getD { version := 0, secVersion := 0, rsaSlot := 0, slhSlot := 0, revokeMask := 0, payloadHash := zeros 48
                            trial := false, slot := 0 }
  le 2 1 ++ le 2 (b2n (!certEmpty s) + 2 * b2n f.trial) ++ nonce ++ s.fuses.serial ++ le 4 f.version.toNat ++ le 1 f.secVersion ++
    le 1 s.fuses.counter ++ le 1 f.rsaSlot ++ le 1 f.slhSlot ++
    le 1 (revokedMask s.fuses.rsa + 16 * revokedMask s.fuses.slh) ++ le 1 0xB0 ++ le 1 s.boot.profileActive ++ zeros 1 ++
    f.payloadHash ++ le 4 s.deviceRecoveries ++ le 8 s.chunk

/-- The report (Table 19.5). -/
def attestReport (s : State) (nonce : List Byte) : List Byte :=
  let b := attestBlock s nonce
  let certs := if certEmpty s then zeros 4 else (certArea s).take (4 + fld (certArea s) 0 4)
  b ++ Config.rsaSign b ++ Config.slhSign b ++ certs

/-- ATTEST is accepted (R351). -/
def attestMsg (body : List Byte) (rt : RespTo) (s : State) : State :=
  if s.boot.attest.isSome then answer s rt stBusy
  else { s with boot := { s.boot with attest := some (rt, body.take 32) } }

/-- ATTEST_SIGNING_DONE: the report leaves (R468). -/
def attestDone (s : State) : State :=
  match s.boot.attest with
  | none => s
  | some (rt, nonce) => respond { s with boot := { s.boot with attest := none } } rt stOk (attestReport s nonce)

/-- ATTEST (R468). -/
def execAttest (m : HostMsg) (s : State) : Host.Outcome State Fault Refusal :=
  .next (accept 0x0151 (fun _ => true) m (attestMsg m.body) s)
/-- ATTEST_SIGNING_DONE (R468). -/
def execAttestSigningDone (s : State) : Host.Outcome State Fault Refusal := .next (attestDone s)

end Sys2Proof.Machine
end

