-- ==== Sys2Proof/Machine/PowerCtl.lean ====
section
/-!
DEFINITION. Sys2Proof/Machine/PowerCtl.lean: POWER_STATE, entry to and exit from the power states, wakes, sensors, supplies and
clock inputs (R339, R395, R430, R434, R442 to R452, R465).
-/
namespace Sys2Proof.Machine

open Sys2Proof

/-- Advances a counter of Table 18.10: 0 `doze_entries`, 1 `sealed_entries`, 2 `wakes_in_entry`, 3 `alarm_ms`,
4 `warm_resets`. -/
def powCnt (s : State) (k : Nat) : State :=
  { s with power := { s.power with counters := cntAdd s.power.counters k (if k = 3 then 48 else 32) 1 } }

/-! ### POWER_STATE (R339, R444) -/

/-- A power state by its code. -/
def pstateOf (n : Nat) : PState := if n = 0 then .run else if n = 1 then .trim else if n = 2 then .doze else .sealed

/-- Doze and Sealed. -/
def deep (p : PState) : Bool := decide (p = .doze ∨ p = .sealed)

/-- The port that Sealed keeps of a network: its lowest-numbered enabled port (Table 18.6). -/
def survivor (s : State) (net : Nat) : Option Nat := (List.range 8).find? (fun p => decide (netOf p = net) && portEnabled s p)

/-- From the acceptance of POWER_STATE to Sealed the other enabled ports receive nothing (R446). -/
def sealPorts (s : State) : State :=
  iter (fun p s =>
    if portEnabled s p ∧ survivor s (netOf p) ≠ some p then
      portPathsDown (setPort s p { linkDown (portOf s p) with sealedDown := true }) p
    else s) 8 s

/-- POWER_STATE is accepted (R339, R465). -/
def powerStateMsg (m : HostMsg) (rt : RespTo) (s : State) : State :=
  let t := pstateOf (fld m.body 0 1)
  if deep t ∧ (s.yealms.any (fun e => decide (e.2.rcd.member ≠ 0)) ∨ s.boot.update.isSome ∨ s.boot.attest.isSome) then
    answer s rt stBusy
  else if t = s.power.state then answer s rt stOk
  else
    let held : MailMsg := { typ := rt.typ, msg := m, epoch := rt.epoch, tag := rt.tag, segs := 0 }
    let tr : Trans := { entering := decide (t ≠ .run), target := t, resp := some rt, msg := some held, wakeSeen := false }
    let s := { s with power := { s.power with
      trans := some tr, wakeArm := if deep t then BitVec.ofNat 8 (fld m.body 1 1) else s.power.wakeArm } }
    if t = .sealed then sealPorts s else s

/-- POWER_STATE (R339). -/
def execPowerState (m : HostMsg) (s : State) : Host.Outcome State Fault Refusal :=
  .next (accept 0x0104 (fun b => within (fld b 0 1) 0 3 && within (fld b 1 1) 0 3 && isZero b 2 2) m (powerStateMsg m) s)

/-! ### Entry (Table 18.6) -/

/-- A core is in some bay. -/
def coreInBay (s : State) (c : Nat) : Bool := s.bays.any (fun e => bit e.2.attr.coreMask c)

/-- Sets the clock gate of every core. -/
def gateAll (s : State) (g : Nat → Bool) : State := iter (fun c s => modCore s c (fun x => { x with gated := g c })) 64 s

/-- Steps without a session end where Doze or Sealed begins. -/
def dropSteps (s : State) : State :=
  let s := haltWork s
  { s with bays := s.bays.map (fun (e : Nat × Bay) => (e.1, { e.2 with todo := [], window := false })) }

/-- The port keeps running in Doze and Sealed (R395). -/
def tdmArmed (s : State) (n : Nat) : Bool := bit s.power.wakeArm.toNat 1 && decide (fld (tdmRec s n) 32 8 ≠ 0)

/-- Ports that R395 does not keep running stop. -/
def stopTdm (s : State) : State :=
  iter (fun n s => if tdmArmed s n then s else modTdm s n (fun t => { t with st := .stopped, recent := [], glitchRun := 0, backFrames := 0 })) 4 s

/-- A core that Sealed has power-gated (R229): its memories are lost, and read zero after the exit's self-tests. -/
def sealedCore (x : Core) : Core := { testedCore x with gated := true }

/-- The condition of every block in a state (Table 18.6), with the settings of Table 18.7 (R443). -/
def enterState (s : State) (p : PState) : State :=
  let s := { s with power := { s.power with state := p, bias := biasOf p } }
  match p with
  | .run => s
  | .trim => gateAll s (fun c => !coreInBay s c)
  | .doze => stopTdm (gateAll (dropSteps s) (fun _ => true))
  | .sealed =>
    let s := stopTdm (dropSteps s)
    let s := { s with slices := s.slices.map (fun (e : Nat × Slice) => (e.1, { e.2 with lines := [] })) }
    iter (fun c s => modCore s c sealedCore) 64 s

/-- The response of a transition. -/
def transAnswer (s : State) (t : Trans) : State :=
  match t.resp with
  | some rt => answer s rt stOk
  | none => s

/-- An exit that starts now. -/
def startExit (s : State) : State :=
  { s with power := { s.power with trans := some { entering := false, target := .run, resp := none, msg := none, wakeSeen := false } } }

/-- POWER_STATE_ENTRY_COMPLETE (R444, R447). -/
def entryDone (s : State) : State :=
  match s.power.trans with
  | none => s
  | some t =>
    if ¬ t.entering ∨ s.fault.isSome then s
    else
      let s := transAnswer (enterState { s with power := { s.power with trans := none } } t.target) t
      let s := if t.target = .doze then powCnt s 0 else if t.target = .sealed then powCnt s 1 else s
      if t.wakeSeen ∧ deep t.target then startExit (powCnt s 2) else s

/-- POWER_STATE_ENTRY_COMPLETE (R444). -/
def execPowerStateEntryComplete (s : State) : Host.Outcome State Fault Refusal := .next (entryDone s)

/-! ### Exit and wake (R444, R446) -/

/-- POWER_STATE_EXIT_COMPLETE: Run (R444). -/
def exitDone (s : State) : State :=
  match s.power.trans with
  | none => s
  | some t =>
    if t.entering ∨ s.fault.isSome then s
    else
      let was := s.power.state
      let s := { s with power := { s.power with state := .run, bias := biasOf .run, trans := none } }
      let s := gateAll s (fun _ => false)
      let s := if deep was then portsUnseal (exitChannels s) else s
      drainAll (transAnswer s t)

/-- POWER_STATE_EXIT_COMPLETE (R444). -/
def execPowerStateExitComplete (s : State) : Host.Outcome State Fault Refusal := .next (exitDone s)

/-- The source is a wake source of the state that is entered or held (R446). -/
def wakeValid (s : State) (w : WakeSource) : Bool :=
  match w with
  | .segment t p => [1, 3, 5, 6].contains t.toNat && linkIsUp s p
  | .wakeN => bit s.power.wakeArm.toNat 0
  | .barge n i => tdmArmed s n && bit (fld (tdmRec s n) 32 8) i

/-- WAKE (R446, R447). -/
def wakeUp (s : State) (w : WakeSource) : State :=
  if ¬ wakeValid s w ∨ s.fault.isSome then s
  else
    match s.power.trans with
    | some t =>
      if t.entering ∧ deep t.target then { s with power := { s.power with trans := some { t with wakeSeen := true } } } else s
    | none => if deep s.power.state then startExit s else s

/-- WAKE (R446). -/
def execWake (w : WakeSource) (s : State) : Host.Outcome State Fault Refusal := .next (wakeUp s w)

/-! ### Sensors and the thermal alarm (R449 to R451) -/

/-- `alarm_c16` in force. -/
def alarmPoint (s : State) : Int := fld (act s 0x40 0) 4 2
/-- The point at or below which every sensor must read for the alarm to clear. -/
def coolPoint (s : State) : Int := alarmPoint s - 16 * fld (act s 0x40 0) 6 1

/-- The alarm after a reading. -/
def judgeAlarm (s : State) (rs : List Int) : State :=
  if ¬ s.boot.complete then s
  else if rs.any (fun r => alarmPoint s < r) then { s with power := { s.power with alarm := true, coolSince := none } }
  else if ¬ s.power.alarm then s
  else if rs.all (fun r => r ≤ coolPoint s) then
    { s with power := { s.power with coolSince := some (s.power.coolSince.getD s.now) } }
  else { s with power := { s.power with coolSince := none } }

/-- `alarm_ms` advances by one with every ten readings of 100 µs that find the alarm active (R452). -/
def countAlarm (s : State) : State :=
  if ¬ s.power.alarm then s
  else if s.power.alarmTicks < 9 then { s with power := { s.power with alarmTicks := s.power.alarmTicks + 1 } }
  else powCnt { s with power := { s.power with alarmTicks := 0 } } 3

/-- One sensor's reading (R451): the second in a row at or above 110 °C raises 0x0601. -/
def judgeHot (r : W16) (i : Nat) (s : State) : State :=
  let n := tget 0 s.power.hot i + 1
  if r.toInt < 1760 then { s with power := { s.power with hot := tput 0 s.power.hot i 0 } }
  else if n < 2 then { s with power := { s.power with hot := tput 0 s.power.hot i n } }
  else fatalEvent { s with power := { s.power with hot := tput 0 s.power.hot i 0 } } (mkFault 0x0601 uDevice (i * 65536 + r.toNat))

/-- Highest of a list of readings and a start value. -/
def maxReading (m : W16) (rs : List W16) : W16 := rs.foldl (fun m r => if m.toInt < r.toInt then r else m) m

/-- SENSOR_READING (R449): the 80 sensors are read. -/
def sensorRead (s : State) (rs : List W16) : State :=
  match rs with
  | [] => s
  | r0 :: _ =>
    if ¬ s.boot.pwrok ∨ rs.length ≠ 80 then s
    else
      let s := { s with power := { s.power with
        sensors := iter (fun i t => tput 0 t i (rs.getD i 0)) 80 s.power.sensors
        tjPeak := some (maxReading (s.power.tjPeak.getD r0) rs) } }
      let s := countAlarm (judgeAlarm s (rs.map (fun r => r.toInt)))
      iter (fun i s => judgeHot (rs.getD i 0) i s) 80 s

/-- SENSOR_READING (R449). -/
def execSensorReading (readings : List (BitVec 16)) (s : State) : Host.Outcome State Fault Refusal := .next (sensorRead s readings)
/-- THERMAL_ALARM_CLEAR (R450): every sensor has read at or below the clear point for 1 s. -/
def execThermalAlarmClear (s : State) : Host.Outcome State Fault Refusal :=
  .next (if s.power.alarm ∧ s.power.coolSince.isSome then
    { s with power := { s.power with alarm := false, coolSince := none, alarmTicks := 0 } } else s)

/-! ### Supplies and clocks (R430, R434) -/

/-- Min and Max of each rail in mV (Table 18.1). -/
def railLimits : List (Nat × Nat) :=
  [(1746, 1854), (1746, 1854), (1746, 1854), (1164, 1236), (1019, 1082), (825, 876), (825, 876), (728, 773)]

/-- One rail's comparison: the fifth in a row outside its limits raises 0x0605. -/
def judgeRail (mv : List Nat) (i : Nat) (s : State) : State :=
  let v := mv.getD i 0
  let lim := railLimits.getD i (0, 0)
  let s := { s with power := { s.power with rails := tput 0 s.power.rails i v } }
  let n := tget 0 s.power.railBad i + 1
  if within v lim.1 lim.2 then { s with power := { s.power with railBad := tput 0 s.power.railBad i 0 } }
  else if n < 5 then { s with power := { s.power with railBad := tput 0 s.power.railBad i n } }
  else fatalEvent { s with power := { s.power with railBad := tput 0 s.power.railBad i 0 } } (mkFault 0x0605 uDevice i)

/-- SUPPLY_CHECK (R430). -/
def execSupplyCheck (milliVolts : List Nat) (s : State) : Host.Outcome State Fault Refusal :=
  .next (if s.boot.pwrok ∧ milliVolts.length = 8 then iter (judgeRail milliVolts) 8 s else s)
/-- REFCLK_LOST (R434). -/
def execRefclkLost (s : State) : Host.Outcome State Fault Refusal := .next (fatalEvent s (mkFault 0x0603 uDevice 0))
/-- PLL_LOSS_OF_LOCK (R434). -/
def execPllLossOfLock (s : State) : Host.Outcome State Fault Refusal := .next (fatalEvent s (mkFault 0x0602 uDevice 0))

/-- SDREF_LOST (R434): every enabled port of the network is flashed. -/
def sdrefLoss (s : State) (net : Nat) : State :=
  let s := { s with power := { s.power with sdref := tput true s.power.sdref net false } }
  if ¬ s.boot.complete then s
  else iter (fun p s => if netOf p = net ∧ portEnabled s p then contained s (mkFault 0x0604 (uPort p) 0) else s) 8 s

/-- SDREF_LOST (R434). -/
def execSdrefLost (net : Fin 2) (s : State) : Host.Outcome State Fault Refusal :=
  .next (if tget true s.power.sdref net then sdrefLoss s net else s)
/-- SDREF_RESTORED (R434): the reference has run for 1 ms without a gap. -/
def execSdrefRestored (net : Fin 2) (s : State) : Host.Outcome State Fault Refusal :=
  .next { s with power := { s.power with sdref := tput true s.power.sdref net true } }

end Sys2Proof.Machine
end

