-- ==== Sys2Proof/Machine/Boot.lean ====
section
/-!
DEFINITION. Sys2Proof/Machine/Boot.lean: power-on reset, warm reset, boot and what each keeps (R271, R410, R435 to R441, R453,
R460 to R462, R495, R496).
-/
namespace Sys2Proof.Machine

open Sys2Proof

/-! ### Power-on reset (R435) -/

/-- PWROK low: what no flash, fuse or pin holds is lost. -/
def powerOff (s : State) : State :=
  { State.reset with
    pending := s.pending, now := s.now, fresh := s.fresh, wire := s.wire, flash := s.flash, fuses := s.fuses
    power := { State.reset.power with sdref := s.power.sdref }, tap := { State.reset.tap with ir := s.tap.ir } }

/-- PWROK_RISE: a cold test window begins (R495). -/
def pwrokUp (s : State) : State :=
  if s.boot.pwrok then s
  else { s with boot := { s.boot with pwrok := true, resetN := false, coldWindow := true, stage := 0x10 } }

/-- A boot starts (R436, R438, R460, R484): the boot flash is reset, its SFDP table read and its port switched to octal DDR,
PROFSEL is sampled, a profile chosen, and firmware verified and started. -/
def startBoot (s : State) (profsel : Nat) (warm : Bool) : State :=
  let p := profileFor s (if warm then s.boot.profileChoice else none) profsel
  let s := if s.fuses.ok then selectFw s else { s with boot := { s.boot with fw := none } }
  { s with boot := { s.boot with
    xspi := .octal, xspiOps := [.softReset, .readSfdp, .toOctal]
    resetN := true, coldWindow := false, warm := warm, complete := false, faultN := true, update := none, attest := none
    profsel := profsel, profileActive := p.getD s.boot.profileActive, profileChoice := none, warmPending := false
    stage := if ¬ s.fuses.ok then 0x02 else if s.boot.fw.isNone then 0x04 else 0x05 } }

/-- Test registers as at reset (R496). -/
def tapTestsOff (t : Tap) : Tap := { State.reset.tap with ir := t.ir, pins := t.pins, update := t.update }

/-- RESET_N_RISE (R435, R496). -/
def resetUp (s : State) (profsel : Nat) : State :=
  if ¬ s.boot.pwrok ∨ s.boot.resetN then s else startBoot { s with tap := tapTestsOff s.tap } profsel false

/-! ### Warm reset (R435, R439, R440) -/

/-- Blocks after a warm reset: counters survive (R503), fences and connections do not (Table 18.5). -/
def resetBlocks (s : State) : State :=
  let s := haltWork s
  let s := iter (fun c s => modCore s c (fun x =>
    let x := testedCore x
    { x with rng := { x.rng with coarse := true } })) 64 s
  let s := iter (fun i s => setSlice s i { sliceOf s i with lines := [], errors := [] }) 48 s
  let s := iter (fun p s => setPort s p { portD with counters := (portOf s p).counters }) 8 s
  let s := iter (fun n s => setTdm s n { tdmD with counters := (tdmOf s n).counters }) 4 s
  { s with
    conns := [], mail := [], mailLast := 63, unanswered := [], snapshots := [], loads := [], stores := [], units := []
    scrubFound := [], resets := [], fault := none, fatalRun := 0, lastReinit := none
    pdm := { outs := [], chunk := [], levels := [], ambient := [], clips := s.pdm.clips, clockLost := s.pdm.clockLost }
    power := { s.power with state := .run, bias := biasOf .run, trans := none, wakeArm := 0, alarm := false, alarmTicks := 0, coolSince := none } }

/-- A warm reset, up to the start of its boot. -/
def warmReset (s : State) (profsel : Nat) : State := powCnt (startBoot (resetBlocks s) profsel true) 4

/-- A yealm step runs in some bay. -/
def anyRunning (s : State) : Bool := s.bays.any (fun e => decide (runningOf s e.1 ≠ []))

/-- WARM_RESET (R435, R439). A RESET_N pulse of 1 µs to 10 µs is forbidden. -/
def execWarmReset (c : WarmCause) (profsel : Fin 4) (s : State) : Host.Outcome State Fault Refusal :=
  match c with
  | .resetN ns =>
    if ¬ s.boot.pwrok ∨ ¬ s.boot.resetN ∨ ns < 1000 then .next s
    else if ns < 10000 then .fault .resetPulseForbidden
    else .next (warmReset s profsel)
  | .profileSelect =>
    .next (if s.boot.complete ∧ s.boot.warmPending ∧ ¬ anyRunning s then warmReset s profsel else s)

/-! ### Boot complete (R436, R441) -/

/-- A session after a warm reset (Table 18.5, R441): at its last commit, detached, with nothing left to send. -/
def recoverSession (s : State) (e : Nat × Session) : State :=
  let i := e.1
  let bad : Bool := match effAttach e.2 with
    | some a => ((yealmOf s a.yealm).map (fun y =>
        !rcdGood y.rcd || (areaLines s (.record a.yealm) 0 64).any (poisonedAt s))).getD false
    | none => false
  let s := modSess s i (fun x => { x with active := sessActive s x, prevValid := sessPrev s x })
  let s := modSess s i (fun x =>
    let x := match x.job with
      | some j => { passTokens x x.active j.text with unspoken := x.unspoken - j.text }
      | none => x
    let x := [2, 3, 4].foldl (fun x r => if (sringOf x r).entries = 0 then x
      else putRing x r { sringOf x r with io := planPtr x.active (sringOf x r) }) x
    { x with attach := none, job := none, admitted := none, stopWait := [], detachWait := none, detachDrop := false, home := none
             ioBytes := 0, ioDone := 0, tdmOwed := [] })
  let s := unstartUtt s i
  let s := modSess s i (fun x => { x with nextSample := sessSamples s x })
  fixState (if bad then loseSession s 0 i else s) i

/-- Everything that a warm reset discards with the bays (Table 18.5). -/
def recoverAll (s : State) : State :=
  let s := s.sessions.foldl recoverSession { s with sessLost := 0 }
  { s with yealms := [], bays := []
           builds := s.builds.map (fun (b : Build) => { b with copies := b.copies.filter (fun (c : BuildCopy) => c.kind < 2) }) }

/-- One bay of the profile (R271, R453): created, or skipped and reported. -/
def profileBay (s : State) (inst : Nat) (bs : List Byte) : State :=
  if fld bs 0 1 = inst ∧ bayCreateFields bs ∧ bayCreateStatus s bs = stOk then makeBay s bs
  else { s with boot := { s.boot with baysSkipped := s.boot.baysSkipped ||| 2 ^ inst } }

/-- Boot can complete: firmware runs and a valid profile is chosen. -/
def bootReady (s : State) : Bool :=
  s.boot.pwrok && s.boot.resetN && !s.boot.complete && decide (s.boot.stage.toNat < 0x80) && s.fuses.ok && s.boot.fw.isSome

/-- BOOT_COMPLETE (R436): records, bays, T_0, FAULT_N released, firmware confirmed. -/
def bootDone (s : State) : State :=
  match bootReady s, profileOf s s.boot.profileActive with
  | true, some es =>
    let s := profRecs es (recoverAll s)
    let s := iter (fun c s => if fenced s (uCore c) then s
      else modCore s c (fun x => { x with rng := { x.rng with coarse := false } })) 64 s
    let s := if s.boot.warm then exitChannels s else s
    let s := iter (fun p s => if portEnabled s p then setPort s p { portOf s p with training := true } else s) 8 s
    let s := { s with
      chunk := 0, t0 := s.now
      power := { s.power with state := .run, bias := biasOf .run, trans := none, capMw := fld (act s 0x40 0) 0 4 }
      boot := { s.boot with complete := true, stage := 0x08, faultN := false, baysSkipped := 0 } }
    let bays := sortKey (fun e => e.2.1) (es.filter (fun e => e.1 = 0x20))
    confirmFw (bays.foldl (fun s e => profileBay s e.2.1 e.2.2) s)
  | _, _ => s

/-- BOOT_COMPLETE (R436). -/
def execBootComplete (s : State) : Host.Outcome State Fault Refusal := .next (bootDone s)

/-- The cause of a boot stop stage holds (R438, R461, Table 21.7); whether the flash answers is outside the model. -/
def stopCause (s : State) (stage : Nat) : Bool :=
  if stage = 0x82 then !s.fuses.ok
  else if stage = 0x83 then s.fuses.ok
  else if stage = 0x84 then s.fuses.ok && s.boot.fw.isNone
  else if stage = 0x87 then s.boot.fw.isSome && (List.range 4).all (fun p => !profileValid s p)
  else false

/-- BOOT_STOP (R437, R461). -/
def bootStop (s : State) (stage : Byte) : State :=
  if s.boot.pwrok ∧ s.boot.resetN ∧ ¬ s.boot.complete ∧ s.boot.stage.toNat < 0x80 ∧ stopCause s stage.toNat then
    { s with boot := { s.boot with stage := stage, fw := if stage = 0x87 then s.boot.fw else none } }
  else s

/-- TRIAL_BOOT_TIMEOUT (R462). -/
def trialTimeout (s : State) (profsel : Nat) : State :=
  match s.boot.fw with
  | some f => if f.trial ∧ s.boot.pwrok ∧ s.boot.resetN ∧ ¬ s.boot.complete then warmReset s profsel else s
  | none => s

/-- PWROK_RISE (R495). -/
def execPwrokRise (s : State) : Host.Outcome State Fault Refusal := .next (pwrokUp s)
/-- PWROK_FALL (R435). -/
def execPwrokFall (s : State) : Host.Outcome State Fault Refusal := .next (if s.boot.pwrok then powerOff s else s)
/-- RESET_N_RISE (R435). -/
def execResetNRise (profsel : Fin 4) (s : State) : Host.Outcome State Fault Refusal := .next (resetUp s profsel)
/-- BOOT_STOP (R461). -/
def execBootStop (stage : Byte) (s : State) : Host.Outcome State Fault Refusal := .next (bootStop s stage)
/-- TRIAL_BOOT_TIMEOUT (R462). -/
def execTrialBootTimeout (profsel : Fin 4) (s : State) : Host.Outcome State Fault Refusal := .next (trialTimeout s profsel)

end Sys2Proof.Machine
end

