-- ==== Sys2Proof/Machine/Report.lean ====
section
/-!
DEFINITION. Sys2Proof/Machine/Report.lean: FAULT_LOG_READ, FAULT_CLEAR, DIAG_READ and the summary (R336, R337, R348 to R350,
R502, R503, Tables 14.3, 14.4 and 21.8).
-/
namespace Sys2Proof.Machine

open Sys2Proof

/-! ### Fault log (R348, R349) -/

/-- A fault log entry (Table 14.13). -/
def logBytes (e : LogEntry) : List Byte :=
  le 4 e.seq.toNat ++ le 2 e.source.toNat ++ le 1 e.cls ++ zeros 1 ++ le 4 e.unit.toNat ++ le 4 e.recoveries ++
    le 8 e.syndrome.toNat ++ le 8 e.chunk

/-- Sequence number of the oldest entry held. -/
def logOldest (s : State) : W32 := s.logNext - BitVec.ofNat 32 s.log.length

/-- Entries from a sequence number on, and whether some of them have been overwritten. -/
def logFrom (s : State) (start : W32) : List LogEntry × Bool :=
  if (start - logOldest s).toNat < s.log.length then (s.log.drop (start - logOldest s).toNat, false)
  else if s.log.length = 4096 ∧ seqAfter (logOldest s) start then (s.log, true)
  else ([], false)

/-- FAULT_LOG_READ (Table 14.12). -/
def faultLogRead (body : List Byte) (rt : RespTo) (s : State) : State :=
  let r := logFrom s (BitVec.ofNat 32 (fld body 0 4))
  let es := r.1.take (fld body 4 2)
  respond s rt stOk (le 4 s.logNext.toNat ++ le 2 es.length ++ le 1 (b2n r.2) ++ zeros 1 ++ es.flatMap logBytes)

/-- Source in the first-error latch, or 0 (R407). -/
def firstSource (s : State) : Nat := ((s.latch).map (fun l => l.source.toNat)).getD 0

/-- FAULT_CLEAR (R349). -/
def faultClear (body : List Byte) (rt : RespTo) (s : State) : State :=
  if fld body 0 2 ≠ firstSource s then answer s rt stConfigMismatch else answer { s with latch := none } rt stOk

/-- FAULT_LOG_READ (R348). -/
def execFaultLogRead (m : HostMsg) (s : State) : Host.Outcome State Fault Refusal :=
  .next (accept 0x0140 (fun b => within (fld b 4 2) 1 1024 && isZero b 6 2) m (faultLogRead m.body) s)
/-- FAULT_CLEAR (R349). -/
def execFaultClear (m : HostMsg) (s : State) : Host.Outcome State Fault Refusal :=
  .next (accept 0x0141 (fun b => isZero b 2 2) m (faultClear m.body) s)

/-! ### Counters (Table 21.8) -/

/-- The first `n` counters of a table, as 64-bit slots. -/
def cntList (t : Tab Nat) (n : Nat) : List Int := (List.range n).map (fun k => ((tget 0 t k : Nat) : Int))

/-- Core cycles of the loans that a bay takes part in and that still run (R295): cores it lends and cores it borrows. -/
def loanNow (s : State) (i : Nat) (b : Bay) : Nat :=
  let on (g : Group) : Nat := g.cores.length * (s.now - g.since)
  ((groupsOn s i).map (fun e => on e.2.2)).sum + ((b.groups.filter (fun g => g.lender.isSome)).map on).sum

/-- Counters of a unit; `none` where the unit does not exist. Bays take type 0x0C. -/
def unitCounters (s : State) (typ i : Nat) : Option (List Int) :=
  match typ with
  | 0x01 => if i < 64 then some (cntList (coreOf s i).counters 30) else none
  | 0x02 => if i < 48 then some (cntList (sliceOf s i).counters 4) else none
  | 0x03 => if i < 48 then some (cntList (channelOf s i).counters 6) else none
  | 0x04 => if i < 8 then some (cntList (portOf s i).counters 7) else none
  | 0x05 => (connOf s (i / 2)).map (fun x => [(((pathOf x (i % 2)).rtt).elim 0 (fun r => min r.1 4294967295) : Nat)])
  | 0x08 =>
    if i < 4 then some (cntList (tdmOf s i).counters 9)
    else if i = 4 then some ((s.pdm.clockLost : Int) :: cntList s.pdm.clips 16 ++ (List.range 4).map (fun n => tget 0 s.pdm.ambient n))
    else none
  | 0x09 => if i = 0 then some (cntList s.gpCounters 4) else none
  | 0x0A =>
    if i = 0 then some (((tget 0 s.gpCounters 4 : Nat) : Int) :: cntList s.power.counters 5 ++ [((s.power.tjPeak).map (fun r => r.toInt)).getD 0])
    else none
  | 0x0B => (connOf s i).map (fun x => cntList x.counters 3)
  | 0x0C => (bayOf s i).map (fun b => cntList (cntAdd b.counters 4 64 (loanNow s i b)) 8)
  | _ => none

/-- A DIAG_READ entry of `slots` counter slots (R502). -/
def diagEntry (typ i slots : Nat) (cs : List Int) : List Byte :=
  le 4 (unitId typ i).toNat ++ le 2 cs.length ++ zeros 2 ++ cs.flatMap (leS 8) ++ zeros (8 * (slots - cs.length))

/-- DIAG_READ (R350, R502). -/
def diagRead (body : List Byte) (rt : RespTo) (s : State) : State :=
  let typ := fld body 0 1
  let first := fld body 2 4
  let n := fld body 6 2
  if typ = 0x06 ∨ typ = 0x07 then answer s rt stNotSupported
  else
    match ((List.range n).map (fun k => first + k)).mapM (fun i => (unitCounters s typ i).map (fun cs => (i, cs))) with
    | none => answer s rt stBadMessage
    | some es =>
      let slots := es.foldl (fun m e => max m e.2.length) 0
      respond s rt stOk (le 2 n ++ le 2 (8 + 8 * slots) ++ zeros 4 ++ es.flatMap (fun e => diagEntry typ e.1 slots e.2))

/-- DIAG_READ (R350). -/
def execDiagRead (m : HostMsg) (s : State) : Host.Outcome State Fault Refusal :=
  .next (accept 0x0142 (fun b => isZero b 1 1 && within (fld b 6 2) 1 4096) m (diagRead m.body) s)

/-! ### Summary (Tables 14.3 and 14.4) -/

/-- Code of a power state; 4 stands for FAULT. -/
def powerCode (s : State) : Nat :=
  if s.fault.isSome then 4
  else
    match s.power.state with
    | .run => 0
    | .trim => 1
    | .doze => 2
    | .sealed => 3

/-- Readings of the 80 sensors. -/
def sensorList (s : State) : List W16 := (List.range 80).map (fun i => tget 0 s.power.sensors i)
/-- Hottest sensor. -/
def tjMax (s : State) : W16 := maxReading (tget 0 s.power.sensors 0) (sensorList s)
/-- Coolest sensor. -/
def tjMin (s : State) : W16 := (sensorList s).foldl (fun m r => if r.toInt < m.toInt then r else m) (tget 0 s.power.sensors 0)

/-- `fw_version` of the running firmware; 0 before firmware starts. -/
def fwVersion (s : State) : Nat := ((s.boot.fw).map (fun f => f.version.toNat)).getD 0

/-- Open sessions in a state. -/
def sessIn (s : State) (st : SState) : Nat := (s.sessions.filter (fun e => e.2.st = st)).length

/-- Occupancy of a session ring (R250). -/
def ringHeld (s : State) (ss : Session) (r : SRing) : Nat :=
  let p := planPtr (sessActive s ss) r
  if r.dir = 0 then cnt32 r.io p else cnt32 p r.io

/-- Session rings in existence, with their sessions. -/
def allRings (s : State) : List (Session × SRing) :=
  s.sessions.flatMap (fun e => (e.2.rings.filter (fun r => decide (r.2.entries ≠ 0))).map (fun r => (e.2, r.2)))

/-- Code of a unit's fence (Table 14.4). -/
def fenceCode (f : FenceSt) : Nat :=
  match f with
  | .inService => 0
  | .quiet => 1
  | .selfTest => 1
  | .permanent => 2

/-- A unit entry (Table 14.4). DEDUCED: a unit in service counts as not in use where it is a core of no bay, a disabled
port or a disabled PDM block. -/
def unitEntry (s : State) (u : W32) (used : Bool) (info : Nat) : List Byte :=
  let h := unitOf s u
  le 1 (if ¬ used ∧ h.fence = .inService then 3 else fenceCode h.fence) ++ le 1 info ++ le 2 h.recoveries

/-- Bay that owns a core or channel, or 0xFF. -/
def ownerBay (s : State) (p : Bay → Bool) : Nat := ((s.bays.find? (fun e => p e.2)).map Prod.fst).getD 255

/-- Code of a TDM port's state. -/
def tdmCode (t : TdmSt) : Nat :=
  match t with
  | .stopped => 0
  | .running => 1
  | .clockLost => 2
  | .relocking => 3

/-- The unit entries. -/
def unitEntries (s : State) : List Byte :=
  (List.range 64).flatMap (fun i => let o := ownerBay s (fun b => bit b.attr.coreMask i)
    unitEntry s (uCore i) (decide (o ≠ 255)) o) ++
  (List.range 48).flatMap (fun i => unitEntry s (uSlice i) true 0) ++
  (List.range 48).flatMap (fun i => unitEntry s (uChannel i) true (ownerBay s (fun b => bit b.attr.channelMask i))) ++
  (List.range 8).flatMap (fun i => unitEntry s (uPort i) (portEnabled s i) (b2n (linkIsUp s i))) ++
  (List.range 4).flatMap (fun i => unitEntry s (uAudio i) (decide (tdmMode s i ≠ 0)) (tdmCode (tdmOf s i).st)) ++
  unitEntry s (uAudio 4) (decide (fld (act s 0x18 0) 0 1 ≠ 0)) (b2n (decide (fld (act s 0x18 0) 0 1 ≠ 0)))

/-- A plan declares a link of its bay: a core ring of one of its variants, or a session ring of its build. -/
def planHasLink (s : State) (p : Bound) (core ring : Nat) : Bool :=
  match buildOf s p.build with
  | none => false
  | some b =>
    if 64 ≤ ring then decide (ring % 64 - 6 < b.desc.rings.length)
    else ((planOf b p.plan).map (fun pl => pl.variants.any (fun v =>
      decide ((((v.inits[core]?).map (fun i => (tget ringD i.rings ring).slots)).getD 0).toNat ≠ 0)))).getD false

/-- Links of a bay with a non-zero recovery counter. -/
def bayLinks (s : State) (i : Nat) : List (Nat × UnitH) :=
  s.units.filter (fun e => decide (unitType (BitVec.ofNat 32 e.1) = 6 ∧ unitIdx (BitVec.ofNat 32 e.1) / 65536 = i ∧ e.2.recoveries ≠ 0))

/-- A link entry. -/
def linkEntry (s : State) (b : Bay) (e : Nat × UnitH) : List Byte :=
  let core := e.1 / 256 % 256
  let ring := e.1 % 256
  let plan := (b.plans.findIdx? (fun p => planHasLink s p core ring)).getD 0
  le 1 plan ++ le 1 core ++ le 1 ring ++ le 1 (fenceCode e.2.fence) ++ le 2 e.2.recoveries ++ zeros 2

/-- A plan entry. -/
def planEntry (s : State) (b : Bay) (p : Bound) : List Byte :=
  let cores := (((buildOf s p.build).bind (fun d => planOf d p.plan)).map (fun x => x.coreCount)).getD 0
  le 8 p.build.toNat ++ le 1 p.plan ++ le 1 cores ++
    le 2 ((bayYealms s b).filter (fun e => e.2.build = p.build ∧ e.2.plan = p.plan)).length ++ zeros 4

/-- A bay entry with its plan and link entries. -/
def bayEntry (s : State) (i : Nat) (b : Bay) : List Byte :=
  let adm := admittedYealms s b
  let v := sliceVariant s b
  let wsum := (adm.map (fun e => (yealmW s e.2 (v.getD 0)).getD 0 + Config.sliceBoundary)).sum
  let links := (bayLinks s i).take 255
  le 1 i ++ le 1 b.attr.cls ++ le 1 (v.getD 255) ++ le 1 (b.attr.fenceReserve % 2 + 2 * (b.attr.lend % 2) + 4 * b2n b.lent) ++
    le 1 b.plans.length ++ le 1 links.length ++ le 2 adm.length ++ le 2 (b.order.length - adm.length) ++ zeros 2 ++ le 4 wsum ++
    le 4 (bayPower s (admNow s) i b) ++ zeros 4 ++ b.plans.flatMap (planEntry s b) ++ links.flatMap (linkEntry s b)

/-- Paths that are bound and down. -/
def pathsDown (s : State) : Nat :=
  (s.conns.map (fun e => (e.2.paths.filter (fun p => p.2.bound && !p.2.up)).length)).sum

/-- The summary (Table 14.3). -/
def summaryBody (s : State) : List Byte :=
  let flags := b2n s.power.alarm + 2 * b2n (decide (3 ≤ ((List.range 48).filter (fun i => fenced s (uSlice i))).length)) +
    4 * b2n (decide (capMw s < powerNow s)) + 8 * b2n s.boot.attest.isSome + 16 * b2n s.boot.update.isSome
  let latch := match s.latch with
    | some l => le 2 l.source.toNat ++ le 1 l.cls ++ le 1 (b2n l.overflow) ++ le 4 l.unit.toNat ++ le 8 l.syndrome.toNat ++ le 8 l.chunk
    | none => zeros 24
  let rings := allRings s
  le 8 s.chunk ++ le 4 (fwVersion s) ++ le 1 0xB0 ++ le 1 s.boot.profileActive ++
    le 1 ((profileFor s s.boot.profileChoice s.boot.profsel).getD s.boot.profileActive) ++ le 1 (powerCode s) ++ le 4 flags ++
    le 4 (capMw s) ++ le 4 (powerNow s) ++ latch ++ le 4 s.deviceRecoveries ++ le 2 (tjMax s).toNat ++ le 2 (tjMin s).toNat ++
    le 4 (sessIn s .detached) ++ le 4 (sessIn s .idle) ++ le 4 (sessIn s .speaking) ++ le 4 (sessIn s .enrolling) ++ le 4 s.sessLost ++
    le 4 rings.length ++ le 4 (rings.filter (fun r => decide (r.2.entries < 2 * ringHeld s r.1 r.2))).length ++
    le 4 s.unanswered.length ++ le 8 s.boot.baysSkipped ++ le 2 s.conns.length ++ le 2 (pathsDown s) ++ le 1 s.bays.length ++ zeros 3 ++
    unitEntries s ++ zeros 4 ++ s.bays.flatMap (fun e => bayEntry s e.1 e.2)

/-- A message that a RESYNC waits for (R336): of its tag, accepted before it, and neither ATTEST nor FW_UPDATE. -/
def resyncWaits (s : State) (rt : RespTo) : Bool :=
  (s.unanswered.takeWhile (fun r => !sameMsg rt r)).any (fun r =>
    decide (r.tag = rt.tag) && decide (r.typ ≠ 0x0151) && decide (r.typ ≠ 0x0150) && decide (r.typ ≠ 0x0101) && decide (r.typ ≠ 0x0102))

/-- The snapshots due at a grid instant (R336). -/
def takeSnapshots (s : State) : State :=
  let ready := s.snapshots.filter (fun e => !e.2 || !resyncWaits s e.1)
  let later := s.snapshots.filter (fun e => e.2 && resyncWaits s e.1)
  let body := summaryBody s
  ready.foldl (fun s e => respond s e.1 stOk body) { s with snapshots := later }

/-- RESYNC (R336). -/
def execResync (m : HostMsg) (s : State) : Host.Outcome State Fault Refusal :=
  .next (accept 0x0101 (fun _ => true) m (fun rt s => { s with snapshots := s.snapshots ++ [(rt, true)] }) s)
/-- SUMMARY (R336). -/
def execSummary (m : HostMsg) (s : State) : Host.Outcome State Fault Refusal :=
  .next (accept 0x0102 (fun _ => true) m (fun rt s => { s with snapshots := s.snapshots ++ [(rt, false)] }) s)

end Sys2Proof.Machine
end

