-- ==== Sys2Proof/Machine/Boundary.lean ====
section
/-!
DEFINITION. Sys2Proof/Machine/Boundary.lean: the chunk grid: what takes effect at a boundary (R148, R152, R154, R271, R277, R278,
R282, R283, R336, R347, R377, R398, Table 10.4).
-/
namespace Sys2Proof.Machine

open Sys2Proof

/-- Records whose safe boundary is the chunk boundary (Table 14.10). -/
def boundaryRecs (s : State) : State :=
  applyCommit (iter (fun i s => if (bayOf s i).isSome then applyCommit s 0x20 i else s) 64 s) 0x40 0

/-- Uncorrectable lines that the scrub found (Table 10.4). -/
def boundaryScrub (s : State) : State := s.scrubFound.foldl scrubHit { s with scrubFound := [] }

/-- The slot of a lost session empties (R151). -/
def emptySlot (s : State) (e : Nat × Session) : State :=
  match effAttach e.2 with
  | none => s
  | some a =>
    if e.2.st ≠ .lost then s
    else
      let s := modRcd s a.yealm (fun r => { r with member := setBit r.member a.slot false })
      let s := modYealm s a.yealm (fun y => { y with work := tdel y.work a.slot })
      modSess s e.1 (fun x => { x with attach := none })

/-- Lost sessions leave their slots. -/
def emptySlots (s : State) : State := s.sessions.foldl emptySlot s

/-- Destroyed bays and released yealms go (R271, R277). -/
def boundaryEnds (s : State) : State :=
  let s := s.yealms.foldl (fun s e => endYealm s e.1) s
  s.bays.foldl (fun s e => endBay s e.1) s

/-- DETACHes without an admitted chunk complete (R154). -/
def boundaryDetach (s : State) : State :=
  s.sessions.foldl (fun s e => if e.2.detachWait.isSome ∧ e.2.admitted.isNone then detachDone s e.1 else s) s

/-- An accepted ATTACH takes effect: the session's record bits enter the commit record (R152). -/
def attachNow (s : State) (e : Nat × Session) : State :=
  match e.2.attach with
  | none => s
  | some a =>
    if ¬ a.ready ∨ a.effective then s
    else
      let s := modRcd s a.yealm (fun r => { r with
        member := setBit r.member a.slot true, active := setBit r.active a.slot e.2.active
        prevValid := setBit r.prevValid a.slot e.2.prevValid })
      fixState (modSess s e.1 (fun x => { x with attach := some { a with effective := true } })) e.1

/-- Accepted ATTACHes take effect. -/
def boundaryAttach (s : State) : State := s.sessions.foldl attachNow s

/-- Admission of every bay (R282), and the close of the reserve windows (R212). -/
def boundaryAdmit (s : State) : State :=
  let s := s.bays.foldl (fun s e => admitBay s e.1) s
  { s with bays := s.bays.map (fun (e : Nat × Bay) => (e.1, { e.2 with window := false })) }

/-- One admitted step of chunk k (R148, R153, R279). -/
def admitStep (s : State) (i y : Nat) : State :=
  let mask := takingPart s y s.chunk
  let v := ((bayOf s i).bind (fun b => b.variant)).getD 0
  let start := s.t0 + s.chunk * Config.chunkCycles + (((bayOf s i).map (fun b => sliceOffset s b v y)).getD 0)
  let due := start + (((yealmOf s y).bind (fun x => yealmW s x v)).getD 0)
  let s := modBay s i (fun b => { b with
    todo := b.todo ++ [{ yealm := y, chunk := s.chunk, start := start, due := due, mask := mask, begun := false }] })
  (claimants s y).foldl (fun s e => match effAttach e.2 with
    | some a => if bit mask a.slot ∧ e.2.admitted.isNone then modSess s e.1 (fun x => { x with admitted := some s.chunk }) else s
    | none => s) s

/-- The steps of chunk k of every latency-critical bay that may run slices; a yealm formed while its cores were lent waits
until they are back (R292). -/
def boundarySteps (s : State) : State :=
  s.bays.foldl (fun s e => match bayOf s e.1 with
    | none => s
    | some b =>
      if b.attr.cls ≠ 0 ∨ bayBlocked s b then s
      else ((admittedYealms s b).filter (fun y => decide (y.2.readyAt ≤ s.t0 + s.chunk * Config.chunkCycles))).foldl
        (fun s y => admitStep s e.1 y.1) s) s

/-- Enrolment captures start at the first boundary after ENROLL_START (R377). -/
def boundaryCaptures (s : State) : State :=
  s.sessions.foldl (fun s e => match e.2.job with
    | some j => if j.source = 1 ∧ j.capture.isNone ∧ ¬ j.training then
        modSess s e.1 (fun x => { x with job := some { j with capture := some (j.captureMs * 16) } })
      else s
    | none => s) s

/-- Meter n forms its chunk level, and its ambient level is the minimum over its window (R398). A fenced PDM block holds. -/
def meterChunk (n : Nat) (s : State) : State :=
  let r := act s 0x18 0
  if ¬ meterLive r n ∨ fenced s (uAudio 4) then s
  else
    let level := max (-1920) (Config.meterLevel (tget [] s.pdm.chunk n))
    let ls := (level :: tget [] s.pdm.levels n).take (50 * fld r 28 1)
    { s with pdm := { s.pdm with
      chunk := tput [] s.pdm.chunk n [], levels := tput [] s.pdm.levels n ls, ambient := tput 0 s.pdm.ambient n (ls.foldl min level) } }

/-- The device runs steps of the next chunk (R417, R439, Table 18.6). -/
def chunkRuns (s : State) : Bool :=
  stepsRun s && (match s.power.trans with
    | some t => !(t.entering && deep t.target)
    | none => true)

/-- A new chunk's traffic begins (R213): what the audio block still has to read comes first. -/
def boundaryIo (s : State) : State :=
  let s := { s with sessions := s.sessions.map (fun (e : Nat × Session) => (e.1, { e.2 with ioBytes := 0 })) }
  s.sessions.foldl (fun s e => e.2.tdmOwed.foldl (fun s k => readTdm s e.1 k.1 k.2)
    (modSess s e.1 (fun x => { x with tdmOwed := [] }))) s

/-- What takes effect at a boundary outside FAULT. -/
def boundaryEffects (s : State) : State :=
  let s := boundaryIo s
  let s := emptySlots (boundaryScrub (boundaryRecs s))
  let s := boundaryAdmit (boundaryDetach (boundaryEnds s))
  let s := if chunkRuns s then boundarySteps (boundaryAttach s) else s
  iter meterChunk 4 (boundaryCaptures s)

/-- CHUNK_BOUNDARY (R278): grid instant T_k; the grid runs in FAULT too (R418). -/
def chunkBoundary (s : State) : State :=
  if ¬ s.boot.complete then s
  else
    let k := s.chunk + 1
    let s := timeTo { s with chunk := k } (max s.now (s.t0 + k * Config.chunkCycles))
    takeSnapshots (if s.fault.isSome then s else boundaryEffects s)

/-- CHUNK_BOUNDARY (R278). -/
def execChunkBoundary (s : State) : Host.Outcome State Fault Refusal := .next (chunkBoundary s)

end Sys2Proof.Machine
end

