-- ==== Sys2Proof/Machine/Sessions.lean ====
section
/-!
DEFINITION. Sys2Proof/Machine/Sessions.lean: the session messages: open, close, text, STOP, attach and detach, export and
-/
namespace Sys2Proof.Machine

open Sys2Proof

/-! ### Handles (R355, R356) -/

/-- Lowest free session index. -/
@[irreducible] def freeSession (s : State) : Option Nat := (List.range 65536).find? (fun i => (sessOf s i).isNone)

/-- Generation that the next allocation of an index takes: never 0 (R355). -/
def nextGen (g : Nat) : Nat := if g < 65535 then g + 1 else 1

/-- The handle checks of R356, before a message's own checks. -/
def withSess (body : List Byte) (rt : RespTo) (lostOk : Bool) (s : State) (f : Nat → Session → State) : State :=
  let h := fld body 0 4
  match sessOf s (h % 65536) with
  | none => answer s rt stBadMessage
  | some ss =>
    if ss.gen ≠ h / 65536 then answer s rt stBadMessage
    else if ss.st = .lost ∧ ¬ lostOk then answer s rt stSessionLost
    else f (h % 65536) ss

/-! ### A new session -/

/-- Sizes of a session's rings (Table 11.5): direction, entries and entry bytes. -/
def ringShape (d : ModelDesc) (enrolment : Bool) (r : Nat) : Nat × Nat × Nat :=
  match r with
  | 0 => (0, 16384, 8)
  | 1 => (0, 64, 64)
  | 2 => (1, 8, 64)
  | 3 => (1, 256, 16)
  | 4 => (1, 64, 32)
  | 5 => if enrolment then (0, 1024, 64) else (0, 0, 0)
  | r => match d.rings[r - 6]? with
    | some x => if x.entries = 0 then (0, 0, 0) else (x.dir, x.entries, x.entryBytes)
    | none => (0, 0, 0)

/-- One ring as SESSION_OPEN creates it (R250), before firmware places it. -/
def newRing (d : ModelDesc) (enrolment : Bool) (r : Nat) : SRing :=
  let x := ringShape d enrolment r
  if x.2.1 = 0 then ringAbsent else { ringAbsent with entryBytes := x.2.2, entries := x.2.1, dir := x.1 }

/-- All rings of a new session. -/
def newRings (d : ModelDesc) (enrolment : Bool) : Tab SRing :=
  iter (fun r t => tput ringAbsent t r (newRing d enrolment r)) 16 []

/-- Where a session's output goes (Table 15.3). -/
structure Binding where
  flags : Nat
  encoding : Nat
  port : Nat
  slot : Nat
  deriving DecidableEq, Repr

/-- What a session starts from: the build, its random-number mode and its committed half. -/
structure Origin where
  build : Build
  adapter : W64
  seed : W64
  compat : Bool
  half : List Byte
  deriving DecidableEq, Repr

/-- A new session: half A holds the state, and nothing is attached, queued or sent (R152, R357). -/
def newSession (s : State) (tag : W64) (gen : Nat) (o : Origin) (b : Binding) (enrolment : Bool) : Session :=
  { gen := gen, st := .detached, tag := tag, build := o.build.id, adapter := o.adapter, seed := o.seed, compat := o.compat
    enrolment := enrolment, bindFlags := BitVec.ofNat 8 b.flags, encoding := b.encoding, tdmPort := b.port, tdmSlot := b.slot
    halfA := o.half, halfB := zeros o.half.length, active := false, prevValid := false
    rings := newRings o.build.desc enrolment, areaBase := 0, ctrlBase := 0, eavesBase := 0, home := none
    ioBytes := 0, ioDone := 0, tdmOwed := []
    uttTokens := 0, queuedTokens := none, unspoken := 0, queuedChunk := 0, attach := none, admitted := none
    stopWait := [], detachWait := none, detachDrop := false, job := none, gapFirst := none, gapSamples := 0, gapMsgs := 0
    nextSample := (posOf o.half).chunkCount * chunkSamples o.build }

/-- A session as firmware places it in the store group (R210). -/
def placed (s : State) (ss : Session) : Session := placeSess (groupOf s none) s.fresh ss

/-- Allocates an index for a session (R355), and writes its areas in the store group. -/
def putSession (s : State) (i : Nat) (ss : Session) : State :=
  let x := placed s ss
  (sessAreas x).foldl (fun s a => areaPlaced s (a i).1 0 (a i).2)
    { s with sessions := tins s.sessions i x, gens := tput 0 s.gens i ss.gen, fresh := s.fresh + 19 }

/-! ### SESSION_OPEN -/

/-- Fields of SESSION_OPEN (Table 15.3). -/
def openFields (b : List Byte) : Bool :=
  within (fld b 24 1) 0 1 && within (fld b 25 1) 0 1 && within (fld b 26 1) 0 15 && within (fld b 28 1) 0 3 &&
    within (fld b 29 1) 0 63 && isZero b 30 2

/-- A binding that Table 15.4 refuses. -/
def bindBad (b : Binding) : Bool :=
  ((bit b.flags 2 || bit b.flags 3) && !bit b.flags 0) || (bit b.flags 3 && !bit b.flags 2) || decide (3 < b.encoding)

/-- The TDM slot of a binding is bound to another open session. -/
def bindBusy (s : State) (b : Binding) : Bool := bit b.flags 1 && (slotBound s b.port b.slot).isSome

/-- A session of a build may use an adapter (R30); 0 is none. -/
def adapterUsable (s : State) (b : Build) (id : W64) : Bool :=
  decide (id = 0) || ((adapterOf s id).map (fun a => decide (a.build = b.id) && decide (a.rank ≤ b.maxRank))).getD false

/-- Largest `session_state_bytes` of a build for compatibility mode (R159). -/
def compatStateMax : Nat := 254968

/-- The compatibility segment of a new session (R159, R194). -/
def laneSegment (seed : W64) : List Byte :=
  le 4 32 ++ zeros 4 ++ (List.range 32).flatMap (fun l => laneBytes (laneSeed seed l))

/-- State that SESSION_OPEN writes into half A (R152, R194). -/
def openHalf (b : Build) (seed : W64) (compat : Bool) : List Byte :=
  let p := posOf b.initHalf
  let half := splice b.initHalf 0 (posBytes { p with chunkCount := 0, anchorTurns := 0, anchorSteps := 0 })
  if compat then half ++ laneSegment seed else half

/-- An index and thatch space for a session's areas. -/
def sessFits (s : State) (ss : Session) : Bool := (freeSession s).isSome && decide (sessBytes ss ≤ storeFree s)

/-- SESSION_OPEN (R152, R250, R355). -/
def sessionOpen (body : List Byte) (rt : RespTo) (s : State) : State :=
  let bind : Binding := { flags := fld body 26 1, encoding := fld body 27 1, port := fld body 28 1, slot := fld body 29 1 }
  let adapter := BitVec.ofNat 64 (fld body 8 8)
  let seed := BitVec.ofNat 64 (fld body 16 8)
  let compat := decide (fld body 24 1 = 1)
  if bindBad bind then answer s rt stBadMessage
  else
    match buildOf s (BitVec.ofNat 64 (fld body 0 8)) with
    | none => answer s rt stNotSupported
    | some b =>
      if ¬ adapterUsable s b adapter ∨ (compat ∧ b.desc.eb320.isNone) then answer s rt stNotSupported
      else
        let o : Origin := { build := b, adapter := adapter, seed := seed, compat := compat, half := openHalf b seed compat }
        let i := (freeSession s).getD 0
        let ss := newSession s rt.tag (nextGen (tget 0 s.gens i)) o bind (bit (fld body 25 1) 0)
        if ¬ sessFits s ss ∨ (compat ∧ compatStateMax < b.stateBytes) then answer s rt stNoResource
        else if bindBusy s bind then answer s rt stBusy
        else respond (putSession s i ss) rt stOk (le 4 (handleOf i ss))

/-- SESSION_CLOSE (Table 15.2): a lost session leaves a slot it still holds. -/
def sessionClose (body : List Byte) (rt : RespTo) (s : State) : State :=
  withSess body rt true s (fun i ss =>
    if ss.st ≠ .lost ∧ ss.attach.isSome then answer s rt stBusy
    else
      let s := emptySlot s (i, ss)
      answer { s with sessions := tdel s.sessions i } rt stOk)

/-! ### Text (R359 to R361) -/

/-- Reserved fields of feature tokens (Table 15.5). -/
def tokensReserved (bs : List Byte) : Bool := (entriesOf bs 8 (bs.length / 8)).all (fun t => isZero t 6 2)

/-- A token that a build accepts (R23, Table 15.5). -/
def tokenOk (d : ModelDesc) (t : List Byte) : Bool :=
  decide (fld t 0 2 < d.vocab) && within (fld t 2 1) 0 3 && within (fld t 3 1) 0 7 && within (fld t 4 1) 0 15

/-- Every token of a list belongs to the session's build. -/
def tokensOk (s : State) (build : W64) (bs : List Byte) : Bool :=
  ((buildOf s build).map (fun b => (entriesOf bs 8 (bs.length / 8)).all (tokenOk b.desc))).getD false

/-- Tokens that ring 0 of a session holds (R361). -/
def textHeld (s : State) (ss : Session) : Nat :=
  let r := sringOf ss 0
  cnt32 r.io (planPtr (sessActive s ss) r)

/-- Fields of TEXT_PUSH. -/
def textFields (b : List Byte) : Bool :=
  within (fld b 4 2) 1 16384 && isZero b 6 2 && decide (b.length = 8 + 8 * fld b 4 2) && tokensReserved (b.drop 8)

/-- TEXT_PUSH (R23, R253, R361). -/
def textPush (body : List Byte) (rt : RespTo) (s : State) : State :=
  withSess body rt false s (fun i ss =>
    let toks := entriesOf (body.drop 8) 8 (fld body 4 2)
    let held := textHeld s ss + toks.length
    if ¬ tokensOk s ss.build (body.drop 8) then answer s rt stBadMessage
    else if 16384 < held then answer s rt stNoResource
    else
      let s := modSess s i (fun x => { putRing x 0 (ringPush (sringOf x 0) toks) with unspoken := x.unspoken + toks.length })
      respond (ringWritten s i 0 toks.length) rt stOk (le 4 held))

/-- A control entry of ring 1 (Table 15.6) for the unspoken text. -/
def controlEntry (ss : Session) (kind : Nat) (args : List Byte) : List Byte :=
  le 1 kind ++ zeros 7 ++ le 4 (cnt32 (sringOf ss 0).io ss.unspoken) ++ le 4 ss.unspoken ++ args ++ zeros (48 - args.length)

/-- Ring 1 has room for a control entry (R253). -/
def controlRoom (s : State) (ss : Session) : Bool :=
  decide (cnt32 (sringOf ss 1).io (planPtr (sessActive s ss) (sringOf ss 1)) < (sringOf ss 1).entries)

/-- Writes a control entry. -/
def pushControl (ss : Session) (kind : Nat) (args : List Byte) : Session :=
  putRing ss 1 (ringPush (sringOf ss 1) [controlEntry ss kind args])

/-- SPEAK (R360). -/
def speak (body : List Byte) (rt : RespTo) (s : State) : State :=
  withSess body rt false s (fun i ss =>
    if ss.unspoken = 0 ∨ 16384 < ss.unspoken then answer s rt stBadMessage
    else if ss.queuedTokens.isSome ∨ ss.job.isSome then answer s rt stBusy
    else if chunkLimit ≤ (sessPos s ss).chunkCount ∨ ¬ controlRoom s ss then answer s rt stNoResource
    else
      let s := modSess s i (fun x => { pushControl x 1 [] with queuedTokens := some x.unspoken, queuedChunk := s.chunk, unspoken := 0 })
      respond (fixState (ringWritten s i 1 1) i) rt stOk (le 4 ss.unspoken))

/-! ### STOP (R363, R364) -/

/-- The slice of a session's admitted chunk has started. -/
def sliceBegun (s : State) (ss : Session) : Bool :=
  match effAttach ss with
  | none => false
  | some a =>
    ss.admitted.isSome &&
      (match yealmOf s a.yealm with
       | none => false
       | some y =>
         (y.beStep.map (fun p => p.begun && bit p.mask a.slot)).getD false ||
           ((bayOf s y.bay).map (fun b => b.todo.any (fun t => decide (t.yealm = a.yealm) && t.begun && bit t.mask a.slot))).getD false)

/-- A STOP of a session that runs no job: its text is dropped now, its stop point comes at once or at the commit instant. -/
def stopSession (s : State) (i : Nat) (resp : Option RespTo) (barge : Bool) : State :=
  match sessOf s i with
  | none => s
  | some ss =>
    let drop := ss.queuedTokens.getD 0 + ss.unspoken
    let w : StopWait := { resp := resp, barge := barge, drop := drop }
    if ss.stopWait = [] ∧ ss.uttTokens = 0 ∧ drop = 0 then
      (match resp with
       | some rt => respond s rt stOk (le 8 (sessSamples s ss))
       | none => s)
    else
      let s := modSess s i (fun x => { x with queuedTokens := none, unspoken := 0, stopWait := x.stopWait ++ [w] })
      if ss.stopWait ≠ [] ∨ sliceBegun s ss then s
      else stopPoint (dropChunk s i) i

/-- STOP (R363): of an enrolling session it aborts the job at its next commit instant, or at once before training. -/
def stopMsg (body : List Byte) (rt : RespTo) (s : State) : State :=
  withSess body rt false s (fun i ss =>
    match ss.job with
    | none => stopSession s i (some rt) false
    | some j =>
      let s := modSess s i (fun x => { x with job := some { j with text := x.unspoken, stopping := j.stopping ++ [rt] } })
      if j.training then s
      else respond (endJob s i stDiscarded) rt stOk (le 8 (sessSamples s ss)))

/-! ### ATTACH and DETACH (R152 to R157, R376) -/

/-- An adapter needs a copy in a bay: no session attached there uses it yet (R376). -/
def adapterMissing (s : State) (bay : Nat) (id : W64) : Bool :=
  decide (id ≠ 0) && !(s.sessions.any (fun e => decide (e.2.adapter = id) &&
    (match e.2.attach with
     | some a => ((yealmOf s a.yealm).map (fun y => decide (y.bay = bay))).getD false
     | none => false)))

/-- Channels of the store group that hold what is still there: a permanently fenced channel holds nothing (Table 17.6). -/
def storeChannels (s : State) : List Nat :=
  (groupOf s none).filter (fun ch => decide ((unitOf s (uChannel ch)).fence ≠ .permanent))

/-- Channels that an ATTACH moves or copies between. -/
def attachChannels (s : State) (ss : Session) (bay : Nat) : List Nat :=
  let moves := decide (ss.home ≠ some bay)
  let copies := adapterMissing s bay ss.adapter
  (if moves then (if ss.home.isNone then storeChannels s else groupOf s ss.home) else []) ++ (if copies then storeChannels s else []) ++
    (if moves || copies then groupOf s (some bay) else [])

/-- Bytes that an ATTACH brings into the bay's group. -/
def attachBytes (s : State) (ss : Session) (bay : Nat) : Nat :=
  (if ss.home = some bay then 0 else sessBytes ss) +
    (if adapterMissing s bay ss.adapter then ((adapterOf s ss.adapter).map (fun a => a.size)).getD 0 else 0)

/-- Kind of a plan: 0 speech, 1 enrolment. -/
def planKind (d : ModelDesc) (plan : Nat) : Nat := ((d.planKinds.find? (fun k => k.1 = plan)).map Prod.snd).getD 0

/-- The plan of a yealm serves a session (R276, R377). -/
def planServes (s : State) (y : Yealm) (ss : Session) : Bool :=
  decide (y.build = ss.build) &&
    ((buildOf s y.build).map (fun b => decide (planKind b.desc y.plan = b2n ss.enrolment))).getD false

/-- ATTACH (R152, R157, R376). -/
def attach (body : List Byte) (rt : RespTo) (s : State) : State :=
  withSess body rt false s (fun i ss =>
    let k := fld body 4 2
    let slot := fld body 6 1
    match yealmOf s k with
    | none => answer s rt stBadMessage
    | some y =>
      let bytes := attachBytes s ss y.bay
      if y.slots ≤ slot then answer s rt stBadMessage
      else if ss.attach.isSome ∨ y.releasing.isSome ∨
          (claimants s k).any (fun e => ((e.2.attach).map (fun a => decide (a.slot = slot))).getD false) then answer s rt stBusy
      else if ¬ planServes s y ss then answer s rt stNotSupported
      else if (attachChannels s ss y.bay).any (fun ch => fenced s (uChannel ch)) then answer s rt stFenced
      else if freeIn s (groupOf s (some y.bay)) < bytes then answer s rt stNoResource
      else
        let moves := decide (ss.home ≠ some y.bay)
        let slow := hasSlices s y.bay || (ss.home.map (hasSlices s)).getD false
        let s := modSess s i (fun x => { x with attach := some { yealm := k, slot := slot, ready := false, effective := false } })
        if bytes ≠ 0 ∧ slow then
          modBay s y.bay (fun b => { b with bulk := b.bulk ++
            [{ kind := .attachMove i ss.home, left := bytes, running := false, resp := some rt }] })
        else acceptAttach (if moves then moveArea s i y.bay else s) i (some rt))

/-- The ATTACH of a session that moves still go on for is given up, and answered (R156). -/
def cancelMoves (s : State) (i : Nat) : State :=
  let mine (k : Bulk) : Bool := match k.kind with
    | .attachMove j _ => decide (j = i)
    | _ => false
  let resps := s.bays.flatMap (fun e => (e.2.bulk.filter mine).filterMap (fun k => k.resp))
  let s := { s with bays := s.bays.map (fun (e : Nat × Bay) => (e.1, { e.2 with bulk := e.2.bulk.filter (fun k => !mine k) })) }
  resps.foldl (fun s r => respond s r stOk (le 8 (firstChunk s))) s

/-- DETACH (R154 to R156). -/
def detach (body : List Byte) (rt : RespTo) (s : State) : State :=
  withSess body rt false s (fun i ss =>
    if ss.job.isSome ∨ ss.detachWait.isSome then answer s rt stBusy
    else
      match ss.attach with
      | none => answer s rt stOk
      | some a =>
        if ¬ a.effective then answer (cancelMoves (modSess s i (fun x => { x with attach := none })) i) rt stOk
        else
          let drops := bit (fld body 4 1) 0 && ss.admitted.isSome && !sliceBegun s ss
          let s := if drops then dropChunk s i else s
          modSess s i (fun x => { x with detachWait := some rt, detachDrop := drops }))

/-! ### State images (R158 to R163) -/

/-- SESSION_EXPORT (R158, R374): at once, or piece by piece in the reserve windows of the bay whose group holds the areas (R211). -/
def sessionExport (body : List Byte) (rt : RespTo) (s : State) : State :=
  withSess body rt false s (fun i ss =>
    if ss.attach.isSome then answer s rt stBusy
    else
      match ss.home with
      | some b =>
        if hasSlices s b then
          modBay s b (fun x => { x with bulk := x.bulk ++
            [{ kind := .sessionExport i, left := (exportBody s ss).length, running := false, resp := some rt }] })
        else exportDone s i (some rt)
      | none => exportDone s i (some rt))

/-- Reserved fields of a position block (Table 7.2). -/
def posClean (half : List Byte) : Bool := isZero half 5 3 && decide (fld half 17 1 < 4) && isZero half 18 2

/-- Every lane table of a segment has its `pos` in range (R193). -/
def lanesOk (tables : List Byte) (n : Nat) : Bool :=
  (entriesOf tables 224 n).all (fun t => decide (fld t 220 1 ≤ 54))

/-- Checks 1 to 5 of R160 for a native image. -/
def takeNative (s : State) (img : List Byte) (convert : Bool) : Except Nat Origin :=
  let compat := bit (fld img 6 2) 0
  let cb := fld img 36 4
  let adapter := BitVec.ofNat 64 (fld img 24 8)
  let data := img.drop 64
  if fld img 0 4 ≠ 0x49534D4C ∨ img.length < 6 ∨ fld img 4 2 ≠ 1 then .error stNotSupported
  else if img.length < 64 ∨ BitVec.ofNat 32 (fld img 56 4) ≠ crc32c (img.take 56) ∨ 1 < fld img 6 2 ∨ ¬ isZero img 40 16 ∨
      cb ≠ (if compat then compatBytes else 0) then .error stBadMessage
  else
    match buildOf s (BitVec.ofNat 64 (fld img 8 8)) with
    | none => .error stNotSupported
    | some b =>
      if ¬ adapterUsable s b adapter then .error stNotSupported
      else if fld img 32 4 ≠ b.stateBytes ∨ data.length ≠ b.stateBytes + cb ∨ BitVec.ofNat 32 (fld img 60 4) ≠ crc32c data ∨
          ¬ posClean data ∨ (compat ∧ ¬ lanesOk (data.drop (b.stateBytes + 8)) 32) then .error stBadMessage
      else if compat ∧ ¬ convert ∧ fld data b.stateBytes 4 ≠ 32 then .error stGeometry
      else
        let keep := compat && !convert
        .ok { build := b, adapter := adapter, seed := BitVec.ofNat 64 (fld img 16 8), compat := keep
              half := if keep then data else data.take b.stateBytes }

/-- Bytes of a component in an EB-320 body: one block of elements per lane, padded to 8 bytes (R163). -/
def ebSize (lanes : Nat) (c : Component) : Nat := pad8 (lanes * ceilDiv c.elements lanes * c.elemBytes)

/-- Elements of a lane-interleaved component at their logical indices (R161, R163). -/
def ebElems (data : List Byte) (off lanes : Nat) (c : Component) : List Byte :=
  (List.range c.elements).flatMap (fun j =>
    cut data (off + ((j % lanes) * ceilDiv c.elements lanes + j / lanes) * c.elemBytes) c.elemBytes)

/-- Components of an EB-320 body at their places in a native half: component 0x0101 is `y_prev`. -/
def ebPlace (d : ModelDesc) (data : List Byte) (lanes : Nat) : List Component → Nat → List Byte → List Byte
  | [], _, half => half
  | c :: rest, off, half =>
    let es := ebElems data off lanes c
    let half := if c.id = 0x0101 then splice half 20 (es.take 4)
      else match findComp d c.id with
        | some (o, x) => splice half o (es.take (x.elemBytes * x.elements))
        | none => half
    ebPlace d data lanes rest (off + ebSize lanes c) half

/-- Native half of an EB-320 image: the position block from the header, the components from the body. -/
def ebHalf (b : Build) (e : Eb320) (chunk lanes : Nat) (data : List Byte) : List Byte :=
  ebPlace b.desc data lanes e.comps 0 (le 8 chunk ++ zeros 24 ++ b.initHalf.drop 32)

/-- The checks of R163, and of R160 from check 3 on, for an EB-320 image. -/
def takeEb320 (s : State) (img : List Byte) (convert : Bool) : Except Nat Origin :=
  let lanes := fld img 6 1
  let ns := fld img 40 4
  let nt := fld img 44 4
  let data := img.drop 64
  let id := BitVec.ofNat 64 (fld img 8 8)
  let adapter := BitVec.ofNat 64 (fld img 24 8)
  let seed := BitVec.ofNat 64 (fld img 16 8)
  if fld img 4 2 ≠ 1 ∨ (lanes ≠ 16 ∧ lanes ≠ 32) then .error stNotSupported
  else if img.length < 64 ∨ BitVec.ofNat 32 (fld img 56 4) ≠ crc32c (img.take 56) ∨ ¬ isZero img 7 1 ∨ ¬ isZero img 48 8 ∨
      ¬ isZero img 37 3 ∨ nt ≠ 224 * lanes ∨ data.length ≠ ns + nt ∨ BitVec.ofNat 32 (fld img 60 4) ≠ crc32c data then .error stBadMessage
  else
    match s.builds.findSome? (fun b => (b.desc.eb320.filter (fun e => e.buildId = id)).map (fun e => (b, e))) with
    | none => .error stNotSupported
    | some (b, e) =>
      let tables := data.drop ns
      if ns ≠ (e.comps.map (ebSize lanes)).sum ∨ ¬ lanesOk tables lanes then .error stBadMessage
      else if ¬ adapterUsable s b adapter then .error stNotSupported
      else if lanes ≠ 32 ∧ ¬ convert then .error stGeometry
      else
        let half := ebHalf b e (fld img 32 8) lanes data
        .ok { build := b, adapter := adapter, seed := seed, compat := !convert
              half := if convert then half else half ++ le 4 lanes ++ zeros 4 ++ tables }

/-- An image by its magic value (R160, R163). -/
def takeImage (s : State) (img : List Byte) (convert : Bool) : Except Nat Origin :=
  if fld img 0 4 = 0x4953334C then takeEb320 s img convert else takeNative s img convert

/-- Tokens that a SESSION_IMPORT carries. -/
def importTokens (b : List Byte) : Nat := fld b 12 4 + fld b 16 4 + fld b 20 4

/-- Fields of SESSION_IMPORT. -/
def importFields (b : List Byte) : Bool :=
  within (fld b 0 1) 0 1 && within (fld b 1 1) 0 15 && within (fld b 3 1) 0 3 && within (fld b 4 1) 0 63 && isZero b 5 3 &&
    decide (b.length = 24 + fld b 8 4 + 8 * importTokens b) && tokensReserved (b.drop (24 + fld b 8 4))

/-- The text of an import fits the image (Table 15.4, R374). -/
def importTextOk (s : State) (body : List Byte) (o : Origin) : Bool :=
  let img := cut body 24 (fld body 8 4)
  tokensOk s o.build.id (body.drop (24 + fld body 8 4)) && decide (importTokens body ≤ 16384) &&
    decide (fld body 12 4 ≠ 0) == bit (posOf o.half).flags.toNat 1 &&
    (decide (fld img 0 4 ≠ 0x4953334C) || decide (importTokens body = 0))

/-- A session with its imported text and utterance boundaries (R374). -/
def withText (s : State) (body : List Byte) (ss : Session) : Session :=
  let utt := fld body 12 4
  let q := fld body 16 4
  let toks := entriesOf (body.drop (24 + fld body 8 4)) 8 (importTokens body)
  let x := putRing ss 0 (ringPush (sringOf ss 0) (toks.take (utt + q)))
  let x := if q = 0 then x else
    { pushControl { x with unspoken := q } 1 [] with queuedTokens := some q, queuedChunk := s.chunk }
  let x := putRing x 0 (ringPush (sringOf x 0) (toks.drop (utt + q)))
  { x with uttTokens := utt, unspoken := fld body 20 4 }

/-- SESSION_IMPORT (R160 to R163, R374). -/
def sessionImport (body : List Byte) (rt : RespTo) (s : State) : State :=
  let bind : Binding := { flags := fld body 1 1, encoding := fld body 2 1, port := fld body 3 1, slot := fld body 4 1 }
  match takeImage s (cut body 24 (fld body 8 4)) (bit (fld body 0 1) 0) with
  | .error st => answer s rt st
  | .ok o =>
    let i := (freeSession s).getD 0
    let ss := newSession s rt.tag (nextGen (tget 0 s.gens i)) o bind false
    if ¬ sessFits s ss ∨ (o.compat ∧ compatStateMax < o.build.stateBytes) then answer s rt stNoResource
    else if bindBad bind then answer s rt stBadMessage
    else if bindBusy s bind then answer s rt stBusy
    else if ¬ importTextOk s body o then answer s rt stBadMessage
    else respond (putSession s i (withText s body ss)) rt stOk (le 4 (handleOf i ss))

/-! ### Enrolment (R377 to R379) -/

/-- Fields of ENROLL_START. -/
def enrollFields (b : List Byte) : Bool :=
  decide (fld b 4 8 ≠ 0) && within (fld b 20 4) 1 1000000 && within (fld b 28 1) 4 64 && decide (fld b 28 1 % 4 = 0) &&
    within (fld b 29 1) 0 1 && within (fld b 30 1) 0 15 && isZero b 31 1 && isZero b 36 4 &&
    (if fld b 29 1 = 0 then isZero b 30 1 && isZero b 32 4 else within (fld b 32 4) 10000 300000)

/-- A microphone runs (Table 16.7). -/
def micEnabled (s : State) (m : Nat) : Bool := decide (fld (act s 0x18 0) 0 1 ≠ 0) && bit (fld (act s 0x18 0) 2 2) m

/-- The job that an ENROLL_START asks for. -/
def newJob (b : List Byte) (text : Nat) : Job :=
  { adapter := BitVec.ofNat 64 (fld b 4 8), seed := BitVec.ofNat 64 (fld b 12 8), iterations := fld b 20 4
    tDrop := BitVec.ofNat 32 (fld b 24 4), rank := fld b 28 1, source := fld b 29 1, mic := fld b 30 1, captureMs := fld b 32 4
    audio := [], capture := none, captured := 0, third := 0, training := false, iteration := 0, text := text, working := [], stopping := [] }

/-- ENROLL_START (R377). -/
def enrollStart (body : List Byte) (rt : RespTo) (s : State) : State :=
  withSess body rt false s (fun i ss =>
    let j := newJob body ss.unspoken
    if ¬ ss.enrolment then answer s rt stNotSupported
    else if ss.st ≠ .idle ∨ (adapterOf s j.adapter).isSome then answer s rt stBusy
    else if ((buildOf s ss.build).map (fun b => decide (j.rank ≤ b.maxRank))).getD false = false then answer s rt stNotSupported
    else if ss.unspoken = 0 then answer s rt stBadMessage
    else if j.source = 1 ∧ ¬ micEnabled s j.mic then answer s rt stConfigMismatch
    else if ¬ controlRoom s ss then answer s rt stNoResource
    else
      let s := modSess s i (fun x => { pushControl x 2 (cut body 4 36) with job := some j })
      answer (fixState (ringWritten s i 1 1) i) rt stOk)

/-- Reference audio is complete: training starts, or the job ends for want of audio (R377, R379). -/
def startTraining (s : State) (i : Nat) : State :=
  match (sessOf s i).bind (fun ss => ss.job) with
  | none => s
  | some j =>
    if j.audio.length < 320000 then endJob s i stBadMessage
    else modSess s i (fun x => { x with job := some { j with training := true } })

/-- Fields of ENROLL_DATA. -/
def enrollDataFields (b : List Byte) : Bool :=
  let n := b.length - 12
  within (fld b 8 1) 0 1 && isZero b 9 3 && (if bit (fld b 8 1) 0 then decide (n % 2 = 0) else decide (n % 64 = 0))

/-- A piece as entries of ring 5, the last zero-padded (Table 15.6). -/
def pcmEntries (data : List Byte) : List (List Byte) :=
  (List.range (ceilDiv data.length 64)).map (fun k => let e := cut data (64 * k) 64; e ++ zeros (64 - e.length))

/-- A piece passes ring 5: the job takes its entries at once. -/
def passPcm (ss : Session) (es : List (List Byte)) : Session :=
  let r := ringPush (sringOf ss 5) es
  putRing ss 5 (setPlanPtr (setPlanPtr r true r.io) false r.io)

/-- ENROLL_DATA (R377). -/
def enrollData (body : List Byte) (rt : RespTo) (s : State) : State :=
  withSess body rt false s (fun i ss =>
    let data := body.drop 12
    match ss.job with
    | none => answer s rt stBadMessage
    | some j =>
      if j.source ≠ 0 ∨ j.training ∨ fld body 4 4 ≠ j.audio.length ∨ 9600000 < j.audio.length + data.length then answer s rt stBadMessage
      else if 1024 < ceilDiv data.length 64 then answer s rt stNoResource
      else
        let s := modSess s i (fun x => { passPcm x (pcmEntries data) with job := some { j with audio := j.audio ++ data } })
        let s := ringWritten s i 5 (pcmEntries data).length
        let s := respond s rt stOk (le 4 (j.audio.length + data.length))
        if bit (fld body 8 1) 0 then startTraining s i else s)

/-- ENROLL_CAPTURE_END (R377): the capture has taken its last sample. -/
def captureEnd (s : State) (i : Nat) : State :=
  match (sessOf s i).bind (fun ss => ss.job) with
  | none => s
  | some j => if j.source = 1 ∧ j.capture = some 0 ∧ ¬ j.training then startTraining s i else s

/-! ### Meanings -/

/-- Fields of a message of a handle and four reserved bytes. -/
def handleFields (b : List Byte) : Bool := isZero b 4 4

/-- SESSION_OPEN (R152). -/
def execSessionOpen (m : HostMsg) (s : State) : Host.Outcome State Fault Refusal := .next (accept 0x0201 openFields m (sessionOpen m.body) s)
/-- SESSION_CLOSE (R357). -/
def execSessionClose (m : HostMsg) (s : State) : Host.Outcome State Fault Refusal := .next (accept 0x0202 handleFields m (sessionClose m.body) s)
/-- TEXT_PUSH (R361). -/
def execTextPush (m : HostMsg) (s : State) : Host.Outcome State Fault Refusal := .next (accept 0x0203 textFields m (textPush m.body) s)
/-- SPEAK (R360). -/
def execSpeak (m : HostMsg) (s : State) : Host.Outcome State Fault Refusal := .next (accept 0x0204 handleFields m (speak m.body) s)
/-- STOP (R363). -/
def execStop (m : HostMsg) (s : State) : Host.Outcome State Fault Refusal := .next (accept 0x0205 handleFields m (stopMsg m.body) s)
/-- ATTACH (R152). -/
def execAttach (m : HostMsg) (s : State) : Host.Outcome State Fault Refusal :=
  .next (accept 0x0206 (fun b => isZero b 7 1) m (attach m.body) s)
/-- DETACH (R154). -/
def execDetach (m : HostMsg) (s : State) : Host.Outcome State Fault Refusal :=
  .next (accept 0x0207 (fun b => within (fld b 4 1) 0 1 && isZero b 5 3) m (detach m.body) s)
/-- SESSION_EXPORT (R158). -/
def execSessionExport (m : HostMsg) (s : State) : Host.Outcome State Fault Refusal := .next (accept 0x0208 handleFields m (sessionExport m.body) s)
/-- SESSION_IMPORT (R160). -/
def execSessionImport (m : HostMsg) (s : State) : Host.Outcome State Fault Refusal := .next (accept 0x0209 importFields m (sessionImport m.body) s)
/-- ENROLL_START (R377). -/
def execEnrollStart (m : HostMsg) (s : State) : Host.Outcome State Fault Refusal := .next (accept 0x020A enrollFields m (enrollStart m.body) s)
/-- ENROLL_DATA (R377). -/
def execEnrollData (m : HostMsg) (s : State) : Host.Outcome State Fault Refusal := .next (accept 0x020B enrollDataFields m (enrollData m.body) s)
/-- ENROLL_CAPTURE_END (R377). -/
def execEnrollCaptureEnd (session : Nat) (s : State) : Host.Outcome State Fault Refusal := .next (captureEnd s session)

end Sys2Proof.Machine
end

