-- ==== Sys2Proof/Machine/Audio.lean ====
section
/-!
DEFINITION. Sys2Proof/Machine/Audio.lean: the serial audio block: TDM frames, playout lag, clock tracking, loss and relock, the
barge-in gate and the PDM microphones (spec/16; R364, R377).
-/
namespace Sys2Proof.Machine

open Sys2Proof

/-! ### Port events (Table 15.8) -/

/-- A port event to every session bound to the port. -/
def portEvent (s : State) (n code : Nat) : State :=
  s.sessions.foldl (fun s e =>
    if bit e.2.bindFlags.toNat 1 ∧ e.2.tdmPort = n ∧ e.2.st ≠ .lost then sendEvent s e.1 code 0 (sessSamples s e.2) n else s) s

/-! ### Clock tracking (R391 to R393) -/

/-- Nominal frame rate of a port in Hz (Table 16.3). -/
def tdmRate (s : State) (n : Nat) : Nat := [8000, 16000, 24000, 32000, 48000, 96000].getD (fld (tdmRec s n) 5 1) 8000

/-- Nominal frame period in cycles. -/
def nominalPeriod (s : State) (n : Nat) : Nat := Config.cyclesPerSecond / tdmRate s n

/-- A glitch: outside 0.875·T to 1.125·T. -/
def glitchy (t p : Nat) : Bool := decide (8 * p < 7 * t ∨ 9 * t < 8 * p)

/-- The mean of some periods differs from `t` by more than 2 %. -/
def driftOff (t : Nat) (ps : List Nat) : Bool :=
  let want := ps.length * t
  let have' := ps.sum
  decide (want < 50 * ((have' - want) + (want - have')))

/-- Start of a relock (R393, Table 16.6). -/
def startRelock (s : State) (n : Nat) (afterLoss : Bool) : State :=
  let s := modTdm s n (fun t => { t with
    st := .relocking, glitchRun := 0, recent := [], backFrames := 0, relockAfterLoss := afterLoss, offNominal := false, rampAt := s.now })
  portEvent (tdmCnt s n 3 1) n 0x0009

/-- A port whose frames start again: the tracker begins at the nominal period. -/
def startPort (s : State) (n : Nat) : State :=
  modTdm s n (fun t => { t with st := .running, period := nominalPeriod s n, recent := [], glitchRun := 0, backFrames := 0, offNominal := false })

/-- One measured period while the port runs. -/
def trackRunning (s : State) (n period : Nat) : State :=
  let t := tdmOf s n
  if glitchy t.period period then
    let s := corrected s (mkFault 0x0401 (uAudio n) 0)
    if 3 ≤ t.glitchRun + 1 then startRelock s n false
    else modTdm s n (fun t => { t with glitchRun := t.glitchRun + 1 })
  else
    let recent := (period :: t.recent).take 64
    let s := modTdm s n (fun t => { t with period := Config.trackPeriod t.period period, recent := recent, glitchRun := 0 })
    if recent.length = 64 ∧ driftOff t.period recent then startRelock s n false else s

/-- One frame edge of a port in clock loss: a clock that came back is judged at its ninth edge. -/
def trackLost (s : State) (n period : Nat) : State :=
  let t := tdmOf s n
  if t.offNominal then
    let recent := (period :: t.recent).take 8
    let s := modTdm s n (fun t => { t with recent := recent })
    if recent.length = 8 ∧ driftOff t.period recent then startRelock s n true else s
  else
    let recent := if t.backFrames = 0 then [] else (period :: t.recent).take 8
    let s := modTdm s n (fun t => { t with backFrames := t.backFrames + 1, recent := recent })
    if t.backFrames + 1 < 9 then s
    else if driftOff t.period recent then startRelock s n true
    else portEvent (modTdm s n (fun t => { t with st := .running, recent := [], backFrames := 0, glitchRun := 0 })) n 0x000B

/-- What a frame edge tells the tracker. -/
def track (s : State) (n period : Nat) : State :=
  match (tdmOf s n).st with
  | .stopped => startPort s n
  | .running => trackRunning s n period
  | .relocking => if glitchy (tdmOf s n).period period then corrected s (mkFault 0x0401 (uAudio n) 0) else s
  | .clockLost => trackLost s n period

/-! ### Playout (R384, R389, R390) -/

/-- Target lag λ* of a slot's session in cycles; none in a best-effort bay. -/
def targetLag (s : State) (n i : Nat) : Option Nat :=
  match slotBound s n i with
  | none => none
  | some (_, ss) =>
    match effAttach ss with
    | none => none
    | some a =>
      match yealmOf s a.yealm with
      | none => none
      | some y =>
        match bayOf s y.bay with
        | none => none
        | some b =>
          match b.variant with
          | none => none
          | some v =>
            if b.attr.cls ≠ 0 then none
            else some (sliceOffset s b v a.yealm + (yealmW s y v).getD 0 + replayAllowance s b v + Config.converterDelay)

/-- Output rate of the session whose sample is the next of a slot. -/
def slotRate (s : State) (n : Nat) (x : TSlot) : Nat :=
  match x.buf with
  | [] => tdmRate s n
  | e :: _ => (((sessOf s e.2.1).bind (fun ss => buildOf s ss.build)).map (fun b => b.outputRate)).getD (tdmRate s n)

/-- The session bound to a slot has an utterance in progress or queued. -/
def slotSpeaks (s : State) (n i : Nat) : Bool := ((slotBound s n i).map (fun e => decide (e.2.st = .speaking))).getD false

/-- Sample width of a port. -/
def tdmWidth (s : State) (n : Nat) : Nat := fld (tdmRec s n) 4 1

/-- A slot's code from its conversion path, clamped (R389), with 1 where it clamped. -/
def slotCode (s : State) (n i : Nat) (x : TSlot) : Int × Nat :=
  let g := if bit (fld (tdmRec s n) 40 8) i then (tdmOf s n).gain else 0
  let y := Config.convertOut (s.fresh + i) (x.buf.map Prod.fst) g
  let h : Int := 2 ^ (tdmWidth s n - 1)
  satTo (-h) (h - 1) y

/-- λ of a slot that begins with the head of its buffer (R390 rule 1). -/
def firstLag (s : State) (rate : Nat) (x : TSlot) : Nat :=
  match x.buf with
  | [] => 0
  | e :: _ => s.now - (s.t0 + e.2.2.1 * Config.chunkCycles + e.2.2.2 * Config.cyclesPerSecond / rate)

/-- One frame of a slot that plays: the position moves on at the tracked ratio, slower while λ < λ* (R390 rule 2). -/
def playSlot (s : State) (n i : Nat) (x : TSlot) (lag : Nat) : State :=
  let t := (tdmOf s n).period
  let slew := fld (tdmRec s n) 28 1
  let slow := ((targetLag s n i).map (fun g => decide (lag < g))).getD false
  let full := t * slotRate s n x * 4294967296 / Config.cyclesPerSecond
  let pos := x.phase + (if slow then full * (1000 - slew) / 1000 else full)
  let lag' := if slow then min ((targetLag s n i).getD lag) (lag + t * slew / 1000) else lag
  let c := slotCode s n i x
  let s := modTslot s n i (fun _ => { x with
    lag := some lag', starved := none, phase := pos % 4294967296, buf := x.buf.drop (pos / 4294967296), out := c.1 })
  tdmLagMax (tdmCnt s n 6 c.2) n (lag' / Config.cyclesPerUs)

/-- One frame of an enabled output slot of a running port (R390 rules 1, 4 and 5). -/
def runSlot (s : State) (n i : Nat) (x : TSlot) : State :=
  let silent := { x with out := 0 }
  match x.buf, x.lag with
  | [], none => modTslot s n i (fun _ => silent)
  | [], some _ =>
    if ¬ slotSpeaks s n i then modTslot s n i (fun _ => { silent with lag := none, starved := none, phase := 0 })
    else if x.starved.isSome then modTslot s n i (fun _ => silent)
    else tdmCnt (modTslot s n i (fun _ => { silent with starved := some s.now })) n 4 1
  | _ :: _, none =>
    if s.now < x.ready then modTslot s n i (fun _ => silent)
    else playSlot s n i { x with phase := 0 } (firstLag s (slotRate s n x) x)
  | _ :: _, some lag =>
    match x.starved with
    | none => playSlot s n i x lag
    | some t => if s.now < x.ready then modTslot s n i (fun _ => silent) else playSlot s n i x (lag + (s.now - t))

/-- `idle_pattern` as a slot's code: left-aligned, most significant bit first (Table 16.3). -/
def idleCode (s : State) (n : Nat) : Int :=
  (BitVec.ofNat 32 (fld (tdmRec s n) 24 4)).toInt / 2 ^ (32 - tdmWidth s n)

/-- One frame of one output slot (R384, R392, R395, R400, R401). -/
def slotOut (s : State) (n i : Nat) : State :=
  let t := tdmOf s n
  let x := tslotOf t i
  if ¬ outEnabled s n i then modTslot s n i (fun x => { x with out := 0 })
  else if t.safe ∨ fenced s (uAudio n) then modTslot s n i (fun x => { x with out := idleCode s n })
  else if deep s.power.state then modTslot s n i (fun x => { x with out := 0 })
  else
    match t.st with
    | .running => runSlot s n i x
    | .relocking =>
      if s.now < t.rampAt + 2 * Config.cyclesPerMs ∧ x.buf ≠ [] ∧ x.lag.isSome then
        let c := slotCode s n i x
        tdmCnt (modTslot s n i (fun x => { x with out := c.1 })) n 6 c.2
      else modTslot s n i (fun x => { x with out := 0 })
    | _ => modTslot s n i (fun x => { x with out := 0 })

/-- An input slot completes in a frame of `periods` BCLK periods: a full frame ends its last slot in period 0 of the next
(R382, R383). -/
def slotComplete (s : State) (n i periods : Nat) : Bool :=
  let w := fld (tdmRec s n) 3 1
  let d := if tdmMode s n = 1 ∨ tdmMode s n = 4 then 1 else 0
  decide (tdmSlots s n * w ≤ periods) || decide (d + (i + 1) * w ≤ periods)

/-- Input code of a slot; zero where the slot was cut short. -/
def slotIn (s : State) (n periods : Nat) (inputs : List Int) (i : Nat) : State :=
  if inEnabled s n i then
    let c := if slotComplete s n i periods then inputs.getD i 0 else 0
    modTslot s n i (fun x => { x with inp := c })
  else modTslot s n i (fun x => { x with inp := 0 })

/-! ### Noise-adaptive gain (R399) -/

/-- Target offset G* in 2^-32 dB. -/
def targetGain (s : State) (n : Nat) : Int :=
  let r := tdmRec s n
  let m := fld r 50 1
  if 3 < m then 0
  else
    let a := tget 0 s.pdm.ambient m - 16 * fldS r 52 1
    max 0 (min ((fld r 51 1 : Int) * 4294967296) ((fld r 53 1 : Int) * a * 16777216))

/-- The applied offset moves towards G* by at most `gain_rate_db` per second of frames. -/
def stepGain (s : State) (n : Nat) : State :=
  let t := tdmOf s n
  let d : Int := (fld (tdmRec s n) 54 1 * t.period * 4294967296 / Config.cyclesPerSecond : Nat)
  let g := targetGain s n
  modTdm s n (fun t => { t with gain := if t.gain < g then min g (t.gain + d) else max g (t.gain - d) })

/-! ### Frames -/

/-- A pending record of a port that need not restart it applies (R385). -/
def applyTdmRec (s : State) (n : Nat) : State :=
  match (recOf s (0x10 + n) 0).commit with
  | some c => if c.restart ∨ s.fault.isSome then s else applyCommit s (0x10 + n) 0
  | none => s

/-- The port takes frames: not in Doze or Sealed unless armed (R395). -/
def tdmAwake (s : State) (n : Nat) : Bool := s.boot.complete && (!deep s.power.state || tdmArmed s n)

/-- TDM_FRAME (R383): one FSYNC edge. -/
def tdmFrame (s : State) (n period periods : Nat) (inputs : List Int) : State :=
  if ¬ tdmAwake s n then s
  else
    let s := applyTdmRec s n
    if tdmMode s n = 0 then s
    else
      let s := track (tdmCnt s n 0 1) n period
      let s := iter (fun i s => slotIn s n periods inputs i) 64 s
      let s := iter (fun i s => slotOut s n i) 64 s
      stepGain { s with fresh := s.fresh + 64 } n

/-- CLOCK_LOSS (R392): also ends a relock. -/
def loseClock (s : State) (n : Nat) : State :=
  if ¬ tdmAwake s n then s
  else
    match (tdmOf s n).st with
    | .stopped => s
    | .clockLost => modTdm s n (fun t => { t with backFrames := 0, recent := [] })
    | _ =>
      let s := modTdm s n (fun t => { t with
        st := .clockLost, recent := [], backFrames := 0, glitchRun := 0, relockAfterLoss := false, offNominal := false })
      applyTdmRec (portEvent (tdmCnt s n 2 1) n 0x000A) n

/-- RELOCK_LOCKED (Table 16.6). -/
def relockDone (s : State) (n period : Nat) : State :=
  let t := tdmOf s n
  if t.st ≠ .relocking ∨ ¬ tdmAwake s n then s
  else if driftOff (nominalPeriod s n) [period] then
    let s := modTdm s n (fun t => { t with st := .clockLost, period := period, recent := [], backFrames := 0, offNominal := true })
    applyTdmRec (portEvent (tdmCnt s n 2 1) n 0x000A) n
  else
    let s := modTdm s n (fun t => { t with st := .running, period := period, recent := [], glitchRun := 0 })
    if t.relockAfterLoss then portEvent s n 0x000B else s

/-- FREEWHEEL_PLAY_TIME_PASS (R392, R393). -/
def freewheel (s : State) (n i : Nat) : State :=
  let t := tdmOf s n
  let x := tslotOf t i
  if (t.st = .clockLost ∨ t.st = .relocking) ∧ x.buf ≠ [] ∧ tdmAwake s n then
    tdmCnt (modTslot s n i (fun x => { x with buf := x.buf.drop 1 })) n 5 1
  else s

/-! ### Barge-in gate (R394) -/

/-- Blocks that an activity must last. -/
def holdBlocks (s : State) (n : Nat) : Nat := ceilDiv (fld (tdmRec s n) 49 1) 10

/-- A detection: a STOP of the Speaking session bound to the output slot (R364). -/
def detectBarge (s : State) (n i : Nat) : State :=
  match slotBound s n i with
  | some (k, ss) => if ss.st = .speaking ∧ s.fault.isNone then stopSession (tdmCnt s n 7 1) k none true else s
  | none => s

/-- BARGE_GATE_BLOCK (R394): one 10 ms block of an input slot. -/
def gateBlock (s : State) (n i : Nat) (level : Int) : State :=
  let t := tdmOf s n
  if ¬ tdmAwake s n ∨ tdmMode s n = 0 ∨ ¬ bit (fld (tdmRec s n) 32 8) i ∨ t.st = .stopped ∨ t.st = .clockLost then s
  else
    let x := tslotOf t i
    if 16 * fldS (tdmRec s n) 48 1 < level then
      let hit := x.armed && decide (holdBlocks s n ≤ x.activeBlocks + 1)
      let s := modTslot s n i (fun x => { x with activeBlocks := x.activeBlocks + 1, quietBlocks := 0, armed := x.armed && !hit })
      if hit then detectBarge s n i else s
    else
      modTslot s n i (fun x => { x with activeBlocks := 0, quietBlocks := x.quietBlocks + 1
                                        armed := x.armed || decide (20 ≤ x.quietBlocks + 1) })

/-! ### Microphones (R396 to R398, R377) -/

/-- A microphone's output after its gain: clamped to ±1.0, with 1 where it clamped (R396). -/
def micOut (s : State) (m : Nat) (v : W32) : W32 × Nat :=
  let y := Config.micGain (fldS (act s 0x18 0) (4 + m) 1) v
  if 0x3F800000 < fpMag y ∧ ¬ fpIsNan y then (fpSigned (fpSign y) 0x3F800000, 1) else (y, 0)

/-- PCM16 code of one captured sample: dithered and rounded (R377). -/
def captureCode (seed : W64) (element : Nat) (x : W32) : Int :=
  let r := nativeWord { seed := seed, purpose := 4, tensor := 0xFFF0#16, step := 0 } element
  let v := fpDy x
  let y := dyAdd { m := v.m, e := v.e + 15 } { m := drawDither r, e := -8 }
  (satTo (-32768) 32767 (if fpIsNan x then 0 else roundDy .det y)).1

/-- One 16 kHz sample of a capture. -/
def captureSample (x : W32) (j : Job) : Job :=
  { j with audio := j.audio ++ leS 2 (captureCode j.seed j.captured x), captured := j.captured + 1
           capture := j.capture.map (fun k => k - 1) }

/-- A microphone's sample reaches the captures that use it; at 48 kHz every third one comes out of the decimator. -/
def feedCapture (m : Nat) (x : W32) (s : State) (e : Nat × Session) : State :=
  match e.2.job with
  | none => s
  | some j =>
    if j.source ≠ 1 ∨ j.mic ≠ m ∨ (j.capture.getD 0) = 0 ∨ j.training then s
    else if fld (act s 0x18 0) 0 1 = 1 then modSess s e.1 (fun y => { y with job := some (captureSample x j) })
    else
      let s := { s with fresh := s.fresh + 1 }
      let j' := if j.third < 2 then { j with third := j.third + 1 }
        else { captureSample (Config.captureFir s.fresh x) j with third := 0 }
      modSess s e.1 (fun y => { y with job := some j' })

/-- Adds a sample to the meters that a microphone feeds. -/
def feedMeters (s : State) (m : Nat) (x : W32) : State :=
  iter (fun n s =>
    if bit (meterMics (act s 0x18 0) n) m then
      { s with pdm := { s.pdm with chunk := tput [] s.pdm.chunk n (tget [] s.pdm.chunk n ++ [x]) } }
    else s) 4 s

/-- PDM_OUTPUT_SAMPLE (R396): a fenced block, and a microphone without a clock, give zeros. -/
def micSample (s : State) (m : Nat) (clocked : Bool) (v : W32) : State :=
  if ¬ s.boot.complete then s
  else
    let s := if s.fault.isSome then s else applyCommit s 0x18 0
    if ¬ micEnabled s m then s
    else
      let down := fenced s (uAudio 4)
      let lost := down || !clocked
      let c := if lost then (0, 0) else micOut s m v
      let s := { s with pdm := { s.pdm with
        outs := tput 0 s.pdm.outs m c.1, clips := cntAdd s.pdm.clips m 32 c.2
        clockLost := (s.pdm.clockLost + b2n lost) % 281474976710656 } }
      let s := if down then s else feedMeters s m c.1
      s.sessions.foldl (feedCapture m c.1) s

/-! ### Meanings -/

/-- TDM_FRAME (R383). -/
def execTdmFrame (tdm : Fin 4) (period periods : Nat) (inputs : List Int) (s : State) : Host.Outcome State Fault Refusal :=
  .next (tdmFrame s tdm period periods inputs)
/-- CLOCK_LOSS (R392). -/
def execClockLoss (tdm : Fin 4) (s : State) : Host.Outcome State Fault Refusal := .next (loseClock s tdm)
/-- RELOCK_LOCKED (R393). -/
def execRelockLocked (tdm : Fin 4) (period : Nat) (s : State) : Host.Outcome State Fault Refusal := .next (relockDone s tdm period)
/-- BARGE_GATE_BLOCK (R394). -/
def execBargeGateBlock (tdm : Fin 4) (slot : Fin 64) (levelDb16 : Int) (s : State) : Host.Outcome State Fault Refusal :=
  .next (gateBlock s tdm slot levelDb16)
/-- PDM_OUTPUT_SAMPLE (R396). -/
def execPdmOutputSample (mic : Fin 16) (clocked : Bool) (value : W32) (s : State) : Host.Outcome State Fault Refusal :=
  .next (micSample s mic clocked value)
/-- FREEWHEEL_PLAY_TIME_PASS (R392). -/
def execFreewheelPlayTimePass (tdm : Fin 4) (slot : Fin 64) (s : State) : Host.Outcome State Fault Refusal := .next (freewheel s tdm slot)

end Sys2Proof.Machine
end

