-- ==== Sys2Proof/Machine/Sequencer.lean ====
section
/-!
DEFINITION. Sys2Proof/Machine/Sequencer.lean: a core's sequencer: fetch, dispatch, issue, completion and signals (R233 to
R244, R258 to R265).
-/
namespace Sys2Proof.Machine

open Sys2Proof

/-! ### Commands -/

/-- Checks of the header at dispatch (Table 11.7, source 0x0117). -/
def hdrOk (s : State) (x : Core) (h : CmdHdr) : Bool :=
  let cores := (x.ctx.map (fun k => (workCores s k.bay k.group).length)).getD 0
  decide (h.flags.toNat < 8) && !h.rsvd &&
    (decide (h.waitCount = 0) || (decide (1 ≤ h.deadline.toNat) && decide (h.deadline.toNat ≤ x.prog.wCycles))) &&
    (decide (h.postCount = 0) || decide (h.postCore = 0xFF#8) || decide (h.postCore.toNat < cores))

/-- A semaphore is the room semaphore of a ring of the core. -/
def isRoomSem (x : Core) (sem : Byte) : Bool :=
  x.rings.any (fun e => decide (e.2.roomSem = sem) && bit e.2.flags.toNat 1 && decide (e.2.slots ≠ 0))

/-- The command is a batten (R236). -/
def isBatten (x : Core) (h : CmdHdr) : Bool := decide (h.waitCount ≠ 0) && (h.flags.getLsbD 0 || isRoomSem x h.waitSem)

/-- Count of a semaphore. -/
def semOf (x : Core) (sem : Byte) : W16 := tget 0 x.sems sem.toNat

/-- A wait can be satisfied (R239). -/
def waitMet (x : Core) (h : CmdHdr) : Bool := decide (h.waitCount.toNat ≤ (semOf x h.waitSem).toNat)

/-- Takes a wait. -/
def takeWait (x : Core) (h : CmdHdr) : Core :=
  { x with sems := tput 0 x.sems h.waitSem.toNat (semOf x h.waitSem - h.waitCount) }

/-- Block tables that a random-consuming command reads, in the order of its words (R190). A greedy codebook draws none. -/
def opReads (s : State) (x : Core) (slot : Nat) (op : CoreOp) : List BlockTable :=
  let vec (o : VecOps) (on : Bool) : List BlockTable :=
    if vecStoch o ∧ on then needTables s x slot 1 o.tensorId o.elemBase.toNat (vecLen x o) else []
  match op with
  | .convert o => vec o (decide (o.subOp.toNat = 0 ∨ o.subOp.toNat = 4))
  | .quant o => vec o true
  | .rescale o => vec o (decide (o.subOp = 0))
  | .sample o =>
    match coreBuild s x with
    | none => []
    | some b =>
      if ((b.desc.codebooks[o.codebook.toNat]?).map (fun cb => fpIsZero cb.invTemp)).getD true then []
      else ((List.range (slotCount x o.sFixed.toNat o.sPerSlot.toNat)).map (fun r =>
        needTables s x r 0 b.desc.sampleTensor o.codebook.toNat 1)).flatten
  | .draw o => needTables s x slot o.purpose.toNat o.tensorId o.elemBase.toNat o.count.toNat
  | _ => []

/-- Fills that a dispatched command asks the mixer for (R190). -/
def opTables (s : State) (x : Core) (index slot : Nat) (op : CoreOp) : List FillReq :=
  (missing x [] (opReads s x slot op)).map (fun b => { index := index, slot := slot, table := b })

/-- A command waits for a table that it reads and the mixer has not filled (R191). -/
def fillsOwed (x : Core) (q : QCmd) : Bool := x.rng.fills.any (fun f => decide (f.index = q.index ∧ f.slot = q.slot))

/-- Where a unit's executing command is held: the state-carry path beside the array (R77, R86), else the unit. -/
def busyKey (op : CoreOp) : Nat :=
  match op with
  | .carry _ => 9
  | op => opUnit op

/-- What a command does when it issues; `none` for an arm that has started or is held. -/
def runOp (s : State) (c : Nat) (q : QCmd) : Try (State × Option Completion) :=
  let some' (r : Try (State × Completion)) : Try (State × Option Completion) :=
    match r with
    | .error e => .error e
    | .ok (s, d) => .ok (s, some d)
  let fine : Try (State × Completion) := .ok (s, completion false 0 0 false)
  let post : Post := { sem := q.hdr.postSem, core := q.hdr.postCore, count := q.hdr.postCount }
  match q.op with
  | .nop => some' fine
  | .slotLoop n => if 1 ≤ n.toNat ∧ n.toNat ≤ 60 then some' fine else .error 0x0117
  | .descWrite d a => some' (doDescWrite s c d a)
  | .ringWrite r a => some' (doRingWrite s c r a)
  | .matmul o => some' (doMatmul s c q.slot o)
  | .diag o => some' (doDiag s c q.slot o)
  | .winoOut o => some' (doWinoOut s c o)
  | .carry o => some' (doCarry s c o)
  | .element o => some' (doElement s c q.slot o)
  | .convert o => some' (doConvert s c q.slot o)
  | .func o => some' (doFunc s c q.slot o)
  | .reduce o => some' (doReduce s c q.slot o)
  | .softmax o => some' (doSoftmax s c q.slot o)
  | .quant o => some' (doQuant s c q.slot o)
  | .rescale o => some' (doRescale s c q.slot o)
  | .gate o => some' (doGate s c q.slot o)
  | .hadamard o => some' (doHadamard s c q.slot o)
  | .upsample o => some' (doUpsample s c q.slot o)
  | .sample o => some' (doSample s c o)
  | .mark o => some' (doMark s c o)
  | .arm o =>
    match doArm s c q.slot post o with
    | .error e => .error e
    | .ok (s, .empty) => .ok (s, some emptyDone)
    | .ok (s, _) => .ok (s, none)
  | .restore o => some' (doRestore s c q.slot o)
  | .save o => some' (doSave s c q.slot o)
  | .spill o => some' (doSpill s c o)
  | .unspill o => some' (doUnspill s c o)
  | .compatLoad a => some' (doCompatLoad s c q.slot a)
  | .compatSave a => some' (doCompatSave s c q.slot a)
  | .draw o => some' (doDraw s c q.slot o)

/-- A command as it issues. A RESTORE that finds an uncorrectable half reads it again once the half is rebuilt, or its session is
lost (R151); the state beside the outcome is the one it runs in. -/
def runFixed (s : State) (c : Nat) (q : QCmd) : State × Try (State × Option Completion) :=
  match runOp s c q with
  | .error e =>
    if e % 65536 = 0x0203 then
      (match areaAt s (e / 65536) with
       | some (.half i _, _) =>
         let s := halfHit (logFault s (mkFault 0x0203 (uSession i) (e / 65536))) i (e / 65536)
         (s, runOp s c q)
       | _ => (s, .error e))
    else (s, .error e)
  | r => (s, r)

/-- An uncorrectable read of a page or of another region by a core (Table 10.4): the channel is not fenced, and the core's step is
replayed. -/
def memFault (s : State) (c src phys : Nat) : State :=
  let ch := phys / 2147483648
  match src, areaAt s phys with
  | 0x0202, some (.image id k, o) =>
    pageLost (failCore (logFault s (mkFault 0x0202 (uChannel ch) (id.toNat % 4294967296 * 4294967296 + o / 65536))) c) id k (o / 65536)
  | 0x0203, some (.half i _, _) => failCore (halfHit (logFault s (mkFault 0x0203 (uSession i) phys)) i phys) c
  | _, _ => failCore (logFault s (mkFault 0x0204 (uChannel ch) phys)) c

/-- A contained fault that a command of a core raises: unit and index of the command. An uncorrectable read carries its physical
address above bit 16. -/
def cmdFault (s : State) (c src unit index : Nat) : State :=
  if 65536 ≤ src then memFault s c (src % 65536) (src / 65536)
  else coreFault s c (mkFault src (uCore c) (coreSyn (if src = 0x0116 then 0x0034 else 0) unit index))

/-- Operands that a command still waits for from the state-carry path (R93). -/
def opReady (x : Core) (op : CoreOp) : Bool :=
  match op with
  | .element o | .convert o | .func o | .reduce o | .softmax o | .quant o | .gate o | .hadamard o | .upsample o => vecReady x o
  | .carry _ => decide (x.carryRun = none)
  | _ => true

/-- Free values that a command may have used (R93): the counter moves past them. -/
def opFresh (x : Core) (op : CoreOp) : Nat :=
  match op with
  | .element o | .convert o | .func o | .reduce o | .softmax o | .quant o | .gate o | .hadamard o | .upsample o => vecLen x o
  | _ => 1

/-! ### Dispatch and issue -/

/-- One command past the fetch point, where R235 allows it. -/
def dispatchOne (s : State) (c : Nat) : Option State :=
  let x := coreOf s c
  match x.window with
  | [] => none
  | q :: rest =>
    let u := opUnit q.op
    if x.stepEnded then none
    else if ¬ hdrOk s x q.hdr then some (cmdFault s c 0x0117 u q.index)
    else if 16 ≤ (unitQ x u).queue.length then none
    else
      let bat := isBatten x q.hdr
      if bat ∧ ¬ waitMet x q.hdr then none
      else
        let y := if bat then takeWait x q.hdr else x
        let uq := unitQ y u
        let y := setUnitQ y u { uq with queue := uq.queue ++ [{ q with taken := bat }] }
        let y := { y with window := rest, stepEnded := q.hdr.flags.getLsbD 2
                          rng := { y.rng with fills := y.rng.fills ++ opTables s x q.index q.slot q.op } }
        some (setCore s c (coreAdd .cmdsDispatched 1 y))

/-- A colliding command (R248): it raises source 0x0116 and does nothing, and the core is flashed when the descriptor's transfers
complete. -/
def collide (s : State) (c : Nat) (q : QCmd) : State :=
  let s := logFault s (mkFault 0x0116 (uCore c) (coreSyn 0x0034 (opUnit q.op) q.index))
  let d := match q.op with
    | .arm o => o.desc.toNat
    | .descWrite d _ => d.toNat
    | _ => 0
  modCore s c (fun x => setDma x d { dmaOf x d with collided := some (opUnit q.op, q.index) })

/-- Adds units to a semaphore of a core; source 0x0118 above 65,535 (R239). -/
def addSem (s : State) (c : Nat) (sem : Byte) (n : Nat) : State :=
  let x := coreOf s c
  let v := (semOf x sem).toNat + n
  if 65535 < v then cmdFault s c 0x0118 0xFF 0xFFFFFFFF
  else setCore s c { x with sems := tput 0 x.sems sem.toNat (BitVec.ofNat 16 v) }

/-- The core that an index of a work group names (R234). -/
def coreAtIdx (s : State) (b gid idx : Nat) : Option Nat :=
  (s.cores.find? (fun e => match e.2.ctx with
    | some k => decide (k.bay = b ∧ k.group = gid ∧ k.idx = idx)
    | none => false)).map Prod.fst

/-- The signal of a completed command: at once on the same core, by the mesh to another (R241). -/
def postSignal (s : State) (c : Nat) (p : Post) : State :=
  if p.count = 0 then s
  else
    match (coreOf s c).ctx with
    | none => s
    | some k =>
      if p.core = 0xFF#8 ∨ p.core.toNat = k.idx then addSem s c p.sem p.count.toNat
      else
        match coreAtIdx s k.bay k.group p.core.toNat with
        | none => s
        | some d => { s with mesh := s.mesh ++ [{ src := c, dst := d, sem := p.sem.toNat, count := p.count.toNat }] }

/-- The ring end that a compute command holds by its wait advances when the command completes (R243, DEDUCED). -/
def cmdRings (x : Core) (q : QCmd) : Core :=
  let u := opUnit q.op
  if q.hdr.waitCount = 0 ∨ u = 0 ∨ u = 5 ∨ u = 6 then x
  else
    x.rings.foldl (fun y e =>
      let r := e.2
      if r.slots = 0 then y
      else if r.fillSem = q.hdr.waitSem ∧ bit r.flags.toNat 2 then ringAdvance y e.1 false
      else if r.roomSem = q.hdr.waitSem ∧ bit r.flags.toNat 1 then ringAdvance y e.1 true
      else y) x

/-- Completion of a command (R64, R234, R243): its record, the totals, its rings and its signal. -/
def finishCmd (s : State) (c u : Nat) (q : QCmd) (d : Completion) : State :=
  let x := coreOf s c
  let x := setUnitQ x u { unitQ x u with busy := none, last := d }
  let x := coreAdd .degenTotal d.degen (coreAdd .satTotal d.sat x)
  let x := if u = 9 then { x with carryRun := none } else x
  postSignal (setCore s c (cmdRings x q)) c { sem := q.hdr.postSem, core := q.hdr.postCore, count := q.hdr.postCount }

/-- A state-carry command that starts takes the operands that the path already holds (R84). -/
def carryStart (op : CoreOp) (x : Core) : Core :=
  match op with
  | .carry _ => carryAdvance x
  | _ => x

/-- One command issued by a unit, if its queue's head may issue (R236). The array and the state-carry path keep to their own
regions (R74), so the one starts beside the other (R77). -/
def issueOne (s : State) (c u : Nat) : Option State :=
  let x := coreOf s c
  let uq := unitQ x u
  match uq.queue with
  | q :: rest =>
    let waits := decide (q.hdr.waitCount ≠ 0) && !q.taken
    if waits ∧ ¬ waitMet x q.hdr then none
    else if (unitQ x (busyKey q.op)).busy.isSome ∨ ¬ opReady x q.op then none
    else
      let y := if waits then takeWait x q.hdr else x
      let y := setUnitQ y u { uq with queue := rest }
      match runFixed (setCore s c y) c q with
      | (s, .error e) => some (if e = 0x0116 then collide s c q else cmdFault s c e u q.index)
      | (_, .ok (s, none)) => some s
      | (_, .ok (s, some d)) =>
        let s := { s with fresh := s.fresh + opFresh y q.op }
        match q.op with
        | .arm _ => some (finishCmd s c u q d)
        | _ =>
          let k := busyKey q.op
          some (modCore s c (fun x => carryStart q.op (setUnitQ x k { unitQ x k with busy := some (q, d) })))
  | [] => none

/-- The waits of one cycle that the units serve, units `u` and up in ascending order (R240): each queue's head is evaluated
once. The Bool says that one has issued. -/
def issueFrom (c : Nat) : Nat → Nat → State → State × Bool
  | 0, _, s => (s, false)
  | n + 1, u, s =>
    match issueOne s c u with
    | some t => ((issueFrom c n (u + 1) t).1, true)
    | none => issueFrom c n (u + 1) s

/-- One cycle of the sequencer (R235, R240): the fetch point is served first, then the unit queues. `none` where nothing
moves. -/
def cycle (s : State) (c : Nat) : Option State :=
  match dispatchOne s c with
  | some t => some (issueFrom c 9 0 t).1
  | none =>
    let r := issueFrom c 9 0 s
    if r.2 then some r.1 else none

/-- Cycles until nothing more can move. -/
def advance (c : Nat) : Nat → State → State
  | 0, s => s
  | n + 1, s =>
    match cycle s c with
    | some t => advance c n t
    | none => s

/-- Commands of a core that have not issued. -/
def waitingCmds (x : Core) : Nat := 2 * x.window.length + (x.units.map (fun e => e.2.queue.length)).sum

/-- Everything a core can do now. -/
def advanceCore (s : State) (c : Nat) : State := advance c (waitingCmds (coreOf s c) + 1) s

/-! ### The commands of a stream -/

/-- The core runs a step (R233, R254). -/
def coreRuns (s : State) (c : Nat) : Bool :=
  let x := coreOf s c
  x.ctx.isSome && !x.gated && !fenced s (uCore c) && s.fault.isNone

/-- Copies of a SLOT_LOOP body for slots 1 to n − 1 (R265). -/
def loopCopies (n firstIndex : Nat) (body : List (CmdHdr × CoreOp)) : List QCmd :=
  ((List.range n).drop 1).flatMap (fun k =>
    body.mapIdx (fun j e => { hdr := e.1, op := e.2, slot := k, taken := false, index := firstIndex + j }))

/-- What the next 64 bytes of a core's stream say of a command that comes (R233, R264): it is theirs, they spell another or
the stream has ended, or they spell none and name this unit (R267). A core whose build gave it no stream takes any command. -/
inductive NextCmd where
  | given
  | other
  | malformed (unit : Nat)
  deriving DecidableEq, Repr

/-- The next command of a core's stream against one that comes. -/
def nextCmd (x : Core) (h : CmdHdr) (op : CoreOp) : NextCmd :=
  if x.prog.stream = [] then .given
  else
    let b := streamCmd x.prog.stream x.fetchIndex
    if b = [] then .other
    else
      match cmdOf b with
      | none => .malformed (fld b 1 1)
      | some e => if e = (h, op) then .given else .other

/-- A command of a core's stream arrives in its command window, where that holds fewer than 64 (R262), and the core goes on
(R235, R265). -/
def submit (s : State) (c : Nat) (h : CmdHdr) (op : CoreOp) : State :=
  if ¬ coreRuns s c ∨ 64 ≤ (coreOf s c).window.length ∨ nextCmd (coreOf s c) h op = .other then s
  else
    let x := coreOf s c
    match nextCmd x h op with
    | .malformed u => cmdFault s c 0x0117 u x.fetchIndex
    | _ =>
      let q : QCmd := { hdr := h, op := op, slot := 0, taken := false, index := x.fetchIndex }
      let y := { x with window := x.window ++ [q], fetchIndex := x.fetchIndex + 1 }
      match x.loop with
      | some l =>
        let nested := match op with
          | .slotLoop _ => true
          | _ => false
        if nested then cmdFault s c 0x0117 0 x.fetchIndex
        else
          let body := l.body ++ [(h, op)]
          if l.remaining ≤ 1 then
            advanceCore (setCore s c { y with
              loop := none, window := y.window ++ loopCopies (nSlotsOf x) (x.fetchIndex + 1 - body.length) body }) c
          else advanceCore (setCore s c { y with loop := some { remaining := l.remaining - 1, body := body } }) c
      | none =>
        match op with
        | .slotLoop n =>
          let l : Option LoopSt := if 1 ≤ n.toNat ∧ n.toNat ≤ 60 then some { remaining := n.toNat, body := [] } else none
          advanceCore (setCore s c { y with loop := l }) c
        | _ => advanceCore (setCore s c y) c

/-- The state-carry command of a core has made its last update (R83, R86). -/
def carryDone (x : Core) : Bool :=
  (x.carryRun.map (fun r => decide (carryTotal r.ops ≤ r.done))).getD false

/-- Where COMMAND_COMPLETE finds the command of a unit that has made every write. For unit 1, which executes a command on the
state-carry path beside the array's, it is the path's where its last update is made. -/
def doneKey (x : Core) (u : Nat) : Nat := if u = 1 ∧ (unitQ x 9).busy.isSome ∧ carryDone x then 9 else u

/-- COMMAND_COMPLETE: the unit has made every write; a state-carry command completes with its last update, and a command that
reads random words with its last block table (R191). -/
def completeUnit (s : State) (c u : Nat) : State :=
  if ¬ coreRuns s c then s
  else
    let x := coreOf s c
    let k := doneKey x u
    match (unitQ x k).busy with
    | none => s
    | some (q, d) => if fillsOwed x q then s else advanceCore (finishCmd s c k q d) c

/-- The flash that a collision owes (R248), once the descriptor's transfers are done: the fault is logged already. -/
def flashCore (s : State) (c : Nat) : State := failCore (flash s (uCore c)) c

/-- DMA_TRANSFER_COMPLETE (R243, R247, R248). -/
def completeXfer (s : State) (c desc : Nat) : State :=
  if ¬ coreRuns s c then s
  else
    match (dmaOf (coreOf s c) desc).active with
    | none => s
    | some t =>
      match runXfer s c t with
      | .error e => cmdFault s c e (5 + t.arm.engine) 0xFFFFFFFF
      | .ok s =>
        let own := dmaOf (coreOf s c) desc
        let s := modCore s c (fun x => setDma x desc { own with active := none, waiting := none })
        let s := postSignal s c t.arm.post
        match own.waiting with
        | none =>
          match own.collided with
          | some _ => flashCore s c
          | none => advanceCore s c
        | some q =>
          match startXfer s c desc { q with engine := t.arm.engine } with
          | .error e => cmdFault s c e (5 + t.arm.engine) 0xFFFFFFFF
          | .ok none => advanceCore (postSignal s c q.post) c
          | .ok (some t) => advanceCore (modCore s c (fun x => setDma x desc { dmaOf x desc with active := some t })) c

/-- REMOTE_SEMAPHORE_SIGNAL: the oldest signal between two cores arrives (R241). -/
def meshArrive (s : State) (src dst : Nat) : State :=
  match s.mesh.find? (fun m => decide (m.src = src ∧ m.dst = dst)) with
  | none => s
  | some m => advanceCore (addSem { s with mesh := s.mesh.erase m } dst (BitVec.ofNat 8 m.sem) m.count) dst

/-- The command that waits at a unit's queue head. -/
def headWait (x : Core) (u : Nat) : Option QCmd :=
  match (unitQ x u).queue with
  | q :: _ =>
    if (unitQ x (busyKey q.op)).busy.isNone ∧ q.hdr.waitCount ≠ 0 ∧ ¬ q.taken ∧ ¬ waitMet x q.hdr then some q else none
  | [] => none

/-- The command for a unit that waits at the fetch point as a batten (R236). -/
def fetchWait (x : Core) (u : Nat) : Option QCmd :=
  match x.window with
  | q :: _ => if opUnit q.op = u ∧ ¬ x.stepEnded ∧ isBatten x q.hdr ∧ ¬ waitMet x q.hdr then some q else none
  | [] => none

/-- The command of a unit whose wait is not satisfied, at its queue head or at the fetch point: the one of the earlier deadline
where both wait. -/
def waitingAt (x : Core) (u : Nat) : Option QCmd :=
  match headWait x u, fetchWait x u with
  | some p, some q => if q.hdr.deadline.toNat < p.hdr.deadline.toNat then some q else some p
  | some p, none => some p
  | none, r => r

/-- The link whose semaphore a command of a core waits on: consumer index and ring; ring 0xFF where no ring has it. A consumer waits
on fill, a producer on room. -/
def waitLink (x : Core) (k : CoreCtx) (sem : Byte) : Nat × Nat :=
  match x.rings.find? (fun e => decide (e.2.slots ≠ 0) &&
      (decide (e.2.fillSem = sem) && bit e.2.flags.toNat 2 || decide (e.2.roomSem = sem) && bit e.2.flags.toNat 1)) with
  | some e => (e.2.consumerIdx.toNat, e.1)
  | none => (k.idx, 0xFF)

/-- Syndrome of a link fault (Table 17.2); the cycles waited are a free value, since the model counts none. -/
def linkSyn (s : State) (u : W32) : Nat := (u.toNat % 16777216) * 4294967296 + (Config.freeWord s.fresh).toNat

/-- The commit command of a step's lead core waits (R255); its deadline is W less 470 cycles. DEDUCED: unit 7, whose engine writes the
record. -/
def commitWaits (s : State) (x : Core) (u : Nat) : Bool :=
  match x.ctx with
  | none => false
  | some k => decide (u = 7) && decide (k.idx = x.prog.leadIdx) && x.stepEnded &&
      decide ((tget 0 x.sems x.prog.commitSem).toNat < (workCores s k.bay k.group).length)

/-- Semaphore whose wait by a unit of a core is not satisfied: a command's, or the commit command's. -/
def overrunSem (s : State) (x : Core) (u : Nat) : Option Byte :=
  match waitingAt x u with
  | some q => some q.hdr.waitSem
  | none => if commitWaits s x u then some (BitVec.ofNat 8 x.prog.commitSem) else none

/-- SCHEDULE_OVERRUN (R258, R260). -/
def overrunAt (s : State) (c u : Nat) : State :=
  if ¬ coreRuns s c then s
  else
    let x := coreOf s c
    match x.ctx, overrunSem s x u with
    | some k, some sem =>
      let l := waitLink x k sem
      let lu := uLink k.bay l.1 l.2
      linkFault { s with fresh := s.fresh + 1 } k.bay k.group k.yealm (mkFault 0x0114 lu (linkSyn s lu))
    | _, _ => s

/-- The core waits on a link of its bay. -/
def waitsOn (x : Core) (idx ring : Nat) : Bool :=
  match x.ctx with
  | none => false
  | some k => (List.range 9).any (fun u => ((waitingAt x u).map (fun q => decide (waitLink x k q.hdr.waitSem = (idx, ring)))).getD false)

/-- Firmware waits on a cross-bay link of a bay: entries of session ring `ring` mod 64 stand in its bulk queue (R212, R256). -/
def carrierWaits (s : State) (b ring : Nat) : Bool :=
  decide (64 ≤ ring) && ((bayOf s b).map (fun y => y.bulk.any (fun k => match k.kind with
    | .ringCarry _ r => decide (r = ring - 64)
    | _ => false))).getD false

/-- LINK_STALL (R259, R260): the link of a bay by its consumer core and ring. The step whose command waits fails; where firmware
alone waits, the link is flashed. A link without a waiting end has no timer. -/
def linkStalls (s : State) (b idx ring : Nat) : State :=
  let lu := uLink b idx ring
  let f := mkFault 0x0115 lu (linkSyn s lu)
  match (s.cores.find? (fun e => ((e.2.ctx.map (fun k => decide (k.bay = b))).getD false) && waitsOn e.2 idx ring)).bind
      (fun e => e.2.ctx) with
  | some k => linkFault { s with fresh := s.fresh + 1 } b k.group k.yealm f
  | none => if carrierWaits s b ring then flash (logFault { s with fresh := s.fresh + 1 } f) lu else s

/-- The mixer has filled the next block table (R190): the store keeps 64, the oldest gives way. -/
def tableFilled (x : Core) : Core :=
  match x.rng.fills with
  | [] => x
  | b :: rest =>
    let ts := x.rng.tables ++ [b.table]
    coreAdd .rngBlockFills 1 { x with rng := { x.rng with tables := ts.drop (ts.length - 64), fills := rest } }

end Sys2Proof.Machine
end

