-- ==== Sys2Proof/Machine/CoreExec.lean ====
section
/-!
DEFINITION. Sys2Proof/Machine/CoreExec.lean: the meanings of the core command rows: a command arrives in its core's window
and the core goes on as far as it can (spec/11).
-/
namespace Sys2Proof.Machine

open Sys2Proof

/-- NOP (Table 11.15). -/
def execNop (core : Fin 64) (h : CmdHdr) (s : State) : Host.Outcome State Fault Refusal :=
  .next (submit s core h .nop)
/-- SLOT_LOOP (R265). -/
def execSlotLoop (core : Fin 64) (h : CmdHdr) (bodyCount : W16) (s : State) : Host.Outcome State Fault Refusal :=
  .next (submit s core h (.slotLoop bodyCount))
/-- DESC_WRITE (Table 11.15, R248). -/
def execDescWrite (core : Fin 64) (h : CmdHdr) (desc : Byte) (constAt : W32) (s : State) : Host.Outcome State Fault Refusal :=
  .next (submit s core h (.descWrite desc constAt))
/-- RING_WRITE (Table 11.15). -/
def execRingWrite (core : Fin 64) (h : CmdHdr) (ring : Byte) (constAt : W32) (s : State) : Host.Outcome State Fault Refusal :=
  .next (submit s core h (.ringWrite ring constAt))
/-- MATMUL (R78). -/
def execMatmul (core : Fin 64) (h : CmdHdr) (o : ArrOps) (s : State) : Host.Outcome State Fault Refusal :=
  .next (submit s core h (.matmul o))
/-- DIAG (R126). -/
def execDiag (core : Fin 64) (h : CmdHdr) (o : ArrOps) (s : State) : Host.Outcome State Fault Refusal :=
  .next (submit s core h (.diag o))
/-- WINO_OUT (R129). -/
def execWinoOut (core : Fin 64) (h : CmdHdr) (o : WinoOps) (s : State) : Host.Outcome State Fault Refusal :=
  .next (submit s core h (.winoOut o))
/-- CARRY (R83). -/
def execCarry (core : Fin 64) (h : CmdHdr) (o : CarryOps) (s : State) : Host.Outcome State Fault Refusal :=
  .next (submit s core h (.carry o))
/-- ELEMENT (Table 5.1). -/
def execElement (core : Fin 64) (h : CmdHdr) (o : VecOps) (s : State) : Host.Outcome State Fault Refusal :=
  .next (submit s core h (.element o))
/-- CONVERT (R99). -/
def execConvert (core : Fin 64) (h : CmdHdr) (o : VecOps) (s : State) : Host.Outcome State Fault Refusal :=
  .next (submit s core h (.convert o))
/-- FUNC (R102). -/
def execFunc (core : Fin 64) (h : CmdHdr) (o : VecOps) (s : State) : Host.Outcome State Fault Refusal :=
  .next (submit s core h (.func o))
/-- REDUCE (R100). -/
def execReduce (core : Fin 64) (h : CmdHdr) (o : VecOps) (s : State) : Host.Outcome State Fault Refusal :=
  .next (submit s core h (.reduce o))
/-- SOFTMAX (R105). -/
def execSoftmax (core : Fin 64) (h : CmdHdr) (o : VecOps) (s : State) : Host.Outcome State Fault Refusal :=
  .next (submit s core h (.softmax o))
/-- QUANT (R52). -/
def execQuant (core : Fin 64) (h : CmdHdr) (o : VecOps) (s : State) : Host.Outcome State Fault Refusal :=
  .next (submit s core h (.quant o))
/-- RESCALE (R57, R109). -/
def execRescale (core : Fin 64) (h : CmdHdr) (o : VecOps) (s : State) : Host.Outcome State Fault Refusal :=
  .next (submit s core h (.rescale o))
/-- GATE (R107, R108). -/
def execGate (core : Fin 64) (h : CmdHdr) (o : VecOps) (s : State) : Host.Outcome State Fault Refusal :=
  .next (submit s core h (.gate o))
/-- HADAMARD (R111). -/
def execHadamard (core : Fin 64) (h : CmdHdr) (o : VecOps) (s : State) : Host.Outcome State Fault Refusal :=
  .next (submit s core h (.hadamard o))
/-- UPSAMPLE (R125). -/
def execUpsample (core : Fin 64) (h : CmdHdr) (o : VecOps) (s : State) : Host.Outcome State Fault Refusal :=
  .next (submit s core h (.upsample o))
/-- SAMPLE (R165). -/
def execSample (core : Fin 64) (h : CmdHdr) (o : SampleOps) (s : State) : Host.Outcome State Fault Refusal :=
  .next (submit s core h (.sample o))
/-- MARK (R174). -/
def execMarkCmd (core : Fin 64) (h : CmdHdr) (o : MarkOps) (s : State) : Host.Outcome State Fault Refusal :=
  .next (submit s core h (.mark o))
/-- ARM (R245). -/
def execArm (core : Fin 64) (h : CmdHdr) (o : ArmOps) (s : State) : Host.Outcome State Fault Refusal :=
  .next (submit s core h (.arm o))
/-- RESTORE (Table 7.7). -/
def execRestore (core : Fin 64) (h : CmdHdr) (o : SrOps) (s : State) : Host.Outcome State Fault Refusal :=
  .next (submit s core h (.restore o))
/-- SAVE (Table 7.7). -/
def execSave (core : Fin 64) (h : CmdHdr) (o : SrOps) (s : State) : Host.Outcome State Fault Refusal :=
  .next (submit s core h (.save o))
/-- SPILL (R288). -/
def execSpill (core : Fin 64) (h : CmdHdr) (o : SrOps) (s : State) : Host.Outcome State Fault Refusal :=
  .next (submit s core h (.spill o))
/-- UNSPILL (R289). -/
def execUnspill (core : Fin 64) (h : CmdHdr) (o : SrOps) (s : State) : Host.Outcome State Fault Refusal :=
  .next (submit s core h (.unspill o))
/-- COMPAT_LOAD (R192, R196). -/
def execCompatLoad (core : Fin 64) (h : CmdHdr) (spad : W32) (s : State) : Host.Outcome State Fault Refusal :=
  .next (submit s core h (.compatLoad spad))
/-- COMPAT_SAVE (R192, R196). -/
def execCompatSave (core : Fin 64) (h : CmdHdr) (spad : W32) (s : State) : Host.Outcome State Fault Refusal :=
  .next (submit s core h (.compatSave spad))
/-- DRAW (R189). -/
def execDraw (core : Fin 64) (h : CmdHdr) (o : DrawOps) (s : State) : Host.Outcome State Fault Refusal :=
  .next (submit s core h (.draw o))

/-- COMMAND_COMPLETE (R234). -/
def execCommandComplete (core : Fin 64) (unit : Fin 9) (s : State) : Host.Outcome State Fault Refusal := .next (completeUnit s core unit)
/-- DMA_TRANSFER_COMPLETE (R247). -/
def execDmaTransferComplete (core : Fin 64) (desc : Fin 128) (s : State) : Host.Outcome State Fault Refusal := .next (completeXfer s core desc)
/-- REMOTE_SEMAPHORE_SIGNAL (R241). -/
def execRemoteSemaphoreSignal (src dst : Fin 64) (s : State) : Host.Outcome State Fault Refusal := .next (meshArrive s src dst)
/-- SCHEDULE_OVERRUN (R258). -/
def execScheduleOverrun (core : Fin 64) (unit : Fin 9) (s : State) : Host.Outcome State Fault Refusal := .next (overrunAt s core unit)
/-- LINK_STALL (R259). -/
def execLinkStall (bay : Nat) (coreIdx ring : Byte) (s : State) : Host.Outcome State Fault Refusal := .next (linkStalls s bay coreIdx.toNat ring.toNat)
/-- RNG_TABLE_FILL (R190). -/
def execRngTableFill (core : Fin 64) (s : State) : Host.Outcome State Fault Refusal := .next (modCore s core tableFilled)

end Sys2Proof.Machine
end

