-- ==== Sys2Proof/Machine/Sideband.lean ====
section
/-!
DEFINITION. Sys2Proof/Machine/Sideband.lean: the test access port, the memory and SerDes test registers, and the management
sideband with its telemetry block (spec/21).
-/
namespace Sys2Proof.Machine

open Sys2Proof

/-! ### Test access port (R494 to R497) -/

/-- Device identity register (Table 21.2). -/
def idcodeReg : W32 := 0x10640997#32
/-- Firmware identity register: `fw_version`, 0 before firmware starts. -/
def usercodeReg (s : State) : W32 := BitVec.ofNat 32 (fwVersion s)

/-- Changes the test access port. -/
def modTap (s : State) (f : Tap → Tap) : State := { s with tap := f s.tap }

/-- Selects an instruction that drives no pin. -/
def selectIr (s : State) (code : Byte) : State := modTap s (fun t => { t with ir := code, drive := 0 })

/-- An instruction of the cold test window: outside it, it acts as BYPASS (R495). -/
def coldIr (s : State) (code drive : Byte) : State :=
  if s.boot.coldWindow then modTap s (fun t => { t with ir := code, drive := drive }) else selectIr s 0xFF

/-- Codes that Table 21.1 lists beside BYPASS. -/
def irListed (code : Byte) : Bool := [1, 2, 3, 4, 5, 6, 0x20, 0x21].contains code.toNat

/-- A code that acts as BYPASS now (R494, R495). -/
def actsBypass (s : State) (code : Byte) : Bool :=
  !irListed code || (!s.boot.coldWindow && decide (4 ≤ code.toNat))

/-- SAMPLE/PRELOAD: samples the pins and loads the update stage. -/
def samplePins (s : State) (pins load : List Bool) : State :=
  modTap s (fun t => { t with ir := 3, drive := 0, pins := pins, update := load })

/-! ### Memory test (R498) -/

/-- Memory test register (Table 21.3). -/
def mbistReg (t : Tap) : W32 :=
  BitVec.ofNat 32 (b2n t.mbRun * 2147483648 + b2n t.mbDone * 1073741824 + b2n t.mbFail * 536870912 + t.mbTarget.toNat * 65536 +
    t.mbFailType.toNat * 256 + t.mbFailIndex.toNat)

/-- A target that has a test. -/
def mbistTarget (t : Nat) : Bool := within t 1 7 || decide (t = 0xFF)

/-- Update-DR of the memory test register: ignored while a test runs. -/
def mbistWrite (s : State) (v : W32) : State :=
  if ¬ s.boot.coldWindow ∨ s.tap.mbRun then s
  else
    let target := bits v.toNat 23 16
    let go := v.getLsbD 31 && mbistTarget target
    modTap s (fun t =>
      let t := { t with mbTarget := BitVec.ofNat 8 target }
      if go then { t with mbRun := true, mbDone := false, mbFail := false, mbFailType := 0, mbFailIndex := 0 } else t)

/-- A test leaves its target's memories at zero. -/
def mbistZero (s : State) (target : Nat) : State :=
  let on (k : Nat) : Bool := decide (target = k ∨ target = 0xFF)
  let s := if on 1 then { s with cores := s.cores.map (fun (e : Nat × Core) => (e.1, { e.2 with spad := [] })) } else s
  let s := if on 2 then { s with cores := s.cores.map (fun (e : Nat × Core) => (e.1, { e.2 with acc := [] })) } else s
  let s := if on 3 then { s with slices := s.slices.map (fun (e : Nat × Slice) => (e.1, { e.2 with lines := [] })) } else s
  let s := if on 5 then iter (fun n s => clearPort s n) 4 s else s
  if on 6 then { s with thatch := [] } else s

/-- MBIST_DONE: the test ends, with the type and index of the first failing unit. -/
def mbistEnd (s : State) (failed : Option (Byte × Byte)) : State :=
  if ¬ s.tap.mbRun then s
  else
    let s := mbistZero s s.tap.mbTarget.toNat
    modTap s (fun t => { t with mbRun := false, mbDone := true, mbFail := failed.isSome, mbFailType := (failed.map Prod.fst).getD 0
                                mbFailIndex := (failed.map Prod.snd).getD 0 })

/-! ### SerDes test (R499) -/

/-- SerDes test register (Table 21.5). -/
def serdesReg (t : Tap) : W64 :=
  BitVec.ofNat 64 (b2n t.sdRun * 2 ^ 63 + t.sdLoop.toNat * 2 ^ 60 + t.sdPattern.toNat * 2 ^ 56 + t.sdRate.toNat * 2 ^ 54 +
    t.sdLane.toNat * 2 ^ 48 + b2n t.sdLock * 2 ^ 47 + t.sdErrors)

/-- Update-DR of the SerDes test register: reserved codes leave every field unchanged. -/
def serdesWrite (s : State) (v : W64) : State :=
  let n := v.toNat
  if ¬ s.boot.coldWindow ∨ 3 < bits n 59 56 ∨ 1 < bits n 55 54 then s
  else
    modTap s (fun t =>
      let run := bit n 63
      { t with sdRun := run, sdLoop := BitVec.ofNat 3 (bits n 62 60), sdPattern := BitVec.ofNat 4 (bits n 59 56)
               sdRate := BitVec.ofNat 2 (bits n 55 54), sdLane := BitVec.ofNat 4 (bits n 51 48), sdLock := false
               sdErrors := if run then 0 else t.sdErrors })

/-- SERDES_CHECKER_LOCK: the checker gains or loses lock; bit errors count from each lock. -/
def checkerLock (s : State) (locked : Bool) (errors : Nat) : State :=
  if ¬ s.tap.sdRun ∨ s.tap.sdPattern = 3 then s
  else modTap s (fun t =>
    let base := if locked && !t.sdLock then 0 else t.sdErrors
    { t with sdLock := locked, sdErrors := min (base + errors) 4294967295 })

/-- TAP_REGISTER_WRITE: Update-DR of a test data register. -/
def tapWrite (s : State) (r : TapReg) (v : W64) : State :=
  match r with
  | .bypass | .identity | .firmwareId => s
  | .boundary => modTap s (fun t => { t with update := (List.range 64).map (fun i => v.getLsbD i) ++ t.update.drop 64 })
  | .mbist => mbistWrite s (v.setWidth 32)
  | .serdes => serdesWrite s v

/-! ### Management sideband (R500, R501) -/

/-- A field that firmware keeps: 0xFF until the stage "profiles" completes. -/
def fwField (s : State) (bs : List Byte) : List Byte := if s.boot.complete then bs else List.replicate bs.length 0xFF

/-- `tlm_flags` (Table 21.6). -/
def tlmFlags (s : State) : Nat :=
  b2n s.boot.faultN + 2 * b2n s.power.alarm + 4 * b2n s.boot.coldWindow + 8 * b2n ((s.boot.fw.map (fun f => f.trial)).getD false)

/-- The telemetry block (Table 21.6). -/
def tlmBlock (s : State) : List Byte :=
  le 4 0x544D4C4D ++ le 1 1 ++ [s.boot.stage] ++ fwField s (le 1 (powerCode s)) ++ le 1 0xB0 ++ fwField s (le 4 (fwVersion s)) ++
    fwField s (le 1 s.boot.profileActive) ++ le 1 (tlmFlags s) ++ fwField s (le 2 (firstSource s)) ++ s.fuses.serial ++
    le 4 s.side.refreshes ++ le 2 (tjMax s).toNat ++ le 2 (tjMin s).toNat ++
    (List.range 8).flatMap (fun i => le 2 (tget 0 s.power.rails i)) ++ fwField s (le 4 s.deviceRecoveries) ++ zeros 4 ++
    (sensorList s).flatMap (fun r => le 2 r.toNat) ++ zeros 32

/-- TELEMETRY_REFRESH. -/
def refreshTlm (s : State) : State :=
  if ¬ s.boot.pwrok then s
  else
    let s := { s with side := { s.side with refreshes := (s.side.refreshes + 1) % 4294967296 } }
    { s with side := { s.side with block := tlmBlock s } }

/-- I2C_POINTER_WRITE: two bytes set the read pointer; a third is not acknowledged, and one alone leaves it. -/
def pointerWrite (s : State) (bs : List Byte) : State :=
  if ¬ s.boot.pwrok ∨ bs.length < 2 then s else { s with side := { s.side with pointer := fld bs 0 2 } }

/-- Byte of the telemetry block at a read offset. -/
def tlmByte (block : List Byte) (a : Nat) : Byte := if a < 256 then block.getD a 0 else 0

/-- I2C_READ: bytes of one refresh from the pointer on. -/
def i2cReadRun (s : State) (n : Nat) : State :=
  if ¬ s.boot.pwrok then s
  else
    let p := s.side.pointer
    let bs := (List.range n).map (fun k => tlmByte s.side.block ((p + k) % 65536))
    emit { s with side := { s.side with pointer := (p + n) % 65536 } } (.i2c bs)

/-! ### Meanings -/

/-- TAP_RESET (R494, R496): any test in progress is abandoned. -/
def execTapReset (s : State) : Host.Outcome State Fault Refusal := .next (modTap s (fun t => { tapTestsOff t with ir := 1 }))
/-- IDCODE (R497). -/
def execIdcode (s : State) : Host.Outcome State Fault Refusal := .next (selectIr s 0x01)
/-- USERCODE (R494). -/
def execUsercode (s : State) : Host.Outcome State Fault Refusal := .next (selectIr s 0x02)
/-- SAMPLE/PRELOAD (R494). -/
def execSamplePreload (pins load : List Bool) (s : State) : Host.Outcome State Fault Refusal := .next (samplePins s pins load)
/-- EXTEST (R495). -/
def execExtest (s : State) : Host.Outcome State Fault Refusal := .next (coldIr s 0x04 1)
/-- CLAMP (R495). -/
def execClamp (s : State) : Host.Outcome State Fault Refusal := .next (coldIr s 0x05 2)
/-- HIGHZ (R495). -/
def execHighz (s : State) : Host.Outcome State Fault Refusal := .next (coldIr s 0x06 3)
/-- BYPASS (R494). -/
def execBypass (code : Byte) (s : State) : Host.Outcome State Fault Refusal := .next (if actsBypass s code then selectIr s 0xFF else s)
/-- MBIST_RUN (R498). -/
def execMbistRun (value : W32) (s : State) : Host.Outcome State Fault Refusal := .next (mbistWrite s value)
/-- MBIST_DONE (R498). -/
def execMbistDone (failed : Option (Byte × Byte)) (s : State) : Host.Outcome State Fault Refusal := .next (mbistEnd s failed)
/-- SERDES_TEST_RUN (R499). -/
def execSerdesTestRun (value : W64) (s : State) : Host.Outcome State Fault Refusal := .next (serdesWrite s value)
/-- TAP_REGISTER_WRITE (R494). -/
def execTapRegisterWrite (reg : TapReg) (value : W64) (s : State) : Host.Outcome State Fault Refusal := .next (tapWrite s reg value)
/-- SERDES_CHECKER_LOCK (R499). -/
def execSerdesCheckerLock (locked : Bool) (errors : Nat) (s : State) : Host.Outcome State Fault Refusal := .next (checkerLock s locked errors)
/-- I2C_POINTER_WRITE (R500). -/
def execI2cPointerWrite (bytes : List Byte) (s : State) : Host.Outcome State Fault Refusal := .next (pointerWrite s bytes)
/-- I2C_READ (R500). -/
def execI2cRead (count : Nat) (s : State) : Host.Outcome State Fault Refusal := .next (i2cReadRun s count)
/-- TELEMETRY_REFRESH (R501). -/
def execTelemetryRefresh (s : State) : Host.Outcome State Fault Refusal := .next (refreshTlm s)

end Sys2Proof.Machine
end

