-- ==== Sys2Proof/Machine/Dispatch.lean ====
section
/-!
DEFINITION. Sys2Proof/Machine/Dispatch.lean: one arm per command, each one direct call of its meaning.
-/
namespace Sys2Proof.Machine

open Sys2Proof

def exec (i : Instr) (s : State) : Host.Outcome State Fault Refusal :=
  match i with
  | .resync m => Sys2Proof.Machine.execResync m s
  | .summary m => Sys2Proof.Machine.execSummary m s
  | .profileSelect m => Sys2Proof.Machine.execProfileSelect m s
  | .powerState m => Sys2Proof.Machine.execPowerState m s
  | .powerCap m => Sys2Proof.Machine.execPowerCap m s
  | .loadBuild m => Sys2Proof.Machine.execLoadBuild m s
  | .loadBuildAbort m => Sys2Proof.Machine.execLoadBuildAbort m s
  | .rangeReload m => Sys2Proof.Machine.execRangeReload m s
  | .unloadBuild m => Sys2Proof.Machine.execUnloadBuild m s
  | .bayCreate m => Sys2Proof.Machine.execBayCreate m s
  | .bayDestroy m => Sys2Proof.Machine.execBayDestroy m s
  | .planBind m => Sys2Proof.Machine.execPlanBind m s
  | .planUnbind m => Sys2Proof.Machine.execPlanUnbind m s
  | .yealmForm m => Sys2Proof.Machine.execYealmForm m s
  | .yealmRelease m => Sys2Proof.Machine.execYealmRelease m s
  | .configWrite m => Sys2Proof.Machine.execConfigWrite m s
  | .configCommit m => Sys2Proof.Machine.execConfigCommit m s
  | .configApply recordId recInst => Sys2Proof.Machine.execConfigApply recordId recInst s
  | .configRead m => Sys2Proof.Machine.execConfigRead m s
  | .faultLogRead m => Sys2Proof.Machine.execFaultLogRead m s
  | .faultClear m => Sys2Proof.Machine.execFaultClear m s
  | .diagRead m => Sys2Proof.Machine.execDiagRead m s
  | .fwUpdate m => Sys2Proof.Machine.execFwUpdate m s
  | .fwUpdateAbort m => Sys2Proof.Machine.execFwUpdateAbort m s
  | .flashSlotEraseDone => Sys2Proof.Machine.execFlashSlotEraseDone s
  | .attest m => Sys2Proof.Machine.execAttest m s
  | .attestSigningDone => Sys2Proof.Machine.execAttestSigningDone s
  | .voiceStore m => Sys2Proof.Machine.execVoiceStore m s
  | .voiceDrop m => Sys2Proof.Machine.execVoiceDrop m s
  | .sessionOpen m => Sys2Proof.Machine.execSessionOpen m s
  | .sessionClose m => Sys2Proof.Machine.execSessionClose m s
  | .textPush m => Sys2Proof.Machine.execTextPush m s
  | .speak m => Sys2Proof.Machine.execSpeak m s
  | .stop m => Sys2Proof.Machine.execStop m s
  | .attach m => Sys2Proof.Machine.execAttach m s
  | .detach m => Sys2Proof.Machine.execDetach m s
  | .sessionExport m => Sys2Proof.Machine.execSessionExport m s
  | .sessionImport m => Sys2Proof.Machine.execSessionImport m s
  | .enrollStart m => Sys2Proof.Machine.execEnrollStart m s
  | .enrollData m => Sys2Proof.Machine.execEnrollData m s
  | .enrollCaptureEnd session => Sys2Proof.Machine.execEnrollCaptureEnd session s
  | .lmxOpen g => Sys2Proof.Machine.execLmxOpen g s
  | .lmxData g => Sys2Proof.Machine.execLmxData g s
  | .lmxAck g => Sys2Proof.Machine.execLmxAck g s
  | .lmxClose g => Sys2Proof.Machine.execLmxClose g s
  | .lmxReset g => Sys2Proof.Machine.execLmxReset g s
  | .lmxKeepalive g => Sys2Proof.Machine.execLmxKeepalive g s
  | .dgramFromHost g => Sys2Proof.Machine.execDgramFromHost g s
  | .invalidSegment segType g => Sys2Proof.Machine.execInvalidSegment segType g s
  | .ackDelayExpiry conn => Sys2Proof.Machine.execAckDelayExpiry conn s
  | .rtoExpiry conn net => Sys2Proof.Machine.execRtoExpiry conn net s
  | .keepaliveTimerExpiry conn net => Sys2Proof.Machine.execKeepaliveTimerExpiry conn net s
  | .holdExpiry conn => Sys2Proof.Machine.execHoldExpiry conn s
  | .closingEnd conn => Sys2Proof.Machine.execClosingEnd conn s
  | .arpRequest port f senderIp targetIp => Sys2Proof.Machine.execArpRequest port f senderIp targetIp s
  | .neighbourSolicitation port f srcIp target => Sys2Proof.Machine.execNeighbourSolicitation port f srcIp target s
  | .echoRequest port f v6 srcIp dstIp payload => Sys2Proof.Machine.execEchoRequest port f v6 srcIp dstIp payload s
  | .pauseFrame port f quanta => Sys2Proof.Machine.execPauseFrame port f quanta s
  | .unsupportedFrame port f => Sys2Proof.Machine.execUnsupportedFrame port f s
  | .linkUp port => Sys2Proof.Machine.execLinkUp port s
  | .anFail port => Sys2Proof.Machine.execAnFail port s
  | .linkLost port => Sys2Proof.Machine.execLinkLost port s
  | .portLinkIdlePoint port => Sys2Proof.Machine.execPortLinkIdlePoint port s
  | .ringOutputTake session => Sys2Proof.Machine.execRingOutputTake session s
  | .chunkBoundary => Sys2Proof.Machine.execChunkBoundary s
  | .sliceStart bay => Sys2Proof.Machine.execSliceStart bay s
  | .commit yealm => Sys2Proof.Machine.execCommit yealm s
  | .containedFault f => Sys2Proof.Machine.execContainedFault f s
  | .coreLend bay => Sys2Proof.Machine.execCoreLend bay s
  | .reclaimStart bay => Sys2Proof.Machine.execReclaimStart bay s
  | .reclaimComplete bay cycles => Sys2Proof.Machine.execReclaimComplete bay cycles s
  | .beSliceEnd bay group overrun => Sys2Proof.Machine.execBeSliceEnd bay group overrun s
  | .reserveWindowPiece bay => Sys2Proof.Machine.execReserveWindowPiece bay s
  | .nop core h => Sys2Proof.Machine.execNop core h s
  | .slotLoop core h bodyCount => Sys2Proof.Machine.execSlotLoop core h bodyCount s
  | .descWrite core h desc constAt => Sys2Proof.Machine.execDescWrite core h desc constAt s
  | .ringWrite core h ring constAt => Sys2Proof.Machine.execRingWrite core h ring constAt s
  | .matmul core h o => Sys2Proof.Machine.execMatmul core h o s
  | .diag core h o => Sys2Proof.Machine.execDiag core h o s
  | .winoOut core h o => Sys2Proof.Machine.execWinoOut core h o s
  | .carry core h o => Sys2Proof.Machine.execCarry core h o s
  | .element core h o => Sys2Proof.Machine.execElement core h o s
  | .convert core h o => Sys2Proof.Machine.execConvert core h o s
  | .func core h o => Sys2Proof.Machine.execFunc core h o s
  | .reduce core h o => Sys2Proof.Machine.execReduce core h o s
  | .softmax core h o => Sys2Proof.Machine.execSoftmax core h o s
  | .quant core h o => Sys2Proof.Machine.execQuant core h o s
  | .rescale core h o => Sys2Proof.Machine.execRescale core h o s
  | .gate core h o => Sys2Proof.Machine.execGate core h o s
  | .hadamard core h o => Sys2Proof.Machine.execHadamard core h o s
  | .upsample core h o => Sys2Proof.Machine.execUpsample core h o s
  | .sample core h o => Sys2Proof.Machine.execSample core h o s
  | .markCmd core h o => Sys2Proof.Machine.execMarkCmd core h o s
  | .arm core h o => Sys2Proof.Machine.execArm core h o s
  | .restore core h o => Sys2Proof.Machine.execRestore core h o s
  | .save core h o => Sys2Proof.Machine.execSave core h o s
  | .spill core h o => Sys2Proof.Machine.execSpill core h o s
  | .unspill core h o => Sys2Proof.Machine.execUnspill core h o s
  | .compatLoad core h spad => Sys2Proof.Machine.execCompatLoad core h spad s
  | .compatSave core h spad => Sys2Proof.Machine.execCompatSave core h spad s
  | .draw core h o => Sys2Proof.Machine.execDraw core h o s
  | .commandComplete core unit => Sys2Proof.Machine.execCommandComplete core unit s
  | .dmaTransferComplete core desc => Sys2Proof.Machine.execDmaTransferComplete core desc s
  | .remoteSemaphoreSignal src dst => Sys2Proof.Machine.execRemoteSemaphoreSignal src dst s
  | .scheduleOverrun core unit => Sys2Proof.Machine.execScheduleOverrun core unit s
  | .linkStall bay coreIdx ring => Sys2Proof.Machine.execLinkStall bay coreIdx ring s
  | .rngTableFill core => Sys2Proof.Machine.execRngTableFill core s
  | .refresh channel performed => Sys2Proof.Machine.execRefresh channel performed s
  | .patrolScrub channel r => Sys2Proof.Machine.execPatrolScrub channel r s
  | .phyRecalibration channel forced ok => Sys2Proof.Machine.execPhyRecalibration channel forced ok s
  | .maintenanceCredit channel => Sys2Proof.Machine.execMaintenanceCredit channel s
  | .pageRewriteComplete build copy page => Sys2Proof.Machine.execPageRewriteComplete build copy page s
  | .quietPeriodExpiry unit => Sys2Proof.Machine.execQuietPeriodExpiry unit s
  | .selfTestComplete unit pass => Sys2Proof.Machine.execSelfTestComplete unit pass s
  | .fatalFault f => Sys2Proof.Machine.execFatalFault f s
  | .firmwareWatchdogExpiry => Sys2Proof.Machine.execFirmwareWatchdogExpiry s
  | .deviceQuietPeriodExpiry => Sys2Proof.Machine.execDeviceQuietPeriodExpiry s
  | .warmReinitComplete => Sys2Proof.Machine.execWarmReinitComplete s
  | .backoffExpiry => Sys2Proof.Machine.execBackoffExpiry s
  | .sensorReading readings => Sys2Proof.Machine.execSensorReading readings s
  | .thermalAlarmClear => Sys2Proof.Machine.execThermalAlarmClear s
  | .supplyCheck milliVolts => Sys2Proof.Machine.execSupplyCheck milliVolts s
  | .refclkLost => Sys2Proof.Machine.execRefclkLost s
  | .pllLossOfLock => Sys2Proof.Machine.execPllLossOfLock s
  | .sdrefLost net => Sys2Proof.Machine.execSdrefLost net s
  | .sdrefRestored net => Sys2Proof.Machine.execSdrefRestored net s
  | .pwrokRise => Sys2Proof.Machine.execPwrokRise s
  | .pwrokFall => Sys2Proof.Machine.execPwrokFall s
  | .resetNRise profsel => Sys2Proof.Machine.execResetNRise profsel s
  | .warmReset c profsel => Sys2Proof.Machine.execWarmReset c profsel s
  | .bootComplete => Sys2Proof.Machine.execBootComplete s
  | .bootStop stage => Sys2Proof.Machine.execBootStop stage s
  | .trialBootTimeout profsel => Sys2Proof.Machine.execTrialBootTimeout profsel s
  | .powerStateEntryComplete => Sys2Proof.Machine.execPowerStateEntryComplete s
  | .powerStateExitComplete => Sys2Proof.Machine.execPowerStateExitComplete s
  | .wake w => Sys2Proof.Machine.execWake w s
  | .tdmFrame tdm period periods inputs => Sys2Proof.Machine.execTdmFrame tdm period periods inputs s
  | .clockLoss tdm => Sys2Proof.Machine.execClockLoss tdm s
  | .relockLocked tdm period => Sys2Proof.Machine.execRelockLocked tdm period s
  | .tdmRestartRampDone tdm => Sys2Proof.Machine.execTdmRestartRampDone tdm s
  | .bargeGateBlock tdm slot levelDb16 => Sys2Proof.Machine.execBargeGateBlock tdm slot levelDb16 s
  | .pdmOutputSample mic clocked value => Sys2Proof.Machine.execPdmOutputSample mic clocked value s
  | .i2cPointerWrite bytes => Sys2Proof.Machine.execI2cPointerWrite bytes s
  | .i2cRead count => Sys2Proof.Machine.execI2cRead count s
  | .telemetryRefresh => Sys2Proof.Machine.execTelemetryRefresh s
  | .tapReset => Sys2Proof.Machine.execTapReset s
  | .idcode => Sys2Proof.Machine.execIdcode s
  | .usercode => Sys2Proof.Machine.execUsercode s
  | .samplePreload pins load => Sys2Proof.Machine.execSamplePreload pins load s
  | .extest => Sys2Proof.Machine.execExtest s
  | .clamp => Sys2Proof.Machine.execClamp s
  | .highz => Sys2Proof.Machine.execHighz s
  | .bypass code => Sys2Proof.Machine.execBypass code s
  | .mbistRun value => Sys2Proof.Machine.execMbistRun value s
  | .mbistDone failed => Sys2Proof.Machine.execMbistDone failed s
  | .serdesTestRun value => Sys2Proof.Machine.execSerdesTestRun value s
  | .tapRegisterWrite reg value => Sys2Proof.Machine.execTapRegisterWrite reg value s
  | .bulkTransferPieceDone bay => Sys2Proof.Machine.execBulkTransferPieceDone bay s
  | .flashProgramDone => Sys2Proof.Machine.execFlashProgramDone s
  | .firmwareReloadComplete verified => Sys2Proof.Machine.execFirmwareReloadComplete verified s
  | .serdesCheckerLock locked errors => Sys2Proof.Machine.execSerdesCheckerLock locked errors s
  | .freewheelPlayTimePass tdm slot => Sys2Proof.Machine.execFreewheelPlayTimePass tdm slot s

end Sys2Proof.Machine
end

