-- ==== Sys2Proof/Machine/Step.lean ====
section
/-!
DEFINITION. Sys2Proof/Machine/Step.lean: one step of the block: the command at the front of the queue, or one idle cycle
of ARRAYCLK.
-/
namespace Sys2Proof.Machine

open Sys2Proof

/-- The block with nothing to do for one cycle of ARRAYCLK, in which a pause may end. DESIGN CHOICE, see
notes/assumptions/2.md. -/
def State.idle (s : State) : State := timeTo s (s.now + 1)

/-- One step: take the command at the front of `pending` and run it with the queue's rest; idle on an empty queue. -/
def step (s : State) : Host.Outcome State Fault Refusal :=
  match s.pending with
  | [] => .next s.idle
  | c :: rest => exec c { s with pending := rest }

/-- `s` with the command a table word spells put at the front of its queue; `s` where the word spells none. -/
def State.withFetchWord (s : State) (nbits w : Nat) : State :=
  match decodeTableWord nbits w with
  | none => s
  | some c => { s with pending := c :: s.pending }

end Sys2Proof.Machine
end

