-- ==== Sys2Proof/Machine/Operators.lean ====
section
/-!
DEFINITION. Sys2Proof/Machine/Operators.lean: the operators of Tables 2.1 to 2.4 that a plan composes from commands and that no
single command of Table 11.15 carries: durations, expert routing, early exit and silence gating (R22, R25 to R27, R34).
-/
namespace Sys2Proof.Machine

open Sys2Proof

/-! ### Durations (R25) -/

/-- Frames of a token from the duration predictor's output, and its count: rounded half to even, clamped to 1 to 255; a NaN is
1 frame. -/
def durationOf (v : W32) : Nat × Nat :=
  if fpIsNan v then (1, 1)
  else if fpIsInf v then ((if fpSign v then 1 else 255), 1)
  else
    let r := satTo 1 255 (roundDy .det (fpDy v))
    (r.1.toNat, r.2)

/-- Durations of a row of tokens and the command's saturation count. -/
def durationsOf (vs : List W32) : List Nat × Nat :=
  ((vs.map durationOf).map Prod.fst, cap16 ((vs.map durationOf).map Prod.snd).sum)

/-! ### Expert routing (R26) -/

/-- Router logits with every NaN replaced by −∞, and the number of replacements. -/
def routerLogits (l : List W32) : List W32 × Nat :=
  (l.map (fun v => if fpIsNan v then fpNegInf else v), (l.filter fpIsNan).length)

/-- What the router gives one slot for one frame: experts in the order selected, their weights, and the count. -/
structure Route where
  experts : List Nat
  weights : List W32
  sat : Nat
  deriving DecidableEq, Repr

/-- The router: the `k` largest logits, the lowest index first among equals, and the softmax of the selected logits alone
(R105). -/
def route (k : Nat) (logits : List W32) : Route :=
  let l := routerLogits logits
  let es := rankTop k (l.1.mapIdx (fun i v => (i, v)))
  { experts := es, weights := softmaxRow (es.map (fun e => l.1.getD e fpNegInf)), sat := cap16 l.2 }

/-! ### Early exit (R27) -/

/-- The largest softmax probability of an exit head's codebook-0 logits. -/
def exitProb (logits : List W32) : W32 := maxW (softmaxRow logits)

/-- The frame exits after the layer: it has a head, and the probability is at or above the layer's threshold; a NaN fails
(R105). -/
def exitsAt (l : Layer) (logits : List W32) : Bool :=
  decide (l.exitIndex ≠ 255) && !(softmaxRow logits).any fpIsNan && fcmp 5 (exitProb logits) l.exitThreshold

/-- One frame of the generator. `recur l` updates the state of layer l from its input and gives its output, `ff l` is the
layer's feed-forward block, and `heads l` are the codebook-0 logits of the exit head after layer l. The result is the state,
the output that the codebook heads read, and the layer at which the frame exited: above it every layer still updates its
state, from the exit layer's output, its feed-forward block is skipped and its exit head is not evaluated. -/
def generatorFrame {σ α : Type} (recur : Nat → σ → α → σ × α) (ff : Nat → α → α) (heads : Nat → α → List W32) :
    List Layer → Nat → Option Nat → σ → α → σ × α × Option Nat
  | [], _, exit, h, x => (h, x, exit)
  | _ :: rest, i, some e, h, x => generatorFrame recur ff heads rest (i + 1) (some e) (recur i h x).1 x
  | l :: rest, i, none, h, x =>
    let r := recur i h x
    let y := ff i r.2
    generatorFrame recur ff heads rest (i + 1) (if exitsAt l (heads i y) then some i else none) r.1 y

/-! ### Silence gating (R34, Table 2.7) -/

/-- Mean square of a chunk's up-sampled decoder output. DEDUCED: the sum of R100 over rounded squares, divided once. -/
def meanSquare (v : List W32) : W32 :=
  fdiv32 ((reduceW fadd (v.map (fun a => fmul a a))).getD 0) (dyFp32 (dyInt (v.length : Int)) false)

/-- A stream's chunk is silent: its mean square is below the build's threshold; 0.0 disables the gate (Table 2.12). -/
def silentChunk (d : ModelDesc) (v : List W32) : Bool := !fpIsZero d.silence && fcmp 2 (meanSquare v) d.silence

/-- One update of a sample-cell element: a silent stream's input is 0, so its state decays. -/
def cellUpdate (silent : Bool) (a : W16) (h u : Acc) : Acc × Nat := carryStep a h (if silent then 0 else u)

/-- One output sample of the cell: exactly zero for a silent stream. -/
def cellSample (silent : Bool) (y : W32) : W32 := if silent then 0 else y

end Sys2Proof.Machine
end

