-- ==== Sys2Proof/Safety.lean ====
section
/-!
DEFINITION. Sys2Proof/Safety.lean: the words that the statements use: what the transport moves and what it leaves alone,
when firmware takes a host message, what its response is, and when a command of a core's stream runs at once.
-/
namespace Sys2Proof.Machine

open Sys2Proof

/-! ### The machine as a whole -/

/-- The flash and the thatch lie in canonical form, and each algorithm has its four key slots (R458). -/
def State.Inv (s : State) : Prop :=
  Memory.wf 0xFF s.flash = true ∧ Memory.wf 0 s.thatch = true ∧ s.fuses.rsa.length = 4 ∧ s.fuses.slh.length = 4

/-- Key slots of which no fuse has become unblown, and no hash changed. -/
def slotsOnward (a b : List KeySlot) : Prop :=
  b.length = a.length ∧ ∀ (i : Nat) (x : KeySlot), a[i]? = some x →
    ∃ y, b[i]? = some y ∧ y.hash = x.hash ∧ y.programmed = x.programmed ∧ (x.revoked = true → y.revoked = true)

/-- Commands that may write the boot flash: those of a reset, of boot and of a firmware update. -/
def writesFlash (i : Instr) : Bool :=
  match i with
  | .resetNRise _ | .warmReset _ _ | .trialBootTimeout _ | .bootComplete | .flashSlotEraseDone | .flashProgramDone => true
  | _ => false

/-! ### Host messages -/

/-- The state without what the transport and the mailboxes move: ports, connections, mailboxes, responses owed and kept,
the record of outputs, and the counter of free values. Two states with the same `bare` agree in everything else. -/
def State.bare (s : State) : State :=
  { s with ports := [], conns := [], mail := [], mailLast := 0, unanswered := [], keeps := [], wire := [], fresh := 0 }

/-- The bytes a connection has taken from the device and not yet had acknowledged, in order: segments sent, segments that
wait, and responses that wait for room (R311, R314). -/
def stream (s : State) (c : Nat) : List Byte :=
  match connOf s c with
  | none => []
  | some x => (x.unacked ++ x.waiting).flatMap (fun g => g.payload) ++ x.respWait.flatMap (fun r => r.1)

/-- A mailbox holds nothing, or just this message, under the connection as it is now (R331). -/
def aloneIn (s : State) (typ : Nat) (m : HostMsg) (l : List MailMsg) : Bool :=
  match l with
  | [] => true
  | x :: rest => isMsg typ m x && decide (respOf x = respTo s typ m) && decide (rest = [])

/-- Firmware takes the message now (R213, R326 to R329): firmware accepts messages, the message arrives on a connection in an empty
mailbox, or waits alone in it, it is the turn of that mailbox, which R213 and the limit of 256 unanswered messages do not hold
back, and no message of an undefined type waits. -/
def taken (s : State) (typ : Nat) (m : HostMsg) : Bool :=
  let q := enqueue s typ m
  s.boot.complete && accepting s && (connOf s m.conn).isSome && aloneIn s typ m (mailbox s (m.conn % 64)) &&
    decide (nextServed q = some (m.conn % 64)) && decide (unknownCount q = 0)

/-- No message with the key of this one is kept or unanswered (R333). -/
def keyNew (s : State) (typ : Nat) (m : HostMsg) : Bool :=
  (keptOf s (respTo s typ m)).isNone &&
    s.unanswered.all (fun r => !decide (r.tag = (respTo s typ m).tag ∧ r.msgId = m.msgId))

/-- The message passes steps 1 and 2 of R332. -/
def formOk (typ : Nat) (m : HostMsg) : Bool :=
  headerOk typ m &&
    (match msgShape typ with
     | none => false
     | some sh => shapeOk sh m)

/-- The message passes steps 1 to 3 of R332 and is no re-send. -/
def clears (s : State) (typ : Nat) (m : HostMsg) : Bool :=
  formOk typ m && keyNew s typ m && (s.fault.isNone || faultStateType typ)

/-- The record kept of a message answered with a status and a body (R333). -/
def keepOf (s : State) (typ : Nat) (m : HostMsg) (status : Nat) (body : List Byte) : Keep :=
  let rt := respTo s typ m
  { tag := rt.tag, msgId := rt.msgId, typ := rt.typ, bodyCrc := rt.bodyCrc
    resp := msgBytes (typ + 32768) status m.msgId.toNat body }

/-- The message has come to its mailbox and left it, and its mailbox is the one served last (R327). -/
def Served (typ : Nat) (m : HostMsg) (s t : State) : Prop :=
  t.mail = (setMailbox (enqueue s typ m) (m.conn % 64) []).mail ∧ t.mailLast = m.conn % 64

/-- `t` has answered the message with one response, whose bytes follow everything else that its connection is to take; no
other connection is touched, what has left the device stays, and the response is kept where R333 says so. -/
def Answered (typ : Nat) (m : HostMsg) (status : Nat) (body : List Byte) (s t : State) : Prop :=
  Served typ m s t ∧ t.unanswered = s.unanswered ∧
    stream t m.conn = stream s m.conn ++ msgBytes (typ + 32768) status m.msgId.toNat body ∧
    (∀ c, c ≠ m.conn → connOf t c = connOf s c) ∧ s.wire <+: t.wire ∧
    t.keeps = if tookEffect status ∧ ¬ readOnlyType typ then s.keeps ++ [keepOf s typ m status body] else s.keeps

/-- `t` owes the message its response: nothing has been sent. -/
def Owed (typ : Nat) (m : HostMsg) (s t : State) : Prop :=
  Served typ m s t ∧ t.unanswered = s.unanswered ++ [respTo s typ m] ∧ t.conns = s.conns ∧ t.wire = s.wire ∧ t.keeps = s.keeps

/-- Type and content of a host message. -/
def hostMsg (i : Instr) : Option (Nat × HostMsg) :=
  match i with
  | .resync m => some (0x0101, m)
  | .summary m => some (0x0102, m)
  | .profileSelect m => some (0x0103, m)
  | .powerState m => some (0x0104, m)
  | .powerCap m => some (0x0105, m)
  | .loadBuild m => some (0x0110, m)
  | .loadBuildAbort m => some (0x0110, m)
  | .rangeReload m => some (0x0110, m)
  | .unloadBuild m => some (0x0111, m)
  | .bayCreate m => some (0x0120, m)
  | .bayDestroy m => some (0x0121, m)
  | .planBind m => some (0x0122, m)
  | .planUnbind m => some (0x0123, m)
  | .yealmForm m => some (0x0124, m)
  | .yealmRelease m => some (0x0125, m)
  | .configWrite m => some (0x0130, m)
  | .configCommit m => some (0x0131, m)
  | .configRead m => some (0x0132, m)
  | .faultLogRead m => some (0x0140, m)
  | .faultClear m => some (0x0141, m)
  | .diagRead m => some (0x0142, m)
  | .fwUpdate m => some (0x0150, m)
  | .fwUpdateAbort m => some (0x0150, m)
  | .attest m => some (0x0151, m)
  | .voiceStore m => some (0x0160, m)
  | .voiceDrop m => some (0x0161, m)
  | .sessionOpen m => some (0x0201, m)
  | .sessionClose m => some (0x0202, m)
  | .textPush m => some (0x0203, m)
  | .speak m => some (0x0204, m)
  | .stop m => some (0x0205, m)
  | .attach m => some (0x0206, m)
  | .detach m => some (0x0207, m)
  | .sessionExport m => some (0x0208, m)
  | .sessionImport m => some (0x0209, m)
  | .enrollStart m => some (0x020A, m)
  | .enrollData m => some (0x020B, m)
  | _ => none

/-- The message passes everything that comes before its own reserved fields and checks. -/
def passes (s : State) (typ : Nat) (m : HostMsg) : Bool := taken s typ m && clears s typ m

/-- The command completes: the message has its response, and everything but the transport is as in `u`. -/
def Answers (i : Instr) (typ : Nat) (m : HostMsg) (status : Nat) (body : List Byte) (s u : State) : Prop :=
  ∃ t, exec i s = .next t ∧ Answered typ m status body s t ∧ t.bare = u.bare

/-- The command completes with a response that reports a failure, and nothing of the message is applied (R332). -/
def Declines (i : Instr) (typ : Nat) (m : HostMsg) (status : Nat) (s : State) : Prop :=
  Answers i typ m status (failBody s typ) s s

/-- The command completes: the message is accepted and not answered yet, and everything but the transport is as in `u`. -/
def Owes (i : Instr) (typ : Nat) (m : HostMsg) (s u : State) : Prop :=
  ∃ t, exec i s = .next t ∧ Owed typ m s t ∧ t.bare = u.bare

/-- Exactly one copy of a message waits for its response, on the connection that carried it. -/
def awaits (s : State) (rt : RespTo) : Bool :=
  decide (s.unanswered.filter (sameMsg rt) = [rt]) && ((connOf s rt.conn).map (fun x => decide (x.epoch = rt.epoch))).getD false

/-- `t` has answered a message accepted earlier with one response, whose bytes follow everything else that its connection is
to take; no other connection is touched, and the response is kept where R333 says so. -/
def Responded (rt : RespTo) (status : Nat) (body : List Byte) (s t : State) : Prop :=
  let bs := msgBytes (rt.typ.toNat + 32768) status rt.msgId.toNat body
  t.unanswered = s.unanswered.filter (fun r => !sameMsg rt r) ∧ stream t rt.conn = stream s rt.conn ++ bs ∧
    (∀ c, c ≠ rt.conn → connOf t c = connOf s c) ∧ s.wire <+: t.wire ∧ t.mail = s.mail ∧ t.mailLast = s.mailLast ∧
    t.keeps = if tookEffect status ∧ ¬ readOnlyType rt.typ.toNat then
      s.keeps ++ [{ tag := rt.tag, msgId := rt.msgId, typ := rt.typ, bodyCrc := rt.bodyCrc, resp := bs }] else s.keeps

/-! ### The network -/

/-- A frame reaches the MAC of a port whose link is up and is accepted there (R298, R299). -/
def frameIn (s : State) (p : Nat) (f : FrameHdr) : Bool := linkIsUp s p && frameOk s p f

/-- A segment reaches LMX: its frame is accepted, its addresses are the device's, and its payload is no longer than the
device takes (R298 to R303). -/
def segIn (s : State) (g : Seg) : Bool :=
  frameIn s g.port g.frame && udpReaches s g && decide (g.payload.length ≤ devMaxPayload s)

/-- A valid segment of connection `x` arrives on its path of that network, which is up (R307). -/
def segOn (s : State) (typ : Nat) (g : Seg) (x : Conn) : Bool :=
  segIn s g && segFormOk typ g && decide (connOf s g.connId.toNat = some x) && decide (x.epoch = g.epoch) &&
    (pathOf x (netOf g.port)).up && decide (x.st = .open)

/-- The path as the arrival of a segment leaves it (R301). -/
def pathSeen (x : Conn) (g : Seg) : Path :=
  { pathOf x (netOf g.port) with bound := true, port := g.port, v6 := g.v6, ip := g.srcIp, udp := g.srcUdp
                                 mac := g.frame.src, probes := 0 }

/-- A host message from its bytes (Table 14.1). -/
def parsed (c : Nat) (bs : List Byte) : HostMsg :=
  { conn := c, respBit := bit (fld bs 0 2) 15, status := BitVec.ofNat 16 (fld bs 2 2), msgId := BitVec.ofNat 32 (fld bs 4 4)
    length := if bs.length < 12 then 0 else BitVec.ofNat 32 (fld bs 8 4), body := bs.drop 12 }

/-- `u` is `s` with session `x` at index `i` under a generation: no other session changes, and nothing else but the count of free
values, and the channels and ridge slices that the session's areas touch. -/
def Holds (s u : State) (i : Nat) (x : Session) : Prop :=
  sessOf u i = some x ∧ (∀ j, j ≠ i → sessOf u j = sessOf s j) ∧ tget 0 u.gens i = x.gen ∧
    (∀ j, j ≠ i → tget 0 u.gens j = tget 0 s.gens j) ∧
    { u with sessions := [], gens := [], channels := [], slices := [], fresh := 0 } =
      { s with sessions := [], gens := [], channels := [], slices := [], fresh := 0 }

/-- Most bytes that the output published in a session's rings may move (R213): for each chunk its audio entry, its marks and its
samples, and 32 for each event. -/
def outputBytes (s : State) (i : Nat) (x : Session) : Nat :=
  let g := sringOf x 2
  ((List.range (published s i 2)).map (fun k =>
    let e := entryGet g ((g.io + k) % 4294967296)
    64 + 16 * fld e 19 1 + (if bit x.bindFlags.toNat 0 then fld e 16 2 * (if x.encoding = 1 then 3 else 2) else 0))).sum +
    32 * published s i 4

/-! ### Core commands -/

/-- A command of a core's stream meets nothing that waits before it: the core runs a step, the command is the next one of its
stream, its window and its units' queues are empty, the command's unit is free, the header is legal (Table 11.7), its wait can
be taken, and its operands from the state-carry path are there (R233, R235, R236, R93). -/
def goes (s : State) (c : Nat) (h : CmdHdr) (op : CoreOp) : Bool :=
  let x := coreOf s c
  coreRuns s c && decide (x.window = []) && x.loop.isNone && !x.stepEnded &&
    x.units.all (fun e => decide (e.2.queue = [])) && (unitQ x (busyKey op)).busy.isNone && hdrOk s x h &&
    (decide (h.waitCount = 0) || waitMet x h) && opReady x op && decide (nextCmd x h op = .given)

/-- The command as its unit holds it. -/
def inUnit (s : State) (c : Nat) (h : CmdHdr) (op : CoreOp) : QCmd :=
  { hdr := h, op := op, slot := 0, taken := isBatten (coreOf s c) h, index := (coreOf s c).fetchIndex }

/-- The core as the command finds it when it issues: counted, its wait taken, the block tables it needs asked for. -/
def atIssue (s : State) (c : Nat) (h : CmdHdr) (op : CoreOp) : Core :=
  let x := coreOf s c
  coreAdd .cmdsDispatched 1
    { x with
      sems := if h.waitCount = 0 then x.sems else tput 0 x.sems h.waitSem.toNat (semOf x h.waitSem - h.waitCount)
      fetchIndex := x.fetchIndex + 1, stepEnded := h.flags.getLsbD 2
      loop := match op with
        | .slotLoop n => if 1 ≤ n.toNat ∧ n.toNat ≤ 60 then some { remaining := n.toNat, body := [] } else none
        | _ => none
      rng := { x.rng with fills := x.rng.fills ++ opTables s x x.fetchIndex 0 op } }

/-- The command `i` runs in its unit: the unit holds it with the completion record `d`, the core is `y` but for that unit, no
other core is touched, and the rest of the device is as in `u`. -/
def Issues (i : Instr) (c : Nat) (h : CmdHdr) (op : CoreOp) (s u : State) (y : Core) (d : Completion) : Prop :=
  ∃ t, exec i s = .next t ∧
    (unitQ (coreOf t c) (opUnit op)).queue = [] ∧ (unitQ (coreOf t c) (busyKey op)).busy = some (inUnit s c h op, d) ∧
    (tsorted none y.units = true → ∀ k, (unitQ (coreOf t c) k).last = (unitQ y k).last) ∧
    (∀ k, k ≠ opUnit op → k ≠ busyKey op → unitQ (coreOf t c) k = unitQ y k) ∧
    (∀ k, k ≠ busyKey op → (unitQ (coreOf t c) k).busy = (unitQ y k).busy) ∧ { coreOf t c with units := [] } = { y with units := [] } ∧
    (∀ e, e ≠ c → coreOf t e = coreOf s e) ∧ { t with cores := [], fresh := 0 } = { u with cores := [], fresh := 0 }

/-- A core after a write of its scratchpad. -/
def wrote (x : Core) (a : Int) (bs : List Byte) : Core := { x with spad := mwrite 0 x.spad a.toNat bs }

/-- The checks of R115 and R267 that vector commands share, on a command of `subs` sub-operations and formats up to `fmts`. -/
def vecLegal (x : Core) (o : VecOps) (subs fmts : Nat) : Bool :=
  decide (o.vecFlags.toNat < 16) && decide (o.subOp.toNat < subs) && decide (o.fmt.toNat ≤ fmts) &&
    !(vecFromRescale o && vecFromCarry o) && decide (vecLen x o ≤ 1048576)

/-- A vector command's core after its result words are written and its cycles counted. -/
def vecWrote (z : Core) (o : VecOps) (k : Nat) (vals : List Nat) (busy slow : Nat) : Core :=
  coreAdd .srSlowCycles slow (coreAdd .vecBusyCycles (busy + slow) (wrote z (vecAddr o 0 o.dst) (wordBytes k vals)))

/-- The result of a lane command has a place (R93): it fits the scratchpad at its destination, or it goes to the state-carry path
while that runs no command. -/
def vecLands (z : Core) (o : VecOps) (k : Nat) (vals : List Nat) : Prop :=
  if vecToCarry o = true then z.carryRun = none else spadIn (vecAddr o 0 o.dst) (wordBytes k vals).length = true

/-- A lane command's core after its result has gone where `vec_flags` sends it (R84, R93). -/
def vecLeft (z : Core) (o : VecOps) (k : Nat) (f : ResFmt) (vals : List Nat) (busy slow : Nat) : Core :=
  if vecToCarry o = true then
    coreAdd .srSlowCycles slow (coreAdd .vecBusyCycles (busy + slow) { z with carryU := z.carryU ++ vals.map (fun w => (carryInput f w).1) })
  else vecWrote z o k vals busy slow

/-- The completion record of a lane command, with the counts of the values that the state-carry path took (R64). -/
def vecRecord (o : VecOps) (f : ResFmt) (vals : List Nat) (d : Completion) : Completion :=
  if vecToCarry o = true then { d with sat := cap16 (d.sat + (vals.map (fun w => (carryInput f w).2)).sum) } else d

/-! ### Steps -/

/-- `y` is core `x` after it has stopped: it works for no step, its units and its window hold nothing, and its memories,
semaphores, rings, descriptors and counters are as they were (R413). -/
def Stopped (x y : Core) : Prop :=
  y.ctx = none ∧ (∀ k, (unitQ y k).queue = [] ∧ (unitQ y k).busy = none) ∧
    { y with units := [] } = { x with units := [], window := [], loop := none, stepEnded := false, dma := [], carryRun := none
                                      carryA := [], carryU := [], carryOut := [], rescaleOut := [], wino := none, ctx := none
                                      rng := { x.rng with fills := [] } }

/-- Nothing but the next chunk waits for a boundary: one bay `i` of variant `v` that may run slices, every yealm of it
formed and none given up, suspended, fenced or about to go, no session lost, detaching or capturing, no record, destroyed bay or
scrubbed line that waits, and the device in Run or Trim with no transition (R271, R277, R278, R282). -/
def quietBoundary (s : State) (i : Nat) (b : Bay) (v : Nat) : Bool :=
  s.boot.complete && s.fault.isNone && !s.boot.warmPending && decide (s.power.state = .run ∨ s.power.state = .trim) &&
    s.power.trans.isNone && decide (s.snapshots = []) && decide (s.scrubFound = []) && decide (s.bays = [(i, b)]) &&
    b.destroying.isNone && decide (b.lastVariant = some v) && decide (variantNow s b = some v) && !bayBlocked s b &&
    s.recs.all (fun e => e.2.commit.isNone) &&
    s.yealms.all (fun e => e.2.releasing.isNone && decide (e.2.susp = .no) && !planFenced s i e.2.build e.2.plan true) &&
    s.sessions.all (fun e => decide (e.2.st ≠ .lost) && e.2.detachWait.isNone && e.2.job.isNone && e.2.tdmOwed.isEmpty &&
      (match e.2.attach with
       | some a => a.effective || !a.ready
       | none => true))

/-- The step that a boundary admits for a yealm of bay `b` at variant `v` (R148, R279). -/
def admittedStep (s : State) (b : Bay) (v : Nat) (e : Nat × Yealm) : Step :=
  let start := s.t0 + s.chunk * Config.chunkCycles + sliceOffset s b v e.1
  { yealm := e.1, chunk := s.chunk, start := start, due := start + (yealmW s e.2 v).getD 0, mask := takingPart s e.1 s.chunk
    begun := false }

/-- The sessions that take part in a step with a mask, by slot: slot, session index, session. -/
def partners (s : State) (y mask : Nat) : List (Nat × Nat × Session) :=
  (maskBits 32 mask).filterMap (fun k => (slotSession s y k).map (fun e => (k, e)))

/-- Core `y` is core `x` at t0 of a step of plan `p`, variant `v`, for place `k`: the sequencer starts at the plan's initial
values, the scratchpad and the counters stay, and so does every accumulator that S_res does not change (R75, R254). -/
def StepLoaded (k : CoreCtx) (p : Plan) (v : Variant) (c : Cert) (x y : Core) : Prop :=
  let init := (v.inits[k.idx]?).getD { sems := [], rings := [], descs := [] }
  let lo := 32768 - max x.sRes v.sRes
  let hi := lo + (max x.sRes v.sRes - min x.sRes v.sRes)
  (∀ u, (unitQ y u).queue = [] ∧ (unitQ y u).busy = none) ∧ (∀ j, j < lo ∨ hi ≤ j → accGet y j = accGet x j) ∧
    { y with units := [], acc := [] } = { x with
      units := [], acc := [], sRes := v.sRes, sems := init.sems, rings := init.rings, descs := init.descs, dma := [], window := []
      loop := none, stepEnded := false, fetchIndex := 0, ctx := some k, gated := false, carryRun := none, carryA := []
      carryU := [], carryOut := [], rescaleOut := [], wino := none
      prog := { walks := v.walks, consts := p.consts, wCycles := c.wCycles, spillBytes := c.spillBytes
                leadIdx := v.leadIdx, commitSem := v.commitSem, stream := (v.streams[k.idx]?).getD [], initSems := init.sems
                initRings := init.rings, initDescs := init.descs }
      rng := { x.rng with lanes := [], cursor := [], fills := [] } }

/-- Two states agree but for a core's step: cores, spill areas, signals on their way, bays, yealms. -/
def sameBut (s t : State) : Prop :=
  { t with cores := [], spills := [], mesh := [], bays := [], yealms := [] } =
    { s with cores := [], spills := [], mesh := [], bays := [], yealms := [] }

/-- The newest log entry and the first-error latch are those of a fault with the given source, class, unit and syndrome
(R348, R407). -/
def Logged (s t : State) (src : W16) (cls : Nat) (unit : W32) (syn : W64) : Prop :=
  t.logNext = s.logNext + 1 ∧
    t.log.getLast? = some { seq := s.logNext, source := src, cls := cls, unit := unit, recoveries := (unitOf s unit).recoveries
                            syndrome := syn, chunk := s.chunk } ∧
    (s.log.length < 4096 → t.log.dropLast = s.log) ∧
    t.latch = (match s.latch with
      | none => some { source := src, cls := cls, overflow := false, unit := unit, syndrome := syn, chunk := s.chunk }
      | some l => some { l with overflow := true })

/-- Core `c` works for a step of a work group. -/
def worksFor (s : State) (b gid c : Nat) : Bool :=
  match (coreOf s c).ctx with
  | some k => decide (k.bay = b ∧ k.group = gid)
  | none => false

/-- The running step of work group `gid` of bay `b`, record `x`, has failed, for yealm `y`, record `v` (R413, R415): its cores
stop, what was spilled and what is on its way between them is dropped, and the step waits for its replay; after the fourth
attempt in a row the yealm is suspended and its steps are dropped. -/
def WorkFails (s t : State) (b gid y : Nat) (v : Yealm) (x : Bay) : Prop :=
  let z := { x with
    running := x.running && decide (gid ≠ 0), groups := x.groups.map (fun g => if g.gid = gid then { g with stepping := false } else g) }
  (∀ c, worksFor s b gid c = true → Stopped (coreOf s c) (coreOf t c)) ∧
    (∀ c, worksFor s b gid c = false → coreOf t c = coreOf s c) ∧
    t.spills = s.spills.filter (fun e => decide (e.1 / 64 ≠ y)) ∧
    t.mesh = s.mesh.filter (fun m => !worksFor s b gid m.src && !worksFor s b gid m.dst) ∧
    (∀ j, j ≠ b → bayOf t j = bayOf s j) ∧ (∀ j, j ≠ y → yealmOf t j = yealmOf s j) ∧
    (v.attempts < 3 → yealmOf t y = some { v with attempts := v.attempts + 1, spilled := none } ∧ bayOf t b = some z ∧
      t.gpCounters = s.gpCounters) ∧
    (3 ≤ v.attempts →
      yealmOf t y = some { v with admitted := false, susp := .givenUp, attempts := 0, beStep := none, spilled := none } ∧
      bayOf t b = some { z with todo := x.todo.filter (fun p => decide (p.yealm ≠ y)), counters := cntAdd x.counters 3 32 1 } ∧
      t.gpCounters = cntAdd s.gpCounters 3 32 1)

/-- The log, the fence of unit `u` that was in service, and the step of a work group are as a contained fault leaves them
(R348, R407, R409, R413); everything else but the count of free values is as in `s`. -/
def Contained (s t : State) (src : W16) (u : W32) (syn : W64) (b gid y : Nat) (v : Yealm) (x : Bay) : Prop :=
  let h := unitOf s u
  Logged s t src 1 u syn ∧
    unitOf t u = (if recovLimit s ≤ recentReturns s u ∧ recovLimit s ≠ 0 then { h with fence := .permanent }
      else { h with fence := .quiet, tries := 0 }) ∧
    (∀ w, w ≠ u → unitOf t w = unitOf s w) ∧ WorkFails s t b gid y v x ∧
    { t with cores := [], spills := [], mesh := [], bays := [], yealms := [], gpCounters := [], units := [], log := []
             logNext := 0, latch := none, fresh := 0 } =
      { s with cores := [], spills := [], mesh := [], bays := [], yealms := [], gpCounters := [], units := [], log := []
               logNext := 0, latch := none, fresh := 0 }

/-- A command of a core's stream: the core, the header and the operation. -/
def coreCmd (i : Instr) : Option (Fin 64 × CmdHdr × CoreOp) :=
  match i with
  | .nop c h => some (c, h, .nop)
  | .slotLoop c h n => some (c, h, .slotLoop n)
  | .descWrite c h d a => some (c, h, .descWrite d a)
  | .ringWrite c h r a => some (c, h, .ringWrite r a)
  | .matmul c h o => some (c, h, .matmul o)
  | .diag c h o => some (c, h, .diag o)
  | .winoOut c h o => some (c, h, .winoOut o)
  | .carry c h o => some (c, h, .carry o)
  | .element c h o => some (c, h, .element o)
  | .convert c h o => some (c, h, .convert o)
  | .func c h o => some (c, h, .func o)
  | .reduce c h o => some (c, h, .reduce o)
  | .softmax c h o => some (c, h, .softmax o)
  | .quant c h o => some (c, h, .quant o)
  | .rescale c h o => some (c, h, .rescale o)
  | .gate c h o => some (c, h, .gate o)
  | .hadamard c h o => some (c, h, .hadamard o)
  | .upsample c h o => some (c, h, .upsample o)
  | .sample c h o => some (c, h, .sample o)
  | .markCmd c h o => some (c, h, .mark o)
  | .arm c h o => some (c, h, .arm o)
  | .restore c h o => some (c, h, .restore o)
  | .save c h o => some (c, h, .save o)
  | .spill c h o => some (c, h, .spill o)
  | .unspill c h o => some (c, h, .unspill o)
  | .compatLoad c h a => some (c, h, .compatLoad a)
  | .compatSave c h a => some (c, h, .compatSave a)
  | .draw c h o => some (c, h, .draw o)
  | _ => none

end Sys2Proof.Machine
end

