-- ==== Sys2Proof/Certificates/Slice0/Obligations.lean ====
section
/-!
DEFINITION. Sys2Proof/Certificates/Slice0/Obligations.lean: the statements about the model, one `def Obligations.<Name> : Prop`
each, listed in OBLIGATIONS.json.
-/
open Sys2Proof Sys2Proof.Machine

/-! ### Control messages -/

/-- CONFIG_WRITE puts bytes into the shadow and advances its generation, or changes nothing where they pass the record's end
or a reserved field; CONFIG_READ returns a copy with its generation; neither reaches the active copy (R345, R346). -/
def Obligations.ConfigWriteFillsTheShadow : Prop :=
  ∀ (s : State) (m : HostMsg),
    let id := fld m.body 0 1
    let inst := fld m.body 1 1
    let r := recOf s id inst
    (passes s 0x0130 m = true → isZero m.body 6 2 = true → 1 ≤ fld m.body 4 2 → fld m.body 4 2 ≤ 64 →
      fld m.body 4 2 = m.body.length - 8 →
      let off := fld m.body 2 2
      let data := m.body.drop 8
      if recExists s id inst = false then Declines (.configWrite m) 0x0130 m stBadMessage s
      else if recBayBusy s id inst = true then Declines (.configWrite m) 0x0130 m stBusy s
      else if recSize id < off + data.length ∨ reservedOk id off data = false then
        Declines (.configWrite m) 0x0130 m stBadMessage s
      else
        Answers (.configWrite m) 0x0130 m stOk (le 4 (r.shadowGen + 1).toNat) s
          (setRec s id inst { r with shadow := splice r.shadow off data, shadowGen := r.shadowGen + 1 })) ∧
    (passes s 0x0132 m = true → fld m.body 2 1 < 2 → isZero m.body 3 1 = true →
      if recExists s id inst = false then Declines (.configRead m) 0x0132 m stBadMessage s
      else if fld m.body 2 1 = 0 then
        Answers (.configRead m) 0x0132 m stOk (le 4 r.activeGen.toNat ++ le 2 (recSize id) ++ zeros 2 ++ r.active) s s
      else Answers (.configRead m) 0x0132 m stOk (le 4 r.shadowGen.toNat ++ le 2 (recSize id) ++ zeros 2 ++ r.shadow) s s)

/-- CONFIG_COMMIT: the checks of steps 1 to 4 of R347 in their order, the answer at once where the capture equals the active
copy, and otherwise a capture that waits for its safe boundary; shown for records that change no stop-only field and have a
boundary to wait for. -/
def Obligations.ConfigCommitCapturesTheShadow : Prop :=
  ∀ (s : State) (m : HostMsg), passes s 0x0131 m = true → fld m.body 2 1 < 2 → isZero m.body 3 1 = true →
    let id := fld m.body 0 1
    let inst := fld m.body 1 1
    let r := recOf s id inst
    recExists s id inst = true → recBayBusy s id inst = false → stopChanged id r.active r.shadow = false →
    if r.commit.isSome then Answers (.configCommit m) 0x0131 m stBusy (le 4 r.activeGen.toNat) s s
    else if fld m.body 4 4 ≠ r.shadowGen.toNat ∨ recOk s id inst r.shadow = false then
      Answers (.configCommit m) 0x0131 m stConfigMismatch (le 4 r.activeGen.toNat) s s
    else if r.shadow = r.active then
      Answers (.configCommit m) 0x0131 m stOk (le 4 r.shadowGen.toNat) s (setRec s id inst { r with activeGen := r.shadowGen })
    else
      (id = 0x01 ∨ id = 0x02 ∨ id = 0x03 ∨ id = 0x20 ∨ id = 0x40 →
        Owes (.configCommit m) 0x0131 m s (setRec s id inst { r with
          commit := some { bytes := r.shadow, gen := r.shadowGen, restart := false, idle := []
                           resp := some (respTo s 0x0131 m) } }))

/-- At its safe boundary a capture that still passes its checks becomes the active copy, whole, and the response leaves; the
shadow keeps what was written since (R346, R347). CONFIG_APPLY for the IP, PDM and fault timing records, and
PORT_LINK_IDLE_POINT for the IP record of a port without another commit. -/
def Obligations.SafeBoundaryAppliesTheCapture : Prop :=
  ∀ (s : State) (id inst : Byte) (p : Fin 8) (c : CommitReq) (rt : RespTo),
    s.boot.complete = true → s.fault = none → tsorted none s.recs = true → c.resp = some rt → c.restart = false →
    awaits s rt = true →
    let Applied (i : Instr) (id inst : Nat) : Prop :=
      ∃ t, exec i s = .next t ∧
        recOf t id inst = { recOf s id inst with commit := none, active := c.bytes, activeGen := c.gen } ∧
        (∀ k, k ≠ recKey id inst → tfind t.recs k = tfind s.recs k) ∧
        { t.bare with recs := [] } = { s.bare with recs := [] } ∧ Responded rt stOk (le 4 c.gen.toNat) s t
    (id = 0x02 ∨ id = 0x18 ∨ id = 0x30 → recListed id.toNat inst.toNat = true →
      (recOf s id.toNat inst.toNat).commit = some c →
      captureOk (setRec s id.toNat inst.toNat { recOf s id.toNat inst.toNat with commit := none }) id.toNat inst.toNat c = true →
      Applied (.configApply id inst) id.toNat inst.toNat) ∧
    ((recOf s 0x02 p).commit = some c → (recOf s 0x01 p).commit = none → (recOf s 0x03 0).commit = none →
      captureOk (setRec s 0x02 p { recOf s 0x02 p with commit := none }) 0x02 p c = true →
      Applied (.portLinkIdlePoint p) 0x02 p)

/-- R349, whole: FAULT_CLEAR clears the latch and its overflow bit where `expect_source` is the latched source, and clears
nothing where it is not; nothing else changes, so the FAULT state and every fence stay as they were. -/
def Obligations.FaultClearClearsOnlyTheLatch : Prop :=
  ∀ (s : State) (m : HostMsg), passes s 0x0141 m = true → isZero m.body 2 2 = true →
    if fld m.body 0 2 = ((s.latch).map (fun l => l.source.toNat)).getD 0 then
      Answers (.faultClear m) 0x0141 m stOk [] s { s with latch := none }
    else Declines (.faultClear m) 0x0141 m stConfigMismatch s

/-- FAULT_LOG_READ returns the entries held from the wanted sequence number on, from the oldest one with a flag where that
number has been overwritten, and changes nothing (R348, Table 14.12); DIAG_READ returns one entry per unit with its counters,
or ST_BAD_MESSAGE where a unit does not exist (R350, R502). RESYNC and SUMMARY are accepted and owe a snapshot (R336). -/
def Obligations.ReportsAreReadOrOwed : Prop :=
  ∀ (s : State) (m : HostMsg),
    (passes s 0x0140 m = true → 1 ≤ fld m.body 4 2 → fld m.body 4 2 ≤ 1024 → isZero m.body 6 2 = true →
      let skip := (BitVec.ofNat 32 (fld m.body 0 4) - (s.logNext - BitVec.ofNat 32 s.log.length)).toNat
      let lapped := decide (s.log.length ≤ skip) && decide (s.log.length = 4096) &&
        seqAfter (s.logNext - BitVec.ofNat 32 s.log.length) (BitVec.ofNat 32 (fld m.body 0 4))
      let es := if skip < s.log.length then (s.log.drop skip).take (fld m.body 4 2)
        else if lapped = true then s.log.take (fld m.body 4 2) else []
      Answers (.faultLogRead m) 0x0140 m stOk
        (le 4 s.logNext.toNat ++ le 2 es.length ++ le 1 (b2n lapped) ++ zeros 1 ++ es.flatMap logBytes) s s) ∧
    (passes s 0x0142 m = true → isZero m.body 1 1 = true → 1 ≤ fld m.body 6 2 → fld m.body 6 2 ≤ 4096 →
      let typ := fld m.body 0 1
      let first := fld m.body 2 4
      let n := fld m.body 6 2
      if typ = 0x06 ∨ typ = 0x07 then Declines (.diagRead m) 0x0142 m stNotSupported s
      else
        (∀ k, k < n → unitCounters s typ (first + k) = none → Declines (.diagRead m) 0x0142 m stBadMessage s) ∧
        (∀ cs : Nat → List Int, (∀ k, k < n → unitCounters s typ (first + k) = some (cs k)) →
          let slots := (List.range n).foldl (fun w k => max w (cs k).length) 0
          Answers (.diagRead m) 0x0142 m stOk
            (le 2 n ++ le 2 (8 + 8 * slots) ++ zeros 4 ++
              (List.range n).flatMap (fun k => diagEntry typ (first + k) slots (cs k))) s s)) ∧
    (passes s 0x0101 m = true →
      Owes (.resync m) 0x0101 m s { s with snapshots := s.snapshots ++ [(respTo s 0x0101 m, true)] }) ∧
    (passes s 0x0102 m = true →
      Owes (.summary m) 0x0102 m s { s with snapshots := s.snapshots ++ [(respTo s 0x0102 m, false)] })

/-- PROFILE_SELECT of a valid profile records the choice for the next warm reset, and asks for one where bit 0 is set
(R338); POWER_CAP is in force from acceptance and stands in both copies of record 0x40 (R286, R448); POWER_STATE is refused
while members, an update or a signature are in the way, does nothing in the state that holds, and otherwise starts a
transition (R339, R465). -/
def Obligations.ProfilePowerCapAndPowerState : Prop :=
  ∀ (s : State) (m : HostMsg),
    (passes s 0x0103 m = true → fld m.body 0 1 ≤ 3 → fld m.body 1 1 ≤ 1 → isZero m.body 2 2 = true →
      if profileValid s (fld m.body 0 1) = true then
        Answers (.profileSelect m) 0x0103 m stOk [] s { s with boot := { s.boot with
          profileChoice := some (fld m.body 0 1), warmPending := s.boot.warmPending || decide (fld m.body 1 1 = 1) } }
      else Declines (.profileSelect m) 0x0103 m stNotSupported s) ∧
    (passes s 0x0105 m = true → (fld m.body 0 4 = 0 ∨ (40000 ≤ fld m.body 0 4 ∧ fld m.body 0 4 ≤ 320000)) →
      powerNow (dropMarked s) ≤ (if fld m.body 0 4 = 0 then 320000 else fld m.body 0 4) →
      let r := recOf s 0x40 0
      let v := le 4 (fld m.body 0 4)
      Answers (.powerCap m) 0x0105 m stOk (le 4 (powerNow s)) s
        { setRec s 0x40 0 { r with active := splice r.active 0 v, shadow := splice r.shadow 0 v
                                   activeGen := r.shadowGen + 1, shadowGen := r.shadowGen + 1 } with
          power := { s.power with capMw := fld m.body 0 4 } }) ∧
    (passes s 0x0104 m = true → fld m.body 0 1 ≤ 3 → fld m.body 1 1 ≤ 3 → isZero m.body 2 2 = true →
      let target := pstateOf (fld m.body 0 1)
      if deep target = true ∧ (s.yealms.any (fun e => decide (e.2.rcd.member ≠ 0)) = true ∨ s.boot.update.isSome ∨
          s.boot.attest.isSome) then Declines (.powerState m) 0x0104 m stBusy s
      else if target = s.power.state then Answers (.powerState m) 0x0104 m stOk [] s s
      else
        (target ≠ .sealed →
          Owes (.powerState m) 0x0104 m s { s with power := { s.power with
            trans := some { entering := decide (target ≠ .run), target := target, resp := some (respTo s 0x0104 m)
                            msg := some { mailOf s 0x0104 m with segs := 0 }, wakeSeen := false }
            wakeArm := if target = .doze then BitVec.ofNat 8 (fld m.body 1 1) else s.power.wakeArm } }))

/-! ### Builds, voices, firmware -/

/-- A later LOAD_BUILD piece must start at the previous piece's end, carry the load's size and end at or before it, or
nothing is applied; a piece in which no section ends and which is not the last joins the load (R340). An abort carries no
data, and discards the load of its build alone (R340). -/
def Obligations.LoadPiecesFollowEachOther : Prop :=
  ∀ (s : State) (m : HostMsg), passes s 0x0110 m = true → isZero m.body 25 7 = true →
    let id := BitVec.ofNat 64 (fld m.body 0 8)
    let offset := fld m.body 8 8
    let size := fld m.body 16 8
    let data := m.body.drop 32
    (fld m.body 24 1 ≤ 1 → ∀ l, loadOf s id = some l →
      if offset = l.bytes.length ∧ size = l.size ∧ offset + data.length ≤ l.size then
        (sectionsDone l.dir l.bytes.length (l.bytes.length + data.length) = [] →
          l.dir.all (fun x => decide (x.offset + x.size ≤ l.bytes.length + data.length)) = false →
          l.bytes.length + data.length < l.size →
          Answers (.loadBuild m) 0x0110 m stOk (le 8 (l.bytes.length + data.length)) s
            { s with loads := s.loads.map (fun x => if x.id = l.id then { x with bytes := l.bytes ++ data } else x) })
      else Answers (.loadBuild m) 0x0110 m stBadMessage (le 8 l.bytes.length) s s) ∧
    (4 ≤ fld m.body 24 1 → fld m.body 24 1 ≤ 7 → data = [] →
      Answers (.loadBuildAbort m) 0x0110 m stOk (le 8 0) s { s with loads := s.loads.filter (fun l => decide (l.id ≠ id)) }) ∧
    (4 ≤ fld m.body 24 1 → fld m.body 24 1 ≤ 7 → data ≠ [] →
      Answers (.loadBuildAbort m) 0x0110 m stBadMessage (le 8 (((loadOf s id).map (fun l => l.bytes.length)).getD 0)) s s)

/-- A range reload carries exactly one weight page that firmware has requested: with the CRC-32C recorded at load it mends
every copy that lacked the page, and the page is no longer requested; into a copy under a bay with slices it goes in that bay's
reserve windows, and the response is owed (R211); an unrequested page returns ST_BUSY and a wrong one ST_BAD_MESSAGE, with
nothing changed (R341, R422). -/
def Obligations.RangeReloadMendsTheRequestedPage : Prop :=
  ∀ (s : State) (m : HostMsg), passes s 0x0110 m = true → isZero m.body 25 7 = true → (fld m.body 24 1 = 2 ∨ fld m.body 24 1 = 3) →
    let id := BitVec.ofNat 64 (fld m.body 0 8)
    let data := m.body.drop 32
    ∀ b, buildOf s id = some b → ∀ p, pageAtOffset b (fld m.body 8 8) = some p →
    if b.allRequested = false ∧ b.requested.contains p.1 = false then
      Answers (.rangeReload m) 0x0110 m stBusy (le 8 0) s s
    else if data.length ≠ 65536 ∨ crc32c data ≠ p.2 then Answers (.rangeReload m) 0x0110 m stBadMessage (le 8 0) s s
    else
      (b.copies.any (fun c => !copyIntact c p.1) = true → (∀ c ∈ b.copies, copyIntact c p.1 = false → slicedOver s c = none) →
        ∃ t, exec (.rangeReload m) s = .next t ∧ Answered 0x0110 m stOk (le 8 65536) s t ∧
          (∃ d, buildOf t id = some d ∧ d.copies.all (fun c => copyIntact c p.1) = true ∧ d.requested.contains p.1 = false ∧
            { d with copies := [], requested := [], allRequested := false } =
              { b with copies := [], requested := [], allRequested := false }) ∧
          (∀ i, i ≠ id → buildOf t i = buildOf s i) ∧
          { t.bare with builds := [], bays := [], channels := [], slices := [] } =
            { s.bare with builds := [], bays := [], channels := [], slices := [] } ∧
          t.bays.map (fun e => (e.1, { e.2 with paused := false })) = s.bays.map (fun e => (e.1, { e.2 with paused := false }))) ∧
      (∀ c i, b.copies.filter (fun c => !copyIntact c p.1) = [c] → slicedOver s c = some i →
        Owes (.rangeReload m) 0x0110 m s (modBay s i (fun x => { x with bulk := x.bulk ++
          [{ kind := .pageReload id c.kind p.1, left := 65536, running := false, resp := some (respTo s 0x0110 m) }] })))

/-- R342, whole: UNLOAD_BUILD of a build that is not resident returns ST_NOT_SUPPORTED; while a plan of the build is bound, a
session of it open, or a stored adapter bound to it, ST_BUSY; otherwise the build goes, with its home copy and mirror, before
the response leaves. -/
def Obligations.UnloadBuildFreesTheBuild : Prop :=
  ∀ (s : State) (m : HostMsg), passes s 0x0111 m = true →
    let id := BitVec.ofNat 64 (fld m.body 0 8)
    if s.builds.any (fun b => decide (b.id = id)) = false then Declines (.unloadBuild m) 0x0111 m stNotSupported s
    else if s.bays.any (fun e => e.2.plans.any (fun p => decide (p.build = id))) = true ∨
        s.sessions.any (fun e => decide (e.2.build = id)) = true ∨ s.adapters.any (fun a => decide (a.build = id)) = true then
      Declines (.unloadBuild m) 0x0111 m stBusy s
    else Answers (.unloadBuild m) 0x0111 m stOk [] s { s with builds := s.builds.filter (fun b => decide (b.id ≠ id)) }

/-- VOICE_STORE takes an adapter in pieces: a piece that is not the last joins the store; the last one checks the CRC and the
layout and replaces or adds the adapter. VOICE_DROP removes an adapter that no open session uses (R352). -/
def Obligations.VoiceStoreAndDrop : Prop :=
  ∀ (s : State) (m : HostMsg),
    (passes s 0x0160 m = true → voiceFields m.body = true →
      let data := m.body.drop 36
      ∀ a, s.stores.find? (fun x => decide (x.id = (voiceHead m.body).id)) = some a →
      let whole : Adapter := { a with bytes := a.bytes ++ data }
      let left := s.stores.filter (fun x => decide (x.id ≠ a.id))
      if fld m.body 24 4 ≠ a.bytes.length ∨ { a with bytes := [] } ≠ voiceHead m.body ∨ a.size < fld m.body 24 4 + data.length then
        Declines (.voiceStore m) 0x0160 m stBadMessage s
      else if whole.bytes.length < a.size then
        Answers (.voiceStore m) 0x0160 m stOk [] s { s with stores := left ++ [whole] }
      else
        (∀ b, buildOf s a.build = some b → crc32c whole.bytes = a.crc → adapterStatus b whole = stOk →
          adapterBusy s a.id (bit a.flags.toNat 0) = false →
          Answers (.voiceStore m) 0x0160 m stOk [] s
            { s with stores := left, adapters := s.adapters.filter (fun x => decide (x.id ≠ a.id)) ++ [whole] }) ∧
        (crc32c whole.bytes ≠ a.crc →
          Answers (.voiceStore m) 0x0160 m stBadMessage (failBody s 0x0160) s { s with stores := left })) ∧
    (passes s 0x0161 m = true →
      let id := BitVec.ofNat 64 (fld m.body 0 8)
      if s.adapters.any (fun a => decide (a.id = id)) = false then Declines (.voiceDrop m) 0x0161 m stNotSupported s
      else if s.sessions.any (fun e => decide (e.2.adapter = id)) = true then Declines (.voiceDrop m) 0x0161 m stBusy s
      else Answers (.voiceDrop m) 0x0161 m stOk [] s { s with adapters := s.adapters.filter (fun a => decide (a.id ≠ id)) })

/-- A later FW_UPDATE piece joins the queue of the update and owes its response; one out of place is refused; FW_UPDATE with
the abort bit ends an update that has no piece to program, and answers ST_OK where none is in progress (R351, R463, R465).
ATTEST is accepted with its nonce, one at a time (R351); ATTEST_SIGNING_DONE answers with the report (R468). -/
def Obligations.FirmwarePiecesQueueAndAttestReports : Prop :=
  ∀ (s : State) (m : HostMsg),
    (passes s 0x0150 m = true → isZero m.body 9 3 = true →
      let offset := fld m.body 0 4
      let data := m.body.drop 12
      (fld m.body 8 1 ≤ 1 → ∀ u, s.boot.update = some u → offset ≠ 0 →
        if offset = u.got ∧ fld m.body 4 4 = u.size ∧ offset + data.length ≤ u.size ∧ u.queue.all (fun p => !p.abort) = true then
          Owes (.fwUpdate m) 0x0150 m s (setUpdate s (some { u with
            got := u.got + data.length
            queue := u.queue ++ [{ resp := respTo s 0x0150 m, msg := m, offset := offset, data := data
                                   last := decide (fld m.body 8 1 = 1), abort := false }] }))
        else Declines (.fwUpdate m) 0x0150 m stBadMessage s) ∧
      (2 ≤ fld m.body 8 1 → fld m.body 8 1 ≤ 3 →
        (s.boot.update = none → Answers (.fwUpdateAbort m) 0x0150 m stOk [] s s) ∧
        (∀ u, s.boot.update = some u → u.queue = [] →
          Answers (.fwUpdateAbort m) 0x0150 m stOk [] s (setUpdate s none)))) ∧
    (passes s 0x0151 m = true →
      if s.boot.attest.isSome then Declines (.attest m) 0x0151 m stBusy s
      else Owes (.attest m) 0x0151 m s
        { s with boot := { s.boot with attest := some (respTo s 0x0151 m, m.body.take 32) } }) ∧
    (∀ rt nonce, s.boot.attest = some (rt, nonce) → awaits s rt = true →
      ∃ t, exec .attestSigningDone s = .next t ∧ t.bare = ({ s with boot := { s.boot with attest := none } } : State).bare ∧
        Responded rt stOk (attestReport s nonce) s t)

/-- The slot that an update erases reads 0xFF at every byte once FLASH_SLOT_ERASE_DONE comes, but for the first piece, which
it takes; FLASH_PROGRAM_DONE programs the oldest piece that waits and nothing else of the flash; each answers its piece
(R463). Shown for pieces that are not the last and have no piece behind them. -/
def Obligations.FlashTakesThePieces : Prop :=
  ∀ (s : State) (u : FwUpdate) (p : FwPiece), Memory.wf 0xFF s.flash = true → s.boot.update = some u → u.queue = [p] →
    p.last = false → p.abort = false → awaits s p.resp = true →
    let base := slotBase u.slot + p.offset
    let Taken (t : State) (u' : FwUpdate) (old : Nat → Byte) : Prop :=
      (∀ i, i < p.data.length → tget 0xFF t.flash (base + i) = p.data.getD i 0) ∧
      (∀ a, a < base ∨ base + p.data.length ≤ a → tget 0xFF t.flash a = old a) ∧
      { t.bare with flash := [] } = { (setUpdate s (some u')).bare with flash := [] } ∧ Responded p.resp stOk [] s t
    (u.erasing = true →
      ∃ t, exec .flashSlotEraseDone s = .next t ∧
        Taken t { u with erasing := false, queue := [] }
          (fun a => if slotBase u.slot ≤ a ∧ a < slotBase u.slot + 0x400000 then 0xFF else tget 0xFF s.flash a)) ∧
    (u.erasing = false →
      ∃ t, exec .flashProgramDone s = .next t ∧ Taken t { u with queue := [] } (fun a => tget 0xFF s.flash a))

/-! ### Bays, plans, yealms -/

/-- BAY_CREATE whose checks pass makes a bay with the attributes of its block, no plan and no yealm, and its record 0x20
(R268, R269, R343); no other bay changes. BAY_DESTROY of an empty bay unbinds its plans and owes its response until the cores
leave (R271, R344). -/
def Obligations.BayCreateAndDestroy : Prop :=
  ∀ (s : State) (m : HostMsg),
    (passes s 0x0120 m = true → bayCreateFields m.body = true →
      let i := fld m.body 0 1
      if bayCreateStatus s m.body ≠ stOk then Declines (.bayCreate m) 0x0120 m (bayCreateStatus s m.body) s
      else
        ∃ t, exec (.bayCreate m) s = .next t ∧ Answered 0x0120 m stOk [] s t ∧
          (∃ b, bayOf t i = some b ∧ b.attr = bayAttr m.body ∧ b.plans = [] ∧ b.order = [] ∧ b.todo = [] ∧ b.lent = false ∧
            b.destroying = none ∧ b.bulk = []) ∧
          (∀ j, j ≠ i → bayOf t j = bayOf s j) ∧
          (tsorted none s.recs = true → recOf t 0x20 i = bootCopy (m.body.take 32)) ∧
          (∀ k, k ≠ recKey 0x20 i → tfind t.recs k = tfind s.recs k) ∧
          (tsorted none s.cores = true → ∀ c, { coreOf t c with gated := false } = { coreOf s c with gated := false }) ∧
          { t.bare with bays := [], recs := [], cores := [] } = { s.bare with bays := [], recs := [], cores := [] }) ∧
    (passes s 0x0121 m = true → isZero m.body 1 3 = true → fld m.body 0 1 ≤ 63 →
      let i := fld m.body 0 1
      (bayOf s i = none → Declines (.bayDestroy m) 0x0121 m stBadMessage s) ∧
      (∀ b, bayOf s i = some b →
        if b.destroying.isSome ∨ b.order ≠ [] then Declines (.bayDestroy m) 0x0121 m stBusy s
        else
          (b.bulk = [] → b.groups.all (fun g => g.lender.isNone) = true →
            ∃ t, exec (.bayDestroy m) s = .next t ∧ Owed 0x0121 m s t ∧
              (bayOf t i).map (fun x => (x.attr, x.plans, x.destroying)) = some (b.attr, [], some (respTo s 0x0121 m)) ∧
              (∀ d, d ∈ t.builds → d.copies.all (fun c => decide (c.kind ≠ 2 + i)) = true) ∧
              { t.bare with bays := [], builds := [] } = { s.bare with bays := [], builds := [] })))

/-- PLAN_BIND whose checks pass, with no copy to make under admitted yealms, binds the plan and puts the bay's copy in place
before it answers (R211, R256, R272); a cycle of waits is refused (R257). PLAN_UNBIND of a plan that no yealm uses takes the binding
away (R273). -/
def Obligations.PlanBindAndUnbind : Prop :=
  ∀ (s : State) (m : HostMsg), isZero m.body 2 2 = true →
    let i := fld m.body 0 1
    let p := fld m.body 1 1
    let id := BitVec.ofNat 64 (fld m.body 4 8)
    (passes s 0x0122 m = true → bayOf s i = none → Declines (.planBind m) 0x0122 m stBadMessage s) ∧
    (passes s 0x0123 m = true → bayOf s i = none → Declines (.planUnbind m) 0x0123 m stBadMessage s) ∧
    (∀ bay, bayOf s i = some bay → bay.destroying = none →
      (passes s 0x0122 m = true → ∀ b, buildOf s id = some b → ∀ pl, planOf b p = some pl →
        pl.coreCount = (bayCores bay).length → bay.plans.all (fun x => decide (x.build ≠ id ∨ x.plan ≠ p)) = true →
        bay.plans.length < 16 → copyFits s i bay b = true → reserveFits s bay pl (copyNeeds i bay b) = true →
        if waitCycle s (i, id, p) = true then Declines (.planBind m) 0x0122 m stRingCycle s
        else
          (needsCopy b i bay.attr.channelMask = false ∨ admittedYealms s bay = [] →
            Answers (.planBind m) 0x0122 m stOk [] s (fixPaused (placeCopy (modBay s i (fun x =>
              { x with plans := x.plans ++ [{ build := id, plan := p, ready := true }] })) i id)))) ∧
      (passes s 0x0123 m = true → ∀ x, bay.plans.find? (fun x => decide (x.build = id ∧ x.plan = p)) = some x → x.ready = true →
        if (bayYealms s bay).any (fun e => decide (e.2.build = id ∧ e.2.plan = p)) = true then
          Declines (.planUnbind m) 0x0123 m stBusy s
        else
          ∃ t, exec (.planUnbind m) s = .next t ∧ Answered 0x0123 m stOk [] s t ∧
            (bayOf t i).map (fun b => b.plans) = some (bay.plans.filter (fun x => decide (x.build ≠ id ∨ x.plan ≠ p))) ∧
            (∀ j, j ≠ i → (bayOf t j).map (fun b => b.plans) = (bayOf s j).map (fun b => b.plans)) ∧
            { t.bare with bays := [], builds := [] } = { s.bare with bays := [], builds := [] }))

/-- YEALM_FORM whose checks of Table 12.2 pass forms the yealm with the lowest free identifier, at the end of its bay's slice
order, admitted, with an empty commit record; YEALM_RELEASE of a yealm without sessions owes its response until the boundary
(R275, R277, R344). Which free identifier is taken is the model's choice (notes/assumptions/43.md). -/
def Obligations.YealmFormAndRelease : Prop :=
  ∀ (s : State) (m : HostMsg),
    (passes s 0x0124 m = true → isZero m.body 3 1 = true → 1 ≤ fld m.body 2 1 → fld m.body 2 1 ≤ 32 →
      let i := fld m.body 0 1
      let p := fld m.body 1 1
      let id := BitVec.ofNat 64 (fld m.body 4 8)
      ∀ b d, bayOf s i = some b → b.destroying = none → buildOf s id = some d → fld m.body 2 1 ≤ d.maxSlots →
      b.plans.any (fun x => decide (x.build = id ∧ x.plan = p) && x.ready) = true →
      let y := newYealm s i b id p (fld m.body 2 1)
      if yealmStatus s i b y ≠ stOk then Declines (.yealmForm m) 0x0124 m (yealmStatus s i b y) s
      else
        ∃ k, k < 4096 ∧ yealmOf s k = none ∧ (∀ j, j < k → yealmOf s j ≠ none) ∧
          ∃ t, exec (.yealmForm m) s = .next t ∧ Answered 0x0124 m stOk (le 2 k ++ le 2 b.order.length) s t ∧
            yealmOf t k = some y ∧ y.admitted = true ∧ y.rcd.member = 0 ∧ (∀ j, j ≠ k → yealmOf t j = yealmOf s j) ∧
            (bayOf t i).map (fun x => x.order) = some (b.order ++ [k]) ∧ (∀ j, j ≠ i → bayOf t j = bayOf s j) ∧
            { t.bare with bays := [], yealms := [], channels := [], slices := [] } =
              { s.bare with bays := [], yealms := [], channels := [], slices := [] }) ∧
    (passes s 0x0125 m = true → isZero m.body 2 2 = true →
      let k := fld m.body 0 2
      (yealmOf s k = none → Declines (.yealmRelease m) 0x0125 m stBadMessage s) ∧
      (∀ y, yealmOf s k = some y →
        if claimants s k ≠ [] ∨ y.releasing.isSome then Declines (.yealmRelease m) 0x0125 m stBusy s
        else Owes (.yealmRelease m) 0x0125 m s (modYealm s k (fun y => { y with releasing := some (respTo s 0x0125 m) }))))

/-! ### Sessions -/

/-- R356, whole: every message that names a session checks its handle before its own checks: a free index or another
generation returns ST_BAD_MESSAGE, and a session in state Lost returns ST_SESSION_LOST, but for SESSION_CLOSE; nothing is
applied. -/
def Obligations.SessionHandlesAreChecked : Prop :=
  ∀ (s : State) (m : HostMsg) (i : Instr) (typ : Nat) (fields : List Byte → Bool),
    (i, typ, fields) ∈ [(.sessionClose m, 0x0202, handleFields), (.textPush m, 0x0203, textFields),
      (.speak m, 0x0204, handleFields), (.stop m, 0x0205, handleFields), (.attach m, 0x0206, fun b => isZero b 7 1),
      (.detach m, 0x0207, fun b => within (fld b 4 1) 0 1 && isZero b 5 3), (.sessionExport m, 0x0208, handleFields),
      (.enrollStart m, 0x020A, enrollFields), (.enrollData m, 0x020B, enrollDataFields)] →
    passes s typ m = true → fields m.body = true →
    let index := fld m.body 0 4 % 65536
    let generation := fld m.body 0 4 / 65536
    ((sessOf s index).map (fun x => decide (x.gen = generation)) ≠ some true → Declines i typ m stBadMessage s) ∧
    (∀ x, sessOf s index = some x → x.gen = generation → x.st = .lost → typ ≠ 0x0202 → Declines i typ m stSessionLost s)

/-- SESSION_OPEN whose checks of Table 15.4 pass allocates the lowest free index with its next generation, detached, with the
client tag of its connection and the build's initial state in half A (R152, R355); SESSION_CLOSE frees a detached session's
index (R357). Which free index is taken is the model's choice (notes/assumptions/43.md). -/
def Obligations.SessionOpenAndClose : Prop :=
  ∀ (s : State) (m : HostMsg),
    (passes s 0x0201 m = true → openFields m.body = true →
      let bind : Binding := { flags := fld m.body 26 1, encoding := fld m.body 27 1, port := fld m.body 28 1, slot := fld m.body 29 1 }
      let adapter := BitVec.ofNat 64 (fld m.body 8 8)
      let seed := BitVec.ofNat 64 (fld m.body 16 8)
      ∀ b, buildOf s (BitVec.ofNat 64 (fld m.body 0 8)) = some b → adapterUsable s b adapter = true → fld m.body 24 1 = 0 →
      if bindBad bind = true then Declines (.sessionOpen m) 0x0201 m stBadMessage s
      else
        let o : Origin := { build := b, adapter := adapter, seed := seed, compat := false, half := openHalf b seed false }
        let i := (freeSession s).getD 0
        let x := newSession s (respTo s 0x0201 m).tag (nextGen (tget 0 s.gens i)) o bind (decide (fld m.body 25 1 = 1))
        if sessFits s x = false then Declines (.sessionOpen m) 0x0201 m stNoResource s
        else if bindBusy s bind = true then Declines (.sessionOpen m) 0x0201 m stBusy s
        else
          sessOf s i = none ∧ (∀ j, j < i → sessOf s j ≠ none) ∧ x.st = .detached ∧ x.attach = none ∧
            x.tag = (respTo s 0x0201 m).tag ∧ x.halfA = openHalf b seed false ∧ x.gen ≠ 0 ∧
            Holds s (putSession s i x) i (placed s x) ∧
            Answers (.sessionOpen m) 0x0201 m stOk (le 4 (x.gen * 65536 + i)) s (putSession s i x)) ∧
    (passes s 0x0202 m = true → handleFields m.body = true →
      let i := fld m.body 0 4 % 65536
      ∀ x, sessOf s i = some x → x.gen = fld m.body 0 4 / 65536 → x.st ≠ .lost →
      if x.attach.isSome then Declines (.sessionClose m) 0x0202 m stBusy s
      else Answers (.sessionClose m) 0x0202 m stOk [] s { s with sessions := tdel s.sessions i })

/-- TEXT_PUSH appends its tokens to ring 0 where they belong to the build and fit beside the tokens held (R253, R361); SPEAK
makes every unspoken token one queued utterance, with its control entry in ring 1 where it has room (R253, R360). The bytes count
for the slot's traffic of the chunk (R213). No other session changes, and nothing else of the device but the channels' counters. -/
def Obligations.TextBecomesAnUtterance : Prop :=
  ∀ (s : State) (m : HostMsg) (x : Session),
    let i := fld m.body 0 4 % 65536
    sessOf s i = some x → x.gen = fld m.body 0 4 / 65536 → x.st ≠ .lost →
    (passes s 0x0203 m = true → textFields m.body = true →
      let n := fld m.body 4 2
      let tokens := entriesOf (m.body.drop 8) 8 n
      if tokensOk s x.build (m.body.drop 8) = false then Declines (.textPush m) 0x0203 m stBadMessage s
      else if 16384 < textHeld s x + n then Declines (.textPush m) 0x0203 m stNoResource s
      else
        let y : Session := { putRing x 0 (ringPush (sringOf x 0) tokens) with unspoken := x.unspoken + n }
        Answers (.textPush m) 0x0203 m stOk (le 4 (textHeld s x + n)) s
          (ringWritten { s with sessions := tins s.sessions i y } i 0 tokens.length)) ∧
    (passes s 0x0204 m = true → handleFields m.body = true →
      if x.unspoken = 0 ∨ 16384 < x.unspoken then Declines (.speak m) 0x0204 m stBadMessage s
      else if x.queuedTokens.isSome ∨ x.job.isSome then Declines (.speak m) 0x0204 m stBusy s
      else if chunkLimit ≤ (sessPos s x).chunkCount ∨ controlRoom s x = false then Declines (.speak m) 0x0204 m stNoResource s
      else
        let y : Session := { pushControl x 1 [] with queuedTokens := some x.unspoken, queuedChunk := s.chunk, unspoken := 0 }
        Answers (.speak m) 0x0204 m stOk (le 4 x.unspoken) s
          (fixState (ringWritten { s with sessions := tins s.sessions i y } i 1 1) i))

/-- STOP of a session with nothing to drop answers at once with its sample position; of one whose chunk's slice has begun it
drops the queued and unspoken text now and owes its response until the commit instant (R363). DETACH of an unattached session
does nothing; of an attached one it owes its response until the boundary (R154). -/
def Obligations.StopAndDetachWait : Prop :=
  ∀ (s : State) (m : HostMsg) (x : Session),
    let i := fld m.body 0 4 % 65536
    sessOf s i = some x → x.gen = fld m.body 0 4 / 65536 → x.st ≠ .lost → x.job = none →
    (passes s 0x0205 m = true → handleFields m.body = true →
      let drop := x.queuedTokens.getD 0 + x.unspoken
      (x.stopWait = [] → x.uttTokens = 0 → drop = 0 → Answers (.stop m) 0x0205 m stOk (le 8 (sessSamples s x)) s s) ∧
      ((x.stopWait ≠ [] ∨ ((x.uttTokens ≠ 0 ∨ drop ≠ 0) ∧ sliceBegun s x = true)) →
        Owes (.stop m) 0x0205 m s { s with sessions := tins s.sessions i { x with
          queuedTokens := none, unspoken := 0
          stopWait := x.stopWait ++ [{ resp := some (respTo s 0x0205 m), barge := false, drop := drop }] } })) ∧
    (passes s 0x0207 m = true → fld m.body 4 1 ≤ 1 → isZero m.body 5 3 = true →
      if x.detachWait.isSome then Declines (.detach m) 0x0207 m stBusy s
      else
        (x.attach = none → Answers (.detach m) 0x0207 m stOk [] s s) ∧
        (∀ a, x.attach = some a → a.effective = true → (fld m.body 4 1 = 0 ∨ x.admitted = none) →
          Owes (.detach m) 0x0207 m s { s with sessions := tins s.sessions i { x with
            detachWait := some (respTo s 0x0207 m), detachDrop := false } }))

/-- ATTACH whose checks of Table 15.4 pass claims the slot: with the session's area and adapter already in the bay it is
accepted at once and names the next chunk; with bytes to move between slices it owes its response behind a bulk transfer of
exactly those bytes (R152, R156, R157, R212, R376). -/
def Obligations.AttachClaimsItsSlot : Prop :=
  ∀ (s : State) (m : HostMsg) (x : Session) (y : Yealm) (b : Bay),
    let i := fld m.body 0 4 % 65536
    let k := fld m.body 4 2
    let slot := fld m.body 6 1
    passes s 0x0206 m = true → isZero m.body 7 1 = true → sessOf s i = some x → x.gen = fld m.body 0 4 / 65536 →
    x.st ≠ .lost → yealmOf s k = some y → bayOf s y.bay = some b → y.releasing = none → planServes s y x = true →
    (attachChannels s x y.bay).all (fun ch => !fenced s (uChannel ch)) = true →
    if y.slots ≤ slot then Declines (.attach m) 0x0206 m stBadMessage s
    else if x.attach.isSome ∨
        (claimants s k).any (fun e => ((e.2.attach).map (fun a => decide (a.slot = slot))).getD false) = true then
      Declines (.attach m) 0x0206 m stBusy s
    else if freeIn s (groupOf s (some y.bay)) < attachBytes s x y.bay then Declines (.attach m) 0x0206 m stNoResource s
    else
      (x.home = some y.bay → attachBytes s x y.bay = 0 →
        Answers (.attach m) 0x0206 m stOk (le 8 (s.chunk + 1)) s { s with sessions := tins s.sessions i { x with
          attach := some { yealm := k, slot := slot, ready := true, effective := false } } }) ∧
      (attachBytes s x y.bay ≠ 0 → hasSlices s y.bay = true →
        Owes (.attach m) 0x0206 m s { s with
          sessions := tins s.sessions i { x with attach := some { yealm := k, slot := slot, ready := false, effective := false } }
          bays := tins s.bays y.bay { b with bulk := b.bulk ++
            [{ kind := .attachMove i x.home, left := attachBytes s x y.bay, running := false
               resp := some (respTo s 0x0206 m) }] } })

/-- SESSION_EXPORT of a detached session returns the state image of its active half and its text, and changes nothing but the
counters of the channels it reads; of one in the group of a bay with slices it owes the response behind a bulk transfer (R158,
R211, R374); SESSION_IMPORT of an image that passes its checks makes a session that holds the image's state and text (R160 to
R163, R374). Which free index is taken is the model's choice (notes/assumptions/43.md). -/
def Obligations.StateImagesLeaveAndReturn : Prop :=
  ∀ (s : State) (m : HostMsg),
    (passes s 0x0208 m = true → handleFields m.body = true → ∀ x, sessOf s (fld m.body 0 4 % 65536) = some x →
      x.gen = fld m.body 0 4 / 65536 → x.st ≠ .lost →
      if x.attach.isSome then Declines (.sessionExport m) 0x0208 m stBusy s
      else
        ∀ b, buildOf s x.build = some b →
        let image := nativeImage x b.stateBytes (halfOf x (sessActive s x))
        let out := le 4 image.length ++ le 4 x.uttTokens ++ le 4 (x.queuedTokens.getD 0) ++ le 4 x.unspoken ++ image ++ sessText s x
        ((∀ i, x.home = some i → hasSlices s i = false) →
          Answers (.sessionExport m) 0x0208 m stOk out s
            (areaRead s (.half (fld m.body 0 4 % 65536) (sessActive s x)) 0 x.halfA.length)) ∧
        (∀ i, x.home = some i → hasSlices s i = true →
          Owes (.sessionExport m) 0x0208 m s (modBay s i (fun y => { y with bulk := y.bulk ++
            [{ kind := .sessionExport (fld m.body 0 4 % 65536), left := out.length, running := false
               resp := some (respTo s 0x0208 m) }] })))) ∧
    (passes s 0x0209 m = true → importFields m.body = true →
      let bind : Binding := { flags := fld m.body 1 1, encoding := fld m.body 2 1, port := fld m.body 3 1, slot := fld m.body 4 1 }
      match takeImage s (cut m.body 24 (fld m.body 8 4)) (bit (fld m.body 0 1) 0) with
      | .error status => tookEffect status = false → Declines (.sessionImport m) 0x0209 m status s
      | .ok o =>
        let i := (freeSession s).getD 0
        let x := newSession s (respTo s 0x0209 m).tag (nextGen (tget 0 s.gens i)) o bind false
        sessFits s x = true → o.compat = false → bindBad bind = false → bindBusy s bind = false →
        if importTextOk s m.body o = false then Declines (.sessionImport m) 0x0209 m stBadMessage s
        else
          Holds s (putSession s i (withText s m.body x)) i (placed s (withText s m.body x)) ∧
          Answers (.sessionImport m) 0x0209 m stOk (le 4 (x.gen * 65536 + i)) s (putSession s i (withText s m.body x)))

/-- ENROLL_START of an idle enrolment session starts a job with the message's parameters and its transcript; ENROLL_DATA
appends a piece of reference audio at its place; the end of a capture starts training where the audio reaches 10 s, and ends
the job with ST_BAD_MESSAGE where it does not (R377, R379). -/
def Obligations.EnrolmentCollectsAndTrains : Prop :=
  ∀ (s : State) (m : HostMsg) (x : Session) (k : Nat),
    (let i := fld m.body 0 4 % 65536
     sessOf s i = some x → x.gen = fld m.body 0 4 / 65536 → x.st ≠ .lost →
     (passes s 0x020A m = true → enrollFields m.body = true → x.enrolment = true → ∀ b, buildOf s x.build = some b →
       fld m.body 28 1 ≤ b.maxRank →
       if x.st ≠ .idle ∨ (adapterOf s (BitVec.ofNat 64 (fld m.body 4 8))).isSome then
         Declines (.enrollStart m) 0x020A m stBusy s
       else if x.unspoken = 0 then Declines (.enrollStart m) 0x020A m stBadMessage s
       else if fld m.body 29 1 = 1 ∧ micEnabled s (fld m.body 30 1) = false then
         Declines (.enrollStart m) 0x020A m stConfigMismatch s
       else if controlRoom s x = false then Declines (.enrollStart m) 0x020A m stNoResource s
       else
         let y : Session := { pushControl x 2 (cut m.body 4 36) with job := some (newJob m.body x.unspoken) }
         Answers (.enrollStart m) 0x020A m stOk [] s
           (fixState (ringWritten { s with sessions := tins s.sessions i y } i 1 1) i)) ∧
     (passes s 0x020B m = true → enrollDataFields m.body = true → ∀ j, x.job = some j →
       let data := m.body.drop 12
       if j.source ≠ 0 ∨ j.training = true ∨ fld m.body 4 4 ≠ j.audio.length ∨ 9600000 < j.audio.length + data.length then
         Declines (.enrollData m) 0x020B m stBadMessage s
       else if 1024 < ceilDiv data.length 64 then Declines (.enrollData m) 0x020B m stNoResource s
       else
         (fld m.body 8 1 = 0 →
           Answers (.enrollData m) 0x020B m stOk (le 4 (j.audio.length + data.length)) s (ringWritten { s with
             sessions := tins s.sessions i { passPcm x (pcmEntries data) with job := some { j with audio := j.audio ++ data } } }
             i 5 (pcmEntries data).length)))) ∧
    (∀ j, sessOf s k = some x → x.job = some j → j.source = 1 → j.capture = some 0 → j.training = false →
      exec (.enrollCaptureEnd k) s = .next
        (if j.audio.length < 320000 then endJob s k stBadMessage
         else { s with sessions := tins s.sessions k { x with job := some { j with training := true } } }))

/-! ### Messages in general -/

/-- A message that fails step 1 or 2 of R332 is answered with ST_BAD_MESSAGE, and one that is not among those of R334 is
answered with ST_FAULT_STATE in the FAULT state; nothing of it is applied. A message with a kept key is answered from the keep
and applies nothing where its type and body agree, and with ST_BAD_MESSAGE where they do not; a copy of a message that still
runs waits for the same response (R333). For every host message, the last two in the FAULT state too. -/
def Obligations.FailedAndResentMessagesApplyNothing : Prop :=
  ∀ (s : State) (i : Instr) (typ : Nat) (m : HostMsg), hostMsg i = some (typ, m) → taken s typ m = true →
    let rt := respTo s typ m
    (formOk typ m = false → Declines i typ m stBadMessage s) ∧
    (formOk typ m = true →
      (keyNew s typ m = true → s.fault.isSome = true →
        typ ∉ [0x0101, 0x0102, 0x0132, 0x0140, 0x0141, 0x0142] → Declines i typ m stFaultState s) ∧
      (∀ k, keptOf s rt = some k →
        if k.typ = rt.typ ∧ k.bodyCrc = crc32c m.body then
          ∃ t, exec i s = .next t ∧ t.bare = s.bare ∧ stream t m.conn = stream s m.conn ++ k.resp ∧
            t.keeps = s.keeps ∧ t.unanswered = s.unanswered
        else Declines i typ m stBadMessage s) ∧
      (∀ r, keptOf s rt = none → s.unanswered.find? (fun r => decide (r.tag = rt.tag ∧ r.msgId = rt.msgId)) = some r →
        r.typ = rt.typ → r.bodyCrc = crc32c m.body → Owes i typ m s s))

/-- Before boot completes no host message has an effect; afterwards a message enters mailbox `conn_id` mod 64, waits behind
what the mailbox holds, and waits at its head while firmware accepts nothing, while R213 holds its bytes back, and while it is
the turn of another mailbox, or 256 messages of its own are unanswered (R326 to R329). For every host message, with no message of
an undefined type waiting. -/
def Obligations.MailboxesKeepArrivalOrder : Prop :=
  ∀ (s : State) (i : Instr) (typ : Nat) (m : HostMsg), hostMsg i = some (typ, m) →
    (s.boot.complete = false → exec i s = .next s) ∧
    (s.boot.complete = true → (connOf s m.conn).isSome = true → unknownCount s = 0 →
      let b := m.conn % 64
      (∀ x rest, mailbox s b = x :: rest → (x :: rest).any (isMsg typ m) = false →
        exec i s = .next (setMailbox s b (x :: rest ++ [mailOf s typ m]))) ∧
      (mailbox s b = [] →
        let q := setMailbox s b [mailOf s typ m]
        if accepting s = false then exec i s = .next q
        else if ioWait s (mailOf s typ m) = true then exec i s = .next (ioHold q (mailOf s typ m))
        else (nextServed q ≠ some b → exec i s = .next q) ∧ (256 ≤ unansweredOf s b → nextServed q ≠ some b)))

/-! ### LMX segments -/

/-- A valid OPEN that repeats no connection takes the lowest free identifier: the connection is open, of the OPEN's tag and
this identifier's epoch, its path of the arrival network is up, and an OPEN_ACK is unacknowledged (R305 to R308). No other
connection changes. The initial sequence number is free (notes/assumptions/43.md names the choice of the identifier). -/
def Obligations.OpenMakesAConnection : Prop :=
  ∀ (s : State) (g : Seg) (c : Nat), segIn s g = true → segFormOk 3 g = true →
    s.conns.all (fun e => !openRepeats g e.2) = true → c < 4096 → connOf s c = none → (∀ d, d < c → connOf s d ≠ none) →
    ∃ t x, exec (.lmxOpen g) s = .next t ∧ connOf t c = some x ∧ (∀ d, d ≠ c → connOf t d = connOf s d) ∧
      x.st = .open ∧ x.tag = BitVec.ofNat 64 (fld g.payload 4 8) ∧ x.epoch = tget 0 s.epochs c ∧ x.rxNext = g.seq + 1 ∧
      x.hostMax = fld g.payload 0 2 ∧ x.peerWindow = g.window.toNat ∧ x.active = netOf g.port ∧
      (pathOf x (netOf g.port)).up = true ∧ (pathOf x (netOf g.port)).ip = g.srcIp ∧ (pathOf x (netOf g.port)).udp = g.srcUdp ∧
      x.unacked.map (fun u => (u.typ, u.seq, u.payload)) = [(4, x.isn, openAckPayload s x.tag)] ∧ x.waiting = [] ∧
      t.opened = s.opened + 1 ∧ (∀ d, d ≠ c → tget 0 t.epochs d = tget 0 s.epochs d) ∧
      { t.bare with epochs := [], opened := 0 } = { s.bare with epochs := [], opened := 0 }

/-- A DATA segment that is next in sequence and carries a whole message of a type of this manual puts that message at the end
of mailbox `conn_id` mod 64, and moves the expected sequence number on by one (R304, R310, R326). -/
def Obligations.DataDeliversItsMessage : Prop :=
  ∀ (s : State) (g : Seg) (x : Conn), segOn s 1 g x = true → s.boot.complete = true → g.seq = x.rxNext → x.rxBuf = [] →
    x.asm = none → x.oversize = false → g.flags.toNat % 4 = 3 → unknownCount s = 0 →
    let c := g.connId.toNat
    (msgShape (fld g.payload 0 2 % 32768)).isSome = true →
    ∃ t y, exec (.lmxData g) s = .next t ∧ connOf t c = some y ∧ y.rxNext = x.rxNext + 1 ∧ y.rxBuf = [] ∧ y.asm = none ∧
      y.st = .open ∧ (∀ d, d ≠ c → connOf t d = connOf s d) ∧
      mailbox t (c % 64) = mailbox s (c % 64) ++
        [{ mailOf s (fld g.payload 0 2 % 32768) (parsed c g.payload) with segs := 1 }] ∧
      (∀ b, b ≠ c % 64 → mailbox t b = mailbox s b) ∧ t.bare = s.bare

/-- An ACK removes the acknowledged segments from the send buffer and sets the peer's window (R311, R312); a KEEPALIVE is
answered with an ACK on its path (R304); a CLOSE next in sequence puts the connection into CLOSING (R309). No other
connection changes. Shown for a connection with nothing more to send. -/
def Obligations.AckKeepaliveAndClose : Prop :=
  ∀ (s : State) (g : Seg) (x : Conn), x.waiting = [] → x.respWait = [] →
    let c := g.connId.toNat
    (segOn s 2 g x = true →
      ∃ t y, exec (.lmxAck g) s = .next t ∧ connOf t c = some y ∧ (∀ d, d ≠ c → connOf t d = connOf s d) ∧ t.bare = s.bare ∧
        y.unacked.map (fun u => u.seq) = (x.unacked.filter (fun u => !seqAfter g.ack u.seq)).map (fun u => u.seq) ∧
        y.waiting = [] ∧ y.peerWindow = g.window.toNat ∧ y.rxNext = x.rxNext ∧ y.st = .open) ∧
    (segOn s 8 g x = true → (portOf s g.port).pauseEnd ≤ s.now →
      ∃ t pre bytes, exec (.lmxKeepalive g) s = .next t ∧ t.bare = s.bare ∧
        (∀ d, d ≠ c → connOf t d = connOf s d) ∧
        t.wire = pre ++ [.segment g.port g.srcIp g.srcUdp g.frame.src (ipHdr s g.port g.v6 .control) bytes] ∧ bytes.getD 3 0 = 2 ∧
        s.wire <+: pre) ∧
    (segOn s 5 g x = true → g.seq = x.rxNext → x.rxBuf = [] →
      ∃ t y, exec (.lmxClose g) s = .next t ∧ connOf t c = some y ∧ y.st = .closing ∧ y.rxNext = x.rxNext + 1 ∧
        (∀ d, d ≠ c → connOf t d = connOf s d) ∧ t.bare = s.bare)

/-- A valid RESET frees its connection and no other; a DGRAM from a host, and a segment that is not well formed, are counted
in `seg_invalid` and change nothing else; so is a well-formed one of another connection or epoch, answered with a RESET of reason
1 once per millisecond and source address, whatever the port (R307, Table 13.7). -/
def Obligations.ResetFreesAndInvalidIsCounted : Prop :=
  ∀ (s : State) (g : Seg) (typ : Byte), segIn s g = true →
    (∀ x, segFormOk 6 g = true → connOf s g.connId.toNat = some x → x.epoch = g.epoch → tsorted none s.conns = true →
      ∃ t, exec (.lmxReset g) s = .next t ∧ connOf t g.connId.toNat = none ∧
        (∀ d, d ≠ g.connId.toNat → connOf t d = connOf s d) ∧ t.wire = s.wire ∧
        { t.bare with units := [] } = { s.bare with units := [] }) ∧
    exec (.dgramFromHost g) s = .next (portCnt (portCnt s g.port 0 64) g.port 6 32) ∧
    (let counted := portCnt (portCnt s g.port 0 64) g.port 6 32
     (segFormOk typ.toNat g = false → exec (.invalidSegment typ g) s = .next counted) ∧
     (typ.toNat ∉ [3, 6, 7] → segFormOk typ.toNat g = true → segConnOk s g = false →
       let again := resetTo { counted with resets := (g.srcIp, s.now) :: s.resets.filter (fun r => decide (r.1 ≠ g.srcIp)) } g 1
       match s.resets.find? (fun r => decide (r.1 = g.srcIp)) with
       | some r => exec (.invalidSegment typ g) s = .next (if s.now < r.2 + Config.cyclesPerMs then counted else again)
       | none => exec (.invalidSegment typ g) s = .next again))

/-- The timers of a connection: an acknowledgement that is owed leaves (R304); an RTO below the third in a row doubles, up to
50 ms, and the earliest unacknowledged segment is sent again and counted (R312), but for a payload that a lowered `mtu` no longer
carries (R306); a due KEEPALIVE leaves and is counted as
unanswered (R313); the end of the hold and of the closing time frees the connection (Table 13.7). -/
def Obligations.ConnectionTimers : Prop :=
  ∀ (s : State) (c : Nat) (net : Fin 2) (x : Conn), connOf s c = some x →
    let p := pathOf x net
    let Sent (t : State) (typ : Nat) (cls : MsgClass) : Prop :=
      ∃ bytes, t.wire = s.wire ++ [.segment p.port p.ip p.udp p.mac (ipHdr s p.port p.v6 cls) bytes] ∧ fld bytes 3 1 = typ % 256
    let Rest (t : State) : Prop := (∀ d, d ≠ c → connOf t d = connOf s d) ∧ t.bare = s.bare
    (p.up = true → p.bound = true → linkIsUp s p.port = true → (portOf s p.port).pauseEnd ≤ s.now → (portOf s p.port).heldTx = [] →
      (x.ackDue = some net.val → ∃ t, exec (.ackDelayExpiry c) s = .next t ∧ Sent t 2 .control ∧ Rest t ∧
        connOf t c = some { x with ackDue := none, dataAcked := x.dataAcked || x.dataSeen }) ∧
      (∀ u, x.unacked.find? (fun u => !u.sacked && decide (u.net = net.val)) = some u → p.expiries < 2 →
        ∃ t y, exec (.rtoExpiry c net) s = .next t ∧ Rest t ∧ connOf t c = some y ∧
          (if (u.typ = 1 ∨ u.typ = 7) ∧ pathRoom s x p < u.payload.length then t.wire = s.wire else Sent t u.typ u.cls) ∧
          (pathOf y net).rto = min 50000000 (2 * p.rto) ∧ (pathOf y net).expiries = p.expiries + 1 ∧
          y.unacked.map (fun v => v.seq) = x.unacked.map (fun v => v.seq) ∧
          y.counters = cntAdd x.counters 0 32 1) ∧
      (p.probes < 3 →
        ∃ t y, exec (.keepaliveTimerExpiry c net) s = .next t ∧ Sent t 8 .control ∧ Rest t ∧ connOf t c = some y ∧
          (pathOf y net).probes = p.probes + 1)) ∧
    (tsorted none s.conns = true →
      let Freed (i : Instr) : Prop := ∃ t, exec i s = .next t ∧ connOf t c = none ∧ (∀ d, d ≠ c → connOf t d = connOf s d) ∧
        s.wire <+: t.wire ∧ { t.bare with units := [] } = { s.bare with units := [] }
      (x.st = .held → Freed (.holdExpiry c)) ∧ (x.st = .closing → Freed (.closingEnd c)))

/-! ### Ethernet and links -/

/-- ARP requests, neighbour solicitations and echo requests for the port's own address are answered on the port, at once or after
a pause; a frame of another kind is counted in `ip_dropped`; a PAUSE frame that the port honours holds its frames back for its
quanta, and one of no quanta lets them go (R297 to R300). What a quantum lasts, and which frames are PAUSE frames, is presumed of
IEEE 802.3 (notes/assumptions/95.md). -/
def Obligations.EthernetAnswersItsOwnAddresses : Prop :=
  ∀ (s : State) (p : Fin 8) (f : FrameHdr), linkIsUp s p = true →
    let seen := portCnt s p 0 64
    let leaves (u : State) (e : Emit) : State :=
      if s.now < (portOf u p).pauseEnd then setPort u p { portOf u p with heldTx := (portOf u p).heldTx ++ [e] }
      else emit (portCnt (releasePort u p) p 1 64) e
    let Replies (i : Instr) (e : Emit) : Prop := exec i s = .next (leaves seen e)
    (frameOk s p f = true →
      (∀ sender target : W32, target.toNat = portIp4 s p → target ≠ 0 →
        Replies (.arpRequest p f sender target) (.arpReply p f.src sender.toNat (arpHdr s p))) ∧
      (∀ sender target : W32, target.toNat ≠ portIp4 s p →
        exec (.arpRequest p f sender target) s = .next (portCnt seen p 5 32)) ∧
      (∀ src target : BitVec 128, portIp6 s p ≠ 0 →
        (target.toNat = portIp6 s p ∨ target.toNat = linkLocal (portMac s p)) →
        Replies (.neighbourSolicitation p f src target) (.neighbourAdvert p f.src target.toNat (ipHdr s p true .control))) ∧
      (∀ (v6 : Bool) (src dst : Nat) (payload : List Byte), echoAnswers s p v6 dst payload = true →
        let recent := (portOf seen p).echoes.filter (fun t => decide (s.now < t + Config.cyclesPerSecond))
        (recent.length < 1000 →
          exec (.echoRequest p f v6 src dst payload) s =
            .next (leaves (setPort seen p { portOf seen p with echoes := s.now :: recent })
              (.echoReply p f.src v6 src payload (ipHdr s p v6 .control)))) ∧
        (1000 ≤ recent.length → exec (.echoRequest p f v6 src dst payload) s = .next (portCnt seen p 5 32))) ∧
      exec (.unsupportedFrame p f) s = .next (portCnt seen p 5 32)) ∧
    (∀ quanta : W16, f.fcsOk = true →
      exec (.pauseFrame p f quanta) s = .next (
        if 64 ≤ f.bytes ∧ f.bytes ≤ 9216 ∧ f.tags = [] ∧ (f.dest = 0x0180C2000001 ∨ f.dest = portMac s p) ∧
            bit (portFlags s p) 1 = true then
          releasePort (setPort seen p { portOf seen p with pauseEnd := s.now + pauseCycles quanta.toNat }) p
        else portCnt seen p 5 32)) ∧
    (∀ quanta : W16, f.fcsOk = false → exec (.pauseFrame p f quanta) s = .next (portCnt (portCnt seen p 3 32) p 5 32))

/-- LINK_UP brings up an enabled port in service with its reference and announces its addresses (R297, R300); AN_FAIL is counted
where the port negotiates and its link is down, and changes nothing elsewhere; LINK_LOST fences the port, takes its link down and
every path bound to it (R313, Table 17.3). -/
def Obligations.LinksComeAndGo : Prop :=
  ∀ (s : State) (p : Fin 8),
    (let h := (unitOf s (uPort p)).fence
     exec (.anFail p) s = .next (
      if 1 ≤ portMode s p ∧ portMode s p ≤ 4 ∧ bit (portFlags s p) 0 = true ∧ linkIsUp s p = false ∧
          (portOf s p).sealedDown = false ∧ s.boot.resetN = true ∧ sdrefRuns s p = true ∧ h ≠ .permanent ∧ h ≠ .quiet then
        portCnt s p 4 32
      else s)) ∧
    (linkIsUp s p = false → portEnabled s p = true →
      ((portOf s p).sealedDown = false → sdrefRuns s p = true → s.boot.resetN = true →
        (unitOf s (uPort p)).fence = .inService → (portOf s p).pauseEnd ≤ s.now → (portOf s p).heldTx = [] →
        ∃ t, exec (.linkUp p) s = .next t ∧ linkIsUp t p = true ∧ (∀ q, q ≠ p.val → portOf t q = portOf s q) ∧
          t.wire = s.wire ++ (if portIp4 s p ≠ 0 then [.gratuitousArp p (arpHdr s p)] else []) ++
            (if portIp6 s p ≠ 0 then [.unsolicitedAdvert p (ipHdr s p true .control)] else []) ∧ t.bare = s.bare)) ∧
    (linkIsUp s p = true → tsorted none s.conns = true → tsorted none s.ports = true →
      ∃ t, exec (.linkLost p) s = .next t ∧ linkIsUp t p = false ∧ fenced t (uPort p) = true ∧
        (∀ q, q ≠ p.val → linkIsUp t q = linkIsUp s q) ∧
        (∀ c x, connOf t c = some x → ∀ net, net < 2 → (pathOf x net).up = true → (pathOf x net).port ≠ p.val) ∧
        (∀ e, e ∈ s.conns → (connOf t e.1).isSome = true) ∧
        (s.conns.length < 4096 → ∃ e, e ∈ t.log ∧ e.seq = s.logNext ∧ e.source = 0x0303 ∧ e.unit = uPort p) ∧
        { t.bare with log := [], logNext := 0, latch := none, units := [] } =
          { s.bare with log := [], logNext := 0, latch := none, units := [] })

/-- RING_OUTPUT_TAKE takes everything published in the rings 2 and 4 of a session, where the slot's traffic has room for it (R213,
R253, R369): it sends the samples of a chunk as AUDIO with the entry's fields (R366, R373), and the event at the head of ring 4
(R370, R372), each on the session's connection behind what that is to take. With nothing published it does nothing, and in the
FAULT state it takes nothing (R371). -/
def Obligations.OutputIsTakenFromTheRings : Prop :=
  ∀ (s : State) (i : Nat) (x : Session), sessOf s i = some x →
    (s.fault.isSome = true → exec (.ringOutputTake i) s = .next s) ∧
    (published s i 2 = 0 → published s i 4 = 0 → exec (.ringOutputTake i) s = .next s) ∧
    (s.fault = none → x.st ≠ .lost → published s i 4 ≤ 64 → (sringOf x 2).entryBytes ≤ 64 → (sringOf x 3).entryBytes ≤ 16 →
      (sringOf x 4).entryBytes ≤ 32 → ioFits s x (outputBytes s i x) = true →
      ∃ t, exec (.ringOutputTake i) s = .next t ∧ published t i 2 = 0 ∧ published t i 4 = 0 ∧
        (∀ j, j ≠ i → sessOf t j = sessOf s j) ∧
        { t.bare with sessions := [], channels := [] } = { s.bare with sessions := [], channels := [] }) ∧
    (s.fault = none → x.st ≠ .lost → ∀ c k, sessConn s x = some c → connOf s c = some k → k.respWait = [] →
      let msg (typ : Nat) (body : List Byte) : List Byte := msgBytes typ 0 (k.msgNo + 2147483648) body
      let Sends (bs : List Byte) (t : State) : Prop :=
        exec (.ringOutputTake i) s = .next t ∧ stream t c = stream s c ++ bs ∧ (∀ d, d ≠ c → connOf t d = connOf s d)
      (published s i 2 = 0 → published s i 4 = 1 →
        let ring := sringOf x 4
        let e := entryGet ring ring.io
        let bs := msg 0x0303 (eventBody (handleOf i x) (fld e 0 2) (fld e 2 2) (fld e 8 8) (fld e 16 8))
        ioFits s x 32 = true → streamFits s c bs.length = true →
        ∃ t, Sends bs t ∧ t.bare = (moveIo (ringTaken s i 4 1) i 4 1).bare) ∧
      (published s i 2 = 1 → published s i 4 = 0 →
        let ring := sringOf x 2
        let e := entryGet ring ring.io
        let first := fld e 8 8
        let n := fld e 16 2
        let o := fld e 0 8 % 8 * 8192 + (if x.encoding = 1 then 0 else 4096)
        let bs := msg 0x0301 (audioBody i x first n (fld e 18 1) 0 1
          (chunkPcm (moveIo (ringTaken s i 2 1) i 2 1) x (fld e 0 8) 0 n))
        fld e 19 1 = 0 → bit x.bindFlags.toNat 0 = true → bit x.bindFlags.toNat 2 = false →
        ioFits s x (chunkCost s i x e) = true → streamFits s c bs.length = true →
        (areaLines s (.eaves i) o (n * (if x.encoding = 1 then 3 else 2))).any (poisonedAt s) = false →
        ∃ t y, Sends bs t ∧ sessOf t i = some y ∧ y.nextSample = first + n ∧
          (sringOf y 2).io = (ring.io + 1) % 4294967296))

/-! ### The machine as a whole -/

/-- A step takes the command at the front of the queue and runs it on the state with the queue's rest; with an empty queue it is
one idle cycle of ARRAYCLK (the second is the model's choice, notes/assumptions/2.md). -/
def Obligations.StepRunsTheFrontCommand : Prop :=
  (∀ (c : Instr) (rest : List Instr) (s : State), step { s with pending := c :: rest } = exec c { s with pending := rest }) ∧
    (∀ s : State, s.pending = [] → step s = .next (timeTo s (s.now + 1)))

/-- Power-on reset holds the device: PWROK and RESET_N low, boot stage 0x00, FAULT_N driven, IDCODE selected, nothing resident,
nothing logged, no command waiting; and the invariant of every step holds. Key slots without a value in the manual hold the
model's choice, notes/assumptions/1.md. -/
def Obligations.ResetHoldsTheDevice : Prop :=
  State.reset.Inv ∧ State.reset.boot.pwrok = false ∧ State.reset.boot.resetN = false ∧ State.reset.boot.complete = false ∧
    State.reset.boot.stage = 0 ∧ State.reset.boot.faultN = true ∧ State.reset.tap.ir = 1 ∧ State.reset.fault = none ∧
    State.reset.latch = none ∧ State.reset.log = [] ∧ State.reset.conns = [] ∧ State.reset.builds = [] ∧
    State.reset.bays = [] ∧ State.reset.yealms = [] ∧ State.reset.sessions = [] ∧ State.reset.pending = []

/-- Every step keeps the flash and the thatch in canonical form and the four key slots of each algorithm: no command leaves a
byte listed twice, out of order, or listed where it reads as erased. For every command, from every state of the invariant. -/
def Obligations.EveryStepKeepsTheMemories : Prop :=
  ∀ s t : State, s.Inv → step s = .next t → t.Inv

/-- No command blows a fuse but BOOT_COMPLETE, where firmware confirms its image (R458, R462); there the counter never falls,
no revoked slot is unrevoked and no hash changes, and the counter becomes the greater of itself and the running firmware's
security version. -/
def Obligations.OnlyConfirmationBlowsFuses : Prop :=
  ∀ (c : Instr) (s t : State), exec c s = .next t →
    (c ≠ .bootComplete → t.fuses = s.fuses) ∧
    (c = .bootComplete →
      slotsOnward s.fuses.rsa t.fuses.rsa ∧ slotsOnward s.fuses.slh t.fuses.slh ∧ s.fuses.counter ≤ t.fuses.counter ∧
        t.fuses.serial = s.fuses.serial ∧ t.fuses.ok = s.fuses.ok ∧
        (t.fuses ≠ s.fuses → ∃ f, s.boot.fw = some f ∧ t.fuses.counter = max s.fuses.counter f.secVersion))

/-- Every command that answers a next state leaves the commands that wait as they are, and the boot flash too where it is not a
reset, the end of boot or a piece of a firmware update (R455, R456, R463). -/
def Obligations.CommandsLeaveQueueAndFlash : Prop :=
  ∀ (c : Instr) (s t : State), exec c s = .next t → t.pending = s.pending ∧ (writesFlash c = false → t.flash = s.flash)

/-! ### Core commands -/

/-- A sequencer command that meets nothing before it runs in unit 0: NOP does nothing, SLOT_LOOP opens a loop, DESC_WRITE and
RING_WRITE take a descriptor from the plan's constants (Table 11.15, R235); the last command of a loop's body puts the copies
for slots 1 to n - 1 behind it (R265). ARM of a free descriptor starts its transfer with the descriptor as it stands; of one in
transfer it is held, once (R245 to R248), and its unit is free for the next command at once. -/
def Obligations.SequencerCommandsRun : Prop :=
  ∀ (s : State) (c : Fin 64) (h : CmdHdr),
    let done := completion false 0 0 false
    (goes s c h .nop = true → Issues (.nop c h) c h .nop s s (atIssue s c h .nop) done) ∧
    (∀ n : W16, 1 ≤ n.toNat → n.toNat ≤ 60 → goes s c h (.slotLoop n) = true →
      Issues (.slotLoop c h n) c h (.slotLoop n) s s (atIssue s c h (.slotLoop n)) done ∧
        (atIssue s c h (.slotLoop n)).loop = some { remaining := n.toNat, body := [] }) ∧
    (∀ (l : LoopSt), coreRuns s c = true → (coreOf s c).loop = some l → l.remaining = 1 → (coreOf s c).stepEnded = true →
      (coreOf s c).units.all (fun e => decide (e.2.queue = [])) = true →
      let x := coreOf s c
      let body := l.body ++ [(h, CoreOp.nop)]
      exec (.nop c h) s = .next (setCore s c { x with
        loop := none, fetchIndex := x.fetchIndex + 1
        window := x.window ++ [{ hdr := h, op := .nop, slot := 0, taken := false, index := x.fetchIndex }] ++
          ((List.range (nSlotsOf x)).drop 1).flatMap (fun k => body.mapIdx (fun j e =>
            { hdr := e.1, op := e.2, slot := k, taken := false, index := x.fetchIndex + 1 - body.length + j })) })) ∧
    (∀ (desc : Byte) (constAt : W32) (d : DmaDesc), goes s c h (.descWrite desc constAt) = true → desc.toNat < 128 →
      constAt.toNat + 64 ≤ (coreOf s c).prog.consts.length →
      descOf (cut (coreOf s c).prog.consts constAt.toNat 64) = .ok d → (dmaOf (coreOf s c) desc.toNat).active = none →
      Issues (.descWrite c h desc constAt) c h (.descWrite desc constAt) s s
        (setCoreDesc (atIssue s c h (.descWrite desc constAt)) desc.toNat d) done) ∧
    (∀ (ring : Byte) (constAt : W32), goes s c h (.ringWrite ring constAt) = true → ring.toNat < 64 →
      constAt.toNat + 32 ≤ (coreOf s c).prog.consts.length → ringImageOk (cut (coreOf s c).prog.consts constAt.toNat 32) = true →
      Issues (.ringWrite c h ring constAt) c h (.ringWrite ring constAt) s s
        (setCoreRing (atIssue s c h (.ringWrite ring constAt)) ring.toNat
          { ringOf (cut (coreOf s c).prog.consts constAt.toNat 32) with head := 0, tail := 0 }) done) ∧
    (∀ o : ArmOps, goes s c h (.arm o) = true → o.desc.toNat < 128 →
      o.armFlags.toNat < 2 →
      let x := atIssue s c h (.arm o)
      let i := o.desc.toNat
      let own := dmaOf (coreOf s c) i
      let q : ArmReq :=
        { engine := o.engine, post := { sem := h.postSem, core := h.postCore, count := h.postCount }, srcStep := 0, dstStep := 0
          slot := if bit o.armFlags.toNat 0 = true then some 0 else none }
      let Leaves (y : Core) : Prop :=
        ∃ t, exec (.arm c h o) s = .next t ∧ (unitQ (coreOf t c) (5 + o.engine.val)).queue = [] ∧
          (∀ k, k ≠ 5 + o.engine.val → unitQ (coreOf t c) k = unitQ y k) ∧ { coreOf t c with units := [] } = { y with units := [] } ∧
          (∀ e, e ≠ c.val → coreOf t e = coreOf s e) ∧ { t with cores := [], fresh := 0 } = { s with cores := [], fresh := 0 }
      (∀ tr, own.active = none → startXfer (setCore s c x) c i q = .ok (some tr) →
        Leaves (setDma x i { own with active := some tr })) ∧
      (∀ tr, own.active = some tr → own.waiting = none →
        Leaves (coreAdd .pendingArms 1 (setDma x i { own with waiting := some q }))))

/-- The matrix array: MATMUL of a plain activation walk, and DIAG, over the operands and weights that their walks deliver, write
the accumulators of R78, R71, R72 and R126 and leave their tiles in the tile buffers (R67), and complete empty where a walk
delivers nothing (R118, R135); WINO_OUT transforms its tiles and writes no surplus output (R129, R130); CARRY starts its run on a
free path (R83). Which accumulators make up a tile of WINO_OUT, and in what order the walks fetch their lines, is the model's
reading (notes/assumptions/24.md, notes/assumptions/82.md). -/
def Obligations.ArrayCommandsRun : Prop :=
  ∀ (s : State) (c : Fin 64) (h : CmdHdr),
    (∀ (o : ArrOps) (wa ww : WalkDesc), goes s c h (.matmul o) = true →
      let x := atIssue s c h (.matmul o)
      let ns := nSlotsOf x
      let k := o.k.toNat
      let n := o.n.toNat
      let mode := o.cellMode.toNat
      let m := slotCount x o.mFixed.toNat o.mPerSlot.toNat
      let mm := min m (min (walkTokens ns wa k) 512)
      let scales := bit o.arrFlags.toNat 1
      let used := weightUsed mode k scales
      let per := channelWeightBytes mode k scales
      let src (t r : Nat) : OpSrc := plainSrc ns 0 wa (t * k + r)
      o.arrFlags.toNat < 8 → arrLimits x m k n mode o.accBase.toNat = true → o.winoPos = 0xFF#8 → o.winoForm = 0 →
      o.walkB = 0xFFFF#16 → walkAtIdx x o.walkA.toNat = .ok wa → walkOk ns wa = .ok () → wa.mode = 0 →
      walkAtIdx x o.walkW.toNat = .ok ww → walkOk ns ww = .ok () →
      (mm = 0 ∨ prodL (walkCounts ns ww) = 0 → Issues (.matmul c h o) c h (.matmul o) s s x emptyDone) ∧
      (∀ (ops : List (List Int)) (ws : List (List Byte)), 1 ≤ mm → prodL (walkCounts ns ww) ≠ 0 →
        tryMap (fun t => tryMap (fun r => srcOperand s x (coreGroup s x) wa (bit o.arrFlags.toNat 2) (src t r)) (List.range k))
          (List.range mm) = .ok ops →
        readWeights s x (coreGroup s x) 0 ww used per n = .ok ws →
        let a : ArrIn := { m := mm, k := k, n := n, mode := mode, keep := bit o.arrFlags.toNat 0, scales := scales
                           base := o.accBase.toNat, ops := ops, ws := ws }
        Issues (.matmul c h o) c h (.matmul o) s
          (walkFetch s x (coreGroup s x) [wa, wa, ww] (weightSrcs ns 0 ww used per n)
            [(List.range mm).flatMap (fun t => (List.range k).map (src t)), []])
          (arrRun x a 0).1 (arrRun x a 0).2)) ∧
    (∀ (o : ArrOps) (wa ww : WalkDesc), goes s c h (.diag o) = true →
      let x := atIssue s c h (.diag o)
      let ns := nSlotsOf x
      let k := o.k.toNat
      let n := o.n.toNat
      let m := slotCount x o.mFixed.toNat o.mPerSlot.toNat
      let taps := ((walkWins wa).head?.map (fun g => g.taps)).getD 1
      let g := k / max 1 taps
      let mm := min m (walkTokens ns wa k)
      let chans := walkCin ns wa
      let sN := max 1 (min g (32 / max 1 taps))
      let kts := ceilDiv g sN
      let passes := ceilDiv n 64 * kts
      let runs := ceilDiv mm (max 1 (((walkWins wa).head?.map winOuts).getD 1))
      let src (t ch tap : Nat) : OpSrc := tapOperand ns 0 wa t ch [tap]
      o.arrFlags.toNat < 8 → arrLimits x m k n 0 o.accBase.toNat = true → o.winoPos = 0xFF#8 → o.winoForm = 0 →
      o.cellMode = 0 → bit o.arrFlags.toNat 1 = false → o.walkB = 0xFFFF#16 →
      walkAtIdx x o.walkA.toNat = .ok wa → walkOk ns wa = .ok () → wa.mode = 3 → k % taps = 0 → 1 ≤ g →
      walkAtIdx x o.walkW.toNat = .ok ww → walkOk ns ww = .ok () →
      (mm = 0 ∨ prodL (walkCounts ns ww) = 0 → Issues (.diag c h o) c h (.diag o) s s x emptyDone) ∧
      (∀ (ins : List (List (List Int))) (ws : List (List Byte)), 1 ≤ mm → prodL (walkCounts ns ww) ≠ 0 →
        tryMap (fun t => tryMap (fun ch => tryMap (fun tap =>
          srcOperand s x (coreGroup s x) wa (bit o.arrFlags.toNat 2) (src t ch tap)) (List.range taps))
          (List.range chans)) (List.range mm) = .ok ins →
        readWeights s x (coreGroup s x) 0 ww (fun _ => true) k n = .ok ws →
        let v (t ch i tap : Nat) : Int := ((ins.getD t []).getD (ch * max 1 (chans / g) / n * g + i) []).getD tap 0
        let cells := ((List.range mm).map (fun t => (List.range n).map (fun ch =>
          let idx := o.accBase.toNat + ((ch / 64) * mm + t) * 64 + ch % 64
          (idx, diagCell (bit o.arrFlags.toNat 0) (accGet x idx) g taps (fun i => ((ws.getD ch []).getD i 0).toInt) (v t ch))))).flatten
        let tile (p : Nat) : List (List Byte) := (List.range (min 64 (n - p / kts * 64))).map (fun j =>
          cut (ws.getD (p / kts * 64 + j) []) (p % kts * (sN * taps)) (sN * taps))
        Issues (.diag c h o) c h (.diag o) s
          (walkFetch s x (coreGroup s x) [wa, wa, ww] (weightSrcs ns 0 ww (fun _ => true) k n)
            [(List.range mm).flatMap (fun t => (List.range chans).flatMap (fun ch => (List.range taps).map (src t ch))), []])
          (coreAdd .skipGroups (diagSkips mm n g taps v)
            (coreAdd .arrayStreamCycles (passes * (mm + runs * (taps - 1))) (coreAdd .arrayPassCount passes
              (swapTiles (cells.foldl (fun y e => accPut y e.1 e.2.1) x) tile passes))))
          (completion false ((cells.map (fun e => e.2.2)).sum) 0 false))) ∧
    (∀ o : WinoOps, goes s c h (.winoOut o) = true →
      let x := atIssue s c h (.winoOut o)
      let tiles := slotCount x o.tilesFixed.toNat o.tilesPerSlot.toNat
      let form := o.winoForm.toNat
      let per := if form = 0 then 4 else 16
      form ≤ 1 → sResOk x = true → o.accBase.toNat % 64 = 0 → o.accBase.toNat + tiles * per ≤ 32768 - x.sRes →
      let at' (i j : Nat) : Nat := o.accBase.toNat + j * tiles + i
      let r := (List.range tiles).foldl (fun (r : Core × Nat) i =>
        let t := winoTile form ((List.range per).map (fun j => accGet x (at' i j)))
        let kept := (t.1.mapIdx (fun j v => (j, v))).filter (fun e => !winoSurplus x.wino form i e.1)
        (kept.foldl (fun y e => accPut y (at' i e.1) e.2) r.1, r.2 + t.2)) (x, 0)
      (tiles = 0 → Issues (.winoOut c h o) c h (.winoOut o) s s x emptyDone) ∧
      (1 ≤ tiles → Issues (.winoOut c h o) c h (.winoOut o) s s r.1 (completion false r.2 0 false))) ∧
    (∀ o : CarryOps, goes s c h (.carry o) = true → o.carryFlags.toNat < 2 → carryLimits (coreOf s c) o = true →
      (coreOf s c).carryA = [] →
      Issues (.carry c h o) c h (.carry o) s s { atIssue s c h (.carry o) with carryRun := some { ops := o, done := 0 } }
        (completion false 0 0 false))

/-- The vector engine on legal operands: each command reads its first operand from the rescale stage, the state-carry read-out
or the scratchpad, and the values of Table 5.1, R97, R99, R100, R101 and R105 go to its destination or to the state-carry path
(R93), with its cycles counted; with no elements it completes empty (R64). What the path takes from a result, and the width of a
result in state units, is the model's choice (notes/assumptions/83.md, notes/assumptions/84.md). -/
def Obligations.VectorCommandsRun : Prop :=
  ∀ (s : State) (c : Fin 64) (h : CmdHdr) (o : VecOps) (as : List Nat) (z : Core),
    let n := vecLen (coreOf s c) o
    let sub := o.subOp.toNat
    let k := o.param0.toNat
    let fmt := o.fmt.toNat
    let Legal (op : CoreOp) (subs fmts : Nat) : Prop := goes s c h op = true ∧ vecLegal (coreOf s c) o subs fmts = true
    let First (op : CoreOp) (w : Nat) : Prop := 1 ≤ n ∧ vecFirst s (atIssue s c h op) o 0 w n = .ok (as, z)
    let Ends (i : Instr) (op : CoreOp) (y : Core) (w : Nat) (f : ResFmt) (vals : List Nat) (busy slow : Nat) (d : Completion) : Prop :=
      vecLands y o w vals → Issues i c h op s s (vecLeft y o w f vals busy slow) (vecRecord o f vals d)
    let fine := completion false 0 0 false
    (Legal (.element o) (elemSubs fmt) 2 → (if sub = elemCompare fmt then k ≤ 5 else k = 0) → o.param1 = 0 →
      let w := if fmt = 1 then 2 else 4
      let wide := elemForm o
      (n = 0 → Issues (.element c h o) c h (.element o) s s (atIssue s c h (.element o)) emptyDone) ∧
      (∀ bs cs, First (.element o) w →
        (if elemArity fmt sub < 2 then .ok [] else spadWords z (vecAddr o 0 o.src1) w n) = Except.ok bs →
        (if elemArity fmt sub < 3 then .ok [] else spadWords z (vecAddr o 0 o.src2) (if wide.1 = true then 4 else w) n) =
          Except.ok cs →
        Ends (.element c h o) (.element o) z (if wide.2 = true then 4 else w)
          (if fmt = 2 then .other else if fmt = 1 ∧ wide.2 = false then .bf16 else .fp32) (elemRun fmt sub k wide as bs cs)
          (ceilDiv n (if fmt = 1 then 128 else 64)) 0 fine)) ∧
    (Legal (.convert o) 9 0 →
      (if sub = 4 then invOk o.param0 = true ∧ o.param1.toNat ≤ 255 else o.param0 = 0 ∧ o.param1 = 0) →
      (n = 0 → Issues (.convert c h o) c h (.convert o) s s (atIssue s c h (.convert o)) emptyDone) ∧
      (∀ mds y, First (.convert o) (convIn sub) →
        let stoch := vecStoch o && decide (sub = 0 ∨ sub = 4)
        roundModes s z 0 stoch o.tensorId o.elemBase.toNat n = .ok (mds, y) →
        let rs := as.mapIdx (fun i a => convOne sub o.param0 o.param1.toNat (mds.getD i .det) (BitVec.ofNat 32 a))
        let vals := rs.map Prod.fst
        let d := completion false ((rs.map Prod.snd).sum) 0 (stoch && y.rng.coarse)
        (vecToCarry o = false ∨ (sub ≠ 5 ∧ sub ≠ 6) →
          Ends (.convert c h o) (.convert o) y (convOut sub)
            (if sub = 1 ∨ sub = 3 then .fp32 else if sub = 2 then .bf16 else .other) vals (ceilDiv n 64)
            (if stoch = true then vecSlow s y 0 n else 0) d) ∧
        (vecToCarry o = true → (sub = 5 ∨ sub = 6) → y.carryRun = none →
          Issues (.convert c h o) c h (.convert o) s s
            (coreAdd .vecBusyCycles (ceilDiv n 64) (if sub = 5 then { y with carryA := y.carryA ++ vals.map (BitVec.ofNat 16) }
              else { y with carryU := y.carryU ++ vals.map (BitVec.ofNat 40) })) d))) ∧
    (Legal (.func o) 7 0 → o.param0 = 0 → o.param1 = 0 →
      (n = 0 → Issues (.func c h o) c h (.func o) s s (atIssue s c h (.func o)) emptyDone) ∧
      (First (.func o) 4 →
        Ends (.func c h o) (.func o) (coreAdd .fuEvals n z) 4 .fp32
          (as.map (fun a => (funcUnit (funcOf sub) (BitVec.ofNat 32 a)).toNat)) (ceilDiv n 64) 0 fine)) ∧
    (Legal (.reduce o) 3 0 → 1 ≤ k → n % k = 0 → o.param1 = 0 →
      (n = 0 → Issues (.reduce c h o) c h (.reduce o) s s (atIssue s c h (.reduce o)) emptyDone) ∧
      (First (.reduce o) 4 →
        Ends (.reduce c h o) (.reduce o) z 4 .fp32
          ((chop k (n / k) (as.map (BitVec.ofNat 32))).map (fun r => ((reduceW (reduceOp sub) r).getD 0).toNat)) (ceilDiv n 64) 0
          fine)) ∧
    (Legal (.softmax o) 1 0 → 1 ≤ k → k ≤ 16384 → n % k = 0 → o.param1 = 0 →
      (n = 0 → Issues (.softmax c h o) c h (.softmax o) s s (atIssue s c h (.softmax o)) emptyDone) ∧
      (First (.softmax o) 4 →
        let rows := chop k (n / k) (as.map (BitVec.ofNat 32))
        let evals := (rows.map (fun r => if r.any fpIsNan = true ∨ maxW r = fpNegInf then 0
          else if maxW r = fpInf then 1 else k + 1)).sum
        Ends (.softmax c h o) (.softmax o) (coreAdd .fuEvals evals z) 4 .fp32 (((rows.map softmaxRow).flatten).map BitVec.toNat)
          (3 * (n / k) * ceilDiv k 64) 0 fine))

/-- Quantisation, the rescale stage, the gate, the Hadamard unit and up-sampling on legal operands deliver the values of R52, R56
to R58, R106 to R108, R111 and R125, and count what R64 has them count; the rescale stage reads the working region alone (R74,
R76), and writes the scratchpad unless the next lane command takes its output (R93, R109). Of the operators that a plan composes
from commands, a duration is 1 to 255 frames (R25), the router takes the largest logits, the lowest index first (R26), above an
exit layer each layer only updates its state (R27), and a silent stream's samples are zero (R34). -/
def Obligations.VectorUnitsRun : Prop :=
  ∀ (s : State) (c : Fin 64) (h : CmdHdr) (o : VecOps) (as : List Nat) (z : Core),
    let n := vecLen (coreOf s c) o
    let k := o.param0.toNat
    let Legal (op : CoreOp) (subs : Nat) : Prop := goes s c h op = true ∧ vecLegal (coreOf s c) o subs 0 = true
    let First (op : CoreOp) : Prop := 1 ≤ n ∧ vecFirst s (atIssue s c h op) o 0 4 n = .ok (as, z)
    let Ends (i : Instr) (op : CoreOp) (y : Core) (w : Nat) (f : ResFmt) (vals : List Nat) (busy slow : Nat) (d : Completion) : Prop :=
      vecLands y o w vals → Issues i c h op s s (vecLeft y o w f vals busy slow) (vecRecord o f vals d)
    let fine := completion false 0 0 false
    (∀ mds y, Legal (.quant o) 1 → 1 ≤ k → k ≤ 16384 → n % k = 0 → o.param1 = 0 → First (.quant o) →
      roundModes s z 0 (vecStoch o) o.tensorId o.elemBase.toNat n = .ok (mds, y) →
      let toks := (chop k (n / k) (as.map (BitVec.ofNat 32))).mapIdx (fun t v =>
        quantToken (fun i => mds.getD (t * k + i) .det) v)
      let scales := wordBytes 4 ((toks.map (fun t => [t.scale.toNat, t.z])).flatten)
      spadIn (vecAddr o 0 o.src1) scales.length = true →
      Ends (.quant c h o) (.quant o) (wrote y (vecAddr o 0 o.src1) scales) 1 .other ((toks.map (fun t => t.codes)).flatten)
        (2 * (n / k) * ceilDiv k 64) (if vecStoch o = true then n / k * vecSlow s y 0 k else 0)
        (completion false ((toks.map (fun t => t.sat)).sum) ((toks.map (fun t => t.degen)).sum) (vecStoch o && y.rng.coarse))) ∧
    (∀ table zs mds y, Legal (.rescale o) 2 → o.param1.toNat ≤ 255 → 1 ≤ o.src2.toNat → n % o.src2.toNat = 0 →
      o.vecFlags.toNat % 8 = 0 → 1 ≤ n →
      let x := atIssue s c h (.rescale o)
      let code := decide (o.subOp = 0)
      let stoch := vecStoch o && code
      sResOk x = true → o.src0.toNat + n ≤ 32768 - x.sRes →
      tryMap (fun i => match spadRead x ((k + 16 * i : Nat) : Int) 16 with
        | .error e => .error e
        | .ok bs => .ok (rescaleEntry bs)) (List.range o.src2.toNat) = .ok table →
      table.all (fun e => e.rsvdZero) = true →
      (if o.src1 = 0xFFFFFFFF#32 then .ok [] else spadWords x (vecAddr o 0 o.src1) 1 (n / o.src2.toNat)) = Except.ok zs →
      roundModes s x 0 stoch o.tensorId o.elemBase.toNat n = .ok (mds, y) →
      let rs := (List.range n).map (fun i =>
        let e := table.getD (i % o.src2.toNat) { mult := 0, shift := 0, rsvdZero := true, bias := 0, rowsum := 0 }
        let a := (accGet y (o.src0.toNat + i)).toInt
        let q := zs.getD (i / o.src2.toNat) 0
        if code = true then rescaleCode (mds.getD i .det) o.param1.toNat a q e
        else ((rescaleReal a q e).1.toNat, (rescaleReal a q e).2))
      let vals := rs.map Prod.fst
      let bs := wordBytes (if code = true then 1 else 4) vals
      let out := coreAdd .rescaleElements n { y with rescaleOut := vals.map (BitVec.ofNat 32) }
      (rescaleChained x = false → spadIn (vecAddr o 0 o.dst) bs.length = true) →
      Issues (.rescale c h o) c h (.rescale o) s s
        (coreAdd .srSlowCycles (if stoch = true then vecSlow s y 0 n else 0)
          (if rescaleChained x = true then out else wrote out (vecAddr o 0 o.dst) bs))
        (completion false ((rs.map Prod.snd).sum) 0 (stoch && y.rng.coarse))) ∧
    (∀ lams bs vs hs, Legal (.gate o) 2 → (o.subOp.toNat = 1 ∨ k = 0) → First (.gate o) →
      let form := o.subOp.toNat
      (if form = 1 then spadFp z (k : Int) n else .ok []) = Except.ok lams → spadFp z (vecAddr o 0 o.src1) n = .ok bs →
      let g (i : Nat) : W32 := BitVec.ofNat 32 (as.getD i 0)
      let lam (i : Nat) : W32 := lams.getD i 0
      (o.param1 = 0 → spadFp z (vecAddr o 0 o.src2) n = .ok vs → spadFp z (vecAddr o 0 o.dst) n = .ok hs →
        let rs := (List.range n).map (fun i => gateElem form (g i) (lam i) (bs.getD i 0) (vs.getD i 0) (hs.getD i 0))
        Ends (.gate c h o) (.gate o) (coreAdd .fuEvals ((form + 2) * n) z) 4 .fp32 (rs.map (fun r => r.1.toNat))
          (ceilDiv ((form + 2) * n) 64) 0 (completion false ((rs.map Prod.snd).sum) 0 false)) ∧
      (o.param1 = 1 → z.carryRun = none →
        let ds := (List.range n).map (fun i => toDecay (gateDecay form (g i) (lam i)))
        let us := bs.map toState
        Issues (.gate c h o) c h (.gate o) s s
          (coreAdd .vecBusyCycles (ceilDiv ((form + 1) * n) 64) (coreAdd .fuEvals ((form + 1) * n)
            { z with carryA := z.carryA ++ ds.map Prod.fst, carryU := z.carryU ++ us.map Prod.fst }))
          (completion false ((ds.map Prod.snd).sum + (us.map Prod.snd).sum) 0 false))) ∧
    (Legal (.hadamard o) 1 → (k = 32 ∨ k = 64 ∨ k = 128 ∨ k = 256) → n % k = 0 → o.param1 = 0 → First (.hadamard o) →
      Ends (.hadamard c h o) (.hadamard o) (coreAdd .hadamardBlocks (n / k) z) 4 .fp32
        ((mapBlocks (hadBlock (Nat.log2 k)) k (n / k) (as.map (BitVec.ofNat 32))).map BitVec.toNat) (ceilDiv n 64) 0 fine) ∧
    (∀ prev, Legal (.upsample o) 1 → 2 ≤ k → k ≤ 8 → o.param1 = 0 → First (.upsample o) →
      spadFp z (vecAddr o 0 o.src1) 1 = .ok [prev] →
      Ends (.upsample c h o) (.upsample o) z 4 .fp32 ((upsampleRow k prev (as.map (BitVec.ofNat 32))).map BitVec.toNat)
        (ceilDiv n 64 + ceilDiv (n * k) 64) 0 fine) ∧
    (∀ v : W32, 1 ≤ (durationOf v).1 ∧ (durationOf v).1 ≤ 255 ∧ (fpIsNan v = true → durationOf v = (1, 1)) ∧
      (fpIsNan v = false → fpIsInf v = false →
        let r := roundDy .det (fpDy v)
        durationOf v = ((max 1 (min 255 r)).toNat, if 1 ≤ r ∧ r ≤ 255 then 0 else 1))) ∧
    (∀ (m : Nat) (logits : List W32),
      let l := logits.map (fun v => if fpIsNan v = true then fpNegInf else v)
      let r := route m logits
      r.experts.length = min m l.length ∧ r.experts.Nodup ∧ (∀ e, e ∈ r.experts → e < l.length) ∧
        (∀ e d, e ∈ r.experts → d < l.length → d ∉ r.experts →
          fcmp 2 (l.getD e 0) (l.getD d 0) = false ∧ (fcmp 0 (l.getD e 0) (l.getD d 0) = true → e < d)) ∧
        r.weights = softmaxRow (r.experts.map (fun e => l.getD e fpNegInf)) ∧ r.sat = cap16 ((logits.filter fpIsNan).length)) ∧
    (∀ (σ α : Type) (recur : Nat → σ → α → σ × α) (ff : Nat → α → α) (heads : Nat → α → List W32) (ls : List Layer) (i e : Nat)
      (q : σ) (x : α),
      generatorFrame recur ff heads ls i (some e) q x =
        ((List.range ls.length).foldl (fun q j => (recur (i + j) q x).1) q, x, some e)) ∧
    (∀ d v y, (fpIsZero d.silence = true → silentChunk d v = false) ∧ cellSample true y = 0)

/-- The sampler, the mark decoder and the random-number generator on legal operands (R165 to R179, R189, R192, R196); in coarse
mode no lane table is read (R197). -/
def Obligations.SamplerMarksAndDrawsRun : Prop :=
  ∀ (s : State) (c : Fin 64) (h : CmdHdr),
    (∀ (o : SampleOps) (b : Build) (cb : Codebook) (ds : List DrawOut) (z : Core), goes s c h (.sample o) = true →
      let x := atIssue s c h (.sample o)
      let rows := slotCount x o.sFixed.toNat o.sPerSlot.toNat
      1 ≤ o.vocab.toNat → o.vocab.toNat ≤ 16384 → 1 ≤ rows → rows ≤ 32 → o.sPerSlot.toNat ≤ 1 → coreBuild s x = some b →
      b.desc.codebooks[o.codebook.toNat]? = some cb → sampleRows s o cb b.desc.sampleTensor rows 0 x = .ok (ds, z) →
      let bs := wordBytes 2 (ds.map (fun d => d.code))
      spadIn (o.dst.toNat : Int) bs.length = true →
      Issues (.sample c h o) c h (.sample o) s s
        (wrote (coreAdd .toppCuts ((ds.filter (fun d => d.cut)).length) z) (o.dst.toNat : Int) bs)
        (completion false ((ds.map (fun d => d.sat)).sum) 0 false)) ∧
    (∀ (o : MarkOps) (b : Build) (ms : List (List (List Byte) × Nat × Nat)) (z : Core), goes s c h (.mark o) = true →
      let x := atIssue s c h (.mark o)
      let rows := slotCount x o.sFixed.toNat o.sPerSlot.toNat
      let len := if b.desc.marks.h = 0 then 0 else 8 * b.desc.marks.p
      1 ≤ rows → rows ≤ 32 → o.sPerSlot.toNat ≤ 1 → coreBuild s x = some b →
      (List.range rows).all (fun r => spadIn ((o.scores.toNat + o.rowStride.toNat * r : Nat) : Int) len) = true →
      tryMap (slotMarks s x o b) (List.range rows) = .ok ms →
      (ms.mapIdx (fun r m => (r, m.1))).foldl (fun (t : Try Core) e =>
        match t with
        | .error f => .error f
        | .ok y => spadWrite y ((o.dst.toNat + 32 * e.1 : Nat) : Int) e.2.flatten) (.ok x) = .ok z →
      let y := coreAdd .marksMade ((ms.map (fun m => m.1.length)).sum) (coreAdd .markFallbacks ((ms.map (fun m => m.2.1)).sum) z)
      Issues (.markCmd c h o) c h (.mark o) s
        ((ms.mapIdx (fun r m => (r, m.1))).foldl (fun u e =>
          match slotWork u y e.1 with
          | none => u
          | some w => if e.2 = [] then u else setSlotWork u y e.1 { w with marks := w.marks ++ e.2 }) s)
        y (completion false ((ms.map (fun m => m.2.2)).sum) 0 false)) ∧
    (∀ a : W32, goes s c h (.compatLoad a) = true → spadIn (a.toNat : Int) compatBytes = true →
      let x := atIssue s c h (.compatLoad a)
      let bs := mread 0 x.spad a.toNat compatBytes
      Issues (.compatLoad c h a) c h (.compatLoad a) s s
        (if x.rng.coarse = true then x else
          { x with rng := { x.rng with
            lanes := tins x.rng.lanes 0 ((List.range 32).map (fun l => laneOf (cut bs (8 + 224 * l) 224)))
            cursor := tdel x.rng.cursor 0 } })
        (completion false 0 0 false)) ∧
    (∀ a : W32, goes s c h (.compatSave a) = true → (coreOf s c).rng.coarse = true → spadIn (a.toNat : Int) compatBytes = true →
      Issues (.compatSave c h a) c h (.compatSave a) s s (atIssue s c h (.compatSave a)) (completion false 0 0 false)) ∧
    (∀ (a : W32) (ls : List LaneTab), goes s c h (.compatSave a) = true → (coreOf s c).rng.coarse = false →
      tfind (coreOf s c).rng.lanes 0 = some ls → spadIn (a.toNat : Int) (compatSegment ls).length = true →
      Issues (.compatSave c h a) c h (.compatSave a) s s
        (wrote (atIssue s c h (.compatSave a)) (a.toNat : Int) (compatSegment ls)) (completion false 0 0 false)) ∧
    (∀ (o : DrawOps) (ws : List W32) (y : Core) (coarse : Bool), goes s c h (.draw o) = true →
      let x := atIssue s c h (.draw o)
      let p := o.purpose.toNat
      2 ≤ p → p ≤ 4 → 1 ≤ o.count.toNat → o.count.toNat ≤ 1048576 → (p = 3 ∨ o.drawParam = 0) →
      drawWords s x 0 p o.tensorId o.elemBase.toNat o.count.toNat = .ok (ws, y, coarse) →
      let bs := wordBytes 4 (ws.map (fun w => (drawValue p (slotDrop s x 0) o.drawParam w).toNat))
      spadIn (o.dst.toNat : Int) bs.length = true →
      Issues (.draw c h o) c h (.draw o) s s (wrote y (o.dst.toNat : Int) bs) (completion false 0 0 coarse))

/-- RESTORE reads a component of the active half into the scratchpad or the resident accumulators, SAVE writes one into the
inactive half (Table 7.7, R146); SPILL keeps a live set in the spill area and UNSPILL brings it back (R288, R289); each counts the
lines it moves (R232), and finds or leaves none poisoned (R219, R231). -/
def Obligations.SaveAndRestoreRun : Prop :=
  ∀ (s : State) (c : Fin 64) (h : CmdHdr) (o : SrOps),
    (∀ (b : Build) (off eb total : Nat) (w : SlotWork) (ss : Session), coreBuild s (coreOf s c) = some b →
      srPlace b o.component.toNat = some (off, eb, total) → srCheck (coreOf s c) o eb total = .ok () → srElems o total ≠ [] →
      slotWork s (coreOf s c) 0 = some w → sessOf s w.session = some ss →
      let es := srElems o total
      let act := sessActive s ss
      let fine := completion false 0 0 false
      (goes s c h (.restore o) = true → needClean s (.half w.session act) off (eb * total) = .ok () →
        let x := atIssue s c h (.restore o)
        let u := areaRead s (.half w.session act) off (eb * total)
        let src := if w.anchored = true ∧ b.anchors.comps.contains o.component.toNat = true then b.initHalf
          else halfOf ss act
        let vals := es.map (fun i =>
          cut (if o.component.toNat = 0xFFFF then posBytes w.pos else src) (off + i * eb) eb)
        (bit o.srFlags.toNat 0 = true →
          Issues (.restore c h o) c h (.restore o) s u
            ((vals.mapIdx (fun i v => (i, v))).foldl (fun y e =>
              accPut y (o.accBase.toNat + e.1) (BitVec.ofNat 40 (leNat e.2))) x) fine) ∧
        (bit o.srFlags.toNat 0 = false → spadIn (o.spad.toNat : Int) vals.flatten.length = true →
          Issues (.restore c h o) c h (.restore o) s u (wrote x (o.spad.toNat : Int) vals.flatten) fine)) ∧
      (goes s c h (.save o) = true →
        let x := atIssue s c h (.save o)
        let hf := !act
        let u := areaWrote s (.half w.session hf) off (eb * total)
        ∀ vals, (if bit o.srFlags.toNat 0 = true then
              vals = (List.range es.length).map (fun i => le 8 ((accGet x (o.accBase.toNat + i)).signExtend 64).toNat)
            else spadIn (o.spad.toNat : Int) (eb * es.length) = true ∧
              vals = chop eb es.length (mread 0 x.spad o.spad.toNat (eb * es.length))) →
          (o.component.toNat ≠ 0xFFFF →
            Issues (.save c h o) c h (.save o) s
              (modSess u w.session (fun q => putHalf q hf
                ((es.zip vals).foldl (fun bs e => splice bs (off + e.1 * eb) e.2) (halfOf ss hf)))) x fine) ∧
          (o.component.toNat = 0xFFFF →
            let pos := { w.pos with yPrev := BitVec.ofNat 32 (fld vals.flatten 20 4) }
            Issues (.save c h o) c h (.save o) s
              (modSess (setSlotWork u x 0 { w with pos := pos }) w.session (fun q =>
                putHalf q hf (splice (halfOf q hf) 0 (posBytes pos)))) x fine))) ∧
    (∀ (k : CoreCtx) (y : Core), (coreOf s c).ctx = some k → spillCheck (coreOf s c) o = .ok () →
      let done := completion (decide (o.elements = 0)) 0 0 false
      (goes s c h (.spill o) = true → copyLive (coreOf s c) (tget coreD s.spills (spillKey k)) o = .ok y →
        Issues (.spill c h o) c h (.spill o) s
          (areaWrote { s with spills := tput coreD s.spills (spillKey k) y } (.spill (spillKey k)) o.spad.toNat o.elements.toNat)
          (atIssue s c h (.spill o)) done) ∧
      (goes s c h (.unspill o) = true →
        copyLive (tget coreD s.spills (spillKey k)) (atIssue s c h (.unspill o)) o = .ok y →
        Issues (.unspill c h o) c h (.unspill o) s (areaRead s (.spill (spillKey k)) o.spad.toNat o.elements.toNat) y done))

/-- COMMAND_COMPLETE of a unit whose command has made every write frees the unit, keeps the completion record, adds its counts
to the totals and posts its signal, at once on the same core and by the mesh to another (R64, R234, R241); an idle unit, a
state-carry command with updates left (R86), and a command that waits for a block table (R191) stay as they are. Unit 1 executes
the path's command beside the array's (R77). Shown for a core with nothing else to issue. -/
def Obligations.CompletionFreesTheUnit : Prop :=
  ∀ (s : State) (c : Fin 64) (u : Fin 9) (k : CoreCtx), coreRuns s c = true → (coreOf s c).window = [] →
    (coreOf s c).units.all (fun e => decide (e.2.queue = [])) = true → (coreOf s c).ctx = some k →
    let x := coreOf s c
    let key := doneKey x u
    ((unitQ x key).busy = none → exec (.commandComplete c u) s = .next s) ∧
    (∀ q d r, (unitQ x 9).busy = some (q, d) → x.carryRun = some r → r.done < carryTotal r.ops → (unitQ x 1).busy = none →
      exec (.commandComplete c 1) s = .next s) ∧
    (∀ q d, (unitQ x key).busy = some (q, d) → fillsOwed x q = true → exec (.commandComplete c u) s = .next s) ∧
    (∀ q d, (unitQ x key).busy = some (q, d) → fillsOwed x q = false → q.hdr.waitCount = 0 →
      let y := coreAdd .degenTotal d.degen (coreAdd .satTotal d.sat x)
      let Done (sems : Tab W16) (mesh : List MeshSignal) : Prop :=
        ∃ t, exec (.commandComplete c u) s = .next t ∧ (unitQ (coreOf t c) key).busy = none ∧
          (tsorted none x.units = true → (unitQ (coreOf t c) key).last = d) ∧
          (∀ j, j ≠ key → unitQ (coreOf t c) j = unitQ x j) ∧
          { coreOf t c with units := [] } =
            { y with units := [], sems := sems, carryRun := if key = 9 then none else x.carryRun } ∧ t.mesh = mesh ∧
          (∀ e, e ≠ c.val → coreOf t e = coreOf s e) ∧ { t with cores := [], mesh := [] } = { s with cores := [], mesh := [] }
      (q.hdr.postCount = 0 → Done x.sems s.mesh) ∧
      (q.hdr.postCount ≠ 0 → (q.hdr.postCore = 0xFF#8 ∨ q.hdr.postCore.toNat = k.idx) →
        (semOf x q.hdr.postSem).toNat + q.hdr.postCount.toNat ≤ 65535 →
        Done (tput 0 x.sems q.hdr.postSem.toNat (semOf x q.hdr.postSem + q.hdr.postCount)) s.mesh) ∧
      (∀ e, q.hdr.postCount ≠ 0 → q.hdr.postCore ≠ 0xFF#8 → q.hdr.postCore.toNat ≠ k.idx →
        tsorted none s.cores = true → coreAtIdx s k.bay k.group q.hdr.postCore.toNat = some e →
        Done x.sems (s.mesh ++ [{ src := c, dst := e, sem := q.hdr.postSem.toNat, count := q.hdr.postCount.toNat }])))

/-- DMA_TRANSFER_COMPLETE makes the transfer's writes and frees its descriptor: a row copied inside the scratchpad lands whole
(R247); REMOTE_SEMAPHORE_SIGNAL brings the oldest signal between two cores to its semaphore (R241); RNG_TABLE_FILL brings the
block table that waits, the store keeping 64 (R190). -/
def Obligations.TransfersSignalsAndTablesArrive : Prop :=
  ∀ (s : State) (c e : Fin 64) (desc : Fin 128),
    let x := coreOf s c
    ((dmaOf x desc).active = none → exec (.dmaTransferComplete c desc) s = .next s) ∧
    (∀ (tr : Transfer) (a b : Nat), coreRuns s c = true → x.window = [] → x.units.all (fun q => decide (q.2.queue = [])) = true →
      (dmaOf x desc).active = some tr → (dmaOf x desc).waiting = none → (dmaOf x desc).collided = none →
      tr.src = .spad (a : Int) → tr.dst = .spad (b : Int) → tr.rows = 1 → tr.ring = 0xFF#8 → tr.arm.post.count = 0 →
      spadIn (a : Int) tr.rowBytes = true → spadIn (b : Int) tr.rowBytes = true →
      ∃ t, exec (.dmaTransferComplete c desc) s = .next t ∧
        coreOf t c = coreAdd .dmaBytes tr.rowBytes { x with
          spad := mwrite 0 x.spad b (mread 0 x.spad a tr.rowBytes)
          dma := tput dmaD x.dma desc { active := none, waiting := none, collided := none } } ∧
        (∀ d, d ≠ c.val → coreOf t d = coreOf s d) ∧ { t with cores := [], fresh := 0 } = { s with cores := [], fresh := 0 }) ∧
    (s.mesh.find? (fun m => decide (m.src = c.val ∧ m.dst = e.val)) = none →
      exec (.remoteSemaphoreSignal c e) s = .next s) ∧
    (∀ m, s.mesh.find? (fun m => decide (m.src = c.val ∧ m.dst = e.val)) = some m → m.sem < 256 →
      let y := coreOf s e
      y.ctx.isSome = true → y.window = [] → y.units.all (fun q => decide (q.2.queue = [])) = true →
      (tget 0 y.sems m.sem).toNat + m.count ≤ 65535 →
      exec (.remoteSemaphoreSignal c e) s = .next (setCore { s with mesh := s.mesh.erase m } e
        { y with sems := tput 0 y.sems m.sem (BitVec.ofNat 16 ((tget 0 y.sems m.sem).toNat + m.count)) })) ∧
    (∀ b more, x.rng.fills = b :: more →
      let ts := x.rng.tables ++ [b.table]
      exec (.rngTableFill c) s = .next (setCore s c (coreAdd .rngBlockFills 1
        { x with rng := { x.rng with tables := ts.drop (ts.length - 64), fills := more } })))

/-! ### Scheduling -/

/-- CHUNK_BOUNDARY moves the grid by one chunk. In the FAULT state that, and the summaries that are owed, is all (R278, R336,
R418). Where nothing else waits for the boundary, a latency-critical bay takes one step per admitted yealm that is ready, each
with its scheduled start, its due instant and the slots that take part (R148, R279, R280, R292), its reserve window closes
(R212), each session's traffic of the chunk begins at 0 (R213), the sessions that take part have the chunk admitted (R153), and
every running meter forms its level (R398). -/
def Obligations.ChunkBoundaryMovesTheGrid : Prop :=
  ∀ s : State,
    let at0 := s.t0 + (s.chunk + 1) * Config.chunkCycles
    let u : State := timeTo { s with chunk := s.chunk + 1 } (max s.now at0)
    (s.boot.complete = false → exec .chunkBoundary s = .next s) ∧
    (s.boot.complete = true → s.fault.isSome = true →
      (s.snapshots = [] → exec .chunkBoundary s = .next u) ∧
      (∀ rt, s.snapshots = [(rt, false)] → awaits s rt = true →
        ∃ t, exec .chunkBoundary s = .next t ∧ t.bare = ({ u with snapshots := [] } : State).bare ∧
          Responded rt stOk (summaryBody u) s t)) ∧
    (∀ i b v, quietBoundary s i b v = true → tsorted none s.sessions = true →
      let steps := if b.attr.cls = 0 then
          ((admittedYealms u b).filter (fun e => decide (e.2.readyAt ≤ at0))).map (admittedStep u b v)
        else []
      let Joins (x : Session) : Prop := ∃ p a, p ∈ steps ∧ effAttach x = some a ∧ a.yealm = p.yealm ∧ bit p.mask a.slot = true
      let mic := act s 0x18 0
      ∃ t, exec .chunkBoundary s = .next t ∧
        t.bays = [(i, { b with variant := some v, lastVariant := some v, window := false, todo := b.todo ++ steps })] ∧
        (∀ j x, sessOf s j = some x →
          (x.admitted = none → Joins x → sessOf t j = some { x with ioBytes := 0, admitted := some (s.chunk + 1) }) ∧
          (x.admitted.isSome = true ∨ ¬ Joins x → sessOf t j = some { x with ioBytes := 0 })) ∧
        t.sessions.map Prod.fst = s.sessions.map Prod.fst ∧
        (∀ n, n < 4 → meterLive mic n = true → fenced s (uAudio 4) = false → tsorted none s.pdm.chunk = true →
          tsorted none s.pdm.levels = true →
          tget [] t.pdm.chunk n = [] ∧
          tget [] t.pdm.levels n =
            (max (-1920) (Config.meterLevel (tget [] s.pdm.chunk n)) :: tget [] s.pdm.levels n).take (50 * fld mic 28 1)) ∧
        (∀ n, meterLive mic n = false ∨ fenced s (uAudio 4) = true →
          tget [] t.pdm.chunk n = tget [] s.pdm.chunk n ∧ tget [] t.pdm.levels n = tget [] s.pdm.levels n) ∧
        { t with bays := [], sessions := [], pdm := s.pdm } = { u with bays := [], sessions := [] })

/-- SLICE_START of a latency-critical bay with a step that waits: the step begins, no earlier than its scheduled start (R34), with
the slots whose session still has work, each taking-part session starts from its committed half with the queued utterance
where none is in progress (R251, R252, R360), and every core of the group is loaded with the plan (R75, R254, R279). A bay
whose slice runs or whose cores are lent starts none, nor does one that was stopped at the last chunk boundary (R274). -/
def Obligations.SliceStartLoadsTheGroup : Prop :=
  ∀ (s : State) (i : Nat) (b : Bay) (v : Nat) (p : Step) (rest : List Step) (y : Yealm) (d : Build) (pl : Plan) (c : Cert)
    (vr : Variant),
    bayOf s i = some b → b.attr.cls = 0 → stepsRun s = true → variantNow s b = some v → bayBlocked s b = false →
    b.todo = p :: rest → p.begun = false → yealmOf s p.yealm = some y → y.susp ≠ .givenUp → y.beStep = none →
    buildOf s y.build = some d → planOf d y.plan = some pl → certOf d y.plan v y.slots = some c → pl.variants[v]? = some vr →
    tsorted none s.sessions = true →
    let u := timeTo s (max s.now p.start)
    let mask := startMask s p
    let act (k : Nat) : Bool := bit y.rcd.active k
    let cores := groupCores (modBay s i (fun x => { x with variant := some v })) i 0
    (b.running = true ∨ b.lent = true ∨ b.lastVariant = none → exec (.sliceStart i) s = .next s) ∧
    (b.running = false → b.lent = false → b.lastVariant.isSome = true →
      ∃ t, exec (.sliceStart i) s = .next t ∧
        bayOf t i = some { b with
          variant := some v, running := true, window := false, todo := { p with begun := true, mask := mask } :: rest
          counters := cntAdd b.counters 0 48 1 } ∧
        (∀ j, j ≠ i → bayOf t j = bayOf s j) ∧
        yealmOf t p.yealm = some { y with work := (partners s p.yealm mask).map (fun e =>
          (e.1, startSlot d e.2.1 (startSession (act e.1) e.2.2) (act e.1) (tfind y.work e.1))) } ∧
        (∀ k, k ≠ p.yealm → yealmOf t k = yealmOf s k) ∧
        (∀ e, e ∈ partners s p.yealm mask → sessOf t e.2.1 = some (startSession (act e.1) e.2.2)) ∧
        (∀ j, (∀ e, e ∈ partners s p.yealm mask → e.2.1 ≠ j) → sessOf t j = sessOf s j) ∧
        (∀ n e, cores[n]? = some e →
          StepLoaded { bay := i, group := 0, idx := n, yealm := p.yealm, nSlots := y.slots } pl vr c (coreOf s e) (coreOf t e)) ∧
        (∀ e, e ∉ cores → coreOf t e = coreOf s e) ∧
        { t with bays := [], yealms := [], sessions := [], cores := [], channels := [], fresh := 0 } =
          { u with bays := [], yealms := [], sessions := [], cores := [], channels := [], fresh := 0 })

/-- COMMIT of a latency-critical step of one slot is one act: the record counts the step, flips the slot's active half and
marks the other valid, under a new CRC-32C (R147, R148); the session's new half and rings are published (R251, R361, R362,
R369); the cores of the group stop and are clock-gated (R34, R150); the bay goes on to its next step, the reserve window
opening after the last (R212, R279). Nothing is committed before the commit semaphore counts every core of the variant (R255),
and a yealm without a running step commits nothing. -/
def Obligations.CommitPublishesTheChunk : Prop :=
  ∀ (s : State) (y : Nat) (v : Yealm) (b : Bay), s.fault = none → yealmOf s y = some v → bayOf s v.bay = some b →
    b.attr.cls = 0 →
    (b.running = false ∨ commitReady s v.bay 0 = false → exec (.commit y) s = .next s) ∧
    (∀ p rest d k w x a, b.running = true → b.todo = p :: rest → p.yealm = y → buildOf s v.build = some d → v.work = [(k, w)] →
      sessOf s w.session = some x → effAttach x = some a → a.yealm = y → a.slot = k → x.st ≠ .lost → x.job = none →
      x.stopWait = [] → x.detachWait = none → bit x.bindFlags.toNat 1 = false → d.desc.rings = [] →
      tsorted none s.cores = true → commitReady s v.bay 0 = true →
      (∀ c, worksFor s v.bay 0 c = true → (coreOf s c).dma.all (fun e => e.2.collided.isNone) = true) →
      let flip := !bit v.rcd.active k
      let mine (c : Nat) : Bool := worksFor s v.bay 0 c
      let z := publish d flip w (putHalf x flip (splice (halfOf x flip) 0 (posBytes (finalPos d w x.uttTokens))))
      let z := { z with uttTokens := if bit w.pos.flags.toNat 0 = true then 0 else z.uttTokens }
      ∃ t, exec (.commit y) s = .next t ∧
        yealmOf t y = some { v with
          attempts := 0, beStep := none, spilled := none, work := []
          rcd := sealRcd { v.rcd with stepCount := v.rcd.stepCount + 1, active := v.rcd.active ^^^ 2 ^ k
                                      prevValid := v.rcd.prevValid ||| 2 ^ k } } ∧
        (∀ j, j ≠ y → yealmOf t j = yealmOf s j) ∧
        sessOf t w.session = some { z with
          st := stateOfSess z
          admitted := (rest.find? (fun q => decide (q.yealm = y) && bit q.mask k)).map (fun q => q.chunk) } ∧
        (∀ j, j ≠ w.session → sessOf t j = sessOf s j) ∧
        bayOf t v.bay = some { b with
          running := false, commitAt := s.now, todo := rest, window := decide (rest = [] ∧ s.chunk ≤ p.chunk)
          counters := tput 0 b.counters 2 (max (tget 0 b.counters 2) (min (s.now - p.due) 4294967295)) } ∧
        (∀ j, j ≠ v.bay → bayOf t j = bayOf s j) ∧
        (∀ c, mine c = true → Stopped { coreOf s c with gated := true } (coreOf t c)) ∧
        (∀ c, mine c = false → coreOf t c = coreOf s c) ∧
        t.spills = s.spills.filter (fun e => decide (e.1 / 64 ≠ y)) ∧
        t.mesh = s.mesh.filter (fun m => !mine m.src && !mine m.dst) ∧
        { t with yealms := [], sessions := [], bays := [], cores := [], spills := [], mesh := [], channels := [] } =
          { s with yealms := [], sessions := [], bays := [], cores := [], spills := [], mesh := [], channels := [] })

/-- A latency-critical bay with room before its next start lends: it is marked, and best-effort bays take groups of its free
cores alone; without room nothing happens (R290, R291). RECLAIM_START marks every group on its cores; RECLAIM_COMPLETE takes
the marked ones that stand at a preemption point back, their cores reset, clock-gated and with their memories as they were
(R288, R292, Table 12.4). BE_SLICE_END frees its group at a preemption point, and keeps a running step's sequencers in the
spill areas (R287, R288). -/
def Obligations.CoresAreLentAndComeBack : Prop :=
  ∀ (s : State) (i : Nat) (b : Bay), bayOf s i = some b →
    (b.attr.cls = 0 → b.attr.lend ≠ 0 → b.running = false → b.destroying = none → stepsRun s = true →
      (∀ at1, nextStart s b = some at1 → at1 < b.commitAt + 705000 ∨ at1 < s.now + 235000 →
        exec (.coreLend i) s = .next s) ∧
      ((∀ at1, nextStart s b = some at1 → b.commitAt + 705000 ≤ at1 ∧ s.now + 235000 ≤ at1) →
        ∃ t, exec (.coreLend i) s = .next t ∧ { t with bays := [] } = { s with bays := [] } ∧
          ∀ j x, bayOf s j = some x → ∃ gs : List Group,
            bayOf t j = some { x with
              lent := x.lent || decide (j = i), groups := x.groups ++ gs, nextGroup := x.nextGroup + gs.length } ∧
            ∀ g, g ∈ gs → g.lender = some i ∧ (∀ c, c ∈ g.cores → c ∈ lendable s i b) ∧ g.yealm = none ∧
              g.stepping = false ∧ g.reclaim = false ∧ g.rot = x.rot ∧ g.since = s.now ∧ x.attr.cls ≠ 0 ∧ s.power.alarm = false)) ∧
    (∃ t, exec (.reclaimStart i) s = .next t ∧ { t with bays := [] } = { s with bays := [] } ∧
      ∀ j, bayOf t j = (bayOf s j).map (fun x => { x with groups := x.groups.map (fun g =>
        { g with reclaim := g.reclaim || decide (g.lender = some i) }) })) ∧
    (∀ cycles, tsorted none s.bays = true → tsorted none s.cores = true →
      let back (j : Nat) (g : Group) : Prop :=
        ∃ x, bayOf s j = some x ∧ g ∈ x.groups ∧ g.lender = some i ∧ g.reclaim = true ∧ groupAtPoint s j g = true
      ∃ t, exec (.reclaimComplete i cycles) s = .next t ∧
        (∀ j x g, bayOf t j = some x → g ∈ x.groups → ¬ back j g) ∧
        (∀ j x g, bayOf s j = some x → g ∈ x.groups → (∀ h, back j h → h.gid ≠ g.gid) →
          ∃ z, bayOf t j = some z ∧ g ∈ z.groups) ∧
        (∀ j g c, back j g → c ∈ g.cores →
          Stopped { coreOf s c with sems := [], rings := [], descs := [], gated := true } (coreOf t c)) ∧
        (∀ c, (∀ j g, back j g → c ∉ g.cores ∧
            ∀ k, (coreOf s c).ctx = some k → ¬ (k.bay = j ∧ k.group = g.gid)) → coreOf t c = coreOf s c) ∧
        ((∀ j x g, bayOf s j = some x → g ∈ x.groups → g.lender = some i → back j g) →
          ∃ x, bayOf t i = some x ∧ x.lent = false) ∧
        t.mesh = s.mesh ∧ sameBut s t) ∧
    (∀ gid overrun g, b.groups.find? (fun h => h.gid = gid) = some g → g.yealm = none ∨ groupAtPoint s i g = false →
      exec (.beSliceEnd i gid overrun) s = .next s) ∧
    (∀ gid overrun g y v, b.groups.find? (fun h => h.gid = gid) = some g → g.yealm = some y → yealmOf s y = some v →
      tsorted none s.cores = true → groupAtPoint s i g = true →
      let mine (c : Nat) : Bool := worksFor s i gid c
      ∃ t, exec (.beSliceEnd i gid overrun) s = .next t ∧
        bayOf t i = some { b with
          groups := b.groups.map (fun h => if h.gid = gid then { h with yealm := none, stepping := false } else h)
          counters := cntAdd b.counters 7 48 overrun } ∧
        (∀ j, j ≠ i → bayOf t j = bayOf s j) ∧ (∀ k, k ≠ y → yealmOf t k = yealmOf s k) ∧
        (∀ c, mine c = false ∨ g.stepping = false → coreOf t c = coreOf s c) ∧
        (g.stepping = false → yealmOf t y = some { v with overrun := overrun } ∧ t.spills = s.spills) ∧
        (g.stepping = true →
          yealmOf t y = some { v with overrun := overrun, spilled := some ((workCores s i gid).length, g.variant) } ∧
          ∀ c k, (coreOf s c).ctx = some k → mine c = true →
            Stopped (coreOf s c) (coreOf t c) ∧
              ((∀ e q, (coreOf s e).ctx = some q → mine e = true → q.idx = k.idx → e = c) →
                let kept := tget coreD s.spills (y * 64 + k.idx)
                tget coreD t.spills (y * 64 + k.idx) = { coreOf s c with spad := kept.spad, acc := kept.acc })) ∧
        t.mesh = s.mesh ∧ sameBut s t)

/-- A bay's bulk transfers move in pieces of 256 KiB, one at a time, each started in a reserve window that is open (R212): a
finished piece leaves the rest to move; the last one of a ring brings its entries to the consumer's ring, as many as have room
there (R212, R253, R256; which session takes them is the model's choice, log entry 92), of a bind puts the bay's copy in
place and answers (R211, R272), of an ATTACH whose area lies in the bay already accepts it (R156), of a page reload
mends the page (R211), and of an export sends the state image (R158). -/
def Obligations.BulkTransfersMoveInPieces : Prop :=
  ∀ (s : State) (i : Nat) (b : Bay) (k : Bulk) (rest : List Bulk), bayOf s i = some b → b.bulk = k :: rest →
    let Queue (t : State) (l : List Bulk) : Prop := bayOf t i = some { b with bulk := l } ∧ ∀ j, j ≠ i → bayOf t j = bayOf s j
    (k.running = true ∨ bulkOpen s i k = false ∨ s.fault.isSome = true → exec (.reserveWindowPiece i) s = .next s) ∧
    (k.running = false → bulkOpen s i k = true → s.fault = none →
      ∃ t, exec (.reserveWindowPiece i) s = .next t ∧ Queue t ({ k with running := true } :: rest) ∧
        { t with bays := [] } = { s with bays := [] }) ∧
    (k.running = false → exec (.bulkTransferPieceDone i) s = .next s) ∧
    (k.running = true → 262144 < k.left →
      ∃ t, exec (.bulkTransferPieceDone i) s = .next t ∧
        Queue t ({ k with running := false, left := k.left - 262144 } :: rest) ∧ { t with bays := [] } = { s with bays := [] }) ∧
    (k.running = true → k.left ≤ 262144 →
      (∀ j r, k.kind = .ringCarry j r → carryTarget s j r = none →
        ∃ t, exec (.bulkTransferPieceDone i) s = .next t ∧ Queue t rest ∧ { t with bays := [] } = { s with bays := [] }) ∧
      (∀ j r x bay e y, k.kind = .ringCarry j r → sessOf s j = some x → carryTarget s j r = some (bay, e) → e ≠ j →
        sessOf s e = some y →
        let g := sringOf x r
        let h := { sringOf y r with dir := 0 }
        let n := cnt32 (planPtr (sessActive s x) g) g.io
        let m := min n (h.entries - cnt32 h.io (planPtr (sessActive s y) h))
        ∃ t, exec (.bulkTransferPieceDone i) s = .next t ∧
          Queue t (rest ++ (if m < n then
            [{ kind := .ringCarry j r, left := (n - m) * g.entryBytes, running := false, resp := k.resp }] else [])) ∧
          sessOf t j = some (putRing x r { g with io := (g.io + m) % 4294967296 }) ∧
          sessOf t e = some (putRing y r (ringPush h ((List.range m).map (fun q => entryGet g (g.io + q))))) ∧
          (∀ q, q ≠ j → q ≠ e → sessOf t q = sessOf s q) ∧
          { t with bays := [], sessions := [] } = { s with bays := [], sessions := [] }) ∧
      (∀ build plan rt d, k.kind = .planCopy build plan → k.resp = some rt → awaits s rt = true → buildOf s build = some d →
        ∃ t, exec (.bulkTransferPieceDone i) s = .next t ∧
          bayOf t i = some { b with bulk := rest, plans := b.plans.map (fun p =>
            { p with ready := p.ready || decide (p.build = build ∧ p.plan = plan) }) } ∧
          (∀ j, j ≠ i → bayOf t j = bayOf s j) ∧
          t.builds = s.builds.map (fun x => if x.id = build ∧ needsCopy d i b.attr.channelMask = true then
            { x with copies := x.copies ++ [{ kind := 2 + i, channels := b.attr.channelMask, written := [], badPages := []
                                              base := placeAt (maskBits 48 b.attr.channelMask) s.fresh d.image.length }] }
            else x) ∧
          { t.bare with bays := [], builds := [], channels := [], slices := [] } =
            { s.bare with bays := [], builds := [], channels := [], slices := [] } ∧ Responded rt stOk [] s t) ∧
      (∀ j rt x a, k.kind = .attachMove j (some i) → k.resp = some rt → awaits s rt = true → sessOf s j = some x →
        x.attach = some a →
        ∃ t, exec (.bulkTransferPieceDone i) s = .next t ∧ Queue t rest ∧
          sessOf t j = some { x with attach := some { a with ready := true } } ∧ (∀ e, e ≠ j → sessOf t e = sessOf s e) ∧
          { t.bare with bays := [], sessions := [] } = { s.bare with bays := [], sessions := [] } ∧
          Responded rt stOk (le 8 (s.chunk + 1)) s t) ∧
      (∀ id c page rt, k.kind = .pageReload id c page → k.resp = some rt → awaits s rt = true →
        let u := modBay s i (fun b => { b with bulk := rest })
        (∀ e, e ∈ u.bays → ∀ q, q ∈ e.2.bulk → q.resp ≠ some rt) →
        ∃ t, exec (.bulkTransferPieceDone i) s = .next t ∧ t.bare = (pageMended u id c page).bare ∧
          Responded rt stOk (le 8 65536) s t) ∧
      (∀ j rt x, k.kind = .sessionExport j → k.resp = some rt → awaits s rt = true → sessOf s j = some x → x.attach = none →
        ∃ t, exec (.bulkTransferPieceDone i) s = .next t ∧ Queue t rest ∧
          { t.bare with bays := [], channels := [] } = { s.bare with bays := [], channels := [] } ∧
          Responded rt stOk (exportBody s x) s t))

/-! ### Contained faults -/

/-- CONTAINED_FAULT of a core in a step: the fault is logged, the core fenced, and the step fails (R403, R413, R415); a fault
of its generator makes it coarse (R197). A corrected fault is counted and nothing else (R403), but that a write accepted after
1 to 3 retries spends a maintenance credit (R215, R220). A source outside Table 17.1, one
of the fatal class, and any fault before boot is complete, change nothing. -/
def Obligations.ContainedFaultsStopTheStep : Prop :=
  ∀ (s : State) (f : FaultEvent),
    let n := f.source.toNat
    (s.boot.complete = false ∨ faultKnown f.source = false ∨ faultClass f.source = .fatal →
      exec (.containedFault f) s = .next s) ∧
    (∀ (c : Fin 64) k v x, s.boot.complete = true →
      (0x0100 ≤ n ∧ n ≤ 0x010C) ∨ n = 0x0111 ∨ n = 0x0112 ∨ n = 0x0113 ∨ n = 0x0116 ∨ n = 0x0117 ∨ n = 0x0118 →
      f.unit = uCore c → (coreOf s c).ctx = some k → yealmOf s k.yealm = some v → bayOf s k.bay = some x →
      (unitOf s (uCore c)).fence = .inService → tsorted none s.cores = true → v.attempts < 3 ∨ claimants s k.yealm = [] →
      let y := if n = 0x010B then coreAdd .rngParityErrors 1 (coreOf s c) else coreOf s c
      let z := if 0x010A ≤ n ∧ n ≤ 0x010C then { y with rng := { y.rng with coarse := true, tables := [], fills := [] } } else y
      ∃ t, exec (.containedFault f) s = .next t ∧
        Contained (setCore s c z) t f.source (uCore c) f.syndrome k.bay k.group k.yealm v x) ∧
    (s.boot.complete = true → faultClass f.source = .corrected → n ≠ 0x0210 →
      tsorted none s.cores = true → tsorted none s.channels = true → tsorted none s.ports = true → tsorted none s.tdm = true →
      ∃ t, exec (.containedFault f) s = .next t ∧
        (∀ c, { coreOf t c with counters := [] } = { coreOf s c with counters := [] }) ∧
        (∀ c, n ≠ 0x0205 ∨ c ≠ unitIdx f.unit → { channelOf t c with counters := [] } = { channelOf s c with counters := [] }) ∧
        (n = 0x0205 → ∃ r, 1 ≤ r ∧ r ≤ 3 ∧
          let x := channelOf s (unitIdx f.unit)
          channelOf t (unitIdx f.unit) = { x with credits := x.credits - 1, counters := cntAdd x.counters 3 32 r }) ∧
        (∀ p, { portOf t p with counters := [] } = { portOf s p with counters := [] }) ∧
        (∀ m, { tdmOf t m with counters := [] } = { tdmOf s m with counters := [] }) ∧
        (n = 0x0110 → (coreOf t (unitIdx f.unit)).counters =
          cntAdd (coreOf s (unitIdx f.unit)).counters CoreCnt.spadCorrected.key 32 1) ∧
        (n = 0x0502 → t.gpCounters = cntAdd s.gpCounters 0 32 1) ∧
        { t with cores := [], channels := [], ports := [], tdm := [], gpCounters := [], fresh := 0 } =
          { s with cores := [], channels := [], ports := [], tdm := [], gpCounters := [], fresh := 0 })

/-- SCHEDULE_OVERRUN and LINK_STALL log their link, fence it and fail the step that waits on it, the syndrome naming the link
(R258 to R260); a stall of a cross-bay link on which firmware alone waits is logged and fences it; with nothing waiting, neither
changes anything. -/
def Obligations.LateStepsAndStalledLinksFail : Prop :=
  ∀ (s : State), tsorted none s.cores = true →
    let Fails (i : Instr) (src : W16) (lu : W32) (k : CoreCtx) (v : Yealm) (x : Bay) : Prop :=
      ∃ t syn, exec i s = .next t ∧ syn.toNat / 2 ^ 32 = unitIdx lu ∧
        Contained s t src lu syn k.bay k.group k.yealm v x
    (∀ (c : Fin 64) (u : Fin 9),
      (coreRuns s c = false ∨ overrunSem s (coreOf s c) u = none → exec (.scheduleOverrun c u) s = .next s) ∧
      (∀ k sem v x, coreRuns s c = true → (coreOf s c).ctx = some k → overrunSem s (coreOf s c) u = some sem →
        yealmOf s k.yealm = some v → bayOf s k.bay = some x → v.attempts < 3 ∨ claimants s k.yealm = [] →
        let l := waitLink (coreOf s c) k sem
        (unitOf s (uLink k.bay l.1 l.2)).fence = .inService →
        Fails (.scheduleOverrun c u) 0x0114#16 (uLink k.bay l.1 l.2) k v x)) ∧
    (∀ (b : Nat) (idx ring : Byte) (x : Bay), bayOf s b = some x → (unitOf s (uLink b idx.toNat ring.toNat)).fence = .inService →
      (∀ c k v, (coreOf s c).ctx = some k → k.bay = b → waitsOn (coreOf s c) idx.toNat ring.toNat = true →
        (∀ e q, (coreOf s e).ctx = some q → q.bay = b → waitsOn (coreOf s e) idx.toNat ring.toNat = true → e = c) →
        yealmOf s k.yealm = some v → v.attempts < 3 ∨ claimants s k.yealm = [] →
        Fails (.linkStall b idx ring) 0x0115#16 (uLink b idx.toNat ring.toNat) k v x) ∧
      ((∀ e q, (coreOf s e).ctx = some q → q.bay = b → waitsOn (coreOf s e) idx.toNat ring.toNat = false) →
        carrierWaits s b ring.toNat = false → exec (.linkStall b idx ring) s = .next s) ∧
      ((∀ e q, (coreOf s e).ctx = some q → q.bay = b → waitsOn (coreOf s e) idx.toNat ring.toNat = false) →
        carrierWaits s b ring.toNat = true →
        ∃ t syn, exec (.linkStall b idx ring) s = .next t ∧ Logged s t 0x0115#16 1 (uLink b idx.toNat ring.toNat) syn ∧
          (unitOf t (uLink b idx.toNat ring.toNat)).fence ≠ .inService ∧
          { t with units := [], log := [], logNext := 0, latch := none, fresh := 0 } =
            { s with units := [], log := [], logNext := 0, latch := none, fresh := 0 }))

/-- A command of any unit whose header breaks Table 11.7 does not run: it raises source 0x0117 with its unit and its index in
the syndrome, and its step fails (R235, R267, Table 17.2); so does one whose 64 bytes in the core's stream spell no command of
Table 11.15. A command that is not the next one of the stream does not come from the core's command window, and nothing
happens (R233; that the commands of a loaded stream come in its order is the model's reading, log entry 100). -/
def Obligations.IllegalHeadersFault : Prop :=
  ∀ (s : State) (i : Instr) (c : Fin 64) (h : CmdHdr) (op : CoreOp) (k : CoreCtx) (v : Yealm) (x : Bay),
    coreCmd i = some (c, h, op) → coreRuns s c = true → (coreOf s c).window = [] → (coreOf s c).loop = none →
    (coreOf s c).stepEnded = false → (coreOf s c).units.all (fun e => decide (e.2.queue = [])) = true →
    (coreOf s c).ctx = some k → yealmOf s k.yealm = some v → bayOf s k.bay = some x →
    tsorted none s.cores = true → v.attempts < 3 ∨ claimants s k.yealm = [] →
    let y := { coreOf s c with fetchIndex := (coreOf s c).fetchIndex + 1 }
    (nextCmd (coreOf s c) h op = .other → exec i s = .next s) ∧
    (nextCmd (coreOf s c) h op = .given → hdrOk s (coreOf s c) h = false →
      ∃ t, exec i s = .next t ∧
        Contained (setCore s c y) t 0x0117#16 (uCore c)
          (BitVec.ofNat 64 (opUnit op * 2 ^ 40 + (coreOf s c).fetchIndex % 2 ^ 32)) k.bay k.group k.yealm v x) ∧
    (∀ u, nextCmd (coreOf s c) h op = .malformed u →
      ∃ t, exec i s = .next t ∧
        Contained s t 0x0117#16 (uCore c)
          (BitVec.ofNat 64 (u * 2 ^ 40 + (coreOf s c).fetchIndex % 2 ^ 32)) k.bay k.group k.yealm v x)

/-! ### Thatch -/

/-- Upkeep of a thatch channel out of self-refresh: REFRESH counts an interval (R214); PATROL_SCRUB, where foreground work waits
for a credit, moves on by one line, and logs and keeps a line that it cannot correct (R216, R217, Table 10.4);
MAINTENANCE_CREDIT earns a credit up to 7,520 (R215); PHY_RECALIBRATION starts its interval anew, where no foreground work waits,
or, forced, 1 s after the last, spending a full store and waiting for one (R216, R218). A refresh not performed enters the
FAULT state (R214, R421), and a recalibration that fails fences the channel (R218). In self-refresh the first, second and
fourth do nothing. PAGE_REWRITE_COMPLETE mends a page from an intact copy (R422). That a channel has foreground work while a
transfer of its bays runs is the model's reading (log entry 97). -/
def Obligations.ChannelsAreKeptUp : Prop :=
  ∀ (s : State) (ch : Fin 48), tsorted none s.channels = true →
    let x := channelOf s ch
    let Becomes (t : State) (y : Channel) : Prop := channelOf t ch = y ∧ ∀ c, c ≠ ch.val → channelOf t c = channelOf s c
    let Only (i : Instr) (y : Channel) : Prop :=
      ∃ t, exec i s = .next t ∧ Becomes t y ∧ { t with channels := [] } = { s with channels := [] }
    let Logs (t : State) (syn : Nat) (src : W16) : Prop := Logged s t src 1 (uChannel ch) (BitVec.ofNat 64 syn)
    let wipe := x.poisoned.filter (fun l => decide (l ≠ x.scrubLine))
    let busy := channelBusy s ch
    let y := { x with
      scrubLine := (x.scrubLine + 1) % 16777216, poisoned := wipe, counters := cntAdd x.counters 4 48 1
      credits := if busy = true then x.credits - 1 else x.credits }
    Only (.maintenanceCredit ch) { x with credits := min (x.credits + 1) 7520 } ∧
    (thatchActive s = false → (∀ b, exec (.refresh ch b) s = .next s) ∧ (∀ r, exec (.patrolScrub ch r) s = .next s) ∧
      (∀ a b, exec (.phyRecalibration ch a b) s = .next s)) ∧
    (thatchActive s = true →
      Only (.refresh ch true) { x with refreshes := x.refreshes + 1 } ∧
      (∃ t, exec (.refresh ch false) s = .next t ∧ t.boot.faultN = true ∧ t.channels = s.channels ∧
        t.fault = some { source := 0x0209#16, unit := uChannel ch, fwReady := true, since := s.now, reinit := false
                         lostChannels := [ch.val] }) ∧
      (busy = true → x.credits = 0 → ∀ r, exec (.patrolScrub ch r) s = .next s) ∧
      (busy = false ∨ 0 < x.credits → Only (.patrolScrub ch .clean) y) ∧
      (busy = false ∨ 0 < x.credits → Only (.patrolScrub ch .corrected) { y with counters := cntAdd y.counters 2 32 1 }) ∧
      (busy = false ∨ 0 < x.credits → ∃ t, exec (.patrolScrub ch .uncorrectable) s = .next t ∧
        let phys := ch.val * 2147483648 + x.scrubLine * 128
        let owner := ownerOf s phys
        Becomes t { y with poisoned := wipe ++ [x.scrubLine] } ∧ t.scrubFound = s.scrubFound ++ owner.toList ∧
          Logs t (scrubSyn owner phys) 0x0207#16 ∧
          { t with channels := [], log := [], logNext := 0, latch := none, scrubFound := [] } =
            { s with channels := [], log := [], logNext := 0, latch := none, scrubFound := [] }) ∧
      (x.credits < 7520 ∨ s.now < x.recalAt + Config.cyclesPerSecond → ∀ ok, exec (.phyRecalibration ch true ok) s = .next s) ∧
      (7520 ≤ x.credits → x.recalAt + Config.cyclesPerSecond ≤ s.now → Only (.phyRecalibration ch true true)
        { x with recalAt := s.now, credits := 0, counters := cntAdd x.counters 5 32 1 }) ∧
      (busy = true → ∀ ok, exec (.phyRecalibration ch false ok) s = .next s) ∧
      (busy = false → Only (.phyRecalibration ch false true) { x with recalAt := s.now }) ∧
      (busy = false → s.bays = [] → s.sessions = [] → (unitOf s (uChannel ch)).fence = .inService →
        ∃ t, exec (.phyRecalibration ch false false) s = .next t ∧ Becomes t { x with recalAt := s.now } ∧
          Logs t (ch.val * 2147483648) 0x0208#16 ∧ (unitOf t (uChannel ch)).fence ≠ .inService ∧
          (∀ u, u ≠ uChannel ch → unitOf t u = unitOf s u) ∧
          { t with channels := [], units := [], log := [], logNext := 0, latch := none } =
            { s with channels := [], units := [], log := [], logNext := 0, latch := none })) ∧
    (∀ id kind page b, buildOf s id = some b →
      (b.copies.all (fun c => c.badPages.contains page) = true → exec (.pageRewriteComplete id kind page) s = .next s) ∧
      (b.copies.any (fun c => !c.badPages.contains page) = true →
        ∃ t d, exec (.pageRewriteComplete id kind page) s = .next t ∧ buildOf t id = some d ∧
          d.copies = b.copies.map (fun c =>
            if c.kind = kind then { c with badPages := c.badPages.filter (fun p => decide (p ≠ page))
                                           written := c.written.filter (fun e => decide (e.1 / 65536 ≠ page)) } else c) ∧
          d.requested = b.requested.filter (fun p => decide (p ≠ page)) ∧
          { d with copies := [], requested := [], allRequested := false } =
            { b with copies := [], requested := [], allRequested := false } ∧
          (∀ j, j ≠ id → buildOf t j = buildOf s j) ∧
          t.bays = s.bays.map (fun e => (e.1, { e.2 with paused := readsBad t e.1 e.2 })) ∧
          { t with builds := [], bays := [], channels := [], slices := [] } =
            { s with builds := [], bays := [], channels := [], slices := [] }))

/-! ### Fatal faults and recovery -/

/-- A fatal fault enters the FAULT state: FAULT_N is driven, the fault is logged and counted, every core stops with no commit,
an update and an ATTEST in progress are abandoned, and no bay runs or lends (R417, R465, R469); FATAL_FAULT,
FIRMWARE_WATCHDOG_EXPIRY, REFCLK_LOST and PLL_LOSS_OF_LOCK each with its source (R404, R434). Another fatal fault only starts
the quiet period again (R420). Before boot is complete, and for a source that is not fatal, nothing happens. -/
def Obligations.FatalFaultsStopTheDevice : Prop :=
  ∀ (s : State) (i : Instr) (f : FaultEvent),
    (i = .fatalFault f ∧ faultClass f.source = .fatal) ∨
      (i = .firmwareWatchdogExpiry ∧ f = { source := 0x0504#16, unit := uGable, syndrome := 0#64 }) ∨
      (i = .refclkLost ∧ f = { source := 0x0603#16, unit := uDevice, syndrome := 0#64 }) ∨
      (i = .pllLossOfLock ∧ f = { source := 0x0602#16, unit := uDevice, syndrome := 0#64 }) →
    let gone := if f.source = 0x0209#16 then [unitIdx f.unit] else []
    (s.boot.complete = false → exec i s = .next s) ∧
    (s.boot.complete = true → s.fault = none →
      ∃ t, exec i s = .next t ∧ Logged s t f.source 2 f.unit f.syndrome ∧
        t.fault = some { source := f.source, unit := f.unit, fwReady := decide (unitType f.unit ≠ 9), since := s.now
                         reinit := false, lostChannels := gone } ∧
        t.boot = { s.boot with faultN := true, update := none, attest := none } ∧
        t.power = { s.power with trans := none } ∧ t.gpCounters = cntAdd s.gpCounters 4 32 1 ∧ t.mesh = [] ∧ t.spills = [] ∧
        (∀ c, Stopped (coreOf s c) (coreOf t c)) ∧
        (∀ j x, bayOf t j = some x →
          x.running = false ∧ x.lent = false ∧ x.bulk.all (fun k => !k.running) = true ∧
            x.groups.all (fun g => g.lender.isNone && !g.stepping) = true) ∧
        t.yealms = s.yealms.map (fun e => (e.1, { e.2 with spilled := none })) ∧
        t.units = s.units ∧ t.builds = s.builds ∧ t.channels = s.channels ∧ t.recs = s.recs ∧ t.flash = s.flash ∧
        t.fuses = s.fuses ∧ t.thatch = s.thatch ∧ t.chunk = s.chunk ∧ t.now = s.now) ∧
    (∀ x, s.boot.complete = true → s.fault = some x →
      ∃ t, exec i s = .next t ∧ Logged s t f.source 2 f.unit f.syndrome ∧
        t = { s with
          log := t.log, logNext := t.logNext, latch := t.latch, gpCounters := cntAdd s.gpCounters 4 32 1
          fault := some { x with since := s.now, fwReady := x.fwReady && decide (unitType f.unit ≠ 9), reinit := false
                                 lostChannels := gone ++ x.lostChannels } }) ∧
    (∀ g, faultClass g.source ≠ .fatal → exec (.fatalFault g) s = .next s)

/-- The way out of the FAULT state: firmware that verifies runs again (R417, R461); at the end of the quiet period the
re-initialisation starts where firmware runs and every sensor is below 100 °C (R420); its completion tests every core, takes
every channel out of self-refresh with a forced recalibration, sets Run's body bias, releases FAULT_N and counts (R218, R417,
R419, R443); BACKOFF_EXPIRY ends the run of fatal faults (R420). A fenced unit tests itself after its quiet period, a port by
training its link, and returns where the test passes (R323, R409), a bay that stands stopped waiting for the next chunk boundary
(R274); where it fails it waits again, or is fenced for good after `selftest_tries` (R409, R410). A core's self-test at reset
ends its coarse mode, or fences the core (R197, R201); which of sources 0x0100 and 0x010A a failed one raises is the model's
reading (log entry 98). -/
def Obligations.UnitsAndDeviceRecover : Prop :=
  ∀ (s : State),
    (s.fault = none → (∀ b, exec (.firmwareReloadComplete b) s = .next s) ∧ exec .deviceQuietPeriodExpiry s = .next s ∧
      exec .warmReinitComplete s = .next s ∧ exec .backoffExpiry s = .next { s with fatalRun := 0, lastReinit := none }) ∧
    (∀ x, s.fault = some x →
      exec .backoffExpiry s = .next s ∧ exec (.firmwareReloadComplete false) s = .next s ∧
      exec (.firmwareReloadComplete true) s = .next { s with fault := some { x with fwReady := true } } ∧
      (let ready := x.fwReady && s.power.sensors.all (fun e => decide (e.2.toInt < 1600))
       exec .deviceQuietPeriodExpiry s = .next { s with fault := some { x with reinit := x.reinit || ready } }) ∧
      (x.reinit = false → exec .warmReinitComplete s = .next s) ∧
      (x.reinit = true → x.lostChannels = [] → tsorted none s.tdm = true → tsorted none s.channels = true →
        ∃ t, exec .warmReinitComplete s = .next t ∧ t.fault = none ∧ t.lastReinit = some s.now ∧
          t.deviceRecoveries = min (s.deviceRecoveries + 1) 4294967295 ∧ t.boot = { s.boot with faultN := false } ∧
          t.power = { s.power with state := .run, bias := biasOf .run, trans := none } ∧
          (∀ ch, channelOf t ch = if ch < 48 then
            { channelOf s ch with recalAt := s.now, counters := cntAdd (channelOf s ch).counters 5 32 1 } else channelOf s ch) ∧
          (∀ c, Stopped { coreOf s c with
            spad := [], acc := [], sems := [], rings := [], descs := []
            rng := { coarse := false, tables := [], fills := [], lanes := [], cursor := [] } } (coreOf t c)) ∧
          (∀ k, sliceOf t k = { sliceOf s k with lines := [] }) ∧
          (∀ n, tdmOf t n = if n < 4 then { tdmOf s n with safe := false } else tdmOf s n) ∧
          (∀ p, (portOf s p).sealedDown = false ∨ 8 ≤ p → portOf t p = portOf s p) ∧
          { t with fault := none, lastReinit := none, deviceRecoveries := 0, boot := s.boot, power := s.power, cores := []
                   slices := [], tdm := [], ports := [], channels := [] } =
            { s with fault := none, lastReinit := none, deviceRecoveries := 0, cores := [], slices := [], tdm := [], ports := []
                     channels := [] })) ∧
    (∀ u : W32,
      let h := unitOf s u
      let i := unitIdx u
      let Only (c : Instr) (h' : UnitH) : Prop :=
        ∃ t, exec c s = .next t ∧ unitOf t u = h' ∧ (∀ w, w ≠ u → unitOf t w = unitOf s w) ∧
          { t with units := [] } = { s with units := [] }
      let held : State := { s with bays := s.bays.map (fun e =>
        (e.1, if (variantNow s e.2).isNone = true then { e.2 with lastVariant := none } else e.2)) }
      let atReset : Prop :=
        unitType u = 1 ∧ i < 64 ∧ h.fence = .inService ∧ s.boot.pwrok = true ∧ s.boot.resetN = true ∧ s.boot.complete = false
      let Tested (y : Core) : Prop := Stopped { coreOf s i with
        spad := [], acc := [], sems := [], rings := [], descs := []
        rng := { coarse := false, tables := [], fills := [], lanes := [], cursor := [] } } y
      let source : W16 := if (coreOf s i).rng.coarse = true then 0x010A#16 else 0x0100#16
      let syn : W64 := BitVec.ofNat 64 (0xFF * 2 ^ 40 + 0xFFFFFFFF)
      let back : UnitH := { fence := .inService, tries := 0, recoveries := min (h.recoveries + 1) 65535
                            returns := s.now :: h.returns, source := h.source }
      let failed := { h with tries := h.tries + 1, fence := if selftestTries s ≤ h.tries + 1 then .permanent else .quiet }
      (h.fence ≠ .quiet → exec (.quietPeriodExpiry u) s = .next s) ∧
      (h.fence ≠ .selfTest → ¬ atReset → ∀ ok, exec (.selfTestComplete u ok) s = .next s) ∧
      (atReset → tsorted none s.cores = true →
        (∃ t, exec (.selfTestComplete u true) s = .next t ∧ Tested (coreOf t i) ∧ (∀ c, c ≠ i → coreOf t c = coreOf s c) ∧
          { t with cores := [] } = { s with cores := [] }) ∧
        (∃ t, exec (.selfTestComplete u false) s = .next t ∧ Logged s t source 1 u syn ∧
          unitOf t u = { h with
            fence := if recovLimit s ≤ recentReturns s u ∧ recovLimit s ≠ 0 then .permanent else .quiet
            tries := if recovLimit s ≤ recentReturns s u ∧ recovLimit s ≠ 0 then h.tries else 0 } ∧
          (∀ w, w ≠ u → unitOf t w = unitOf s w) ∧
          { t with units := [], log := [], logNext := 0, latch := none } =
            { s with units := [], log := [], logNext := 0, latch := none })) ∧
      (h.fence = .quiet → unitType u = 5 ∨ unitType u = 6 → exec (.quietPeriodExpiry u) s = .next s) ∧
      (h.fence = .quiet → unitType u ≠ 4 → unitType u ≠ 5 → unitType u ≠ 6 →
        Only (.quietPeriodExpiry u) { h with fence := .selfTest }) ∧
      (h.fence = .quiet → unitType u = 4 →
        ∃ t, exec (.quietPeriodExpiry u) s = .next t ∧ unitOf t u = { h with fence := .selfTest } ∧
          portOf t i = { portOf s i with training := true } ∧ (∀ p, p ≠ i → portOf t p = portOf s p) ∧
          { t with units := [], ports := [] } = { s with units := [], ports := [] }) ∧
      (h.fence = .selfTest →
        (unitType u ≠ 1 → unitType u ≠ 2 → unitType u ≠ 4 →
          ∃ t, exec (.selfTestComplete u true) s = .next t ∧ unitOf t u = back ∧ (∀ w, w ≠ u → unitOf t w = unitOf s w) ∧
            { t with units := [] } = { held with units := [] }) ∧
        (unitType u = 1 → tsorted none s.cores = true →
          ∃ t, exec (.selfTestComplete u true) s = .next t ∧ unitOf t u = back ∧
            Tested (coreOf t i) ∧ (∀ c, c ≠ i → coreOf t c = coreOf s c) ∧
            { t with units := [], cores := [] } = { held with units := [], cores := [] }) ∧
        (unitType u = 2 → tsorted none s.slices = true →
          ∃ t, exec (.selfTestComplete u true) s = .next t ∧ unitOf t u = back ∧
            sliceOf t i = { sliceOf s i with lines := [] } ∧ (∀ c, c ≠ i → sliceOf t c = sliceOf s c) ∧
            { t with units := [], slices := [] } = { held with units := [], slices := [] }) ∧
        (∀ p : Fin 8, u = uPort p → exec (.selfTestComplete u true) s = exec (.linkUp p) s) ∧
        (unitType u ≠ 1 → unitType u ≠ 3 → Only (.selfTestComplete u false) failed) ∧
        (unitType u = 3 → s.sessions = [] → Only (.selfTestComplete u false) failed) ∧
        (unitType u = 1 →
          ∃ t, exec (.selfTestComplete u false) s = .next t ∧ unitOf t u = failed ∧
            Logged s t source 1 u syn ∧
            { t with units := [], log := [], logNext := 0, latch := none } =
              { s with units := [], log := [], logNext := 0, latch := none })))

/-! ### Power, reset and boot -/

/-- PWROK_FALL keeps the flash, the fuses and the pins alone; PWROK_RISE opens the cold test window (R435, R495). RESET_N_RISE,
a warm reset and TRIAL_BOOT_TIMEOUT start a boot: firmware that passes every check of Table 19.4 runs, or none does and boot
stops (R436, R460, R461), and the boot flash is reset, identified and switched to octal DDR (R484); a warm reset keeps the
thatch, the log, the sessions and the counters and drops connections, fences and what firmware held, its cores in coarse mode
(R197, R435, R440, R462, Table 18.5). A RESET_N pulse of 1 µs to 10 µs is forbidden (R435). BOOT_COMPLETE takes the profile,
empties every slot, confirms the firmware and starts the grid (R436, R441, R453, R462), cores that are in service out of coarse
mode (R197) and, after a warm reset, every channel recalibrated (R218); BOOT_STOP holds the device in a stop stage (R437). -/
def Obligations.ResetsStartABoot : Prop :=
  ∀ (s : State),
    let Boots (t : State) (warm : Bool) (p : Fin 4) : Prop :=
      t.boot.resetN = true ∧ t.boot.coldWindow = false ∧ t.boot.warm = warm ∧ t.boot.complete = false ∧ t.boot.faultN = true ∧
        t.boot.update = none ∧ t.boot.attest = none ∧ t.boot.profsel = p ∧ t.boot.profileChoice = none ∧
        t.boot.warmPending = false ∧ t.boot.xspi = .octal ∧ t.boot.xspiOps = [.softReset, .readSfdp, .toOctal] ∧
        t.boot.profileActive = (profileFor s (if warm = true then s.boot.profileChoice else none) p).getD s.boot.profileActive ∧
        t.fuses = s.fuses ∧
        (s.fuses.ok = false → t.boot.stage = 0x02#8 ∧ t.boot.fw = none ∧ t.flash = s.flash) ∧
        (s.fuses.ok = true →
          (∀ f, t.boot.fw = some f → fwVerify s f.slot = stOk ∧ t.boot.stage = 0x05#8) ∧
          (fwVerify s 0 ≠ stOk → fwVerify s 1 ≠ stOk → t.boot.fw = none ∧ t.boot.stage = 0x04#8) ∧
          ((recNow s).trial = false →
            let k := (recNow s).slot
            t.boot.fw = (if fwVerify s k = stOk then some (fwOfSlot s k false)
              else if fwVerify s (1 - k) = stOk then some (fwOfSlot s (1 - k) false) else none) ∧
            t.flash = (if fwVerify s k = stOk ∨ fwVerify s (1 - k) ≠ stOk then s.flash else (writeRec s (1 - k) false 0).flash)))
    let Warm (i : Instr) (p : Fin 4) : Prop :=
      ∃ t, exec i s = .next t ∧ Boots t true p ∧ t.conns = [] ∧ t.mail = [] ∧ t.unanswered = [] ∧ t.snapshots = [] ∧
        t.loads = [] ∧ t.stores = [] ∧ t.units = [] ∧ t.fault = none ∧ t.mesh = [] ∧ t.spills = [] ∧
        t.power.state = .run ∧ t.power.bias = biasOf .run ∧ t.power.trans = none ∧ t.power.alarm = false ∧
        (tsorted none s.cores = true → ∀ c, c < 64 →
          (coreOf t c).rng.coarse = true ∧ (coreOf t c).spad = [] ∧ (coreOf t c).acc = [] ∧ (coreOf t c).ctx = none) ∧
        t.power.counters = cntAdd s.power.counters 4 32 1 ∧ t.sessions = s.sessions ∧ t.builds = s.builds ∧
        t.adapters = s.adapters ∧ t.thatch = s.thatch ∧ t.channels = s.channels ∧ t.log = s.log ∧ t.latch = s.latch ∧
        t.keeps = s.keeps ∧ t.gpCounters = s.gpCounters ∧ t.tap = s.tap ∧ t.wire = s.wire
    (exec .pwrokFall s = .next (if s.boot.pwrok = true then
        { State.reset with
          pending := s.pending, now := s.now, fresh := s.fresh, wire := s.wire, flash := s.flash, fuses := s.fuses
          power := { State.reset.power with sdref := s.power.sdref }, tap := { State.reset.tap with ir := s.tap.ir } }
      else s)) ∧
    (exec .pwrokRise s = .next (if s.boot.pwrok = true then s
      else { s with boot := { s.boot with pwrok := true, resetN := false, coldWindow := true, stage := 0x10#8 } })) ∧
    (∀ p : Fin 4,
      (s.boot.pwrok = false ∨ s.boot.resetN = true → exec (.resetNRise p) s = .next s) ∧
      (s.boot.pwrok = true → s.boot.resetN = false →
        ∃ t, exec (.resetNRise p) s = .next t ∧ Boots t false p ∧
          t.tap = { State.reset.tap with ir := s.tap.ir, pins := s.tap.pins, update := s.tap.update } ∧
          { t with boot := s.boot, tap := s.tap, flash := [] } = { s with flash := [] }) ∧
      (s.boot.pwrok = true → s.boot.resetN = true →
        (∀ ns, ns < 1000 → exec (.warmReset (.resetN ns) p) s = .next s) ∧
        (∀ ns, 1000 ≤ ns → ns < 10000 → exec (.warmReset (.resetN ns) p) s = .fault .resetPulseForbidden) ∧
        (∀ ns, 10000 ≤ ns → Warm (.warmReset (.resetN ns) p) p)) ∧
      (if s.boot.complete = true ∧ s.boot.warmPending = true ∧ anyRunning s = false then Warm (.warmReset .profileSelect p) p
       else exec (.warmReset .profileSelect p) s = .next s) ∧
      (s.boot.fw = none ∨ s.boot.complete = true → exec (.trialBootTimeout p) s = .next s) ∧
      (∀ f, s.boot.fw = some f → s.boot.pwrok = true → s.boot.resetN = true → s.boot.complete = false →
        (f.trial = false → exec (.trialBootTimeout p) s = .next s) ∧ (f.trial = true → Warm (.trialBootTimeout p) p))) ∧
    (bootReady s = false → exec .bootComplete s = .next s) ∧
    (∀ es f, bootReady s = true → profileOf s s.boot.profileActive = some es → s.boot.fw = some f → s.sessions = [] →
      ∃ t, exec .bootComplete s = .next t ∧ t.boot.complete = true ∧ t.boot.stage = 0x08#8 ∧ t.boot.faultN = false ∧
        t.boot.fw = some { f with trial := false } ∧ t.fuses.counter = max s.fuses.counter f.secVersion ∧ t.chunk = 0 ∧
        t.t0 = s.now ∧ t.power.state = .run ∧ t.power.bias = biasOf .run ∧ t.power.trans = none ∧
        (tsorted none s.cores = true → ∀ c, c < 64 → fenced s (uCore c) = false → (coreOf t c).rng.coarse = false) ∧
        (tsorted none s.channels = true → ∀ ch, ch < 48 → channelOf t ch = if s.boot.warm = true then
          { channelOf s ch with recalAt := s.now, counters := cntAdd (channelOf s ch).counters 5 32 1 } else channelOf s ch) ∧
        t.yealms = [] ∧ t.sessions = [] ∧
        (∀ e, e ∈ es → e.1 = 0x20 → (bayOf t e.2.1).isSome = true ∨ bit t.boot.baysSkipped e.2.1 = true) ∧
        (∀ j x, bayOf t j = some x → x.order = [] ∧ x.plans = [] ∧ x.todo = []) ∧
        (∀ b, b ∈ t.builds → b.copies.all (fun c => decide (c.kind < 2)) = true) ∧ t.thatch = s.thatch ∧ t.log = s.log ∧
        t.wire = s.wire) ∧
    (∀ stage : Byte,
      exec (.bootStop stage) s = .next (if s.boot.pwrok = true ∧ s.boot.resetN = true ∧ s.boot.complete = false ∧
          s.boot.stage.toNat < 0x80 ∧ stopCause s stage.toNat = true then
        { s with boot := { s.boot with stage := stage, fw := if stage = 0x87#8 then s.boot.fw else none } } else s))

/-- Entry to a power state and the exit from it complete with the condition of every block that Table 18.6 gives and the body
bias and SRAM assist of Table 18.7, count and answer (R443, R444, R447, R452); a wake of the state ends it, or marks its
entry (R446, R447). Sensor readings set and hold the alarm and the highest reading, and the second in a row at or above 110
°C is fatal (R449 to R451); the fifth reading in a row of a rail outside its limits is fatal (R430); a lost SerDes reference
takes the ports of its network out of service (R434). -/
def Obligations.PowerStatesSensorsAndSupplies : Prop :=
  ∀ (s : State),
    let exit : Trans := { entering := false, target := .run, resp := none, msg := none, wakeSeen := false }
    (∀ tr, s.power.trans = some tr → s.fault = none → tsorted none s.cores = true →
      let was := s.power.state
      let Replies (t : State) : Prop := ∀ rt, tr.resp = some rt → awaits s rt = true → Responded rt stOk [] s t
      (tr.entering = true → tr.target = .trim →
        ∃ t, exec .powerStateEntryComplete s = .next t ∧ t.power = { s.power with state := .trim, bias := biasOf .trim, trans := none } ∧
          (∀ c, coreOf t c = if c < 64 then
            { coreOf s c with gated := !(s.bays.any (fun e => bit e.2.attr.coreMask c)) } else coreOf s c) ∧
          { t.bare with cores := [], power := s.power } = { s.bare with cores := [] } ∧ Replies t) ∧
      (tr.entering = true → deep tr.target = true →
        ∃ t, exec .powerStateEntryComplete s = .next t ∧
          (let once := cntAdd s.power.counters (if tr.target = .doze then 0 else 1) 32 1
           t.power = { s.power with
             state := tr.target, bias := biasOf tr.target, trans := if tr.wakeSeen = true then some exit else none
             counters := if tr.wakeSeen = true then cntAdd once 2 32 1 else once }) ∧
          (∀ c, c < 64 → (coreOf t c).gated = true ∧ (coreOf t c).ctx = none ∧
            (tr.target = .sealed → (coreOf t c).spad = [] ∧ (coreOf t c).acc = []) ∧
            (tr.target = .doze → (coreOf t c).spad = (coreOf s c).spad ∧ (coreOf t c).acc = (coreOf s c).acc)) ∧
          (∀ j x, bayOf t j = some x → x.todo = [] ∧ x.running = false ∧ x.window = false) ∧
          (tsorted none s.tdm = true → ∀ n, n < 4 → tdmArmed s n = false → (tdmOf t n).st = .stopped) ∧
          t.builds = s.builds ∧ t.thatch = s.thatch ∧ t.sessions = s.sessions ∧ t.units = s.units ∧ Replies t) ∧
      (tr.entering = false → tsorted none s.channels = true →
        ∃ t, exec .powerStateExitComplete s = .next t ∧
          t.power = { s.power with state := .run, bias := biasOf .run, trans := none } ∧
          (∀ c, coreOf t c = if c < 64 then { coreOf s c with gated := false } else coreOf s c) ∧
          (∀ ch, channelOf t ch = if ch < 48 ∧ deep was = true then
            { channelOf s ch with recalAt := s.now, counters := cntAdd (channelOf s ch).counters 5 32 1 } else channelOf s ch) ∧
          { t.bare with cores := [], power := s.power, channels := [] } = { s.bare with cores := [], channels := [] } ∧
          (unknownCount s = 0 → Replies t))) ∧
    (s.power.trans = none → exec .powerStateEntryComplete s = .next s ∧ exec .powerStateExitComplete s = .next s) ∧
    (∀ w,
      (wakeValid s w = false ∨ s.fault.isSome = true → exec (.wake w) s = .next s) ∧
      (wakeValid s w = true → s.fault = none →
        (∀ tr, s.power.trans = some tr → exec (.wake w) s = .next (if tr.entering = true ∧ deep tr.target = true then
          { s with power := { s.power with trans := some { tr with wakeSeen := true } } } else s)) ∧
        (s.power.trans = none → exec (.wake w) s = .next (if deep s.power.state = true then
          { s with power := { s.power with trans := some exit } } else s)))) ∧
    (∀ rs : List W16,
      (s.boot.pwrok = false ∨ rs.length ≠ 80 → exec (.sensorReading rs) s = .next s) ∧
      (s.boot.pwrok = true → rs.length = 80 → s.boot.complete = true → tsorted none s.power.sensors = true →
        tsorted none s.power.hot = true →
        let above := rs.any (fun r => decide (alarmPoint s < r.toInt))
        let cooled := rs.all (fun r => decide (r.toInt ≤ coolPoint s))
        let alarm := s.power.alarm || above
        (rs.all (fun r => decide (r.toInt < 1760)) = true →
          ∃ t, exec (.sensorReading rs) s = .next t ∧ (∀ i, i < 80 → tget 0 t.power.sensors i = rs.getD i 0 ∧ tget 0 t.power.hot i = 0) ∧
            (∃ m, t.power.tjPeak = some m ∧ (∀ r, r ∈ rs → r.toInt ≤ m.toInt) ∧
              (m ∈ rs ∨ s.power.tjPeak = some m)) ∧
            t.power.alarm = alarm ∧
            t.power.coolSince = (if above = true then none
              else if s.power.alarm = false then s.power.coolSince
              else if cooled = true then some (s.power.coolSince.getD s.now) else none) ∧
            (if alarm = false then t.power.counters = s.power.counters
             else if s.power.alarmTicks < 9 then
               t.power.alarmTicks = s.power.alarmTicks + 1 ∧ t.power.counters = s.power.counters
             else t.power.alarmTicks = 0 ∧ t.power.counters = cntAdd s.power.counters 3 48 1) ∧
            { t with power := s.power } = s) ∧
        (∀ i, i < 80 → 1 ≤ tget 0 s.power.hot i → 1760 ≤ (rs.getD i 0).toInt → s.fault = none →
          ∃ t, exec (.sensorReading rs) s = .next t ∧ t.fault.map (fun x => x.source) = some 0x0601#16 ∧ t.boot.faultN = true))) ∧
    (exec .thermalAlarmClear s = .next (if s.power.alarm = true ∧ s.power.coolSince.isSome = true then
      { s with power := { s.power with alarm := false, coolSince := none, alarmTicks := 0 } } else s)) ∧
    (∀ mv : List Nat,
      (s.boot.pwrok = false ∨ mv.length ≠ 8 → exec (.supplyCheck mv) s = .next s) ∧
      (s.boot.pwrok = true → mv.length = 8 → tsorted none s.power.rails = true → tsorted none s.power.railBad = true →
        let Bad (i : Nat) : Prop := mv.getD i 0 < (railLimits.getD i (0, 0)).1 ∨ (railLimits.getD i (0, 0)).2 < mv.getD i 0
        ((∀ i, i < 8 → ¬ Bad i) →
          ∃ t, exec (.supplyCheck mv) s = .next t ∧
            (∀ i, i < 8 → tget 0 t.power.rails i = mv.getD i 0 ∧ tget 0 t.power.railBad i = 0) ∧
            { t with power := s.power } = s ∧
            { t.power with rails := [], railBad := [] } = { s.power with rails := [], railBad := [] }) ∧
        (∀ i, i < 8 → 4 ≤ tget 0 s.power.railBad i → Bad i → s.fault = none → s.boot.complete = true →
          ∃ t, exec (.supplyCheck mv) s = .next t ∧ t.fault.map (fun x => x.source) = some 0x0605#16 ∧ t.boot.faultN = true))) ∧
    (∀ net : Fin 2,
      exec (.sdrefRestored net) s = .next { s with power := { s.power with sdref := tput true s.power.sdref net true } } ∧
      (let u : State := { s with power := { s.power with sdref := tput true s.power.sdref net false } }
       (tget true s.power.sdref net = false → exec (.sdrefLost net) s = .next s) ∧
       (tget true s.power.sdref net = true → s.boot.complete = false → exec (.sdrefLost net) s = .next u) ∧
       (tget true s.power.sdref net = true → s.boot.complete = true → s.conns = [] → tsorted none s.ports = true →
         ∃ t, exec (.sdrefLost net) s = .next t ∧ t.power = u.power ∧
           (∀ p, p < 8 → netOf p = net.val → portEnabled s p = true →
             linkIsUp t p = false ∧ (unitOf t (uPort p)).fence ≠ .inService) ∧
           (∀ p, netOf p ≠ net.val ∨ portEnabled s p = false → portOf t p = portOf s p) ∧
           (∀ w, (∀ p, p < 8 → netOf p = net.val → w ≠ uPort p) → unitOf t w = unitOf s w) ∧
           { t with power := s.power, ports := [], units := [], log := [], logNext := 0, latch := none } =
             { s with ports := [], units := [], log := [], logNext := 0, latch := none })))

/-! ### Serial audio -/

/-- A TDM frame of a port that is stopped or keeps its clock counts, tracks the period and fills every input slot, and a slot
that is disabled or has nothing to play drives zero, one of a fenced port `idle_pattern` (R383 to R385, R391, R400, R401); clock
loss and relock move the port's state (R392, R393, Table 16.6); a lost clock drops samples as their time passes (R392); the end
of the ramp applies the record, with the port stopped (R387). The barge-in gate counts blocks, and stops the Speaking session
bound to its slot when it opens (R364, R394). A PDM sample passes its gain, or is zero without a clock (R396). Shown for ports to
which no session is bound but for the gate's. -/
def Obligations.SerialAudioRuns : Prop :=
  ∀ (s : State) (n : Fin 4), tsorted none s.tdm = true → tsorted none (tdmOf s n).slots = true →
    tsorted none (tdmOf s n).counters = true →
    let x := tdmOf s n
    let unbound := s.sessions.all (fun e => !(bit e.2.bindFlags.toNat 1 && decide (e.2.tdmPort = n.val)))
    let Port (i : Instr) (y : Tdm) : Prop :=
      ∃ t, exec i s = .next t ∧ tdmOf t n = y ∧ (∀ m, m ≠ n.val → tdmOf t m = tdmOf s m) ∧ { t with tdm := [] } = { s with tdm := [] }
    let lost : Tdm := { x with
      st := .clockLost, recent := [], backFrames := 0, glitchRun := 0, relockAfterLoss := false, offNominal := false
      counters := cntAdd x.counters 2 32 1 }
    (tdmAwake s n = false → (∀ p k l, exec (.tdmFrame n p k l) s = .next s) ∧ exec (.clockLoss n) s = .next s ∧
      (∀ p, exec (.relockLocked n p) s = .next s) ∧ (∀ i l, exec (.bargeGateBlock n i l) s = .next s) ∧
      (∀ i, exec (.freewheelPlayTimePass n i) s = .next s)) ∧
    (tdmAwake s n = true → (recOf s (0x10 + n.val) 0).commit = none →
      (∀ period periods inputs, tdmMode s n ≠ 0 →
        x.st = .stopped ∨ (x.st = .running ∧ (period :: x.recent).length < 64 ∧
          (glitchy x.period period = false ∨ x.glitchRun < 2)) →
        ∃ t, exec (.tdmFrame n period periods inputs) s = .next t ∧
          let y := tdmOf t n
          y.st = .running ∧ y.safe = x.safe ∧ tget 0 y.counters 0 = (tget 0 x.counters 0 + 1) % 2 ^ 48 ∧
          (x.st = .stopped → y.period = nominalPeriod s n ∧ y.recent = [] ∧ y.glitchRun = 0) ∧
          (x.st = .running → glitchy x.period period = false →
            y.period = Config.trackPeriod x.period period ∧ y.recent = period :: x.recent ∧ y.glitchRun = 0) ∧
          (x.st = .running → glitchy x.period period = true →
            y.period = x.period ∧ y.recent = x.recent ∧ y.glitchRun = x.glitchRun + 1 ∧
            tget 0 y.counters 1 = (tget 0 x.counters 1 + 1) % 2 ^ 32) ∧
          (∀ i, i < 64 →
            (tslotOf y i).inp = (if inEnabled s n i = true ∧ slotComplete s n i periods = true then inputs.getD i 0 else 0) ∧
            (outEnabled s n i = false → (tslotOf y i).out = 0) ∧
            (outEnabled s n i = true → x.safe = true ∨ fenced s (uAudio n) = true → (tslotOf y i).out = idleCode s n) ∧
            (outEnabled s n i = true → x.safe = false → fenced s (uAudio n) = false → (tslotOf x i).buf = [] →
              (tslotOf x i).lag = none → (tslotOf y i).out = 0)) ∧
          (∀ m, m ≠ n.val → tdmOf t m = tdmOf s m) ∧ { t with tdm := [], fresh := 0 } = { s with tdm := [], fresh := 0 }) ∧
      (x.st = .stopped → exec (.clockLoss n) s = .next s) ∧
      (x.st = .clockLost → Port (.clockLoss n) { x with backFrames := 0, recent := [] }) ∧
      (unbound = true → x.st = .running ∨ x.st = .relocking → Port (.clockLoss n) lost) ∧
      (x.st ≠ .relocking → ∀ p, exec (.relockLocked n p) s = .next s) ∧
      (unbound = true → x.st = .relocking → ∀ p,
        if driftOff (nominalPeriod s n) [p] = true then
          Port (.relockLocked n p) { x with
            st := .clockLost, period := p, recent := [], backFrames := 0, offNominal := true, counters := cntAdd x.counters 2 32 1 }
        else Port (.relockLocked n p) { x with st := .running, period := p, recent := [], glitchRun := 0 }) ∧
      (∀ i : Fin 64,
        let z := tslotOf x i
        if (x.st = .clockLost ∨ x.st = .relocking) ∧ z.buf ≠ [] then
          Port (.freewheelPlayTimePass n i) { x with
            slots := tput tslotD x.slots i { z with buf := z.buf.drop 1 }, counters := cntAdd x.counters 5 48 1 }
        else exec (.freewheelPlayTimePass n i) s = .next s) ∧
      (∀ (i : Fin 64) (level : Int),
        let z := tslotOf x i
        let live := decide (tdmMode s n ≠ 0) && bit (fld (tdmRec s n) 32 8) i && decide (x.st ≠ .stopped ∧ x.st ≠ .clockLost)
        let loud := decide (16 * fldS (tdmRec s n) 48 1 < level)
        let hit := z.armed && decide (ceilDiv (fld (tdmRec s n) 49 1) 10 ≤ z.activeBlocks + 1)
        let quiet : TSlot :=
          { z with activeBlocks := 0, quietBlocks := z.quietBlocks + 1, armed := z.armed || decide (20 ≤ z.quietBlocks + 1) }
        let act : TSlot := { z with activeBlocks := z.activeBlocks + 1, quietBlocks := 0, armed := z.armed && !hit }
        (live = false → exec (.bargeGateBlock n i level) s = .next s) ∧
        (live = true → loud = false → Port (.bargeGateBlock n i level) { x with slots := tput tslotD x.slots i quiet }) ∧
        (live = true → loud = true → hit = false ∨ slotBound s n i = none →
          Port (.bargeGateBlock n i level) { x with slots := tput tslotD x.slots i act }) ∧
        (∀ k ss, live = true → loud = true → hit = true → slotBound s n i = some (k, ss) → tsorted none s.sessions = true →
          ss.st = .speaking → s.fault = none → 0 < ss.uttTokens → sliceBegun s ss = true →
          ∃ t, exec (.bargeGateBlock n i level) s = .next t ∧
            tdmOf t n = { x with slots := tput tslotD x.slots i act, counters := cntAdd x.counters 7 32 1 } ∧
            sessOf t k = some { ss with
              queuedTokens := none, unspoken := 0
              stopWait := ss.stopWait ++ [{ resp := none, barge := true, drop := ss.queuedTokens.getD 0 + ss.unspoken }] } ∧
            (∀ j, j ≠ k → sessOf t j = sessOf s j) ∧
            { t with tdm := [], sessions := [] } = { s with tdm := [], sessions := [] }))) ∧
    (x.ramping = false ∨ s.fault.isSome = true → exec (.tdmRestartRampDone n) s = .next s) ∧
    (∀ c rt, x.ramping = true → s.fault = none → (recOf s (0x10 + n.val) 0).commit = some c → c.restart = true →
      c.resp = some rt → awaits s rt = true → tsorted none s.recs = true →
      captureOk (setRec s (0x10 + n.val) 0 { recOf s (0x10 + n.val) 0 with commit := none }) (0x10 + n.val) 0 c = true →
      ∃ t, exec (.tdmRestartRampDone n) s = .next t ∧
        recOf t (0x10 + n.val) 0 = { recOf s (0x10 + n.val) 0 with commit := none, active := c.bytes, activeGen := c.gen } ∧
        (∀ k, k ≠ recKey (0x10 + n.val) 0 → tfind t.recs k = tfind s.recs k) ∧
        (tdmOf t n).st = .stopped ∧ (tdmOf t n).ramping = false ∧
        (∀ i, i < 64 → (tslotOf (tdmOf t n) i).buf = [] ∧ (tslotOf (tdmOf t n) i).lag = none) ∧
        (∀ m, m ≠ n.val → tdmOf t m = tdmOf s m) ∧
        { t.bare with recs := [], tdm := [] } = { s.bare with recs := [], tdm := [] } ∧ Responded rt stOk (le 4 c.gen.toNat) s t) ∧
    (∀ (m : Fin 16) (clocked : Bool) (v : W32),
      (s.boot.complete = false ∨ (micEnabled s m = false ∧ (recOf s 0x18 0).commit = none) →
        exec (.pdmOutputSample m clocked v) s = .next s) ∧
      (s.boot.complete = true → (recOf s 0x18 0).commit = none → micEnabled s m = true →
        s.sessions.all (fun e => e.2.job.isNone) = true → tsorted none s.pdm.outs = true →
        let down := fenced s (uAudio 4)
        let gain := micOut s m v
        let out := if down = true ∨ clocked = false then 0 else gain.1
        ∃ t, exec (.pdmOutputSample m clocked v) s = .next t ∧ tget 0 t.pdm.outs m = out ∧
          (∀ k, k ≠ m.val → tget 0 t.pdm.outs k = tget 0 s.pdm.outs k) ∧
          t.pdm.clips = cntAdd s.pdm.clips m 32 (if down = true ∨ clocked = false then 0 else gain.2) ∧
          t.pdm.clockLost = (s.pdm.clockLost + (if down = true ∨ clocked = false then 1 else 0)) % 2 ^ 48 ∧
          (∀ k, tget [] t.pdm.chunk k =
            if k < 4 ∧ down = false ∧ bit (meterMics (act s 0x18 0) k) m = true then tget [] s.pdm.chunk k ++ [out]
            else tget [] s.pdm.chunk k) ∧
          t.pdm.levels = s.pdm.levels ∧ t.pdm.ambient = s.pdm.ambient ∧ { t with pdm := s.pdm } = s))

/-! ### Sideband and test -/

/-- The telemetry block is renewed with PWROK (R501, Table 21.6), its first fields in their places; a pointer write takes two
bytes, and a read gives bytes of the block from the pointer on, zero beyond it, and moves the pointer (R500). Each test
instruction selects its code; EXTEST, CLAMP and HIGHZ drive pins in the cold test window alone, and elsewhere act as BYPASS
(R494 to R497). MBIST and SerDes tests start in the window and end as Tables 21.3 and 21.5 say (R498, R499), and TAP_RESET
abandons them (R496). -/
def Obligations.SidebandAndTestAccess : Prop :=
  ∀ (s : State),
    let t0 := s.tap
    let Sets (i : Instr) (t : Tap) : Prop := exec i s = .next { s with tap := t }
    let select (code : Byte) : Tap := { t0 with ir := code, drive := 0 }
    let cold := s.boot.coldWindow
    (s.boot.pwrok = false → exec .telemetryRefresh s = .next s ∧ (∀ n, exec (.i2cRead n) s = .next s) ∧
      ∀ bs, exec (.i2cPointerWrite bs) s = .next s) ∧
    (s.boot.pwrok = true →
      (∃ t, exec .telemetryRefresh s = .next t ∧ t.side.pointer = s.side.pointer ∧
        t.side.refreshes = (s.side.refreshes + 1) % 2 ^ 32 ∧ { t with side := s.side } = s ∧
        t.side.block.take 8 = [0x4D, 0x4C, 0x4D, 0x54, 0x01, s.boot.stage] ++
          [if s.boot.complete = true then BitVec.ofNat 8 (powerCode s) else 0xFF, 0xB0] ∧
        (s.boot.complete = false → cut t.side.block 8 5 = List.replicate 5 0xFF ∧ cut t.side.block 14 2 = [0xFF, 0xFF]) ∧
        (s.boot.complete = true → s.latch = none → cut t.side.block 14 2 = [0, 0]) ∧
        cut t.side.block 13 1 = [BitVec.ofNat 8 (b2n s.boot.faultN + 2 * b2n s.power.alarm + 4 * b2n cold +
          8 * b2n ((s.boot.fw.map (fun f => f.trial)).getD false))]) ∧
      (∀ bs, exec (.i2cPointerWrite bs) s = .next (if bs.length < 2 then s
        else { s with side := { s.side with pointer := (bs.getD 0 0).toNat + 256 * (bs.getD 1 0).toNat } })) ∧
      (∀ n, ∃ bs, exec (.i2cRead n) s = .next { s with
          side := { s.side with pointer := (s.side.pointer + n) % 65536 }, wire := s.wire ++ [.i2c bs] } ∧ bs.length = n ∧
        ∀ k, k < n →
          let a := (s.side.pointer + k) % 65536
          bs.getD k 0 = if a < 256 then s.side.block.getD a 0 else 0)) ∧
    Sets .idcode (select 0x01) ∧ Sets .usercode (select 0x02) ∧
    (∀ pins load, Sets (.samplePreload pins load) { select 0x03 with pins := pins, update := load }) ∧
    Sets .extest (if cold = true then { t0 with ir := 0x04, drive := 1 } else select 0xFF) ∧
    Sets .clamp (if cold = true then { t0 with ir := 0x05, drive := 2 } else select 0xFF) ∧
    Sets .highz (if cold = true then { t0 with ir := 0x06, drive := 3 } else select 0xFF) ∧
    (∀ code : Byte, Sets (.bypass code)
      (if code ∈ [0x01, 0x02, 0x03] ∨ (cold = true ∧ code ∈ [0x04, 0x05, 0x06, 0x20, 0x21]) then t0 else select 0xFF)) ∧
    Sets .tapReset { State.reset.tap with ir := 0x01, pins := t0.pins, update := t0.update } ∧
    (∀ v : W32,
      let target := v.extractLsb' 16 8
      let known := decide (1 ≤ target.toNat ∧ target.toNat ≤ 7) || decide (target = 0xFF)
      exec (.tapRegisterWrite .mbist (v.setWidth 64)) s = exec (.mbistRun v) s ∧
      Sets (.mbistRun v)
        (if cold = false ∨ t0.mbRun = true then t0
         else if v.getLsbD 31 = true ∧ known = true then
           { t0 with mbTarget := target, mbRun := true, mbDone := false, mbFail := false, mbFailType := 0, mbFailIndex := 0 }
         else { t0 with mbTarget := target })) ∧
    (∀ failed : Option (Byte × Byte),
      (t0.mbRun = false → exec (.mbistDone failed) s = .next s) ∧
      (t0.mbRun = true →
        ∃ t, exec (.mbistDone failed) s = .next t ∧
          t.tap = { t0 with
            mbRun := false, mbDone := true, mbFail := failed.isSome, mbFailType := (failed.map Prod.fst).getD 0
            mbFailIndex := (failed.map Prod.snd).getD 0 } ∧
          (∀ c, coreOf t c = { coreOf s c with
            spad := if t0.mbTarget = 1 ∨ t0.mbTarget = 0xFF then [] else (coreOf s c).spad
            acc := if t0.mbTarget = 2 ∨ t0.mbTarget = 0xFF then [] else (coreOf s c).acc }) ∧
          t.thatch = (if t0.mbTarget = 6 ∨ t0.mbTarget = 0xFF then [] else s.thatch) ∧
          { t with tap := s.tap, cores := [], slices := [], tdm := [], thatch := [] } =
            { s with cores := [], slices := [], tdm := [], thatch := [] })) ∧
    (∀ v : W64,
      let pattern := v.extractLsb' 56 4
      let rate := v.extractLsb' 54 2
      exec (.tapRegisterWrite .serdes v) s = exec (.serdesTestRun v) s ∧
      Sets (.serdesTestRun v)
        (if cold = false ∨ 3 < pattern.toNat ∨ 1 < rate.toNat then t0
         else { t0 with
           sdRun := v.getLsbD 63, sdLoop := v.extractLsb' 60 3, sdPattern := pattern, sdRate := rate
           sdLane := v.extractLsb' 48 4, sdLock := false, sdErrors := if v.getLsbD 63 = true then 0 else t0.sdErrors }) ∧
      (∃ bits, exec (.tapRegisterWrite .boundary v) s = .next { s with tap := { t0 with update := bits } } ∧
        (∀ i, i < 64 → bits.getD i false = v.getLsbD i) ∧ ∀ i, 64 ≤ i → bits.getD i false = t0.update.getD i false) ∧
      exec (.tapRegisterWrite .bypass v) s = .next s ∧ exec (.tapRegisterWrite .identity v) s = .next s ∧
      exec (.tapRegisterWrite .firmwareId v) s = .next s) ∧
    (∀ (locked : Bool) (errors : Nat),
      Sets (.serdesCheckerLock locked errors)
        (if t0.sdRun = false ∨ t0.sdPattern = 3 then t0
         else if locked = true ∧ t0.sdLock = false then { t0 with sdLock := true, sdErrors := min errors (2 ^ 32 - 1) }
         else { t0 with sdLock := locked, sdErrors := min (t0.sdErrors + errors) (2 ^ 32 - 1) }))
end

