-- ==== Sys2Proof/Laws/Tables.lean ====
section
/-!
SUPPORT. Sys2Proof/Laws/Tables.lean: the laws of sparse tables and memories: what a read gives after a write, and that every
operation keeps the canonical form.
-/
namespace Sys2Proof.Machine

open Sys2Proof

variable {α : Type}

/-! ### Reads after writes -/

@[simp] theorem tfind_nil (k : Nat) : tfind ([] : Tab α) k = none := rfl

theorem tfind_cons (j k : Nat) (v : α) (t : Tab α) : tfind ((j, v) :: t) k = if j = k then some v else tfind t k := rfl

@[simp] theorem tfind_tins_same (t : Tab α) (k : Nat) (v : α) : tfind (tins t k v) k = some v := by
  induction t with
  | nil => simp [tins, tfind]
  | cons e t ih =>
    obtain ⟨j, w⟩ := e
    unfold tins
    by_cases h : j < k
    · rw [if_pos h, tfind_cons, if_neg (by omega), ih]
    · by_cases h2 : j = k
      · simp [h2, tfind]
      · simp [h, h2, tfind]

theorem tfind_tins_other (t : Tab α) {j k : Nat} (v : α) (h : k ≠ j) : tfind (tins t k v) j = tfind t j := by
  induction t with
  | nil => simp [tins, tfind, h]
  | cons e t ih =>
    obtain ⟨i, w⟩ := e
    unfold tins
    by_cases h1 : i < k
    · rw [if_pos h1, tfind_cons, tfind_cons, ih]
    · by_cases h2 : i = k
      · subst h2; simp [tfind, h]
      · simp [h1, h2, tfind, h]

theorem tfind_tins (t : Tab α) (j k : Nat) (v : α) : tfind (tins t k v) j = if k = j then some v else tfind t j := by
  by_cases h : k = j
  · subst h; simp
  · rw [tfind_tins_other t v h, if_neg h]

theorem tfind_tdel_other (t : Tab α) {j k : Nat} (h : k ≠ j) : tfind (tdel t k) j = tfind t j := by
  induction t with
  | nil => rfl
  | cons e t ih =>
    obtain ⟨i, w⟩ := e
    unfold tdel
    by_cases h1 : i = k
    · subst h1; simp [tfind, h]
    · rw [if_neg h1, tfind_cons, tfind_cons, ih]

/-- Below a sorted table's bound nothing is listed. -/
theorem tfind_low (t : Tab α) (lo k : Nat) (h : tsorted (some lo) t = true) (hk : k ≤ lo) : tfind t k = none := by
  induction t generalizing lo with
  | nil => rfl
  | cons e t ih =>
    obtain ⟨j, v⟩ := e
    simp only [tsorted, Bool.and_eq_true, decide_eq_true_eq] at h
    rw [tfind_cons, if_neg (by omega)]
    exact ih j h.2 (by omega)

theorem tfind_tdel_same (t : Tab α) (lo : Option Nat) (k : Nat) (h : tsorted lo t = true) : tfind (tdel t k) k = none := by
  induction t generalizing lo with
  | nil => rfl
  | cons e t ih =>
    obtain ⟨j, v⟩ := e
    simp only [tsorted, Bool.and_eq_true] at h
    unfold tdel
    by_cases h1 : j = k
    · subst h1; rw [if_pos rfl]; exact tfind_low t j j h.2 (le_refl j)
    · rw [if_neg h1, tfind_cons, if_neg h1]; exact ih (some j) h.2

theorem tget_tins_same (d : α) (t : Tab α) (k : Nat) (v : α) : tget d (tins t k v) k = v := by simp [tget]

theorem tget_tput_same [DecidableEq α] (d : α) (t : Tab α) (k : Nat) (v : α) (h : twf d t = true) :
    tget d (tput d t k v) k = v := by
  unfold tput
  split
  · rename_i e
    simp only [twf, Bool.and_eq_true] at h
    simp [tget, tfind_tdel_same t none k h.1, e]
  · exact tget_tins_same d t k v

theorem tget_tput_other [DecidableEq α] (d : α) (t : Tab α) {j k : Nat} (v : α) (h : k ≠ j) :
    tget d (tput d t k v) j = tget d t j := by
  unfold tput tget
  split
  · rw [tfind_tdel_other t h]
  · rw [tfind_tins_other t v h]

theorem tget_tput_ne [DecidableEq α] (d : α) (t : Tab α) (k : Nat) (v : α) (h : v ≠ d) : tget d (tput d t k v) k = v := by
  simp [tput, h, tget]

/-! ### The canonical form -/

theorem tsorted_weaken (t : Tab α) (lo lo' : Option Nat) (h : tsorted lo t = true)
    (hl : ∀ a, lo' = some a → ∃ b, lo = some b ∧ a ≤ b) : tsorted lo' t = true := by
  cases t with
  | nil => rfl
  | cons e t =>
    obtain ⟨j, v⟩ := e
    simp only [tsorted, Bool.and_eq_true] at h ⊢
    refine ⟨?_, h.2⟩
    cases lo' with
    | none => rfl
    | some a =>
      obtain ⟨b, hb, hab⟩ := hl a rfl
      subst hb
      simp only [decide_eq_true_eq] at h ⊢
      omega

theorem tsorted_tdel (t : Tab α) (lo : Option Nat) (k : Nat) (h : tsorted lo t = true) : tsorted lo (tdel t k) = true := by
  induction t generalizing lo with
  | nil => rfl
  | cons e t ih =>
    obtain ⟨j, v⟩ := e
    simp only [tsorted, Bool.and_eq_true] at h
    unfold tdel
    by_cases h1 : j = k
    · rw [if_pos h1]
      refine tsorted_weaken t (some j) lo h.2 ?_
      intro a ha
      subst ha
      simp only [decide_eq_true_eq] at h
      exact ⟨j, rfl, by omega⟩
    · rw [if_neg h1]
      simp only [tsorted, Bool.and_eq_true]
      exact ⟨h.1, ih (some j) h.2⟩

theorem tsorted_tins (t : Tab α) (lo : Option Nat) (k : Nat) (v : α) (h : tsorted lo t = true)
    (hk : ∀ a, lo = some a → a < k) : tsorted lo (tins t k v) = true := by
  induction t generalizing lo with
  | nil =>
    cases lo with
    | none => rfl
    | some a => simp [tins, tsorted, hk a rfl]
  | cons e t ih =>
    obtain ⟨j, w⟩ := e
    simp only [tsorted, Bool.and_eq_true] at h
    unfold tins
    by_cases h1 : j < k
    · rw [if_pos h1]
      simp only [tsorted, Bool.and_eq_true]
      exact ⟨h.1, ih (some j) h.2 (by intro a ha; cases ha; exact h1)⟩
    · rw [if_neg h1]
      by_cases h2 : j = k
      · subst h2
        rw [if_pos rfl]
        cases lo with
        | none => simpa [tsorted] using h.2
        | some a => simpa [tsorted, hk a rfl] using h.2
      · rw [if_neg h2]
        have hkj : k < j := by omega
        cases lo with
        | none => simpa [tsorted, hkj] using h.2
        | some a => simpa [tsorted, hk a rfl, hkj] using h.2

theorem mem_tdel (t : Tab α) (k : Nat) (e : Nat × α) (h : e ∈ tdel t k) : e ∈ t := by
  induction t with
  | nil => simp [tdel] at h
  | cons a t ih =>
    obtain ⟨j, v⟩ := a
    unfold tdel at h
    by_cases h1 : j = k
    · rw [if_pos h1] at h; exact List.mem_cons_of_mem _ h
    · rw [if_neg h1] at h
      cases h with
      | head => exact List.mem_cons_self
      | tail _ h => exact List.mem_cons_of_mem _ (ih h)

theorem mem_tins (t : Tab α) (k : Nat) (v : α) (e : Nat × α) (h : e ∈ tins t k v) : e = (k, v) ∨ e ∈ t := by
  induction t with
  | nil => simpa [tins] using h
  | cons a t ih =>
    obtain ⟨j, w⟩ := a
    unfold tins at h
    by_cases h1 : j < k
    · rw [if_pos h1] at h
      cases h with
      | head => exact .inr List.mem_cons_self
      | tail _ h =>
        cases ih h with
        | inl q => exact .inl q
        | inr q => exact .inr (List.mem_cons_of_mem _ q)
    · rw [if_neg h1] at h
      by_cases h2 : j = k
      · rw [if_pos h2] at h
        cases h with
        | head => exact .inl rfl
        | tail _ h => exact .inr (List.mem_cons_of_mem _ h)
      · rw [if_neg h2] at h
        cases h with
        | head => exact .inl rfl
        | tail _ h => exact .inr h

/-- A write keeps the canonical form. -/
theorem twf_tput [DecidableEq α] (d : α) (t : Tab α) (k : Nat) (v : α) (h : twf d t = true) : twf d (tput d t k v) = true := by
  simp only [twf, Bool.and_eq_true, List.all_eq_true, decide_eq_true_eq] at h ⊢
  unfold tput
  split
  · exact ⟨tsorted_tdel t none k h.1, fun e he => h.2 e (mem_tdel t k e he)⟩
  · rename_i hv
    refine ⟨tsorted_tins t none k v h.1 (by intro a ha; cases ha), fun e he => ?_⟩
    cases mem_tins t k v e he with
    | inl q => rw [q]; exact hv
    | inr q => exact h.2 e q

theorem twf_nil [DecidableEq α] (d : α) : twf d ([] : Tab α) = true := rfl

/-- A filter keeps the canonical form. -/
theorem tsorted_filter (t : Tab α) (lo : Option Nat) (p : Nat × α → Bool) (h : tsorted lo t = true) :
    tsorted lo (t.filter p) = true := by
  induction t generalizing lo with
  | nil => rfl
  | cons e t ih =>
    obtain ⟨j, v⟩ := e
    simp only [tsorted, Bool.and_eq_true] at h
    rw [List.filter_cons]
    by_cases hp : p (j, v) = true
    · rw [if_pos hp]
      simp only [tsorted, Bool.and_eq_true]
      exact ⟨h.1, ih (some j) h.2⟩
    · rw [if_neg hp]
      refine tsorted_weaken _ (some j) lo (ih (some j) h.2) ?_
      intro a ha
      subst ha
      simp only [decide_eq_true_eq] at h
      exact ⟨j, rfl, by omega⟩

theorem twf_filter [DecidableEq α] (d : α) (t : Tab α) (p : Nat × α → Bool) (h : twf d t = true) : twf d (t.filter p) = true := by
  simp only [twf, Bool.and_eq_true, List.all_eq_true, decide_eq_true_eq] at h ⊢
  exact ⟨tsorted_filter t none p h.1, fun e he => h.2 e (List.mem_of_mem_filter he)⟩

/-- A write of bytes keeps a memory's canonical form. -/
theorem mwrite_wf (d : Byte) (m : Tab Byte) (a : Nat) (bs : List Byte) (h : Memory.wf d m = true) :
    Memory.wf d (mwrite d m a bs) = true := by
  induction bs generalizing m a with
  | nil => exact h
  | cons b bs ih => exact ih _ _ (twf_tput d m a b h)

/-- Bytes outside the written range read as before. -/
theorem mwrite_other (d : Byte) (m : Tab Byte) (a : Nat) (bs : List Byte) (j : Nat) (h : j < a ∨ a + bs.length ≤ j) :
    tget d (mwrite d m a bs) j = tget d m j := by
  induction bs generalizing m a with
  | nil => rfl
  | cons b bs ih =>
    simp only [List.length_cons] at h
    unfold mwrite
    rw [ih _ _ (by omega), tget_tput_other d m b (by omega)]

/-- A written byte reads back. -/
theorem mwrite_same (d : Byte) (m : Tab Byte) (a : Nat) (bs : List Byte) (i : Nat) (hi : i < bs.length)
    (h : Memory.wf d m = true) : tget d (mwrite d m a bs) (a + i) = bs.getD i 0 := by
  induction bs generalizing m a i with
  | nil => simp at hi
  | cons b bs ih =>
    unfold mwrite
    cases i with
    | zero =>
      rw [mwrite_other d _ _ _ _ (by omega)]
      simpa using tget_tput_same d m a b h
    | succ i =>
      have := ih (tput d m a b) (a + 1) i (by simpa using hi) (twf_tput d m a b h)
      rw [show a + (i + 1) = a + 1 + i by omega, this]
      simp

end Sys2Proof.Machine
end

