-- ==== Sys2Proof/Laws/Transport.lean ====
section
/-!
SUPPORT. Sys2Proof/Laws/Transport.lean: what sending on a connection changes: that connection's queues, port counters and the
record of outputs, and nothing else; and what a connection's stream becomes.
-/
namespace Sys2Proof.Machine

open Sys2Proof

/-- `t` differs from `s` by what sending on connection `c` does. -/
structure Moves (c : Nat) (s t : State) : Prop where
  bare : t.bare = s.bare
  mail : t.mail = s.mail
  mailLast : t.mailLast = s.mailLast
  unanswered : t.unanswered = s.unanswered
  keeps : t.keeps = s.keeps
  fresh : t.fresh = s.fresh
  other : ∀ d, d ≠ c → connOf t d = connOf s d
  wire : s.wire <+: t.wire

theorem Moves.refl (c : Nat) (s : State) : Moves c s s := ⟨rfl, rfl, rfl, rfl, rfl, rfl, fun _ _ => rfl, List.prefix_refl _⟩

theorem Moves.trans {c : Nat} {a b d : State} (h : Moves c a b) (k : Moves c b d) : Moves c a d :=
  ⟨k.bare.trans h.bare, k.mail.trans h.mail, k.mailLast.trans h.mailLast, k.unanswered.trans h.unanswered,
    k.keeps.trans h.keeps, k.fresh.trans h.fresh, fun e he => (k.other e he).trans (h.other e he), h.wire.trans k.wire⟩

theorem connOf_setConn (s : State) (c d : Nat) (x : Conn) : connOf (setConn s c x) d = if c = d then some x else connOf s d :=
  tfind_tins _ _ _ _

@[simp] theorem connOf_setConn_same (s : State) (c : Nat) (x : Conn) : connOf (setConn s c x) c = some x := by
  simp [connOf_setConn]

theorem setConn_moves (s : State) (c : Nat) (x : Conn) : Moves c s (setConn s c x) :=
  ⟨rfl, rfl, rfl, rfl, rfl, rfl, fun d h => by rw [connOf_setConn, if_neg (Ne.symm h)], List.prefix_refl _⟩

theorem portCnt_moves (c : Nat) (s : State) (p k w : Nat) : Moves c s (portCnt s p k w) :=
  ⟨rfl, rfl, rfl, rfl, rfl, rfl, fun _ _ => rfl, List.prefix_refl _⟩

theorem emit_moves (c : Nat) (s : State) (e : Emit) : Moves c s (emit s e) :=
  ⟨rfl, rfl, rfl, rfl, rfl, rfl, fun _ _ => rfl, List.prefix_append _ _⟩

theorem setPort_moves (c : Nat) (s : State) (p : Nat) (x : Port) : Moves c s (setPort s p x) :=
  ⟨rfl, rfl, rfl, rfl, rfl, rfl, fun _ _ => rfl, List.prefix_refl _⟩

theorem sendFrame_moves (c : Nat) (s : State) (p : Nat) (e : Emit) : Moves c s (sendFrame s p e) :=
  (portCnt_moves c s p 1 64).trans (emit_moves c _ e)

theorem foldl_moves {α : Type} (c : Nat) (g : State → α → State) (h : ∀ s e, Moves c s (g s e)) (l : List α) (s : State) :
    Moves c s (l.foldl g s) := by
  induction l generalizing s with
  | nil => exact .refl c s
  | cons a l ih => exact (h s a).trans (ih _)

theorem releasePort_moves (c : Nat) (s : State) (p : Nat) : Moves c s (releasePort s p) := by
  unfold releasePort
  dsimp only
  split
  · exact .refl c s
  · exact (setPort_moves c s p _).trans (foldl_moves c _ (fun s e => sendFrame_moves c s p e) _ _)

theorem txFrame_moves (c : Nat) (s : State) (p : Nat) (e : Emit) : Moves c s (txFrame s p e) := by
  unfold txFrame
  split
  · exact .refl c s
  · split
    · exact setPort_moves ..
    · exact (releasePort_moves c s p).trans (sendFrame_moves c _ p e)

/-- On a port whose link is up and that honours no pause, a frame leaves at once, after what the port still holds. -/
theorem txFrame_eq (s : State) (p : Nat) (e : Emit) (hl : linkIsUp s p = true) (hp : (portOf s p).pauseEnd ≤ s.now) :
    txFrame s p e = sendFrame (releasePort s p) p e := by
  unfold txFrame
  rw [if_neg (by simp [hl]), if_neg (by omega)]

/-- A port that holds no frame releases none. -/
@[simp] theorem releasePort_none (s : State) (p : Nat) (h : (portOf s p).heldTx = []) : releasePort s p = s := by
  simp [releasePort, h]

@[simp] theorem sendFrame_conns (s : State) (p : Nat) (e : Emit) : (sendFrame s p e).conns = s.conns := rfl

theorem foldl_sendFrame_conns (l : List Emit) (s : State) (p : Nat) :
    (l.foldl (fun s e => sendFrame s p e) s).conns = s.conns := by
  induction l generalizing s with
  | nil => rfl
  | cons a l ih => exact ih _

@[simp] theorem releasePort_conns (s : State) (p : Nat) : (releasePort s p).conns = s.conns := by
  unfold releasePort
  dsimp only
  split
  · rfl
  · exact foldl_sendFrame_conns ..

theorem txFrame_conns (s : State) (p : Nat) (e : Emit) : (txFrame s p e).conns = s.conns := by
  unfold txFrame
  split
  · rfl
  · split
    · rfl
    · simp

theorem sendRaw_moves (s : State) (c net typ flags : Nat) (seq : W32) (pl : List Byte) (cls : MsgClass) :
    Moves c s (sendRaw s c net typ flags seq pl cls) := by
  unfold sendRaw
  split
  · exact .refl c s
  · dsimp only
    split
    · exact (setConn_moves s c _).trans (txFrame_moves c _ _ _)
    · exact .refl c s

theorem sendSeg_moves (s : State) (c net typ flags : Nat) (seq : W32) (pl : List Byte) (cls : MsgClass) :
    Moves c s (sendSeg s c net typ flags seq pl cls) := by
  unfold sendSeg
  split
  · exact .refl c s
  · split
    · exact sendRaw_moves ..
    · exact .refl c s

theorem connCnt_moves (s : State) (c k : Nat) : Moves c s (connCnt s c k) := by
  unfold connCnt
  split
  · exact .refl c s
  · exact setConn_moves s c _

theorem bufPut_moves (s : State) (c : Nat) (bs : List Byte) (cls : MsgClass) : Moves c s (bufPut s c bs cls) := by
  unfold bufPut
  split
  · exact .refl c s
  · exact setConn_moves s c _

theorem pumpOne_moves (s : State) (c : Nat) : Moves c s (pumpOne s c) := by
  unfold pumpOne
  split
  · exact .refl c s
  · split
    · exact .refl c s
    · split
      · exact (setConn_moves s c _).trans (sendSeg_moves ..)
      · exact .refl c s

theorem pumpResp_moves (n : Nat) (s : State) (c : Nat) : Moves c s (pumpResp n s c) := by
  induction n generalizing s with
  | zero => exact .refl c s
  | succ n ih =>
    unfold pumpResp
    split
    · exact .refl c s
    · split
      · exact .refl c s
      · split
        · exact ((setConn_moves s c _).trans (bufPut_moves ..)).trans (ih _)
        · exact .refl c s

theorem iter_moves (c : Nat) (g : Nat → State → State) (h : ∀ k s, Moves c s (g k s)) (n : Nat) (s : State) :
    Moves c s (iter g n s) := by
  induction n generalizing s with
  | zero => exact .refl c s
  | succ n ih => exact (ih s).trans (h n _)

theorem pump_moves (s : State) (c : Nat) : Moves c s (pump s c) := by
  unfold pump
  split
  · exact .refl c s
  · rename_i x _
    refine ((pumpResp_moves x.respWait.length s c).trans ?_).trans (iter_moves c _ (fun _ s => pumpOne_moves s c) 256 _)
    generalize pumpResp x.respWait.length s c = t
    cases connOf t c with
    | none => exact .refl c t
    | some y => exact setConn_moves ..

theorem queueResp_moves (s : State) (c : Nat) (bs : List Byte) (cls : MsgClass) : Moves c s (queueResp s c bs cls) := by
  unfold queueResp
  split
  · exact .refl c s
  · exact (setConn_moves s c _).trans (pump_moves _ c)

theorem sendResp_moves (s : State) (rt : RespTo) (bs : List Byte) : Moves rt.conn s (sendResp s rt bs) := by
  unfold sendResp
  split
  · exact .refl _ s
  · split
    · exact queueResp_moves ..
    · exact .refl _ s

theorem takeMsgNo_moves (s : State) (c : Nat) : Moves c s (takeMsgNo s c).2 := by
  unfold takeMsgNo
  split
  · exact .refl c s
  · exact setConn_moves s c _

theorem sendStream_moves (s : State) (c typ : Nat) (body : List Byte) (cls : MsgClass) :
    Moves c s (sendStream s c typ body cls).1 := by
  unfold sendStream
  split
  · exact .refl c s
  · dsimp only
    split
    · exact (takeMsgNo_moves s c).trans ((bufPut_moves ..).trans (pump_moves _ c))
    · exact (takeMsgNo_moves s c).trans (connCnt_moves ..)

theorem sendDgram_moves (s : State) (c typ : Nat) (body : List Byte) (dual : Bool) :
    Moves c s (sendDgram s c typ body dual).1 := by
  unfold sendDgram
  split
  · exact .refl c s
  · dsimp only
    split
    · exact .refl c s
    · rename_i x _
      generalize (if dual = true then [0, 1] else [x.active]).filter (fun n => (pathOf x n).up) = nets
      split
      · exact (takeMsgNo_moves s c).trans (connCnt_moves ..)
      · exact (takeMsgNo_moves s c).trans ((setConn_moves _ c _).trans (foldl_moves c _ (fun s n => sendSeg_moves ..) _ _))

/-! ### The stream of a connection -/

/-- The bytes a connection holds. -/
def Conn.out (x : Conn) : List Byte := (x.unacked ++ x.waiting).flatMap (fun g => g.payload) ++ x.respWait.flatMap (fun r => r.1)

theorem stream_of {s : State} {c : Nat} {x : Conn} (h : connOf s c = some x) : stream s c = x.out := by
  simp [stream, h, Conn.out]

@[simp] theorem stream_setConn (s : State) (c : Nat) (x : Conn) : stream (setConn s c x) c = x.out := stream_of (by simp)

theorem stream_congr {s t : State} {c : Nat} (h : connOf t c = connOf s c) : stream t c = stream s c := by simp [stream, h]

theorem connOf_txFrame (s : State) (p : Nat) (e : Emit) (c : Nat) : connOf (txFrame s p e) c = connOf s c := by
  simp [connOf, txFrame_conns]

/-- What a send leaves of the connection it sends on, besides the acknowledgement it carries. -/
theorem connOf_sendSeg (s : State) (c net typ flags : Nat) (seq : W32) (pl : List Byte) (cls : MsgClass) :
    connOf (sendSeg s c net typ flags seq pl cls) c = connOf s c ∨
      ∃ x, connOf s c = some x ∧ connOf (sendSeg s c net typ flags seq pl cls) c =
        some { x with ackDue := none, dataAcked := x.dataAcked || x.dataSeen } := by
  unfold sendSeg sendRaw
  split
  · exact .inl rfl
  · rename_i x hx
    split
    · dsimp only
      split
      · right; refine ⟨x, hx, ?_⟩; rw [connOf_txFrame, connOf_setConn_same]
      · exact .inl rfl
    · exact .inl rfl

theorem stream_sendSeg (s : State) (c net typ flags : Nat) (seq : W32) (pl : List Byte) (cls : MsgClass) :
    stream (sendSeg s c net typ flags seq pl cls) c = stream s c := by
  rcases connOf_sendSeg s c net typ flags seq pl cls with h | ⟨x, h, k⟩
  · exact stream_congr h
  · rw [stream_of h, stream_of k]; rfl

theorem stream_pumpOne (s : State) (c : Nat) : stream (pumpOne s c) c = stream s c := by
  unfold pumpOne
  split
  · rfl
  · rename_i x hx
    split
    · rfl
    · rename_i t rest hw
      split
      · rw [stream_sendSeg, stream_setConn, stream_of hx]
        simp [Conn.out, hw]
      · rfl

theorem segSplit_payload (n : Nat) (cls : MsgClass) (fuel : Nat) (first : Bool) (bs : List Byte) (hn : 0 < n) (hf : bs.length < fuel) :
    (segSplit n cls fuel first bs).flatMap (fun g => g.payload) = bs := by
  induction fuel generalizing first bs with
  | zero => omega
  | succ fuel ih =>
    unfold segSplit
    by_cases h : bs.length ≤ n
    · simp [h, List.take_of_length_le h]
    · simp only [h, decide_false, Bool.false_eq_true, if_false, List.flatMap_cons]
      rw [ih false (bs.drop n) (by simp; omega), List.take_append_drop]

theorem segRoom_pos (s : State) (x : Conn) : 0 < segRoom s x := by unfold segRoom; omega

/-- New sequence numbers leave what segments carry. -/
theorem renumber_payload (l : List TxSeg) (f : Nat → W32) :
    (l.mapIdx (fun i t => { t with seq := f i })).flatMap (fun g => g.payload) = l.flatMap (fun g => g.payload) := by
  induction l generalizing f with
  | nil => simp
  | cons a l ih => simp only [List.mapIdx_cons, List.flatMap_cons]; rw [ih (fun i => f (i + 1))]

theorem bufPut_out (s : State) (c : Nat) (x : Conn) (bs : List Byte) (cls : MsgClass) (hx : connOf s c = some x) :
    ∃ y, connOf (bufPut s c bs cls) c = some y ∧ y.respWait = x.respWait ∧
      (y.unacked ++ y.waiting).flatMap (fun g => g.payload) = (x.unacked ++ x.waiting).flatMap (fun g => g.payload) ++ bs := by
  have hb : connOf (bufPut s c bs cls) c = some { x with
      waiting := x.waiting ++ (segSplit (segRoom s x) cls (bs.length + 1) true bs).mapIdx
        (fun i t => { t with seq := x.txNext + BitVec.ofNat 32 i })
      txNext := x.txNext + BitVec.ofNat 32 ((segSplit (segRoom s x) cls (bs.length + 1) true bs).mapIdx
        (fun i t => { t with seq := x.txNext + BitVec.ofNat 32 i })).length } := by
    unfold bufPut
    rw [hx]
    simp
  refine ⟨_, hb, rfl, ?_⟩
  simp only [List.flatMap_append, List.append_assoc]
  congr 2
  rw [renumber_payload _ (fun i => x.txNext + BitVec.ofNat 32 i)]
  exact segSplit_payload _ _ _ _ _ (segRoom_pos s x) (by omega)

theorem cutSeg_payload (n : Nat) (t : TxSeg) (hn : 0 < n) : (cutSeg n t).flatMap (fun g => g.payload) = t.payload := by
  unfold cutSeg
  split
  · simp
  · rw [List.flatMap_map]
    exact segSplit_payload n t.cls _ true t.payload hn (by omega)

/-- Cutting waiting segments again keeps what they carry. -/
theorem recut_out (s : State) (x : Conn) : (recut s x).out = x.out := by
  unfold recut
  split
  · rfl
  · split
    · rfl
    · rename_i t l hw _
      have h : ∀ gs : List TxSeg, (gs.flatMap (cutSeg (segRoom s x))).flatMap (fun g => g.payload) =
          gs.flatMap (fun g => g.payload) := by
        intro gs
        rw [List.flatMap_assoc]
        congr 1
        funext g
        exact cutSeg_payload _ g (segRoom_pos s x)
      simp only [Conn.out, List.flatMap_append]
      rw [renumber_payload _ (fun i => t.seq + BitVec.ofNat 32 i), h]

theorem stream_pumpResp (n : Nat) (s : State) (c : Nat) : stream (pumpResp n s c) c = stream s c := by
  induction n generalizing s with
  | zero => rfl
  | succ n ih =>
    unfold pumpResp
    split
    · rfl
    · rename_i x hx
      split
      · rfl
      · rename_i bs cls rest hr
        split
        · rw [ih]
          obtain ⟨y, hy, h1, h2⟩ := bufPut_out (setConn s c { x with respWait := rest }) c _ bs cls (connOf_setConn_same ..)
          rw [stream_of hy, stream_of hx]
          simp only [Conn.out, h1, h2, hr, List.flatMap_cons, List.append_assoc]
        · rfl

theorem stream_pump (s : State) (c : Nat) : stream (pump s c) c = stream s c := by
  unfold pump
  split
  · rfl
  · have : ∀ n s, stream (iter (fun _ s => pumpOne s c) n s) c = stream s c := by
      intro n
      induction n with
      | zero => intro s; rfl
      | succ n ih => intro s; simp only [iter]; rw [stream_pumpOne, ih]
    rw [this]
    rename_i x _
    rw [← stream_pumpResp x.respWait.length s c]
    generalize pumpResp x.respWait.length s c = t
    cases h : connOf t c with
    | none => rfl
    | some y => simp only [Option.elim_some]; rw [stream_setConn, recut_out, stream_of h]

/-- A response joins the end of its connection's stream. -/
theorem stream_queueResp (s : State) (c : Nat) (bs : List Byte) (cls : MsgClass) (h : (connOf s c).isSome) :
    stream (queueResp s c bs cls) c = stream s c ++ bs := by
  obtain ⟨x, hx⟩ := Option.isSome_iff_exists.mp h
  unfold queueResp
  rw [hx]
  dsimp only
  rw [stream_pump, stream_setConn, stream_of hx]
  simp [Conn.out]

end Sys2Proof.Machine
end

