-- ==== Sys2Proof/Laws/Answer.lean ====
section
/-!
SUPPORT. Sys2Proof/Laws/Answer.lean: what taking a host message and answering it do, said once for every message.
-/
namespace Sys2Proof.Machine

open Sys2Proof

/-- The message has come to its mailbox, and left it. -/
def outOfBox (s : State) (typ : Nat) (m : HostMsg) : State :=
  { setMailbox (enqueue s typ m) (m.conn % 64) [] with mailLast := m.conn % 64 }

/-- The state in which a message's own checks and effect run: it has left its mailbox and is unanswered. -/
def inHand (s : State) (typ : Nat) (m : HostMsg) : State :=
  { outOfBox s typ m with unanswered := s.unanswered ++ [respTo s typ m] }

@[simp] theorem respTo_typ (s : State) (typ : Nat) (m : HostMsg) : (respTo s typ m).typ = BitVec.ofNat 16 typ := rfl
@[simp] theorem respTo_msgId (s : State) (typ : Nat) (m : HostMsg) : (respTo s typ m).msgId = m.msgId := rfl
@[simp] theorem respTo_conn (s : State) (typ : Nat) (m : HostMsg) : (respTo s typ m).conn = m.conn := rfl

/-- Arrival changes the mailboxes and nothing else. -/
theorem enqueue_eq (s : State) (typ : Nat) (m : HostMsg) : enqueue s typ m = { s with mail := (enqueue s typ m).mail } := by
  unfold enqueue
  dsimp only
  split <;> rfl

theorem outOfBox_eq (s : State) (typ : Nat) (m : HostMsg) :
    outOfBox s typ m = { s with mail := (outOfBox s typ m).mail, mailLast := m.conn % 64 } := by
  unfold outOfBox
  rw [enqueue_eq]
  rfl

/-! ### Messages of undefined types -/

theorem drainAll_none {s : State} (h : unknownCount s = 0) : drainAll s = s := by
  unfold drainAll
  rw [h]
  rfl

theorem unknownCount_zero {s : State} : unknownCount s = 0 ↔ ∀ e ∈ s.mail, e.2.filter unknownMsg = [] := by
  unfold unknownCount
  rw [List.sum_eq_zero_iff]
  simp only [List.mem_map, forall_exists_index, and_imp, forall_apply_eq_imp_iff₂, List.length_eq_zero_iff]

/-- Emptying a mailbox brings in no message. -/
theorem unknownCount_emptied {s t : State} {b : Nat} (h : unknownCount s = 0) (ht : t.mail = (setMailbox s b []).mail) :
    unknownCount t = 0 := by
  rw [unknownCount_zero] at h ⊢
  rw [ht]
  intro e he
  exact h e (mem_tdel _ _ _ he)

/-! ### Taking a message -/

theorem servable_free {s : State} {b : Nat} (h : nextServed s = some b) : servable s b = true := List.find?_some h

/-- The mailbox of a message that firmware takes holds it alone once it has come. -/
theorem enqueue_box {s : State} {typ : Nat} {m : HostMsg} (hx : (connOf s m.conn).isSome = true)
    (h : aloneIn s typ m (mailbox s (m.conn % 64)) = true) :
    ∃ x, mailbox (enqueue s typ m) (m.conn % 64) = [x] ∧ isMsg typ m x = true ∧ respOf x = respTo s typ m := by
  obtain ⟨y, hy⟩ := Option.isSome_iff_exists.mp hx
  unfold enqueue
  dsimp only
  cases hm : mailbox s (m.conn % 64) with
  | nil =>
    refine ⟨mailOf s typ m, ?_, by simp [isMsg, mailOf], rfl⟩
    simp only [hy, List.any_nil, Bool.false_eq_true, Option.isNone_some, or_self, if_false, List.nil_append]
    exact tget_tput_ne [] s.mail (m.conn % 64) [mailOf s typ m] (by simp)
  | cons x rest =>
    simp only [hm, aloneIn, Bool.and_eq_true, decide_eq_true_eq] at h
    obtain ⟨⟨h1, h2⟩, rfl⟩ := h
    refine ⟨x, ?_, h1, h2⟩
    simp [h1, hm]

/-- Taking a message is processing it, and then answering what else waits of undefined types. -/
theorem accept_process {s : State} {typ : Nat} {m : HostMsg} (fields : List Byte → Bool) (run : RespTo → State → State)
    (h : taken s typ m = true) :
    accept typ fields m run s = drainAll (process (respTo s typ m) fields m run (outOfBox s typ m)) := by
  simp only [taken, Bool.and_eq_true, decide_eq_true_eq] at h
  obtain ⟨⟨⟨⟨⟨hc, ha⟩, hx⟩, hm⟩, hn⟩, hu⟩ := h
  obtain ⟨x, hb, h1, h2⟩ := enqueue_box hx hm
  have hw := servable_free hn
  simp only [servable, hb, Bool.and_eq_true, Bool.not_eq_true'] at hw
  have ha' : accepting (enqueue s typ m) = true := by rw [enqueue_eq]; exact ha
  unfold accept
  dsimp only
  rw [drainAll_none hu, if_neg (by simp [hc]), hb]
  simp only [h1, ha', hw.1, hn, not_true_eq_false, or_self, if_false, Bool.false_eq_true, if_true, h2]
  rfl

theorem keyNew_parts {s : State} {typ : Nat} {m : HostMsg} (h : keyNew s typ m = true) :
    keptOf s (respTo s typ m) = none ∧
      (∀ r ∈ s.unanswered, ¬ (r.tag = (respTo s typ m).tag ∧ r.msgId = (respTo s typ m).msgId)) := by
  simp only [keyNew, Bool.and_eq_true, Option.isNone_iff_eq_none, List.all_eq_true, Bool.not_eq_true', decide_eq_false_iff_not] at h
  refine ⟨h.1, fun r hr => ?_⟩
  rw [respTo_msgId]
  exact h.2 r hr

/-- A message that passes steps 1 to 4 of R332 runs its own checks and effect. -/
theorem process_run {s : State} {typ : Nat} {m : HostMsg} (fields : List Byte → Bool) (run : RespTo → State → State)
    (ht : typ < 32768) (k : clears s typ m = true) (f : fields m.body = true) :
    process (respTo s typ m) fields m run (outOfBox s typ m) = run (respTo s typ m) (inHand s typ m) := by
  simp only [clears, formOk, Bool.and_eq_true] at k
  obtain ⟨⟨⟨kh, ks⟩, kn⟩, kf⟩ := k
  obtain ⟨k1, k2⟩ := keyNew_parts kn
  have hty : (respTo s typ m).typ.toNat = typ := by simp; omega
  unfold process
  rw [hty]
  have hk : keptOf (outOfBox s typ m) (respTo s typ m) = none := by rw [outOfBox_eq]; exact k1
  have hun : (outOfBox s typ m).unanswered = s.unanswered := by rw [outOfBox_eq]
  have hfa : (outOfBox s typ m).fault = s.fault := by rw [outOfBox_eq]
  have hd : (s.unanswered.find? (fun r => decide (r.tag = (respTo s typ m).tag ∧ r.msgId = (respTo s typ m).msgId))) = none := by
    rw [List.find?_eq_none]; intro r hr; exact fun hh => k2 r hr (of_decide_eq_true hh)
  have hf : ¬ (s.fault.isSome = true ∧ ¬ faultStateType typ = true) := by
    intro hh
    cases hq : s.fault <;> simp_all
  cases hs : msgShape typ with
  | none => simp [hs] at ks
  | some sh =>
    rw [hs] at ks
    simp only [kh, not_true_eq_false, if_false, hk, hun, hfa]
    rw [hd]
    simp only [hs, ks, hf, f, not_true_eq_false, if_false]
    unfold inHand
    rw [outOfBox_eq]

/-- A message that firmware takes and that passes steps 1 to 4 of R332 runs its own checks and effect. -/
theorem accept_run {s : State} {typ : Nat} {m : HostMsg} (fields : List Byte → Bool) (run : RespTo → State → State)
    (ht : typ < 32768) (h : taken s typ m = true) (k : clears s typ m = true) (f : fields m.body = true) :
    accept typ fields m run s = drainAll (run (respTo s typ m) (inHand s typ m)) := by
  rw [accept_process fields run h, process_run fields run ht k f]

theorem inHand_mail (s : State) (typ : Nat) (m : HostMsg) : Served typ m s (inHand s typ m) := ⟨rfl, rfl⟩
@[simp] theorem inHand_bare (s : State) (typ : Nat) (m : HostMsg) : (inHand s typ m).bare = s.bare := by
  unfold inHand
  rw [outOfBox_eq]
  rfl

/-- Where firmware has taken a message, none of an undefined type waits. -/
theorem drainAll_served {s t : State} {typ : Nat} {m : HostMsg} (h : taken s typ m = true) (k : Served typ m s t) :
    drainAll t = t := by
  simp only [taken, Bool.and_eq_true, decide_eq_true_eq] at h
  exact drainAll_none (unknownCount_emptied h.2 k.1)

theorem sameMsg_self (a : RespTo) : sameMsg a a = true := by simp [sameMsg]

/-- What one response does. `s1` is the state before it, in which the message in hand is the newest of the unanswered. -/
theorem respond_answered {s s1 : State} {typ : Nat} {m : HostMsg} (status : Nat) (body : List Byte)
    (hx : (connOf s m.conn).isSome) (hk : keyNew s typ m = true) (ht : typ < 32768)
    (hmail : Served typ m s s1) (hconns : s1.conns = s.conns) (hun : s1.unanswered = s.unanswered ++ [respTo s typ m])
    (hkeeps : s1.keeps = s.keeps) (hwire : s1.wire = s.wire) :
    Answered typ m status body s (respond s1 (respTo s typ m) status body) ∧
      (respond s1 (respTo s typ m) status body).bare = s1.bare ∧
      (respond s1 (respTo s typ m) status body).fresh = s1.fresh := by
  obtain ⟨x, hx⟩ := Option.isSome_iff_exists.mp hx
  obtain ⟨-, k2⟩ := keyNew_parts hk
  have hty : (respTo s typ m).typ.toNat = typ := by simp; omega
  have hep : (respTo s typ m).epoch = x.epoch := by simp [respTo, respOf, mailOf, hx]
  have hno : s.unanswered.filter (sameMsg (respTo s typ m)) = [] := by
    rw [List.filter_eq_nil_iff]
    intro r hr
    have := k2 r hr
    simp only [sameMsg, decide_eq_true_eq]
    rintro ⟨a, b, -, -⟩
    exact this ⟨a.symm, b.symm⟩
  have hkeep : s.unanswered.filter (fun r => !sameMsg (respTo s typ m) r) = s.unanswered := by
    rw [List.filter_eq_self]
    intro r hr
    have := List.filter_eq_nil_iff.mp hno r hr
    simpa using this
  have hc : s1.unanswered.filter (sameMsg (respTo s typ m)) = [respTo s typ m] := by
    rw [hun, List.filter_append, hno]; simp [sameMsg_self]
  have hu : s1.unanswered.filter (fun r => !sameMsg (respTo s typ m) r) = s.unanswered := by
    rw [hun, List.filter_append, hkeep]; simp [sameMsg_self]
  unfold respond
  dsimp only
  rw [hc, hu, hty]
  simp only [List.foldl_cons, List.foldl_nil]
  generalize hq : (if tookEffect status = true ∧ ¬ readOnlyType typ = true then _ else _ : State) = q
  have q1 : q.conns = s.conns := by rw [← hq]; split <;> exact hconns
  have q2 : q.wire = s.wire := by rw [← hq]; split <;> exact hwire
  have q3 : q.mail = s1.mail ∧ q.mailLast = s1.mailLast := by rw [← hq]; split <;> exact ⟨rfl, rfl⟩
  have q4 : q.unanswered = s.unanswered := by rw [← hq]; split <;> rfl
  have q5 : q.bare = s1.bare := by rw [← hq]; split <;> rfl
  have q5' : q.fresh = s1.fresh := by rw [← hq]; split <;> rfl
  have q6 : q.keeps = if tookEffect status ∧ ¬ readOnlyType typ then s.keeps ++ [keepOf s typ m status body] else s.keeps := by
    rw [← hq]
    split <;> simp_all [keepOf]
  clear hq
  have hmv := sendResp_moves q (respTo s typ m) (msgBytes (typ + 32768) status (respTo s typ m).msgId.toNat body)
  rw [respTo_conn] at hmv
  have hqx : connOf q m.conn = some x := by rw [← hx]; simp [connOf, q1]
  have hst : stream (sendResp q (respTo s typ m) (msgBytes (typ + 32768) status m.msgId.toNat body)) m.conn =
      stream s m.conn ++ msgBytes (typ + 32768) status m.msgId.toNat body := by
    unfold sendResp
    rw [respTo_conn, hqx]
    dsimp only
    rw [if_pos hep.symm, stream_queueResp _ _ _ _ (by rw [hqx]; rfl)]
    congr 1
    exact stream_congr (by simp [connOf, q1])
  rw [respTo_msgId] at hmv ⊢
  refine ⟨⟨⟨hmv.mail.trans (q3.1.trans hmail.1), hmv.mailLast.trans (q3.2.trans hmail.2)⟩, hmv.unanswered.trans q4, hst,
    fun c hc => (hmv.other c hc).trans (by simp [connOf, q1]), q2 ▸ hmv.wire, hmv.keeps.trans q6⟩, hmv.bare.trans q5,
    hmv.fresh.trans q5'⟩

theorem failBody_congr {s t : State} {typ : Nat} (h : t.fresh = s.fresh) : failBody t typ = failBody s typ := by
  simp only [failBody, h]

theorem answer_fail {s : State} {rt : RespTo} {st : Nat} (h : tookEffect st = false) :
    answer s rt st = respond { s with fresh := s.fresh + 1 } rt st (failBody s rt.typ.toNat) := by
  simp [answer, h]

theorem answer_ok {s : State} {rt : RespTo} {st : Nat} (h : tookEffect st = true) : answer s rt st = respond s rt st [] := by
  simp [answer, h]

theorem passes_parts {s : State} {typ : Nat} {m : HostMsg} (h : passes s typ m = true) :
    taken s typ m = true ∧ clears s typ m = true ∧ keyNew s typ m = true ∧ (connOf s m.conn).isSome := by
  simp only [passes, Bool.and_eq_true] at h
  have hk := h.2
  have ht := h.1
  simp only [clears, Bool.and_eq_true] at hk
  simp only [taken, Bool.and_eq_true] at ht
  exact ⟨h.1, h.2, hk.1.2, ht.1.1.1.2⟩

/-- What a message's run leaves alone until it answers. -/
def StillHeld (typ : Nat) (m : HostMsg) (s s1 : State) : Prop :=
  Served typ m s s1 ∧ s1.conns = s.conns ∧ s1.unanswered = s.unanswered ++ [respTo s typ m] ∧ s1.keeps = s.keeps ∧ s1.wire = s.wire

/-- A message whose run ends in one response. -/
theorem answers_of {i : Instr} {typ : Nat} {m : HostMsg} {status : Nat} {body : List Byte} {s s1 u : State}
    {fields : List Byte → Bool} {run : RespTo → State → State} (he : exec i s = .next (accept typ fields m run s))
    (h : passes s typ m = true) (f : fields m.body = true) (ht : typ < 32768)
    (hr : run (respTo s typ m) (inHand s typ m) = respond s1 (respTo s typ m) status body)
    (hb : s1.bare = u.bare) (hs : StillHeld typ m s s1) :
    Answers i typ m status body s u := by
  obtain ⟨h1, h2, hk, hx⟩ := passes_parts h
  have := respond_answered (s := s) (s1 := s1) status body hx hk ht hs.1 hs.2.1 hs.2.2.1 hs.2.2.2.1 hs.2.2.2.2
  refine ⟨_, he.trans ?_, this.1, this.2.1.trans hb⟩
  rw [accept_run fields run ht h1 h2 f, hr, drainAll_served h1 this.1.1]

/-- A message whose run ends in a failure. -/
theorem declines_of {i : Instr} {typ : Nat} {m : HostMsg} {status : Nat} {s : State}
    {fields : List Byte → Bool} {run : RespTo → State → State} (he : exec i s = .next (accept typ fields m run s))
    (h : passes s typ m = true) (f : fields m.body = true) (ht : typ < 32768) (hst : tookEffect status = false)
    (hr : run (respTo s typ m) (inHand s typ m) = answer (inHand s typ m) (respTo s typ m) status) :
    Declines i typ m status s := by
  have hty : (respTo s typ m).typ.toNat = typ := by simp; omega
  have rfr : (inHand s typ m).fresh = s.fresh := by unfold inHand; rw [outOfBox_eq]
  refine answers_of he h f ht (s1 := { inHand s typ m with fresh := s.fresh + 1 }) ?_ ?_ ?_
  · rw [hr, answer_fail hst, hty, failBody_congr (s := s) rfr, rfr]
  · exact inHand_bare s typ m
  · refine ⟨⟨rfl, rfl⟩, ?_, rfl, ?_, ?_⟩ <;> · dsimp only [inHand]; rw [outOfBox_eq]

/-- A message whose run answers later. -/
theorem owes_of {i : Instr} {typ : Nat} {m : HostMsg} {s u : State}
    {fields : List Byte → Bool} {run : RespTo → State → State} (he : exec i s = .next (accept typ fields m run s))
    (h : passes s typ m = true) (f : fields m.body = true) (ht : typ < 32768)
    (hb : (run (respTo s typ m) (inHand s typ m)).bare = u.bare)
    (hs : StillHeld typ m s (run (respTo s typ m) (inHand s typ m))) :
    Owes i typ m s u := by
  obtain ⟨h1, h2, -, -⟩ := passes_parts h
  exact ⟨_, he.trans (by rw [accept_run fields run ht h1 h2 f, drainAll_served h1 hs.1]), ⟨hs.1, hs.2.2.1, hs.2.1, hs.2.2.2.2, hs.2.2.2.1⟩, hb⟩

/-- What one response to a message accepted earlier does. -/
theorem respond_one {s : State} {rt : RespTo} (status : Nat) (body : List Byte) (h : awaits s rt = true) :
    Responded rt status body s (respond s rt status body) ∧ (respond s rt status body).bare = s.bare ∧
      (respond s rt status body).fresh = s.fresh := by
  simp only [awaits, Bool.and_eq_true, decide_eq_true_eq] at h
  obtain ⟨hc, hx⟩ := h
  cases hq : connOf s rt.conn with
  | none => simp [hq] at hx
  | some x =>
    simp only [hq, Option.map_some, Option.getD_some, decide_eq_true_eq] at hx
    unfold respond
    dsimp only
    rw [hc]
    simp only [List.foldl_cons, List.foldl_nil]
    generalize hq' : (if tookEffect status = true ∧ ¬ readOnlyType rt.typ.toNat = true then _ else _ : State) = q
    have q1 : q.conns = s.conns := by rw [← hq']; split <;> rfl
    have q2 : q.wire = s.wire := by rw [← hq']; split <;> rfl
    have q3 : q.mail = s.mail ∧ q.mailLast = s.mailLast := by rw [← hq']; split <;> exact ⟨rfl, rfl⟩
    have q4 : q.unanswered = s.unanswered.filter (fun r => !sameMsg rt r) := by rw [← hq']; split <;> rfl
    have q5 : q.bare = s.bare := by rw [← hq']; split <;> rfl
    have q5' : q.fresh = s.fresh := by rw [← hq']; split <;> rfl
    have q6 : q.keeps = if tookEffect status ∧ ¬ readOnlyType rt.typ.toNat then s.keeps ++ [({ tag := rt.tag, msgId := rt.msgId, typ := rt.typ, bodyCrc := rt.bodyCrc, resp := msgBytes (rt.typ.toNat + 32768) status rt.msgId.toNat body } : Keep)] else s.keeps := by
      rw [← hq']
      split <;> simp_all
    clear hq'
    have hmv := sendResp_moves q rt (msgBytes (rt.typ.toNat + 32768) status rt.msgId.toNat body)
    have hqx : connOf q rt.conn = some x := by rw [← hq]; simp [connOf, q1]
    refine ⟨⟨hmv.unanswered.trans q4, ?_, fun c hc => (hmv.other c hc).trans (by simp [connOf, q1]), q2 ▸ hmv.wire,
      hmv.mail.trans q3.1, hmv.mailLast.trans q3.2, hmv.keeps.trans q6⟩, hmv.bare.trans q5, hmv.fresh.trans q5'⟩
    unfold sendResp
    rw [hqx]
    dsimp only
    rw [if_pos hx, stream_queueResp _ _ _ _ (by rw [hqx]; rfl)]
    congr 1
    exact stream_congr (by simp [connOf, q1])

end Sys2Proof.Machine
end

