-- ==== Sys2Proof/Laws/Issue.lean ====
section
/-!
SUPPORT. Sys2Proof/Laws/Issue.lean: a command of a core's stream that meets nothing before it issues at once: what the core's
sequencer does with it, in terms of what its unit does.
-/
namespace Sys2Proof.Machine

open Sys2Proof

/-! ### Cores and units -/

theorem coreOf_setCore (s : State) (c : Nat) (x : Core) (h : x ≠ coreD) : coreOf (setCore s c x) c = x :=
  tget_tput_ne _ _ _ _ h

theorem coreOf_setCore_other (s : State) {c e : Nat} (x : Core) (h : c ≠ e) : coreOf (setCore s c x) e = coreOf s e :=
  tget_tput_other _ _ _ h

theorem core_ne {x : Core} (h : x.ctx.isSome = true) : x ≠ coreD := by
  intro e; rw [e] at h; exact absurd h (by decide)

theorem unitQ_setUnitQ_other (x : Core) {u k : Nat} (q : UnitQ) (h : u ≠ k) : unitQ (setUnitQ x u q) k = unitQ x k :=
  tget_tput_other _ _ _ h

theorem unitQ_setUnitQ_ne (x : Core) (u : Nat) (q : UnitQ) (h : q ≠ unitQD) : unitQ (setUnitQ x u q) u = q :=
  tget_tput_ne _ _ _ _ h

/-- A unit of a core whose listed queues are empty has an empty queue. -/
theorem unitQ_queue {t : Tab UnitQ} (h : t.all (fun e => decide (e.2.queue = [])) = true) (u : Nat) :
    (tget unitQD t u).queue = [] := by
  induction t with
  | nil => rfl
  | cons e rest ih =>
    obtain ⟨j, v⟩ := e
    simp only [List.all_cons, Bool.and_eq_true, decide_eq_true_eq] at h
    unfold tget; rw [tfind_cons]
    by_cases hj : j = u
    · rw [if_pos hj]; exact h.1
    · rw [if_neg hj]; exact ih h.2

theorem queues_nil {t : Tab UnitQ} (h : t.all (fun e => decide (e.2.queue = [])) = true) :
    (t.map (fun e => e.2.queue.length)).sum = 0 := by
  induction t with
  | nil => rfl
  | cons e rest ih =>
    simp only [List.all_cons, Bool.and_eq_true, decide_eq_true_eq] at h
    simp [h.1, ih h.2]

theorem mem_tput [DecidableEq α] (d : α) (t : Tab α) (k : Nat) (v : α) (e : Nat × α) (h : e ∈ tput d t k v) :
    e = (k, v) ∨ e ∈ t := by
  unfold tput at h
  split at h
  · exact .inr (mem_tdel t k e h)
  · exact mem_tins t k v e h

/-- A unit with an empty queue starts nothing. -/
theorem issueOne_empty {s : State} {c u : Nat} (h : (unitQ (coreOf s c) u).queue = []) : issueOne s c u = none := by
  unfold issueOne
  dsimp only
  rw [h]

/-- Where every unit's queue is empty, nothing issues. -/
theorem issueFrom_none (s : State) (c : Nat) (h : ∀ k, (unitQ (coreOf s c) k).queue = []) (n u : Nat) :
    issueFrom c n u s = (s, false) := by
  induction n generalizing u with
  | zero => rfl
  | succ n ih =>
    unfold issueFrom
    rw [issueOne_empty (h u)]
    exact ih (u + 1)

/-- A core with an empty window and empty queues goes no further. -/
theorem advance_stop (s : State) (c n : Nat) (hw : (coreOf s c).window = []) (h : ∀ k, (unitQ (coreOf s c) k).queue = []) :
    advance c n s = s := by
  cases n with
  | zero => rfl
  | succ n =>
    have hd : dispatchOne s c = none := by unfold dispatchOne; dsimp only; rw [hw]
    unfold advance cycle
    rw [hd, issueFrom_none s c h]
    rfl

/-- Only unit `u` has a command, and it leaves none behind, so a cycle issues it alone. -/
theorem issueFrom_at (s t : State) (c u : Nat) (h : ∀ k, k ≠ u → (unitQ (coreOf s c) k).queue = []) (hi : issueOne s c u = some t)
    (ht : ∀ k, (unitQ (coreOf t c) k).queue = []) (n k : Nat) (hk : k ≤ u) (hn : u < k + n) : issueFrom c n k s = (t, true) := by
  induction n generalizing k with
  | zero => omega
  | succ n ih =>
    unfold issueFrom
    by_cases e : k = u
    · rw [e, hi]
      dsimp only
      rw [issueFrom_none t c ht]
    · rw [issueOne_empty (h k e)]
      exact ih (k + 1) (by omega) (by omega)

theorem opUnit_lt (op : CoreOp) : opUnit op < 9 := by
  cases op <;> simp [opUnit, opKey] <;> omega

/-! ### A command that meets nothing -/

/-- The units' table while the command leaves its unit's queue. -/
def unitsAt (x : Core) (u : Nat) (q : QCmd) : Tab UnitQ :=
  let t := tput unitQD x.units u { unitQ x u with queue := (unitQ x u).queue ++ [q] }
  tput unitQD t u { tget unitQD t u with queue := [] }

/-- The state in which the command's unit starts it. -/
def atUnit (s : State) (c : Nat) (h : CmdHdr) (op : CoreOp) : State :=
  setCore s c { atIssue s c h op with units := unitsAt (coreOf s c) (opUnit op) (inUnit s c h op) }

theorem tins_cons (j k : Nat) (w v : α) (rest : Tab α) : tins ((j, w) :: rest) k v =
    if j < k then (j, w) :: tins rest k v else if j = k then (k, v) :: rest else (k, v) :: (j, w) :: rest := rfl

theorem tins_tins (t : Tab α) (k : Nat) (a b : α) : tins (tins t k a) k b = tins t k b := by
  induction t with
  | nil => simp [tins]
  | cons e rest ih =>
    obtain ⟨j, w⟩ := e
    rw [tins_cons, tins_cons]
    by_cases h1 : j < k
    · rw [if_pos h1, if_pos h1, tins_cons, if_pos h1, ih]
    · rw [if_neg h1, if_neg h1]
      by_cases h2 : j = k
      · rw [if_pos h2, if_pos h2, tins_cons]; simp
      · rw [if_neg h2, if_neg h2, tins_cons]; simp

theorem setCore_setCore (s : State) (c : Nat) {x y : Core} (hx : x ≠ coreD) (hy : y ≠ coreD) :
    setCore (setCore s c x) c y = setCore s c y := by
  unfold setCore tput; simp [hx, hy, tins_tins]

theorem unitQD_queue {q : UnitQ} (h : q.queue ≠ []) : q ≠ unitQD := by
  intro e; exact h (by rw [e]; rfl)

/-- The core once the command is in its unit's queue. -/
def queued (s : State) (c : Nat) (h : CmdHdr) (op : CoreOp) : Core :=
  let x := coreOf s c
  { atIssue s c h op with
    units := tput unitQD x.units (opUnit op) { unitQ x (opUnit op) with queue := [inUnit s c h op] }
    sems := if isBatten x h = true ∧ h.waitCount ≠ 0 then tput 0 x.sems h.waitSem.toNat (semOf x h.waitSem - h.waitCount) else x.sems }

theorem goes_parts {s c h op} (hg : goes s c h op = true) :
    coreRuns s c = true ∧ (coreOf s c).window = [] ∧ (coreOf s c).loop = none ∧ (coreOf s c).stepEnded = false ∧
    (coreOf s c).units.all (fun e => decide (e.2.queue = [])) = true ∧ (unitQ (coreOf s c) (busyKey op)).busy = none ∧
    hdrOk s (coreOf s c) h = true ∧ (h.waitCount = 0 ∨ waitMet (coreOf s c) h = true) ∧ opReady (coreOf s c) op = true ∧
    nextCmd (coreOf s c) h op = .given := by
  unfold goes at hg
  simp only [Bool.and_eq_true, decide_eq_true_eq, Bool.or_eq_true, Option.isNone_iff_eq_none, Bool.not_eq_true'] at hg
  obtain ⟨⟨⟨⟨⟨⟨⟨⟨⟨a, b⟩, c⟩, d⟩, e⟩, f⟩, g⟩, i⟩, j⟩, k⟩ := hg
  exact ⟨a, b, c, d, e, f, g, i, j, k⟩

/-- The core with the command in its window. -/
def arrived (s : State) (c : Nat) (h : CmdHdr) (op : CoreOp) : Core :=
  let x := coreOf s c
  { x with
    window := [{ hdr := h, op := op, slot := 0, taken := false, index := x.fetchIndex }], fetchIndex := x.fetchIndex + 1
    loop := (atIssue s c h op).loop }

theorem submit_arrived {s c h op} (hg : goes s c h op = true) :
    submit s c h op = advanceCore (setCore s c (arrived s c h op)) c := by
  obtain ⟨hr, hw, hl, -, -, -, -, -, -, hn⟩ := goes_parts hg
  unfold submit
  rw [if_neg (by rw [hr, hw, hn]; simp)]
  dsimp only
  rw [hn, hl]
  cases op <;> simp only [arrived, hw, List.nil_append, atIssue, coreAdd]

theorem coreRuns_ctx {s c} (h : coreRuns s c = true) : (coreOf s c).ctx.isSome = true := by
  unfold coreRuns at h; simp only [Bool.and_eq_true] at h; exact h.1.1.1

theorem dispatchOne_eq {s : State} {c : Nat} {x : Core} {q : QCmd} {rest : List QCmd} (hx : coreOf s c = x)
    (hw : x.window = q :: rest) (he : x.stepEnded = false) (hh : hdrOk s x q.hdr = true)
    (hq : (unitQ x (opUnit q.op)).queue.length < 16) (hb : isBatten x q.hdr = true → waitMet x q.hdr = true) :
    dispatchOne s c = some (setCore s c (coreAdd .cmdsDispatched 1
      (let u := opUnit q.op
       let bat := isBatten x q.hdr
       let y := if bat then takeWait x q.hdr else x
       let uq := unitQ y u
       let y := setUnitQ y u { uq with queue := uq.queue ++ [{ q with taken := bat }] }
       { y with window := rest, stepEnded := q.hdr.flags.getLsbD 2
                rng := { y.rng with fills := y.rng.fills ++ opTables s x q.index q.slot q.op } }))) := by
  unfold dispatchOne
  rw [hx]
  simp only [hw, he, hh]
  rw [if_neg (by simp), if_neg (by simp)]
  have h1 : ¬ 16 ≤ (unitQ x (opUnit q.op)).queue.length := by omega
  rw [if_neg h1]
  have h2 : ¬ (isBatten x q.hdr = true ∧ ¬ waitMet x q.hdr = true) := by
    rintro ⟨a, b⟩; exact b (hb a)
  rw [if_neg h2]

/-- Writing an entry that a filter keeps leaves it no fewer. -/
theorem filter_tins_le (t : Tab α) (k : Nat) (v : α) (p : Nat × α → Bool) (hv : p (k, v) = true) :
    (t.filter p).length ≤ ((tins t k v).filter p).length := by
  induction t with
  | nil => simp
  | cons e rest ih =>
    obtain ⟨j, w⟩ := e
    rw [tins_cons]
    by_cases h1 : j < k
    · rw [if_pos h1, List.filter_cons, List.filter_cons]; split
      · simpa using ih
      · exact ih
    · rw [if_neg h1]
      by_cases h2 : j = k
      · rw [if_pos h2, List.filter_cons, List.filter_cons (x := (k, v)), if_pos hv]; split <;> simp
      · rw [if_neg h2, List.filter_cons (x := (k, v)), if_pos hv]; simp

/-- A header that is legal stays so once its command is in the core's window. -/
theorem hdrOk_arrived {s c h op} (hc : (coreOf s c).ctx.isSome = true) (hh : hdrOk s (coreOf s c) h = true) :
    hdrOk (setCore s c (arrived s c h op)) (arrived s c h op) h = true := by
  obtain ⟨k, hk⟩ := Option.isSome_iff_exists.mp hc
  have ha : (arrived s c h op).ctx = some k := hk
  have hle : (workCores s k.bay k.group).length ≤ (workCores (setCore s c (arrived s c h op)) k.bay k.group).length := by
    unfold workCores setCore tput
    rw [if_neg (core_ne (by rw [ha]; rfl))]
    rw [List.length_map, List.length_map]
    exact filter_tins_le _ _ _ _ (by simp [ha])
  have hp : (arrived s c h op).prog = (coreOf s c).prog := rfl
  unfold hdrOk at hh ⊢
  rw [ha, hp]
  rw [hk] at hh
  simp only [Option.map_some, Option.getD_some, Bool.and_eq_true, Bool.or_eq_true, decide_eq_true_eq] at hh ⊢
  refine ⟨hh.1, ?_⟩
  rcases hh.2 with h1 | h1
  · exact .inl h1
  · exact .inr (by omega)

/-- The block tables of a command are those of the core before the command came. -/
theorem opTables_arrived (s : State) (c : Nat) (h : CmdHdr) (op : CoreOp) (i slot : Nat) :
    opTables (setCore s c (arrived s c h op)) (arrived s c h op) i slot op = opTables s (coreOf s c) i slot op := by
  have hn : ∀ p t f n, needTables (setCore s c (arrived s c h op)) (arrived s c h op) slot p t f n = needTables s (coreOf s c) slot p t f n :=
    fun _ _ _ _ => rfl
  have hr : opReads (setCore s c (arrived s c h op)) (arrived s c h op) slot op = opReads s (coreOf s c) slot op := by
    cases op <;> rfl
  have hm : ∀ held bs, missing (arrived s c h op) held bs = missing (coreOf s c) held bs := by
    have hs : ∀ got, storeAfter (arrived s c h op) got = storeAfter (coreOf s c) got := by intro got; unfold storeAfter; rfl
    intro held bs
    unfold missing
    simp only [hs]
  unfold opTables
  rw [hr, hm]

theorem dispatch_arrived {s c h op} (hg : goes s c h op = true) :
    dispatchOne (setCore s c (arrived s c h op)) c = some (setCore s c (queued s c h op)) := by
  obtain ⟨hr, hw, hl, he, hu, hb, hh, hwt, ho, -⟩ := goes_parts hg
  have hctx : (arrived s c h op).ctx.isSome = true := coreRuns_ctx hr
  have hq : (unitQ (coreOf s c) (opUnit op)).queue = [] := unitQ_queue hu _
  rw [dispatchOne_eq (coreOf_setCore _ _ _ (core_ne hctx)) rfl he (hdrOk_arrived (coreRuns_ctx hr) hh)
    (by show (unitQ (coreOf s c) (opUnit op)).queue.length < 16; rw [hq]; simp)
    (by
      intro hbt
      rcases hwt with h3 | h3
      · exact absurd hbt (by simp [isBatten, h3])
      · exact h3)]
  rw [setCore_setCore _ _ (core_ne hctx) (core_ne (by
    dsimp only; split <;> exact hctx))]
  refine congrArg (fun x => some (setCore s c x)) ?_
  dsimp only
  rw [opTables_arrived]
  have hbt : isBatten (arrived s c h op) h = isBatten (coreOf s c) h := rfl
  rw [hbt]
  have hq' : (tget unitQD (coreOf s c).units (opUnit op)).queue = [] := hq
  by_cases hbb : isBatten (coreOf s c) h = true
  · have hwc : h.waitCount ≠ 0 := by intro e; simp [isBatten, e] at hbb
    simp only [queued, atIssue, hbb, hwc, arrived, coreAdd, takeWait, setUnitQ, unitQ, inUnit, hq', hw, if_true, true_and, ne_eq, not_false_iff]
    rfl
  · simp only [queued, atIssue, hbb, arrived, coreAdd, takeWait, setUnitQ, unitQ, inUnit, hq', hw, if_false, false_and, Bool.false_eq_true]
    rfl

/-- A command that runs when it issues needs no repair of its operands. -/
theorem runFixed_ok {s : State} {c : Nat} {q : QCmd} {r : State × Option Completion} (h : runOp s c q = .ok r) :
    runFixed s c q = (s, .ok r) := by
  unfold runFixed
  rw [h]

/-- The core's unit once it executes a command: where a CARRY goes on beside the array (R77). -/
def executing (op : CoreOp) (e : QCmd × Completion) (x : Core) : Core :=
  carryStart op (setUnitQ x (busyKey op) { unitQ x (busyKey op) with busy := some e })

/-- A unit that holds one command starts it. -/
theorem issueOne_eq {s t : State} {c u : Nat} {x : Core} {q : QCmd} {d : Completion} (hx : coreOf s c = x)
    (hb : (unitQ x (busyKey q.op)).busy = none) (hq : (unitQ x u).queue = [q])
    (hw : q.hdr.waitCount ≠ 0 → q.taken = false → waitMet x q.hdr = true) (ho : opReady x q.op = true)
    (hr : runOp (setCore s c (setUnitQ (if decide (q.hdr.waitCount ≠ 0) && !q.taken then takeWait x q.hdr else x) u
      { unitQ x u with queue := [] })) c q = .ok (t, some d)) (harm : ∀ o, q.op ≠ .arm o) :
    ∃ n, issueOne s c u = some (modCore { t with fresh := n } c (executing q.op (q, d))) := by
  unfold issueOne
  rw [hx]
  dsimp only
  rw [hq]
  dsimp only
  rw [hb]
  have h1 : ¬ ((decide (q.hdr.waitCount ≠ 0) && !q.taken) = true ∧ ¬ waitMet x q.hdr = true) := by
    rintro ⟨a, b⟩
    simp only [Bool.and_eq_true, decide_eq_true_eq, Bool.not_eq_true'] at a
    exact b (hw a.1 a.2)
  rw [if_neg h1, if_neg (by rw [ho]; simp)]
  rw [runFixed_ok hr]
  dsimp only
  cases hop : q.op <;> first | exact ⟨_, rfl⟩ | exact absurd hop (harm _)

theorem queued_ctx {s c h op} (hg : goes s c h op = true) : (queued s c h op).ctx.isSome = true :=
  coreRuns_ctx (goes_parts hg).1

/-- What the sequencer does with a command that meets nothing, once its unit's work is known. -/
theorem submit_run {s t : State} {c : Nat} {h : CmdHdr} {op : CoreOp} {d : Completion} (hg : goes s c h op = true)
    (harm : ∀ o, op ≠ .arm o) (hr : runOp (atUnit s c h op) c (inUnit s c h op) = .ok (t, some d))
    (hw : (executing op (inUnit s c h op, d) (coreOf t c)).window = [])
    (hc : (executing op (inUnit s c h op, d) (coreOf t c)).ctx.isSome = true)
    (hq : ∀ k, (unitQ (executing op (inUnit s c h op, d) (coreOf t c)) k).queue = []) :
    ∃ n, submit s c h op = modCore { t with fresh := n } c (executing op (inUnit s c h op, d)) := by
  obtain ⟨hrun, hwin, hl, he, hu, hb, hh, hwt, ho, -⟩ := goes_parts hg
  have hctx : (arrived s c h op).ctx.isSome = true := coreRuns_ctx hrun
  rw [submit_arrived hg]
  unfold advanceCore
  have hn : waitingCmds (coreOf (setCore s c (arrived s c h op)) c) + 1 = 3 := by
    rw [coreOf_setCore _ _ _ (core_ne hctx)]
    unfold waitingCmds
    rw [show (arrived s c h op).units = (coreOf s c).units from rfl, queues_nil hu]
    rfl
  rw [hn]
  have hqd := queued_ctx hg
  have hx : coreOf (setCore s c (queued s c h op)) c = queued s c h op := coreOf_setCore _ _ _ (core_ne hqd)
  unfold advance cycle
  rw [dispatch_arrived hg]
  dsimp only
  have hne : ({ unitQ (coreOf s c) (opUnit op) with queue := [inUnit s c h op] } : UnitQ) ≠ unitQD := unitQD_queue (by simp)
  have hun : unitQ (queued s c h op) (opUnit op) = { unitQ (coreOf s c) (opUnit op) with queue := [inUnit s c h op] } :=
    tget_tput_ne _ _ _ _ hne
  have hoth : ∀ k, k ≠ opUnit op → (unitQ (queued s c h op) k).queue = [] := by
    intro k hk
    have : unitQ (queued s c h op) k = unitQ (coreOf s c) k := by
      exact tget_tput_other unitQD (coreOf s c).units { unitQ (coreOf s c) (opUnit op) with queue := [inUnit s c h op] } (Ne.symm hk)
    rw [this]; exact unitQ_queue hu _
  have hq0 : (unitQ (coreOf s c) (opUnit op)).queue = [] := unitQ_queue hu _
  have hstart : setCore (setCore s c (queued s c h op)) c (setUnitQ (if decide ((inUnit s c h op).hdr.waitCount ≠ 0) && !(inUnit s c h op).taken then takeWait (queued s c h op) (inUnit s c h op).hdr else (queued s c h op)) (opUnit op) { unitQ (queued s c h op) (opUnit op) with queue := [] }) = atUnit s c h op := by
    rw [setCore_setCore _ _ (core_ne hqd) (core_ne (by split <;> exact hqd))]
    unfold atUnit
    refine congrArg (setCore s c) ?_
    rw [hun]
    have hU : (queued s c h op).units = tput unitQD (coreOf s c).units (opUnit op) { unitQ (coreOf s c) (opUnit op) with queue := [inUnit s c h op] } := rfl
    have hu2 : tput unitQD (queued s c h op).units (opUnit op) { unitQ (coreOf s c) (opUnit op) with queue := [] } = unitsAt (coreOf s c) (opUnit op) (inUnit s c h op) := by
      unfold unitsAt
      dsimp only
      rw [hq0, List.nil_append, ← hU]
      have : tget unitQD (queued s c h op).units (opUnit op) = { unitQ (coreOf s c) (opUnit op) with queue := [inUnit s c h op] } := hun
      rw [this]
    have hcond : (decide ((inUnit s c h op).hdr.waitCount ≠ 0) && !(inUnit s c h op).taken) = (decide (h.waitCount ≠ 0) && !(isBatten (coreOf s c) h)) := rfl
    rw [hcond]
    by_cases h0 : h.waitCount = 0
    · simp only [h0, ne_eq, not_true_eq_false, decide_false, Bool.false_and, Bool.false_eq_true, if_false]
      unfold setUnitQ
      rw [hu2]
      simp [queued, atIssue, coreAdd, h0]
    · by_cases h1 : isBatten (coreOf s c) h = true
      · simp only [h0, h1, ne_eq, not_false_iff, decide_true, Bool.true_and, Bool.not_true, Bool.false_eq_true, if_false]
        unfold setUnitQ
        rw [hu2]
        simp [queued, atIssue, coreAdd, h1]
      · have h1 : isBatten (coreOf s c) h = false := by simpa using h1
        simp only [h0, h1, ne_eq, not_false_iff, decide_true, Bool.true_and, Bool.not_false, if_true]
        unfold setUnitQ
        have : (takeWait (queued s c h op) (inUnit s c h op).hdr).units = (queued s c h op).units := rfl
        rw [this, hu2]
        simp [queued, atIssue, coreAdd, h1, takeWait, semOf, inUnit]
        exact fun e => absurd e h0
  have hbusy : (unitQ (queued s c h op) (busyKey op)).busy = none := by
    by_cases e : busyKey op = opUnit op
    · rw [e, hun]; exact e ▸ hb
    · exact (congrArg UnitQ.busy (tget_tput_other unitQD (coreOf s c).units
        { unitQ (coreOf s c) (opUnit op) with queue := [inUnit s c h op] } (Ne.symm e))).trans hb
  obtain ⟨n, hi⟩ := issueOne_eq (u := opUnit op) (q := inUnit s c h op) (d := d) (t := t) hx hbusy (by rw [hun])
    (by
      intro h1 h2
      rcases hwt with h3 | h3
      · exact absurd h3 h1
      · have h4 : isBatten (coreOf s c) h = false := h2
        have h5 : semOf (queued s c h op) h.waitSem = semOf (coreOf s c) h.waitSem := by simp [semOf, queued, h4]
        show waitMet (queued s c h op) h = true
        unfold waitMet at h3 ⊢; rw [h5]; exact h3)
    (by
      have : opReady (queued s c h op) op = opReady (coreOf s c) op := rfl
      show opReady (queued s c h op) op = true
      rw [this]; exact ho) (by rw [hstart]; exact hr) harm
  have hfin : coreOf (modCore { t with fresh := n } c (executing op (inUnit s c h op, d))) c = executing op (inUnit s c h op, d) (coreOf t c) :=
    coreOf_setCore _ c _ (core_ne hc)
  rw [issueFrom_at _ _ c (opUnit op) (by rw [hx]; exact hoth) hi (by intro k; exact (congrArg (fun x => (unitQ x k).queue) hfin).trans (hq k))
    9 0 (by omega) (by have := opUnit_lt op; omega)]
  dsimp only
  rw [advance_stop]
  · exact ⟨n, rfl⟩
  · exact (congrArg Core.window hfin).trans hw
  · intro k; exact (congrArg (fun x => (unitQ x k).queue) hfin).trans (hq k)

/-- A unit's table entry other than the command's is untouched while the command leaves its queue. -/
theorem unitsAt_other (x : Core) {u k : Nat} (q : QCmd) (h : k ≠ u) : tget unitQD (unitsAt x u q) k = tget unitQD x.units k := by
  unfold unitsAt
  dsimp only
  rw [tget_tput_other _ _ _ (Ne.symm h), tget_tput_other _ _ _ (Ne.symm h)]

theorem tsorted_tput [DecidableEq α] (d : α) (t : Tab α) (lo : Option Nat) (k : Nat) (v : α) (h : tsorted lo t = true)
    (hk : ∀ l, lo = some l → l < k) : tsorted lo (tput d t k v) = true := by
  unfold tput; split
  · exact tsorted_tdel t lo k h
  · exact tsorted_tins t lo k v h hk

theorem tget_tput_sorted [DecidableEq α] (d : α) (t : Tab α) (k : Nat) (v : α) (h : tsorted none t = true) :
    tget d (tput d t k v) k = v := by
  by_cases e : v = d
  · unfold tput tget; rw [if_pos e, tfind_tdel_same t none k h, e]; rfl
  · exact tget_tput_ne d t k v e

theorem all_tput [DecidableEq α] (d : α) (t : Tab α) (k : Nat) (v : α) (p : α → Bool) (h : t.all (fun e => p e.2) = true)
    (hv : p v = true) : (tput d t k v).all (fun e => p e.2) = true := by
  rw [List.all_eq_true] at h ⊢
  intro e he
  rcases mem_tput d t k v e he with e1 | e1
  · rw [e1]; exact hv
  · exact h e e1

theorem tget_all [DecidableEq α] (d : α) (t : Tab α) (k : Nat) (p : α → Bool) (h : t.all (fun e => p e.2) = true)
    (hd : p d = true) : p (tget d t k) = true := by
  induction t with
  | nil => exact hd
  | cons e rest ih =>
    obtain ⟨j, v⟩ := e
    simp only [List.all_cons, Bool.and_eq_true] at h
    unfold tget; rw [tfind_cons]
    by_cases hj : j = k
    · rw [if_pos hj]; exact h.1
    · rw [if_neg hj]; exact ih h.2

theorem unitsAt_last (x : Core) (u : Nat) (q : QCmd) (h : tsorted none x.units = true) :
    (tget unitQD (unitsAt x u q) u).last = (unitQ x u).last := by
  unfold unitsAt
  dsimp only
  have h1 : tget unitQD (tput unitQD x.units u { unitQ x u with queue := (unitQ x u).queue ++ [q] }) u =
      { unitQ x u with queue := (unitQ x u).queue ++ [q] } := tget_tput_ne _ _ _ _ (unitQD_queue (by simp))
  rw [h1, tget_tput_sorted _ _ _ _ (tsorted_tput _ _ _ _ _ h (by intro l hl; cases hl))]

theorem tdel_tins [DecidableEq α] (t : Tab α) (k : Nat) (v : α) (e : Nat × α) (h : e ∈ tdel (tins t k v) k) : e ∈ t := by
  induction t with
  | nil => simp [tins, tdel] at h
  | cons f rest ih =>
    obtain ⟨j, w⟩ := f
    rw [tins_cons] at h
    by_cases h1 : j < k
    · rw [if_pos h1] at h
      unfold tdel at h
      rw [if_neg (by omega)] at h
      simp only [List.mem_cons] at h ⊢
      rcases h with h | h
      · exact .inl h
      · exact .inr (ih h)
    · rw [if_neg h1] at h
      by_cases h2 : j = k
      · rw [if_pos h2] at h
        unfold tdel at h
        rw [if_pos rfl] at h
        exact List.mem_cons_of_mem _ h
      · rw [if_neg h2] at h
        unfold tdel at h
        rw [if_pos rfl] at h
        exact h

theorem tget_tput_all [DecidableEq α] (d : α) (t : Tab α) (k : Nat) (v : α) (p : α → Bool) (hv : p v = true)
    (h : ∀ e, e ∈ tdel t k → p e.2 = true) (hd : p d = true) : p (tget d (tput d t k v) k) = true := by
  unfold tput
  by_cases e : v = d
  · rw [if_pos e]; exact tget_all d _ k p (by rw [List.all_eq_true]; exact h) hd
  · rw [if_neg e, tget_tins_same]; exact hv

theorem unitsAt_queue (x : Core) (u k : Nat) (q : QCmd) (h : x.units.all (fun e => decide (e.2.queue = [])) = true) :
    (tget unitQD (unitsAt x u q) k).queue = [] := by
  by_cases hk : k = u
  · subst hk
    have hne : ({ unitQ x k with queue := (unitQ x k).queue ++ [q] } : UnitQ) ≠ unitQD := unitQD_queue (by simp)
    refine of_decide_eq_true (tget_tput_all unitQD _ k _ (fun v => decide (v.queue = [])) (by rfl) ?_ (by decide))
    intro e he
    have : tput unitQD x.units k { unitQ x k with queue := (unitQ x k).queue ++ [q] } = tins x.units k { unitQ x k with queue := (unitQ x k).queue ++ [q] } := by
      unfold tput; rw [if_neg hne]
    rw [this] at he
    rw [List.all_eq_true] at h
    exact h e (tdel_tins _ _ _ _ he)
  · rw [unitsAt_other x q hk]; exact unitQ_queue h k

/-- A command whose unit leaves the core as `y`, but for the unit's own entry, runs as `Issues` says. -/
theorem issues_of {i : Instr} {s : State} {c : Nat} {h : CmdHdr} {op : CoreOp} {d : Completion} {y : Core} {u : State}
    (hi : exec i s = .next (submit s c h op)) (hg : goes s c h op = true) (harm : ∀ o, op ≠ .arm o) (hcar : ∀ o, op ≠ .carry o)
    (hr : runOp (atUnit s c h op) c (inUnit s c h op) =
      .ok (setCore u c { y with units := unitsAt (coreOf s c) (opUnit op) (inUnit s c h op) }, some d))
    (hoth : ∀ e, e ≠ c → coreOf u e = coreOf s e)
    (hw : y.window = []) (hc : y.ctx.isSome = true) (hu : y.units = (coreOf s c).units) : Issues i c h op s u y d := by
  obtain ⟨-, -, -, -, hall, hb, -⟩ := goes_parts hg
  have hk : busyKey op = opUnit op := by cases op <;> first | rfl | exact absurd rfl (hcar _)
  have hy : ∀ z : Core, executing op (inUnit s c h op, d) z =
      setUnitQ z (opUnit op) { unitQ z (opUnit op) with busy := some (inUnit s c h op, d) } := by
    intro z; rw [← hk]; unfold executing; cases op <;> first | rfl | exact absurd rfl (hcar _)
  have hcore : coreOf (setCore u c { y with units := unitsAt (coreOf s c) (opUnit op) (inUnit s c h op) }) c =
      { y with units := unitsAt (coreOf s c) (opUnit op) (inUnit s c h op) } := coreOf_setCore _ _ _ (core_ne hc)
  have hsame : ∀ k q, q.busy ≠ none → tget unitQD (tput unitQD (unitsAt (coreOf s c) (opUnit op) (inUnit s c h op)) k q) k = q := by
    intro k q hq; exact tget_tput_ne _ _ _ _ (by intro e; exact hq (by rw [e]; rfl))
  obtain ⟨n, hn⟩ := submit_run hg harm hr (by rw [hy, hcore]; exact hw) (by rw [hy, hcore]; exact hc) (by
    intro k
    rw [hy, hcore]
    unfold unitQ setUnitQ
    by_cases hk : k = opUnit op
    · subst hk; rw [hsame _ _ (by simp)]; exact unitsAt_queue _ _ _ _ hall
    · rw [tget_tput_other _ _ _ (Ne.symm hk)]; exact unitsAt_queue _ _ _ _ hall)
  refine ⟨_, by rw [hi, hn], ?_⟩
  have hfin : coreOf (modCore { setCore u c { y with units := unitsAt (coreOf s c) (opUnit op) (inUnit s c h op) } with fresh := n } c
      (executing op (inUnit s c h op, d))) c =
      setUnitQ { y with units := unitsAt (coreOf s c) (opUnit op) (inUnit s c h op) } (opUnit op)
        { tget unitQD (unitsAt (coreOf s c) (opUnit op) (inUnit s c h op)) (opUnit op) with busy := some (inUnit s c h op, d) } := by
    unfold modCore
    have h1 : coreOf { setCore u c { y with units := unitsAt (coreOf s c) (opUnit op) (inUnit s c h op) } with fresh := n } c = _ := hcore
    dsimp only at h1 ⊢
    rw [h1]
    refine (coreOf_setCore _ c _ (core_ne ?_)).trans ?_
    · rw [hy]; exact hc
    · rw [hy]; rfl
  rw [hfin]
  have hother : ∀ k, k ≠ opUnit op → unitQ (setUnitQ { y with units := unitsAt (coreOf s c) (opUnit op) (inUnit s c h op) } (opUnit op)
        { tget unitQD (unitsAt (coreOf s c) (opUnit op) (inUnit s c h op)) (opUnit op) with busy := some (inUnit s c h op, d) }) k =
      unitQ y k := by
    intro k hk
    unfold unitQ setUnitQ; dsimp only
    rw [tget_tput_other _ _ _ (Ne.symm hk), unitsAt_other _ _ hk, hu]
  refine ⟨?_, ?_, ?_, ?_, ?_, ?_, ?_, ?_⟩
  · unfold unitQ setUnitQ; dsimp only; rw [hsame _ _ (by simp)]; exact unitsAt_queue _ _ _ _ hall
  · rw [hk]; unfold unitQ setUnitQ; dsimp only; rw [hsame _ _ (by simp)]
  · intro hs k
    by_cases hk : k = opUnit op
    · subst hk
      unfold unitQ setUnitQ; dsimp only; rw [hsame _ _ (by simp)]
      dsimp only
      rw [unitsAt_last _ _ _ (hu ▸ hs), hu]; rfl
    · rw [hother k hk]
  · intro k hk _; exact hother k hk
  · intro k hk'; rw [hother k (hk ▸ hk')]
  · rfl
  · intro e he
    unfold modCore
    rw [coreOf_setCore_other _ _ (Ne.symm he)]
    exact (coreOf_setCore_other _ _ (Ne.symm he)).trans (hoth e he)
  · rfl

/-! ### Reading operands there -/

theorem coreOf_atUnit {s c h op} (hg : goes s c h op = true) :
    coreOf (atUnit s c h op) c = { atIssue s c h op with units := unitsAt (coreOf s c) (opUnit op) (inUnit s c h op) } :=
  coreOf_setCore _ _ _ (core_ne (coreRuns_ctx (goes_parts hg).1))

theorem atUnit_set {s c h op} (hg : goes s c h op = true) (x : Core) (hx : x.ctx.isSome = true) :
    setCore (atUnit s c h op) c x = setCore s c x :=
  setCore_setCore _ _ (core_ne (coreRuns_ctx (goes_parts hg).1)) (core_ne hx)

theorem vecFirst_units {s x : _} {o : VecOps} {as : List Nat} {z : Core} {slot k n : Nat} (s' : State) (hf : s'.fresh = s.fresh) (U : Tab UnitQ)
    (h : vecFirst s x o slot k n = .ok (as, z)) :
    vecFirst s' { x with units := U } o slot k n = .ok (as, { z with units := U }) ∧ z.units = x.units ∧ z.ctx = x.ctx ∧ z.window = x.window := by
  unfold vecFirst at h ⊢
  rw [hf]
  by_cases h1 : vecFromRescale o = true
  · rw [if_pos h1] at h ⊢
    cases h; exact ⟨rfl, rfl, rfl, rfl⟩
  · rw [if_neg h1] at h ⊢
    by_cases h2 : vecFromCarry o = true
    · rw [if_pos h2] at h ⊢; cases h; exact ⟨rfl, rfl, rfl, rfl⟩
    · rw [if_neg h2] at h ⊢
      have : spadWords { x with units := U } (vecAddr o slot o.src0) k n = spadWords x (vecAddr o slot o.src0) k n := rfl
      rw [this]
      cases hs : spadWords x (vecAddr o slot o.src0) k n with
      | error e => rw [hs] at h; cases h
      | ok l => rw [hs] at h; cases h; exact ⟨rfl, rfl, rfl, rfl⟩

theorem vecCheck_ok {x : Core} {o : VecOps} {subs fmts : Nat} (h : vecLegal x o subs fmts = true) :
    vecCheck x o subs fmts = .ok () := by
  unfold vecLegal at h
  simp only [Bool.and_eq_true, decide_eq_true_eq] at h
  obtain ⟨⟨⟨⟨a, b⟩, c⟩, d⟩, e⟩ := h
  unfold vecCheck
  rw [if_neg (by omega)]
  unfold need
  rw [if_pos]
  simp only [Bool.and_eq_true, decide_eq_true_eq]
  exact ⟨⟨⟨b, c⟩, d⟩, e⟩

end Sys2Proof.Machine
end

