-- ==== Sys2Proof/Laws/Keep.lean ====
section
/-!
SUPPORT. Sys2Proof/Laws/Keep.lean: how a loop keeps the queue, the boot flash, the fuses and the thatch when each of its rounds
does. The files Laws/Keep*.lean say for every operation of the machine that it keeps them, or what it does to them.
-/
namespace Sys2Proof.Machine

open Sys2Proof

/-- The queue, the boot flash, the fuses and the thatch of two states are the same. -/
def Keeps (s t : State) : Prop :=
  t.pending = s.pending ∧ t.flash = s.flash ∧ t.fuses = s.fuses ∧ t.thatch = s.thatch

theorem Keeps.refl (s : State) : Keeps s s := ⟨rfl, rfl, rfl, rfl⟩

theorem Keeps.trans {a b c : State} (h : Keeps a b) (k : Keeps b c) : Keeps a c :=
  ⟨k.1.trans h.1, k.2.1.trans h.2.1, k.2.2.1.trans h.2.2.1, k.2.2.2.trans h.2.2.2⟩

theorem Keeps.foldl {α : Type} {g : State → α → State} (h : ∀ s e, Keeps s (g s e)) (l : List α) (s : State) :
    Keeps s (l.foldl g s) := by
  induction l generalizing s with
  | nil => exact .refl s
  | cons a l ih => exact (h s a).trans (ih _)

theorem Keeps.iter {g : Nat → State → State} (h : ∀ k s, Keeps s (g k s)) (n : Nat) (s : State) : Keeps s (iter g n s) := by
  induction n generalizing s with
  | zero => exact .refl s
  | succ n ih => exact (ih s).trans (h n _)

/-- The queue, the boot flash and the fuses of two states are the same, and the thatch keeps its canonical form. -/
def KeepsMem (s t : State) : Prop :=
  t.pending = s.pending ∧ t.flash = s.flash ∧ t.fuses = s.fuses ∧ (Memory.wf 0 s.thatch = true → Memory.wf 0 t.thatch = true)

theorem Keeps.mem {s t : State} (h : Keeps s t) : KeepsMem s t :=
  ⟨h.1, h.2.1, h.2.2.1, fun k => by rw [h.2.2.2]; exact k⟩

theorem KeepsMem.refl (s : State) : KeepsMem s s := (Keeps.refl s).mem

theorem KeepsMem.trans {a b c : State} (h : KeepsMem a b) (k : KeepsMem b c) : KeepsMem a c :=
  ⟨k.1.trans h.1, k.2.1.trans h.2.1, k.2.2.1.trans h.2.2.1, fun w => k.2.2.2 (h.2.2.2 w)⟩

theorem KeepsMem.foldl {α : Type} {g : State → α → State} (h : ∀ s e, KeepsMem s (g s e)) (l : List α) (s : State) :
    KeepsMem s (l.foldl g s) := by
  induction l generalizing s with
  | nil => exact .refl s
  | cons a l ih => exact (h s a).trans (ih _)

@[simp] theorem ite_pending (c : Prop) [Decidable c] (a b : State) :
    (if c then a else b).pending = if c then a.pending else b.pending := apply_ite _ _ _ _
@[simp] theorem ite_flash (c : Prop) [Decidable c] (a b : State) :
    (if c then a else b).flash = if c then a.flash else b.flash := apply_ite _ _ _ _
@[simp] theorem ite_fuses (c : Prop) [Decidable c] (a b : State) :
    (if c then a else b).fuses = if c then a.fuses else b.fuses := apply_ite _ _ _ _
@[simp] theorem ite_thatch (c : Prop) [Decidable c] (a b : State) :
    (if c then a else b).thatch = if c then a.thatch else b.thatch := apply_ite _ _ _ _

/-- A fold keeps a part of the state that each round keeps. -/
theorem foldl_keep {α β : Type} (p : State → β) (g : State → α → State) (h : ∀ s e, p (g s e) = p s) (l : List α) (s : State) :
    p (l.foldl g s) = p s := by
  induction l generalizing s with
  | nil => rfl
  | cons a l ih => rw [List.foldl_cons, ih, h]

/-- `iter` keeps a part of the state that each round keeps. -/
theorem iter_keep {β : Type} (p : State → β) (g : Nat → State → State) (h : ∀ k s, p (g k s) = p s) (n : Nat) (s : State) :
    p (iter g n s) = p s := by
  induction n generalizing s with
  | zero => rfl
  | succ n ih => rw [iter, h, ih]

@[simp] theorem foldl_pending {α : Type} (g : State → α → State) (h : ∀ s e, (g s e).pending = s.pending) (l : List α) (s : State) :
    (l.foldl g s).pending = s.pending := foldl_keep State.pending g h l s
@[simp] theorem foldl_flash {α : Type} (g : State → α → State) (h : ∀ s e, (g s e).flash = s.flash) (l : List α) (s : State) :
    (l.foldl g s).flash = s.flash := foldl_keep State.flash g h l s
@[simp] theorem foldl_fuses {α : Type} (g : State → α → State) (h : ∀ s e, (g s e).fuses = s.fuses) (l : List α) (s : State) :
    (l.foldl g s).fuses = s.fuses := foldl_keep State.fuses g h l s
@[simp] theorem foldl_thatch {α : Type} (g : State → α → State) (h : ∀ s e, (g s e).thatch = s.thatch) (l : List α) (s : State) :
    (l.foldl g s).thatch = s.thatch := foldl_keep State.thatch g h l s

@[simp] theorem iter_pending (g : Nat → State → State) (h : ∀ k s, (g k s).pending = s.pending) (n : Nat) (s : State) :
    (iter g n s).pending = s.pending := iter_keep State.pending g h n s
@[simp] theorem iter_flash (g : Nat → State → State) (h : ∀ k s, (g k s).flash = s.flash) (n : Nat) (s : State) :
    (iter g n s).flash = s.flash := iter_keep State.flash g h n s
@[simp] theorem iter_fuses (g : Nat → State → State) (h : ∀ k s, (g k s).fuses = s.fuses) (n : Nat) (s : State) :
    (iter g n s).fuses = s.fuses := iter_keep State.fuses g h n s
@[simp] theorem iter_thatch (g : Nat → State → State) (h : ∀ k s, (g k s).thatch = s.thatch) (n : Nat) (s : State) :
    (iter g n s).thatch = s.thatch := iter_keep State.thatch g h n s

end Sys2Proof.Machine
end

