-- ==== Sys2Proof/Laws/KeepNet.lean ====
section
/-!
SUPPORT. Sys2Proof/Laws/KeepNet.lean: what the fault log, the network engine and the mailboxes keep.
-/
namespace Sys2Proof.Machine

open Sys2Proof

@[simp] theorem setRec_keep (s : State) (id : ℕ) (inst : ℕ) (r : CfgRec) :
    (setRec s id inst r).pending = s.pending ∧
      (setRec s id inst r).flash = s.flash ∧
      (setRec s id inst r).fuses = s.fuses ∧
      (setRec s id inst r).thatch = s.thatch := by
  simp [setRec]

@[simp] theorem setUnit_keep (s : State) (u : W32) (h : UnitH) :
    (setUnit s u h).pending = s.pending ∧
      (setUnit s u h).flash = s.flash ∧
      (setUnit s u h).fuses = s.fuses ∧
      (setUnit s u h).thatch = s.thatch := by
  simp [setUnit]

@[simp] theorem flash_keep (s : State) (u : W32) :
    (flash s u).pending = s.pending ∧
      (flash s u).flash = s.flash ∧
      (flash s u).fuses = s.fuses ∧
      (flash s u).thatch = s.thatch := by
  unfold flash; dsimp only; repeat' split
  all_goals simp_all

@[simp] theorem unitReturn_keep (s : State) (u : W32) :
    (unitReturn s u).pending = s.pending ∧
      (unitReturn s u).flash = s.flash ∧
      (unitReturn s u).fuses = s.fuses ∧
      (unitReturn s u).thatch = s.thatch := by
  unfold unitReturn; dsimp only; repeat' split
  all_goals simp_all

@[simp] theorem logFault_keep (s : State) (f : FaultEvent) :
    (logFault s f).pending = s.pending ∧
      (logFault s f).flash = s.flash ∧
      (logFault s f).fuses = s.fuses ∧
      (logFault s f).thatch = s.thatch := by
  simp [logFault]

@[simp] theorem setPort_keep (s : State) (p : ℕ) (x : Port) :
    (setPort s p x).pending = s.pending ∧
      (setPort s p x).flash = s.flash ∧
      (setPort s p x).fuses = s.fuses ∧
      (setPort s p x).thatch = s.thatch := by
  simp [setPort]

@[simp] theorem portCnt_keep (s : State) (p : ℕ) (k : ℕ) (w : ℕ) :
    (portCnt s p k w).pending = s.pending ∧
      (portCnt s p k w).flash = s.flash ∧
      (portCnt s p k w).fuses = s.fuses ∧
      (portCnt s p k w).thatch = s.thatch := by
  simp [portCnt]

@[simp] theorem rxFrame_keep (s : State) (p : ℕ) (f : FrameHdr) :
    (rxFrame s p f).1.pending = s.pending ∧
      (rxFrame s p f).1.flash = s.flash ∧
      (rxFrame s p f).1.fuses = s.fuses ∧
      (rxFrame s p f).1.thatch = s.thatch := by
  unfold rxFrame; dsimp only; repeat' split
  all_goals simp_all

@[simp] theorem emit_keep (s : State) (e : Emit) :
    (emit s e).pending = s.pending ∧
      (emit s e).flash = s.flash ∧
      (emit s e).fuses = s.fuses ∧
      (emit s e).thatch = s.thatch := by
  simp [emit]

@[simp] theorem sendFrame_keep (s : State) (p : ℕ) (e : Emit) :
    (sendFrame s p e).pending = s.pending ∧ (sendFrame s p e).flash = s.flash ∧ (sendFrame s p e).fuses = s.fuses ∧
      (sendFrame s p e).thatch = s.thatch := by
  simp [sendFrame]

@[simp] theorem releasePort_keep (s : State) (p : ℕ) :
    (releasePort s p).pending = s.pending ∧ (releasePort s p).flash = s.flash ∧ (releasePort s p).fuses = s.fuses ∧
      (releasePort s p).thatch = s.thatch := by
  unfold releasePort; dsimp only; split <;> simp

@[simp] theorem timeTo_keep (s : State) (n : ℕ) :
    (timeTo s n).pending = s.pending ∧ (timeTo s n).flash = s.flash ∧ (timeTo s n).fuses = s.fuses ∧
      (timeTo s n).thatch = s.thatch := by
  simp [timeTo]

@[simp] theorem txFrame_keep (s : State) (p : ℕ) (e : Emit) :
    (txFrame s p e).pending = s.pending ∧
      (txFrame s p e).flash = s.flash ∧
      (txFrame s p e).fuses = s.fuses ∧
      (txFrame s p e).thatch = s.thatch := by
  unfold txFrame; repeat' split
  all_goals simp

@[simp] theorem setConn_keep (s : State) (c : ℕ) (x : Conn) :
    (setConn s c x).pending = s.pending ∧
      (setConn s c x).flash = s.flash ∧
      (setConn s c x).fuses = s.fuses ∧
      (setConn s c x).thatch = s.thatch := by
  simp [setConn]

@[simp] theorem sendRaw_keep (s : State) (c : ℕ) (net : ℕ) (typ : ℕ) (flags : ℕ) (seq : W32) (payload : List Byte) (cls : MsgClass) :
    (sendRaw s c net typ flags seq payload cls).pending = s.pending ∧
      (sendRaw s c net typ flags seq payload cls).flash = s.flash ∧
      (sendRaw s c net typ flags seq payload cls).fuses = s.fuses ∧
      (sendRaw s c net typ flags seq payload cls).thatch = s.thatch := by
  unfold sendRaw; split <;> simp

@[simp] theorem sendSeg_keep (s : State) (c : ℕ) (net : ℕ) (typ : ℕ) (flags : ℕ) (seq : W32) (payload : List Byte) (cls : MsgClass) :
    (sendSeg s c net typ flags seq payload cls).pending = s.pending ∧
      (sendSeg s c net typ flags seq payload cls).flash = s.flash ∧
      (sendSeg s c net typ flags seq payload cls).fuses = s.fuses ∧
      (sendSeg s c net typ flags seq payload cls).thatch = s.thatch := by
  unfold sendSeg; split <;> simp

@[simp] theorem sendBare_keep (s : State) (c : ℕ) (net : ℕ) (typ : ℕ) :
    (sendBare s c net typ).pending = s.pending ∧
      (sendBare s c net typ).flash = s.flash ∧
      (sendBare s c net typ).fuses = s.fuses ∧
      (sendBare s c net typ).thatch = s.thatch := by
  simp [sendBare]

@[simp] theorem sendReset_keep (s : State) (c : ℕ) (reason : ℕ) :
    (sendReset s c reason).pending = s.pending ∧
      (sendReset s c reason).flash = s.flash ∧
      (sendReset s c reason).fuses = s.fuses ∧
      (sendReset s c reason).thatch = s.thatch := by
  simp [sendReset]

@[simp] theorem resetTo_keep (s : State) (g : Seg) (reason : ℕ) :
    (resetTo s g reason).pending = s.pending ∧
      (resetTo s g reason).flash = s.flash ∧
      (resetTo s g reason).fuses = s.fuses ∧
      (resetTo s g reason).thatch = s.thatch := by
  simp [resetTo]

@[simp] theorem connCnt_keep (s : State) (c : ℕ) (k : ℕ) :
    (connCnt s c k).pending = s.pending ∧
      (connCnt s c k).flash = s.flash ∧
      (connCnt s c k).fuses = s.fuses ∧
      (connCnt s c k).thatch = s.thatch := by
  unfold connCnt; split <;> simp

@[simp] theorem bufPut_keep (s : State) (c : ℕ) (bs : List Byte) (cls : MsgClass) :
    (bufPut s c bs cls).pending = s.pending ∧
      (bufPut s c bs cls).flash = s.flash ∧
      (bufPut s c bs cls).fuses = s.fuses ∧
      (bufPut s c bs cls).thatch = s.thatch := by
  unfold bufPut; split <;> simp

@[simp] theorem pumpOne_keep (s : State) (c : ℕ) :
    (pumpOne s c).pending = s.pending ∧
      (pumpOne s c).flash = s.flash ∧
      (pumpOne s c).fuses = s.fuses ∧
      (pumpOne s c).thatch = s.thatch := by
  unfold pumpOne; repeat' split
  all_goals simp

@[simp] theorem pumpResp_keep (n : Nat) (s : State) (c : Nat) :
    (pumpResp n s c).pending = s.pending ∧ (pumpResp n s c).flash = s.flash ∧ (pumpResp n s c).fuses = s.fuses ∧
      (pumpResp n s c).thatch = s.thatch := by
  induction n generalizing s with
  | zero => simp [pumpResp]
  | succ n ih =>
    unfold pumpResp
    repeat' split
    all_goals simp [ih]

@[simp] theorem pump_keep (s : State) (c : ℕ) :
    (pump s c).pending = s.pending ∧
      (pump s c).flash = s.flash ∧
      (pump s c).fuses = s.fuses ∧
      (pump s c).thatch = s.thatch := by
  unfold pump
  split
  · simp
  · dsimp only
    cases connOf (pumpResp _ s c) c <;> simp

@[simp] theorem queueResp_keep (s : State) (c : ℕ) (bs : List Byte) (cls : MsgClass) :
    (queueResp s c bs cls).pending = s.pending ∧
      (queueResp s c bs cls).flash = s.flash ∧
      (queueResp s c bs cls).fuses = s.fuses ∧
      (queueResp s c bs cls).thatch = s.thatch := by
  unfold queueResp; split <;> simp

@[simp] theorem resendAll_keep (s : State) (c : ℕ) (net : ℕ) :
    (resendAll s c net).pending = s.pending ∧
      (resendAll s c net).flash = s.flash ∧
      (resendAll s c net).fuses = s.fuses ∧
      (resendAll s c net).thatch = s.thatch := by
  unfold resendAll; split <;> simp

@[simp] theorem freeConn_keep (s : State) (c : ℕ) :
    (freeConn s c).pending = s.pending ∧
      (freeConn s c).flash = s.flash ∧
      (freeConn s c).fuses = s.fuses ∧
      (freeConn s c).thatch = s.thatch := by
  simp [freeConn]

@[simp] theorem pathUp_keep (s : State) (c : ℕ) (net : ℕ) :
    (pathUp s c net).pending = s.pending ∧
      (pathUp s c net).flash = s.flash ∧
      (pathUp s c net).fuses = s.fuses ∧
      (pathUp s c net).thatch = s.thatch := by
  unfold pathUp; split <;> simp

@[simp] theorem pathDown_keep (s : State) (c : ℕ) (net : ℕ) (log : Bool) :
    (pathDown s c net log).pending = s.pending ∧
      (pathDown s c net log).flash = s.flash ∧
      (pathDown s c net log).fuses = s.fuses ∧
      (pathDown s c net log).thatch = s.thatch := by
  unfold pathDown; dsimp only; repeat' split
  all_goals simp_all

@[simp] theorem portPathsDown_keep (s : State) (p : ℕ) :
    (portPathsDown s p).pending = s.pending ∧
      (portPathsDown s p).flash = s.flash ∧
      (portPathsDown s p).fuses = s.fuses ∧
      (portPathsDown s p).thatch = s.thatch := by
  simp [portPathsDown]

@[simp] theorem bindPath_keep (s : State) (c : ℕ) (net : ℕ) (g : Seg) :
    (bindPath s c net g).pending = s.pending ∧
      (bindPath s c net g).flash = s.flash ∧
      (bindPath s c net g).fuses = s.fuses ∧
      (bindPath s c net g).thatch = s.thatch := by
  unfold bindPath; split <;> simp

@[simp] theorem takeAck_keep (s : State) (c : ℕ) (ack : W32) (sack : W64) (window : W16) :
    (takeAck s c ack sack window).pending = s.pending ∧
      (takeAck s c ack sack window).flash = s.flash ∧
      (takeAck s c ack sack window).fuses = s.fuses ∧
      (takeAck s c ack sack window).thatch = s.thatch := by
  unfold takeAck; split <;> simp

@[simp] theorem sendResp_keep (s : State) (rt : RespTo) (bs : List Byte) :
    (sendResp s rt bs).pending = s.pending ∧
      (sendResp s rt bs).flash = s.flash ∧
      (sendResp s rt bs).fuses = s.fuses ∧
      (sendResp s rt bs).thatch = s.thatch := by
  unfold sendResp; split <;> simp

@[simp] theorem respond_keep (s : State) (rt : RespTo) (status : ℕ) (body : List Byte) :
    (respond s rt status body).pending = s.pending ∧
      (respond s rt status body).flash = s.flash ∧
      (respond s rt status body).fuses = s.fuses ∧
      (respond s rt status body).thatch = s.thatch := by
  simp [respond]

@[simp] theorem answer_keep (s : State) (rt : RespTo) (status : ℕ) :
    (answer s rt status).pending = s.pending ∧
      (answer s rt status).flash = s.flash ∧
      (answer s rt status).fuses = s.fuses ∧
      (answer s rt status).thatch = s.thatch := by
  simp [answer]

@[simp] theorem setMailbox_keep (s : State) (b : ℕ) (l : List MailMsg) :
    (setMailbox s b l).pending = s.pending ∧
      (setMailbox s b l).flash = s.flash ∧
      (setMailbox s b l).fuses = s.fuses ∧
      (setMailbox s b l).thatch = s.thatch := by
  simp [setMailbox]

@[simp] theorem process_pending (rt : RespTo) (fields : List Byte → Bool) (m : HostMsg) (run : RespTo → State → State) (s : State)
    (h : ∀ rt s, (run rt s).pending = s.pending) :
    (process rt fields m run s).pending = s.pending := by
  unfold process
  dsimp only
  repeat' split
  all_goals simp [h]
@[simp] theorem process_flash (rt : RespTo) (fields : List Byte → Bool) (m : HostMsg) (run : RespTo → State → State) (s : State)
    (h : ∀ rt s, (run rt s).flash = s.flash) :
    (process rt fields m run s).flash = s.flash := by
  unfold process
  dsimp only
  repeat' split
  all_goals simp [h]
@[simp] theorem process_fuses (rt : RespTo) (fields : List Byte → Bool) (m : HostMsg) (run : RespTo → State → State) (s : State)
    (h : ∀ rt s, (run rt s).fuses = s.fuses) :
    (process rt fields m run s).fuses = s.fuses := by
  unfold process
  dsimp only
  repeat' split
  all_goals simp [h]
@[simp] theorem process_thatch (rt : RespTo) (fields : List Byte → Bool) (m : HostMsg) (run : RespTo → State → State) (s : State)
    (h : ∀ rt s, (run rt s).thatch = s.thatch) :
    (process rt fields m run s).thatch = s.thatch := by
  unfold process
  dsimp only
  repeat' split
  all_goals simp [h]

@[simp] theorem drainUnknown_keep (n : Nat) (s : State) :
    (drainUnknown n s).pending = s.pending ∧ (drainUnknown n s).flash = s.flash ∧ (drainUnknown n s).fuses = s.fuses ∧
      (drainUnknown n s).thatch = s.thatch := by
  induction n generalizing s with
  | zero => simp [drainUnknown]
  | succ n ih =>
    unfold drainUnknown
    repeat' split
    all_goals simp [ih]

@[simp] theorem drainAll_keep (s : State) :
    (drainAll s).pending = s.pending ∧ (drainAll s).flash = s.flash ∧ (drainAll s).fuses = s.fuses ∧
      (drainAll s).thatch = s.thatch := by
  simp [drainAll]

@[simp] theorem modSess_keep (s : State) (i : ℕ) (f : Session → Session) :
    (modSess s i f).pending = s.pending ∧
      (modSess s i f).flash = s.flash ∧
      (modSess s i f).fuses = s.fuses ∧
      (modSess s i f).thatch = s.thatch := by
  simp [modSess]

@[simp] theorem ioHold_keep (s : State) (x : MailMsg) :
    (ioHold s x).pending = s.pending ∧ (ioHold s x).flash = s.flash ∧ (ioHold s x).fuses = s.fuses ∧
      (ioHold s x).thatch = s.thatch := by
  unfold ioHold; repeat' split
  all_goals simp

@[simp] theorem enqueue_keep (s : State) (typ : Nat) (m : HostMsg) :
    (enqueue s typ m).pending = s.pending ∧ (enqueue s typ m).flash = s.flash ∧ (enqueue s typ m).fuses = s.fuses ∧
      (enqueue s typ m).thatch = s.thatch := by
  unfold enqueue; dsimp only; split <;> simp

@[simp] theorem deliver_keep (s : State) (c : ℕ) (bs : List Byte) (n : ℕ) :
    (deliver s c bs n).pending = s.pending ∧
      (deliver s c bs n).flash = s.flash ∧
      (deliver s c bs n).fuses = s.fuses ∧
      (deliver s c bs n).thatch = s.thatch := by
  unfold deliver; dsimp only; split <;> simp

@[simp] theorem accept_pending (typ : Nat) (fields : List Byte → Bool) (m : HostMsg) (run : RespTo → State → State) (s : State)
    (h : ∀ rt s, (run rt s).pending = s.pending) :
    (accept typ fields m run s).pending = s.pending := by
  unfold accept
  dsimp only
  repeat' split
  all_goals simp [h]
@[simp] theorem accept_flash (typ : Nat) (fields : List Byte → Bool) (m : HostMsg) (run : RespTo → State → State) (s : State)
    (h : ∀ rt s, (run rt s).flash = s.flash) :
    (accept typ fields m run s).flash = s.flash := by
  unfold accept
  dsimp only
  repeat' split
  all_goals simp [h]
@[simp] theorem accept_fuses (typ : Nat) (fields : List Byte → Bool) (m : HostMsg) (run : RespTo → State → State) (s : State)
    (h : ∀ rt s, (run rt s).fuses = s.fuses) :
    (accept typ fields m run s).fuses = s.fuses := by
  unfold accept
  dsimp only
  repeat' split
  all_goals simp [h]
@[simp] theorem accept_thatch (typ : Nat) (fields : List Byte → Bool) (m : HostMsg) (run : RespTo → State → State) (s : State)
    (h : ∀ rt s, (run rt s).thatch = s.thatch) :
    (accept typ fields m run s).thatch = s.thatch := by
  unfold accept
  dsimp only
  repeat' split
  all_goals simp [h]

@[simp] theorem takeMsgNo_keep (s : State) (c : ℕ) :
    (takeMsgNo s c).2.pending = s.pending ∧
      (takeMsgNo s c).2.flash = s.flash ∧
      (takeMsgNo s c).2.fuses = s.fuses ∧
      (takeMsgNo s c).2.thatch = s.thatch := by
  unfold takeMsgNo; split <;> simp

@[simp] theorem sendStream_keep (s : State) (c : ℕ) (typ : ℕ) (body : List Byte) (cls : MsgClass) :
    (sendStream s c typ body cls).1.pending = s.pending ∧
      (sendStream s c typ body cls).1.flash = s.flash ∧
      (sendStream s c typ body cls).1.fuses = s.fuses ∧
      (sendStream s c typ body cls).1.thatch = s.thatch := by
  unfold sendStream; dsimp only; repeat' split
  all_goals simp_all

@[simp] theorem sendDgram_keep (s : State) (c : ℕ) (typ : ℕ) (body : List Byte) (dual : Bool) :
    (sendDgram s c typ body dual).1.pending = s.pending ∧
      (sendDgram s c typ body dual).1.flash = s.flash ∧
      (sendDgram s c typ body dual).1.fuses = s.fuses ∧
      (sendDgram s c typ body dual).1.thatch = s.thatch := by
  unfold sendDgram; dsimp only; repeat' split
  all_goals simp_all

end Sys2Proof.Machine
end

