-- ==== Sys2Proof/Laws/KeepCore.lean ====
section
/-!
SUPPORT. Sys2Proof/Laws/KeepCore.lean: what the commands of the array, the vector engine, the sampler and the generator keep.
-/
namespace Sys2Proof.Machine

open Sys2Proof

@[simp] theorem setCore_keep (s : State) (c : ℕ) (x : Core) :
    (setCore s c x).pending = s.pending ∧
      (setCore s c x).flash = s.flash ∧
      (setCore s c x).fuses = s.fuses ∧
      (setCore s c x).thatch = s.thatch := by
  simp [setCore]

@[simp] theorem modCore_keep (s : State) (c : ℕ) (f : Core → Core) :
    (modCore s c f).pending = s.pending ∧
      (modCore s c f).flash = s.flash ∧
      (modCore s c f).fuses = s.fuses ∧
      (modCore s c f).thatch = s.thatch := by
  simp [modCore]

/-- A write of one byte keeps everything but the thatch and the objects that lie in it, and the thatch's canonical form. -/
theorem physPut_mem (s : State) (phys : Nat) (v : Byte) : KeepsMem s (physPut s phys v) := by
  unfold physPut
  split
  · rename_i e _
    obtain ⟨a, o⟩ := e
    unfold areaPut
    cases a
    case eaves => exact ⟨rfl, rfl, rfl, fun hw => twf_tput _ _ _ _ hw⟩
    case half => exact Keeps.mem (by simp [Keeps])
    case control => exact Keeps.mem (by simp [Keeps])
    case entries => exact Keeps.mem (by simp [Keeps])
    all_goals exact Keeps.mem ⟨rfl, rfl, rfl, rfl⟩
  · exact ⟨rfl, rfl, rfl, fun hw => twf_tput _ _ _ _ hw⟩

/-- A thatch write keeps everything but the thatch and what lies in it, and the thatch's canonical form. -/
theorem bayWrite_mem {s : State} {group : List Nat} {a : Int} {bs : List Byte} {t} (h : bayWrite s group a bs = .ok t) :
    KeepsMem s t := by
  unfold bayWrite at h
  split at h
  · cases h
    refine KeepsMem.foldl (fun s e => ?_) _ _
    split
    · exact physPut_mem _ _ _
    · exact .refl _
  · cases h

@[simp] theorem wroteLines_keep (s : State) (l : List Nat) :
    (wroteLines s l).pending = s.pending ∧ (wroteLines s l).flash = s.flash ∧ (wroteLines s l).fuses = s.fuses ∧
      (wroteLines s l).thatch = s.thatch := by
  simp [wroteLines]

@[simp] theorem readLines_keep (s : State) (l : List Nat) :
    (readLines s l).pending = s.pending ∧ (readLines s l).flash = s.flash ∧ (readLines s l).fuses = s.fuses ∧
      (readLines s l).thatch = s.thatch := by
  simp [readLines]

@[simp] theorem areaRead_keep (s : State) (a : Area) (o n : Nat) :
    (areaRead s a o n).pending = s.pending ∧ (areaRead s a o n).flash = s.flash ∧ (areaRead s a o n).fuses = s.fuses ∧
      (areaRead s a o n).thatch = s.thatch := by
  simp [areaRead]

@[simp] theorem areaWrote_keep (s : State) (a : Area) (o n : Nat) :
    (areaWrote s a o n).pending = s.pending ∧ (areaWrote s a o n).flash = s.flash ∧ (areaWrote s a o n).fuses = s.fuses ∧
      (areaWrote s a o n).thatch = s.thatch := by
  simp [areaWrote]

@[simp] theorem dropLines_keep (s : State) (l : List Nat) :
    (dropLines s l).pending = s.pending ∧ (dropLines s l).flash = s.flash ∧ (dropLines s l).fuses = s.fuses ∧
      (dropLines s l).thatch = s.thatch := by
  simp [dropLines]

@[simp] theorem areaPlaced_keep (s : State) (a : Area) (o n : Nat) :
    (areaPlaced s a o n).pending = s.pending ∧ (areaPlaced s a o n).flash = s.flash ∧ (areaPlaced s a o n).fuses = s.fuses ∧
      (areaPlaced s a o n).thatch = s.thatch := by
  simp [areaPlaced]

@[simp] theorem setChannel_keep (s : State) (i : ℕ) (x : Channel) :
    (setChannel s i x).pending = s.pending ∧
      (setChannel s i x).flash = s.flash ∧
      (setChannel s i x).fuses = s.fuses ∧
      (setChannel s i x).thatch = s.thatch := by
  simp [setChannel]

@[simp] theorem channelCnt_keep (s : State) (i : ℕ) (k : ℕ) (w : ℕ) (n : ℕ) :
    (channelCnt s i k w n).pending = s.pending ∧
      (channelCnt s i k w n).flash = s.flash ∧
      (channelCnt s i k w n).fuses = s.fuses ∧
      (channelCnt s i k w n).thatch = s.thatch := by
  simp [channelCnt]

@[simp] theorem setSlice_keep (s : State) (i : ℕ) (x : Slice) :
    (setSlice s i x).pending = s.pending ∧
      (setSlice s i x).flash = s.flash ∧
      (setSlice s i x).fuses = s.fuses ∧
      (setSlice s i x).thatch = s.thatch := by
  simp [setSlice]

@[simp] theorem ridgeRead_keep (s : State) (b : ℕ) (phys : ℕ) (alloc : Bool) :
    (ridgeRead s b phys alloc).pending = s.pending ∧
      (ridgeRead s b phys alloc).flash = s.flash ∧
      (ridgeRead s b phys alloc).fuses = s.fuses ∧
      (ridgeRead s b phys alloc).thatch = s.thatch := by
  unfold ridgeRead; dsimp only; repeat' split
  all_goals simp_all

@[simp] theorem ridgeWrite_keep (s : State) (b : ℕ) (phys : ℕ) :
    (ridgeWrite s b phys).pending = s.pending ∧
      (ridgeWrite s b phys).flash = s.flash ∧
      (ridgeWrite s b phys).fuses = s.fuses ∧
      (ridgeWrite s b phys).thatch = s.thatch := by
  simp [ridgeWrite]

@[simp] theorem setSlotWork_keep (s : State) (x : Core) (slot : ℕ) (w : SlotWork) :
    (setSlotWork s x slot w).pending = s.pending ∧
      (setSlotWork s x slot w).flash = s.flash ∧
      (setSlotWork s x slot w).fuses = s.fuses ∧
      (setSlotWork s x slot w).thatch = s.thatch := by
  unfold setSlotWork; split <;> simp

theorem repeatServe_keep {s : State} {x : Core} {slot : Nat} {w : WalkDesc} {r} (h : repeatServe s x slot w = .ok r) :
    Keeps s r.2 := by
  unfold repeatServe at h
  dsimp only at h
  repeat' split at h
  all_goals first
    | (cases h; done)
    | (cases h; exact .refl _)
    | (cases h; simp [Keeps])

theorem served_keep {s : State} {x : Core} {slot m : Nat} {w : WalkDesc} {r}
    (h : (if m = 2 then repeatServe s x slot w else .ok (0, s)) = .ok r) : Keeps s r.2 := by
  split at h
  · exact repeatServe_keep h
  · cases h; exact .refl s

@[simp] theorem walkFetch_keep (s : State) (x : Core) (group : List Nat) (ws : List WalkDesc) (weights : List OpSrc)
    (acts : List (List OpSrc)) :
    (walkFetch s x group ws weights acts).pending = s.pending ∧ (walkFetch s x group ws weights acts).flash = s.flash ∧
      (walkFetch s x group ws weights acts).fuses = s.fuses ∧ (walkFetch s x group ws weights acts).thatch = s.thatch := by
  unfold walkFetch; split <;> simp

theorem doMatmul_keep {s : State} {c : ℕ} {slot : ℕ} {o : ArrOps} {t}
    (h : doMatmul s c slot o = .ok t) : Keeps s t.1 := by
  unfold doMatmul at h
  simp only [bind, Except.bind] at h
  repeat' split at h
  all_goals first
    | (cases h; done)
    | (cases h; exact Keeps.refl _)
    | (cases h
       refine (served_keep ‹(if _ = 2 then repeatServe s _ slot _ else _) = Except.ok _›).trans ?_
       simp [Keeps])

theorem doDiag_keep {s : State} {c : ℕ} {slot : ℕ} {o : ArrOps} {t}
    (h : doDiag s c slot o = .ok t) : Keeps s t.1 := by
  unfold doDiag at h
  simp only [bind, Except.bind] at h
  repeat' split at h
  all_goals first
    | (cases h; done)
    | (cases h; exact Keeps.refl _)
    | (cases h; exact ⟨rfl, rfl, rfl, rfl⟩)
    | (cases h; simp [Keeps])

theorem doWinoOut_keep {s : State} {c : ℕ} {o : WinoOps} {t}
    (h : doWinoOut s c o = .ok t) : Keeps s t.1 := by
  unfold doWinoOut at h
  simp only [bind, Except.bind] at h
  repeat' split at h
  all_goals first
    | (cases h; done)
    | (cases h; exact Keeps.refl _)
    | (cases h; exact ⟨rfl, rfl, rfl, rfl⟩)
    | (cases h; simp [Keeps])

theorem doCarry_keep {s : State} {c : ℕ} {o : CarryOps} {t}
    (h : doCarry s c o = .ok t) : Keeps s t.1 := by
  unfold doCarry at h
  simp only [bind, Except.bind] at h
  repeat' split at h
  all_goals first
    | (cases h; done)
    | (cases h; exact Keeps.refl _)
    | (cases h; exact ⟨rfl, rfl, rfl, rfl⟩)
    | (cases h; simp [Keeps])

theorem vecWrite_keep {s : State} {c : Nat} {x : Core} {dst : Int} {k : Nat} {vals : List Nat} {busy slow : Nat}
    {done : Completion} {t} (h : vecWrite s c x dst k vals busy slow done = .ok t) : Keeps s t.1 := by
  unfold vecWrite at h
  split at h
  · cases h
  · cases h; exact ⟨rfl, rfl, rfl, rfl⟩

theorem vecResult_keep {s : State} {c : Nat} {x : Core} {o : VecOps} {slot k : Nat} {f : ResFmt} {vals : List Nat} {busy slow : Nat}
    {done : Completion} {t} (h : vecResult s c x o slot k f vals busy slow done = .ok t) : Keeps s t.1 := by
  unfold vecResult at h
  split at h
  · cases h; exact ⟨rfl, rfl, rfl, rfl⟩
  · exact vecWrite_keep h

theorem doElement_keep {s : State} {c : ℕ} {slot : ℕ} {o : VecOps} {t}
    (h : doElement s c slot o = .ok t) : Keeps s t.1 := by
  unfold doElement at h
  simp only [bind, Except.bind] at h
  repeat' split at h
  all_goals first
    | (cases h; done)
    | exact vecResult_keep h
    | exact vecWrite_keep h
    | (cases h; exact Keeps.refl _)
    | (cases h; exact ⟨rfl, rfl, rfl, rfl⟩)
    | (cases h; simp [Keeps])

theorem doConvert_keep {s : State} {c : ℕ} {slot : ℕ} {o : VecOps} {t}
    (h : doConvert s c slot o = .ok t) : Keeps s t.1 := by
  unfold doConvert at h
  simp only [bind, Except.bind] at h
  repeat' split at h
  all_goals first
    | (cases h; done)
    | exact vecResult_keep h
    | exact vecWrite_keep h
    | (cases h; exact Keeps.refl _)
    | (cases h; exact ⟨rfl, rfl, rfl, rfl⟩)
    | (cases h; simp [Keeps])

theorem doFunc_keep {s : State} {c : ℕ} {slot : ℕ} {o : VecOps} {t}
    (h : doFunc s c slot o = .ok t) : Keeps s t.1 := by
  unfold doFunc at h
  simp only [bind, Except.bind] at h
  repeat' split at h
  all_goals first
    | (cases h; done)
    | exact vecResult_keep h
    | exact vecWrite_keep h
    | (cases h; exact Keeps.refl _)
    | (cases h; exact ⟨rfl, rfl, rfl, rfl⟩)
    | (cases h; simp [Keeps])

theorem doReduce_keep {s : State} {c : ℕ} {slot : ℕ} {o : VecOps} {t}
    (h : doReduce s c slot o = .ok t) : Keeps s t.1 := by
  unfold doReduce at h
  simp only [bind, Except.bind] at h
  repeat' split at h
  all_goals first
    | (cases h; done)
    | exact vecResult_keep h
    | exact vecWrite_keep h
    | (cases h; exact Keeps.refl _)
    | (cases h; exact ⟨rfl, rfl, rfl, rfl⟩)
    | (cases h; simp [Keeps])

theorem doSoftmax_keep {s : State} {c : ℕ} {slot : ℕ} {o : VecOps} {t}
    (h : doSoftmax s c slot o = .ok t) : Keeps s t.1 := by
  unfold doSoftmax at h
  simp only [bind, Except.bind] at h
  repeat' split at h
  all_goals first
    | (cases h; done)
    | exact vecResult_keep h
    | exact vecWrite_keep h
    | (cases h; exact Keeps.refl _)
    | (cases h; exact ⟨rfl, rfl, rfl, rfl⟩)
    | (cases h; simp [Keeps])

theorem doQuant_keep {s : State} {c : ℕ} {slot : ℕ} {o : VecOps} {t}
    (h : doQuant s c slot o = .ok t) : Keeps s t.1 := by
  unfold doQuant at h
  simp only [bind, Except.bind] at h
  repeat' split at h
  all_goals first
    | (cases h; done)
    | exact vecResult_keep h
    | exact vecWrite_keep h
    | (cases h; exact Keeps.refl _)
    | (cases h; exact ⟨rfl, rfl, rfl, rfl⟩)
    | (cases h; simp [Keeps])

theorem doRescale_keep {s : State} {c : ℕ} {slot : ℕ} {o : VecOps} {t}
    (h : doRescale s c slot o = .ok t) : Keeps s t.1 := by
  unfold doRescale at h
  simp only [bind, Except.bind] at h
  repeat' split at h
  all_goals first
    | (cases h; done)
    | exact vecResult_keep h
    | exact vecWrite_keep h
    | (cases h; exact Keeps.refl _)
    | (cases h; exact ⟨rfl, rfl, rfl, rfl⟩)
    | (cases h; simp [Keeps])

theorem doGate_keep {s : State} {c : ℕ} {slot : ℕ} {o : VecOps} {t}
    (h : doGate s c slot o = .ok t) : Keeps s t.1 := by
  unfold doGate at h
  simp only [bind, Except.bind] at h
  repeat' split at h
  all_goals first
    | (cases h; done)
    | exact vecResult_keep h
    | exact vecWrite_keep h
    | (cases h; exact Keeps.refl _)
    | (cases h; exact ⟨rfl, rfl, rfl, rfl⟩)
    | (cases h; simp [Keeps])

theorem doHadamard_keep {s : State} {c : ℕ} {slot : ℕ} {o : VecOps} {t}
    (h : doHadamard s c slot o = .ok t) : Keeps s t.1 := by
  unfold doHadamard at h
  simp only [bind, Except.bind] at h
  repeat' split at h
  all_goals first
    | (cases h; done)
    | exact vecResult_keep h
    | exact vecWrite_keep h
    | (cases h; exact Keeps.refl _)
    | (cases h; exact ⟨rfl, rfl, rfl, rfl⟩)
    | (cases h; simp [Keeps])

theorem doUpsample_keep {s : State} {c : ℕ} {slot : ℕ} {o : VecOps} {t}
    (h : doUpsample s c slot o = .ok t) : Keeps s t.1 := by
  unfold doUpsample at h
  simp only [bind, Except.bind] at h
  repeat' split at h
  all_goals first
    | (cases h; done)
    | exact vecResult_keep h
    | exact vecWrite_keep h
    | (cases h; exact Keeps.refl _)
    | (cases h; exact ⟨rfl, rfl, rfl, rfl⟩)
    | (cases h; simp [Keeps])

theorem doSample_keep {s : State} {c : ℕ} {o : SampleOps} {t}
    (h : doSample s c o = .ok t) : Keeps s t.1 := by
  unfold doSample at h
  simp only [bind, Except.bind] at h
  repeat' split at h
  all_goals first
    | (cases h; done)
    | exact vecResult_keep h
    | exact vecWrite_keep h
    | (cases h; exact Keeps.refl _)
    | (cases h; exact ⟨rfl, rfl, rfl, rfl⟩)
    | (cases h; simp [Keeps])

theorem doMark_keep {s : State} {c : Nat} {o : MarkOps} {t} (h : doMark s c o = .ok t) : Keeps s t.1 := by
  unfold doMark at h
  simp only [bind, Except.bind] at h
  repeat' split at h
  all_goals cases h
  · exact ⟨rfl, rfl, rfl, rfl⟩
  · refine Keeps.trans (b := setCore _ _ _) ⟨rfl, rfl, rfl, rfl⟩ (Keeps.foldl (fun s e => ?_) _ _)
    split
    · exact .refl _
    · split
      · exact .refl _
      · simp [Keeps]

theorem doCompatLoad_keep {s : State} {c slot : Nat} {spad : W32} {t} (h : doCompatLoad s c slot spad = .ok t) :
    Keeps s t.1 := by
  unfold doCompatLoad at h
  extract_lets x at h
  generalize spadRead x (spad.toNat : Int) compatBytes = r at h
  cases r with
  | error e => cases h
  | ok bs =>
    simp only [bind, Except.bind] at h
    split at h
    · cases h; exact .refl _
    · simp only [Except.ok.injEq] at h
      subst h
      simp [Keeps]

theorem doCompatSave_keep {s : State} {c slot : Nat} {spad : W32} {t} (h : doCompatSave s c slot spad = .ok t) :
    Keeps s t.1 := by
  unfold doCompatSave at h
  dsimp only at h
  generalize spadIn _ _ = f at h
  split at h
  · cases f
    · cases h
    · simp only [if_true, Except.ok.injEq] at h
      subst h; exact Keeps.refl s
  · split at h
    · cases h
    · rename_i ls _
      generalize spadWrite (coreOf s c) (spad.toNat : Int) (compatSegment ls) = r at h
      cases r with
      | error e => simp [bind, Except.bind] at h
      | ok y =>
        simp only [bind, Except.bind, Except.ok.injEq] at h
        subst h
        simp [Keeps]

theorem doDraw_keep {s : State} {c : ℕ} {slot : ℕ} {o : DrawOps} {t}
    (h : doDraw s c slot o = .ok t) : Keeps s t.1 := by
  unfold doDraw at h
  simp only [bind, Except.bind] at h
  repeat' split at h
  all_goals first
    | (cases h; done)
    | exact vecResult_keep h
    | exact vecWrite_keep h
    | (cases h; exact Keeps.refl _)
    | (cases h; exact ⟨rfl, rfl, rfl, rfl⟩)
    | (cases h; simp [Keeps])

end Sys2Proof.Machine
end

