-- ==== Sys2Proof/Laws/KeepSess.lean ====
section
/-!
SUPPORT. Sys2Proof/Laws/KeepSess.lean: what the operations on sessions, transfers, save and restore, containment, admission and audio ports keep.
-/
namespace Sys2Proof.Machine

open Sys2Proof

@[simp] theorem modYealm_keep (s : State) (y : ℕ) (f : Yealm → Yealm) :
    (modYealm s y f).pending = s.pending ∧
      (modYealm s y f).flash = s.flash ∧
      (modYealm s y f).fuses = s.fuses ∧
      (modYealm s y f).thatch = s.thatch := by
  simp [modYealm]

@[simp] theorem modBay_keep (s : State) (b : ℕ) (f : Bay → Bay) :
    (modBay s b f).pending = s.pending ∧
      (modBay s b f).flash = s.flash ∧
      (modBay s b f).fuses = s.fuses ∧
      (modBay s b f).thatch = s.thatch := by
  simp [modBay]

@[simp] theorem putPos_keep (s : State) (i : ℕ) (p : Pos) :
    (putPos s i p).pending = s.pending ∧
      (putPos s i p).flash = s.flash ∧
      (putPos s i p).fuses = s.fuses ∧
      (putPos s i p).thatch = s.thatch := by
  unfold putPos; split <;> simp

@[simp] theorem streamTo_keep (s : State) (ss : Session) (typ : ℕ) (body : List Byte) (cls : MsgClass) :
    (streamTo s ss typ body cls).1.pending = s.pending ∧
      (streamTo s ss typ body cls).1.flash = s.flash ∧
      (streamTo s ss typ body cls).1.fuses = s.fuses ∧
      (streamTo s ss typ body cls).1.thatch = s.thatch := by
  unfold streamTo; split <;> simp

@[simp] theorem sendGap_keep (s : State) (i : ℕ) :
    (sendGap s i).pending = s.pending ∧
      (sendGap s i).flash = s.flash ∧
      (sendGap s i).fuses = s.fuses ∧
      (sendGap s i).thatch = s.thatch := by
  unfold sendGap; split <;> simp

@[simp] theorem gapMsg_keep (s : State) (i : ℕ) :
    (gapMsg s i).pending = s.pending ∧
      (gapMsg s i).flash = s.flash ∧
      (gapMsg s i).fuses = s.fuses ∧
      (gapMsg s i).thatch = s.thatch := by
  simp [gapMsg]

@[simp] theorem gapAudio_keep (s : State) (i : ℕ) (first : ℕ) (n : ℕ) :
    (gapAudio s i first n).pending = s.pending ∧
      (gapAudio s i first n).flash = s.flash ∧
      (gapAudio s i first n).fuses = s.fuses ∧
      (gapAudio s i first n).thatch = s.thatch := by
  simp [gapAudio]

@[simp] theorem sendEvent_keep (s : State) (i : ℕ) (code : ℕ) (status : ℕ) (sample : ℕ) (detail : ℕ) :
    (sendEvent s i code status sample detail).pending = s.pending ∧
      (sendEvent s i code status sample detail).flash = s.flash ∧
      (sendEvent s i code status sample detail).fuses = s.fuses ∧
      (sendEvent s i code status sample detail).thatch = s.thatch := by
  unfold sendEvent; split <;> simp

@[simp] theorem yealmEvents_keep (s : State) (y : ℕ) (code : ℕ) :
    (yealmEvents s y code).pending = s.pending ∧
      (yealmEvents s y code).flash = s.flash ∧
      (yealmEvents s y code).fuses = s.fuses ∧
      (yealmEvents s y code).thatch = s.thatch := by
  simp [yealmEvents]

@[simp] theorem fixState_keep (s : State) (i : ℕ) :
    (fixState s i).pending = s.pending ∧
      (fixState s i).flash = s.flash ∧
      (fixState s i).fuses = s.fuses ∧
      (fixState s i).thatch = s.thatch := by
  simp [fixState]

@[simp] theorem modRcd_keep (s : State) (y : ℕ) (f : CommitRec → CommitRec) :
    (modRcd s y f).pending = s.pending ∧ (modRcd s y f).flash = s.flash ∧ (modRcd s y f).fuses = s.fuses ∧
      (modRcd s y f).thatch = s.thatch := by
  simp [modRcd]

@[simp] theorem clearPrev_keep (s : State) (i : ℕ) :
    (clearPrev s i).pending = s.pending ∧
      (clearPrev s i).flash = s.flash ∧
      (clearPrev s i).fuses = s.fuses ∧
      (clearPrev s i).thatch = s.thatch := by
  unfold clearPrev; repeat' split
  all_goals simp

@[simp] theorem dropChunk_keep (s : State) (i : ℕ) :
    (dropChunk s i).pending = s.pending ∧
      (dropChunk s i).flash = s.flash ∧
      (dropChunk s i).fuses = s.fuses ∧
      (dropChunk s i).thatch = s.thatch := by
  unfold dropChunk; dsimp only; repeat' split
  all_goals simp_all

@[simp] theorem stopOne_keep (i : ℕ) (sample : ℕ) (first : ℕ) (s : State) (w : StopWait) :
    (stopOne i sample first s w).pending = s.pending ∧
      (stopOne i sample first s w).flash = s.flash ∧
      (stopOne i sample first s w).fuses = s.fuses ∧
      (stopOne i sample first s w).thatch = s.thatch := by
  unfold stopOne; split <;> simp

@[simp] theorem stopPoint_keep (s : State) (i : ℕ) :
    (stopPoint s i).pending = s.pending ∧
      (stopPoint s i).flash = s.flash ∧
      (stopPoint s i).fuses = s.fuses ∧
      (stopPoint s i).thatch = s.thatch := by
  unfold stopPoint; repeat' split
  all_goals simp

@[simp] theorem unstartUtt_keep (s : State) (i : ℕ) :
    (unstartUtt s i).pending = s.pending ∧
      (unstartUtt s i).flash = s.flash ∧
      (unstartUtt s i).fuses = s.fuses ∧
      (unstartUtt s i).thatch = s.thatch := by
  simp [unstartUtt]

theorem doDescWrite_keep {s : State} {c : ℕ} {desc : Byte} {constAt : W32} {t}
    (h : doDescWrite s c desc constAt = .ok t) : Keeps s t.1 := by
  unfold doDescWrite at h
  simp only [bind, Except.bind] at h
  repeat' split at h
  all_goals first
    | (cases h; done)
    | exact vecWrite_keep h
    | (cases h; exact Keeps.refl _)
    | (cases h; exact ⟨rfl, rfl, rfl, rfl⟩)
    | (cases h; simp [Keeps])

theorem doRingWrite_keep {s : State} {c : ℕ} {ring : Byte} {constAt : W32} {t}
    (h : doRingWrite s c ring constAt = .ok t) : Keeps s t.1 := by
  unfold doRingWrite at h
  simp only [bind, Except.bind] at h
  repeat' split at h
  all_goals first
    | (cases h; done)
    | exact vecWrite_keep h
    | (cases h; exact Keeps.refl _)
    | (cases h; exact ⟨rfl, rfl, rfl, rfl⟩)
    | (cases h; simp [Keeps])

theorem doArm_keep {s : State} {c : ℕ} {slot : ℕ} {post : Post} {o : ArmOps} {t}
    (h : doArm s c slot post o = .ok t) : Keeps s t.1 := by
  unfold doArm at h
  simp only [bind, Except.bind] at h
  repeat' split at h
  all_goals first
    | (cases h; done)
    | exact vecWrite_keep h
    | (cases h; exact Keeps.refl _)
    | (cases h; exact ⟨rfl, rfl, rfl, rfl⟩)
    | (cases h; simp [Keeps])

theorem readRow_keep {s : State} {c : Nat} {t : Transfer} {i : Nat} {r} (h : readRow s c t i = .ok r) : Keeps s r.2 := by
  unfold readRow at h
  dsimp only at h
  repeat' split at h
  all_goals first
    | (cases h; done)
    | (cases h; exact Keeps.refl _)
    | (cases h; simp [Keeps])

@[simp] theorem sessWrite_keep (s : State) (i : ℕ) (r : ℕ) (off : ℕ) (bs : List Byte) :
    (sessWrite s i r off bs).pending = s.pending ∧
      (sessWrite s i r off bs).flash = s.flash ∧
      (sessWrite s i r off bs).fuses = s.fuses ∧
      (sessWrite s i r off bs).thatch = s.thatch := by
  simp [sessWrite]

theorem writeRow_mem {s : State} {c : Nat} {t : Transfer} {i : Nat} {bs : List Byte} {r} (h : writeRow s c t i bs = .ok r) :
    KeepsMem s r := by
  unfold writeRow at h
  dsimp only at h
  split at h
  · split at h
    · cases h
    · cases h; exact Keeps.mem ⟨rfl, rfl, rfl, rfl⟩
  · split at h
    · cases h
    · rename_i k
      cases h
      exact (bayWrite_mem k).trans (Keeps.mem (by simp [Keeps]))
  · cases h; exact Keeps.mem (by simp [Keeps])

theorem copyRows_mem {c : Nat} {t : Transfer} {n i : Nat} {s r : State} (h : copyRows c t n i s = .ok r) : KeepsMem s r := by
  induction n generalizing i s with
  | zero => cases h; exact .refl _
  | succ n ih =>
    unfold copyRows at h
    split at h
    · cases h
    · rename_i k
      split at h
      · cases h
      · rename_i k2
        exact (readRow_keep k).mem.trans ((writeRow_mem k2).trans (ih h))

@[simp] theorem moveRingPtr_keep (s : State) (e : XferEnd) (n : ℕ) :
    (moveRingPtr s e n).pending = s.pending ∧
      (moveRingPtr s e n).flash = s.flash ∧
      (moveRingPtr s e n).fuses = s.fuses ∧
      (moveRingPtr s e n).thatch = s.thatch := by
  unfold moveRingPtr; repeat' split
  all_goals simp

theorem runXfer_mem {s : State} {c : Nat} {t : Transfer} {r : State} (h : runXfer s c t = .ok r) : KeepsMem s r := by
  unfold runXfer at h
  split at h
  · cases h
  · rename_i k
    cases h
    exact (copyRows_mem k).trans (Keeps.mem (by simp [Keeps]))

theorem doRestore_keep {s : State} {c : ℕ} {slot : ℕ} {o : SrOps} {t}
    (h : doRestore s c slot o = .ok t) : Keeps s t.1 := by
  unfold doRestore at h
  simp only [bind, Except.bind] at h
  repeat' split at h
  all_goals first
    | (cases h; done)
    | exact vecWrite_keep h
    | (cases h; exact Keeps.refl _)
    | (cases h; exact ⟨rfl, rfl, rfl, rfl⟩)
    | (cases h; simp [Keeps])

theorem doSave_keep {s : State} {c : ℕ} {slot : ℕ} {o : SrOps} {t}
    (h : doSave s c slot o = .ok t) : Keeps s t.1 := by
  unfold doSave at h
  simp only [bind, Except.bind] at h
  repeat' split at h
  all_goals first
    | (cases h; done)
    | exact vecWrite_keep h
    | (cases h; exact Keeps.refl _)
    | (cases h; exact ⟨rfl, rfl, rfl, rfl⟩)
    | (cases h; simp [Keeps])

theorem doSpill_keep {s : State} {c : ℕ} {o : SrOps} {t}
    (h : doSpill s c o = .ok t) : Keeps s t.1 := by
  unfold doSpill at h
  simp only [bind, Except.bind] at h
  repeat' split at h
  all_goals first
    | (cases h; done)
    | exact vecWrite_keep h
    | (cases h; exact Keeps.refl _)
    | (cases h; exact ⟨rfl, rfl, rfl, rfl⟩)
    | (cases h; simp [Keeps])

theorem doUnspill_keep {s : State} {c : ℕ} {o : SrOps} {t}
    (h : doUnspill s c o = .ok t) : Keeps s t.1 := by
  unfold doUnspill at h
  simp only [bind, Except.bind] at h
  repeat' split at h
  all_goals first
    | (cases h; done)
    | exact vecWrite_keep h
    | (cases h; exact Keeps.refl _)
    | (cases h; exact ⟨rfl, rfl, rfl, rfl⟩)
    | (cases h; simp [Keeps])

@[simp] theorem gpCnt_keep (s : State) (k : ℕ) :
    (gpCnt s k).pending = s.pending ∧
      (gpCnt s k).flash = s.flash ∧
      (gpCnt s k).fuses = s.fuses ∧
      (gpCnt s k).thatch = s.thatch := by
  simp [gpCnt]

@[simp] theorem bayCnt_keep (s : State) (b : ℕ) (k : ℕ) (n : ℕ) :
    (bayCnt s b k n).pending = s.pending ∧
      (bayCnt s b k n).flash = s.flash ∧
      (bayCnt s b k n).fuses = s.fuses ∧
      (bayCnt s b k n).thatch = s.thatch := by
  simp [bayCnt]

@[simp] theorem bayMax_keep (s : State) (b : ℕ) (k : ℕ) (n : ℕ) :
    (bayMax s b k n).pending = s.pending ∧
      (bayMax s b k n).flash = s.flash ∧
      (bayMax s b k n).fuses = s.fuses ∧
      (bayMax s b k n).thatch = s.thatch := by
  simp [bayMax]

@[simp] theorem stopWork_keep (s : State) (b : ℕ) (gid : ℕ) :
    (stopWork s b gid).pending = s.pending ∧
      (stopWork s b gid).flash = s.flash ∧
      (stopWork s b gid).fuses = s.fuses ∧
      (stopWork s b gid).thatch = s.thatch := by
  simp [stopWork]

@[simp] theorem dropSpills_keep (s : State) (y : ℕ) :
    (dropSpills s y).pending = s.pending ∧
      (dropSpills s y).flash = s.flash ∧
      (dropSpills s y).fuses = s.fuses ∧
      (dropSpills s y).thatch = s.thatch := by
  simp [dropSpills]

@[simp] theorem giveUp_keep (s : State) (b : ℕ) (y : ℕ) :
    (giveUp s b y).pending = s.pending ∧
      (giveUp s b y).flash = s.flash ∧
      (giveUp s b y).fuses = s.fuses ∧
      (giveUp s b y).thatch = s.thatch := by
  simp [giveUp]

@[simp] theorem failWork_keep (s : State) (b : ℕ) (gid : ℕ) (y : ℕ) :
    (failWork s b gid y).pending = s.pending ∧
      (failWork s b gid y).flash = s.flash ∧
      (failWork s b gid y).fuses = s.fuses ∧
      (failWork s b gid y).thatch = s.thatch := by
  simp [failWork]

@[simp] theorem failCore_keep (s : State) (c : ℕ) :
    (failCore s c).pending = s.pending ∧
      (failCore s c).flash = s.flash ∧
      (failCore s c).fuses = s.fuses ∧
      (failCore s c).thatch = s.thatch := by
  unfold failCore; split <;> simp

@[simp] theorem coreFault_keep (s : State) (c : ℕ) (f : FaultEvent) :
    (coreFault s c f).pending = s.pending ∧
      (coreFault s c f).flash = s.flash ∧
      (coreFault s c f).fuses = s.fuses ∧
      (coreFault s c f).thatch = s.thatch := by
  simp [coreFault]

@[simp] theorem ioUse_keep (s : State) (i n : ℕ) :
    (ioUse s i n).pending = s.pending ∧ (ioUse s i n).flash = s.flash ∧ (ioUse s i n).fuses = s.fuses ∧
      (ioUse s i n).thatch = s.thatch := by
  unfold ioUse; repeat' split
  all_goals simp_all

@[simp] theorem ioOut_keep (s : State) (i n : ℕ) :
    (ioOut s i n).pending = s.pending ∧ (ioOut s i n).flash = s.flash ∧ (ioOut s i n).fuses = s.fuses ∧
      (ioOut s i n).thatch = s.thatch := by
  unfold ioOut; repeat' split
  all_goals simp_all

theorem ringSpan_keep {f : State → Area → Nat → Nat → State} (h : ∀ s a o n, Keeps s (f s a o n)) (s : State) (i r e n : Nat) :
    Keeps s (ringSpan f s i r e n) := by
  unfold ringSpan; dsimp only; repeat' split
  · exact .refl s
  · exact h _ _ _ _
  · exact (h _ _ _ _).trans (h _ _ _ _)

@[simp] theorem ringWritten_keep (s : State) (i r n : ℕ) :
    (ringWritten s i r n).pending = s.pending ∧ (ringWritten s i r n).flash = s.flash ∧ (ringWritten s i r n).fuses = s.fuses ∧
      (ringWritten s i r n).thatch = s.thatch := by
  unfold ringWritten
  split
  · simp
  · have h := ringSpan_keep (f := areaWrote) (fun s a o n => by simp [Keeps]) s i r
    simp only [Keeps] at h
    simp [h]

@[simp] theorem ringTaken_keep (s : State) (i r n : ℕ) :
    (ringTaken s i r n).pending = s.pending ∧ (ringTaken s i r n).flash = s.flash ∧ (ringTaken s i r n).fuses = s.fuses ∧
      (ringTaken s i r n).thatch = s.thatch := by
  unfold ringTaken
  split
  · simp
  · have h := ringSpan_keep (f := areaRead) (fun s a o n => by simp [Keeps]) s i r
    simp only [Keeps] at h
    simp [h]

@[simp] theorem eavesTaken_keep (s : State) (i o n : ℕ) :
    (eavesTaken s i o n).pending = s.pending ∧ (eavesTaken s i o n).flash = s.flash ∧ (eavesTaken s i o n).fuses = s.fuses ∧
      (eavesTaken s i o n).thatch = s.thatch := by
  simp [eavesTaken]

@[simp] theorem audioDgram_keep (s : State) (i c : ℕ) (body : List Byte) (dual : Bool) (first n : ℕ) :
    (audioDgram s i c body dual first n).pending = s.pending ∧ (audioDgram s i c body dual first n).flash = s.flash ∧ (audioDgram s i c body dual first n).fuses = s.fuses ∧
      (audioDgram s i c body dual first n).thatch = s.thatch := by
  unfold audioDgram; dsimp only; repeat' split
  all_goals simp_all

@[simp] theorem sendAudio_keep (s : State) (i c first n flags : ℕ) :
    (sendAudio s i c first n flags).pending = s.pending ∧ (sendAudio s i c first n flags).flash = s.flash ∧ (sendAudio s i c first n flags).fuses = s.fuses ∧
      (sendAudio s i c first n flags).thatch = s.thatch := by
  unfold sendAudio; dsimp only; repeat' split
  all_goals simp_all

@[simp] theorem moveIo_keep (s : State) (i r n : ℕ) :
    (moveIo s i r n).pending = s.pending ∧ (moveIo s i r n).flash = s.flash ∧ (moveIo s i r n).fuses = s.fuses ∧
      (moveIo s i r n).thatch = s.thatch := by
  simp [moveIo]

@[simp] theorem takeEvents_keep (i : ℕ) (ok : ℕ → ℕ → Bool) (n : ℕ) (s : State) :
    (takeEvents i ok n s).pending = s.pending ∧ (takeEvents i ok n s).flash = s.flash ∧ (takeEvents i ok n s).fuses = s.fuses ∧
      (takeEvents i ok n s).thatch = s.thatch := by
  induction n generalizing s with
  | zero => simp [takeEvents]
  | succ n ih =>
    unfold takeEvents; dsimp only; repeat' split
    all_goals simp [ih]

@[simp] theorem takeMarks_keep (s : State) (i n : ℕ) :
    (takeMarks s i n).pending = s.pending ∧ (takeMarks s i n).flash = s.flash ∧ (takeMarks s i n).fuses = s.fuses ∧
      (takeMarks s i n).thatch = s.thatch := by
  unfold takeMarks; dsimp only; repeat' split
  all_goals simp_all

@[simp] theorem takeChunk_keep (i : ℕ) (s : State) :
    (takeChunk i s).pending = s.pending ∧ (takeChunk i s).flash = s.flash ∧ (takeChunk i s).fuses = s.fuses ∧
      (takeChunk i s).thatch = s.thatch := by
  unfold takeChunk; dsimp only; repeat' split
  all_goals simp_all

@[simp] theorem takeOutput_keep (s : State) (i : ℕ) :
    (takeOutput s i).pending = s.pending ∧ (takeOutput s i).flash = s.flash ∧ (takeOutput s i).fuses = s.fuses ∧
      (takeOutput s i).thatch = s.thatch := by
  unfold takeOutput; dsimp only; repeat' split
  all_goals simp_all

@[simp] theorem loseSession_keep (s : State) (source i : ℕ) :
    (loseSession s source i).pending = s.pending ∧ (loseSession s source i).flash = s.flash ∧ (loseSession s source i).fuses = s.fuses ∧
      (loseSession s source i).thatch = s.thatch := by
  unfold loseSession; dsimp only; repeat' split
  · simp
  · simp
  · exact Keeps.trans (by simp [Keeps]) (Keeps.foldl (fun s e => by simp [Keeps]) _ _)

@[simp] theorem halfLost_keep (s : State) (i : ℕ) :
    (halfLost s i).pending = s.pending ∧ (halfLost s i).flash = s.flash ∧ (halfLost s i).fuses = s.fuses ∧
      (halfLost s i).thatch = s.thatch := by
  unfold halfLost; dsimp only; repeat' split
  all_goals simp_all

@[simp] theorem halfHit_keep (s : State) (i phys : ℕ) :
    (halfHit s i phys).pending = s.pending ∧ (halfHit s i phys).flash = s.flash ∧ (halfHit s i phys).fuses = s.fuses ∧
      (halfHit s i phys).thatch = s.thatch := by
  unfold halfHit; repeat' split
  all_goals simp_all

@[simp] theorem modBuild_keep (s : State) (id : W64) (f : Build → Build) :
    (modBuild s id f).pending = s.pending ∧ (modBuild s id f).flash = s.flash ∧ (modBuild s id f).fuses = s.fuses ∧
      (modBuild s id f).thatch = s.thatch := by
  simp [modBuild]

@[simp] theorem fixPaused_keep (s : State) :
    (fixPaused s).pending = s.pending ∧ (fixPaused s).flash = s.flash ∧ (fixPaused s).fuses = s.fuses ∧
      (fixPaused s).thatch = s.thatch := by
  simp [fixPaused]

@[simp] theorem failBay_keep (s : State) (i : ℕ) :
    (failBay s i).pending = s.pending ∧ (failBay s i).flash = s.flash ∧ (failBay s i).fuses = s.fuses ∧
      (failBay s i).thatch = s.thatch := by
  simp [failBay]

@[simp] theorem pageLost_keep (s : State) (id : W64) (k p : ℕ) :
    (pageLost s id k p).pending = s.pending ∧ (pageLost s id k p).flash = s.flash ∧ (pageLost s id k p).fuses = s.fuses ∧
      (pageLost s id k p).thatch = s.thatch := by
  unfold pageLost; dsimp only; repeat' split
  all_goals simp_all

@[simp] theorem memFault_keep (s : State) (c src phys : ℕ) :
    (memFault s c src phys).pending = s.pending ∧ (memFault s c src phys).flash = s.flash ∧ (memFault s c src phys).fuses = s.fuses ∧
      (memFault s c src phys).thatch = s.thatch := by
  unfold memFault; dsimp only; repeat' split
  all_goals simp_all

@[simp] theorem cmdFault_keep (s : State) (c : ℕ) (src : ℕ) (unit : ℕ) (index : ℕ) :
    (cmdFault s c src unit index).pending = s.pending ∧
      (cmdFault s c src unit index).flash = s.flash ∧
      (cmdFault s c src unit index).fuses = s.fuses ∧
      (cmdFault s c src unit index).thatch = s.thatch := by
  unfold cmdFault; split <;> simp

@[simp] theorem linkFault_keep (s : State) (b : ℕ) (gid : ℕ) (y : ℕ) (f : FaultEvent) :
    (linkFault s b gid y f).pending = s.pending ∧
      (linkFault s b gid y f).flash = s.flash ∧
      (linkFault s b gid y f).fuses = s.fuses ∧
      (linkFault s b gid y f).thatch = s.thatch := by
  simp [linkFault]

@[simp] theorem suspend_keep (s : State) (i : ℕ) (y : ℕ) :
    (suspend s i y).pending = s.pending ∧
      (suspend s i y).flash = s.flash ∧
      (suspend s i y).fuses = s.fuses ∧
      (suspend s i y).thatch = s.thatch := by
  simp [suspend]

@[simp] theorem readmit_keep (s : State) (y : ℕ) :
    (readmit s y).pending = s.pending ∧
      (readmit s y).flash = s.flash ∧
      (readmit s y).fuses = s.fuses ∧
      (readmit s y).thatch = s.thatch := by
  simp [readmit]

@[simp] theorem admitBay_keep (s : State) (i : ℕ) :
    (admitBay s i).pending = s.pending ∧
      (admitBay s i).flash = s.flash ∧
      (admitBay s i).fuses = s.fuses ∧
      (admitBay s i).thatch = s.thatch := by
  unfold admitBay; split <;> simp

@[simp] theorem setTdm_keep (s : State) (n : ℕ) (t : Tdm) :
    (setTdm s n t).pending = s.pending ∧
      (setTdm s n t).flash = s.flash ∧
      (setTdm s n t).fuses = s.fuses ∧
      (setTdm s n t).thatch = s.thatch := by
  simp [setTdm]

@[simp] theorem modTdm_keep (s : State) (n : ℕ) (f : Tdm → Tdm) :
    (modTdm s n f).pending = s.pending ∧
      (modTdm s n f).flash = s.flash ∧
      (modTdm s n f).fuses = s.fuses ∧
      (modTdm s n f).thatch = s.thatch := by
  simp [modTdm]

@[simp] theorem modTslot_keep (s : State) (n : ℕ) (i : ℕ) (f : TSlot → TSlot) :
    (modTslot s n i f).pending = s.pending ∧
      (modTslot s n i f).flash = s.flash ∧
      (modTslot s n i f).fuses = s.fuses ∧
      (modTslot s n i f).thatch = s.thatch := by
  simp [modTslot]

@[simp] theorem tdmCnt_keep (s : State) (n : ℕ) (k : ℕ) (m : ℕ) :
    (tdmCnt s n k m).pending = s.pending ∧
      (tdmCnt s n k m).flash = s.flash ∧
      (tdmCnt s n k m).fuses = s.fuses ∧
      (tdmCnt s n k m).thatch = s.thatch := by
  simp [tdmCnt]

@[simp] theorem tdmLagMax_keep (s : State) (n : ℕ) (us : ℕ) :
    (tdmLagMax s n us).pending = s.pending ∧
      (tdmLagMax s n us).flash = s.flash ∧
      (tdmLagMax s n us).fuses = s.fuses ∧
      (tdmLagMax s n us).thatch = s.thatch := by
  simp [tdmLagMax]

@[simp] theorem clearSlot_keep (s : State) (n : ℕ) (i : ℕ) :
    (clearSlot s n i).pending = s.pending ∧
      (clearSlot s n i).flash = s.flash ∧
      (clearSlot s n i).fuses = s.fuses ∧
      (clearSlot s n i).thatch = s.thatch := by
  simp [clearSlot]

@[simp] theorem clearPort_keep (s : State) (n : ℕ) :
    (clearPort s n).pending = s.pending ∧
      (clearPort s n).flash = s.flash ∧
      (clearPort s n).fuses = s.fuses ∧
      (clearPort s n).thatch = s.thatch := by
  simp [clearPort]

@[simp] theorem tdmFeed_keep (s : State) (n : ℕ) (i : ℕ) (session : ℕ) (chunk : ℕ) (codes : List ℤ) :
    (tdmFeed s n i session chunk codes).pending = s.pending ∧
      (tdmFeed s n i session chunk codes).flash = s.flash ∧
      (tdmFeed s n i session chunk codes).fuses = s.fuses ∧
      (tdmFeed s n i session chunk codes).thatch = s.thatch := by
  simp [tdmFeed]

end Sys2Proof.Machine
end

