-- ==== Sys2Proof/Laws/State.lean ====
section
/-!
SUPPORT. Sys2Proof/Laws/State.lean: for each update of one field of the state, what every other field holds after it.
-/
namespace Sys2Proof.Machine

open Sys2Proof

variable (s : State)

/-! ### `setCore` writes `cores` -/

@[simp] theorem setCore_pending (c : Nat) (x : Core) : (setCore s c x).pending = s.pending := rfl
@[simp] theorem setCore_now (c : Nat) (x : Core) : (setCore s c x).now = s.now := rfl
@[simp] theorem setCore_fresh (c : Nat) (x : Core) : (setCore s c x).fresh = s.fresh := rfl
@[simp] theorem setCore_wire (c : Nat) (x : Core) : (setCore s c x).wire = s.wire := rfl
@[simp] theorem setCore_boot (c : Nat) (x : Core) : (setCore s c x).boot = s.boot := rfl
@[simp] theorem setCore_fuses (c : Nat) (x : Core) : (setCore s c x).fuses = s.fuses := rfl
@[simp] theorem setCore_flash (c : Nat) (x : Core) : (setCore s c x).flash = s.flash := rfl
@[simp] theorem setCore_fault (c : Nat) (x : Core) : (setCore s c x).fault = s.fault := rfl
@[simp] theorem setCore_fatalRun (c : Nat) (x : Core) : (setCore s c x).fatalRun = s.fatalRun := rfl
@[simp] theorem setCore_lastReinit (c : Nat) (x : Core) : (setCore s c x).lastReinit = s.lastReinit := rfl
@[simp] theorem setCore_deviceRecoveries (c : Nat) (x : Core) : (setCore s c x).deviceRecoveries = s.deviceRecoveries := rfl
@[simp] theorem setCore_power (c : Nat) (x : Core) : (setCore s c x).power = s.power := rfl
@[simp] theorem setCore_chunk (c : Nat) (x : Core) : (setCore s c x).chunk = s.chunk := rfl
@[simp] theorem setCore_t0 (c : Nat) (x : Core) : (setCore s c x).t0 = s.t0 := rfl
@[simp] theorem setCore_ports (c : Nat) (x : Core) : (setCore s c x).ports = s.ports := rfl
@[simp] theorem setCore_conns (c : Nat) (x : Core) : (setCore s c x).conns = s.conns := rfl
@[simp] theorem setCore_epochs (c : Nat) (x : Core) : (setCore s c x).epochs = s.epochs := rfl
@[simp] theorem setCore_opened (c : Nat) (x : Core) : (setCore s c x).opened = s.opened := rfl
@[simp] theorem setCore_resets (c : Nat) (x : Core) : (setCore s c x).resets = s.resets := rfl
@[simp] theorem setCore_mail (c : Nat) (x : Core) : (setCore s c x).mail = s.mail := rfl
@[simp] theorem setCore_mailLast (c : Nat) (x : Core) : (setCore s c x).mailLast = s.mailLast := rfl
@[simp] theorem setCore_unanswered (c : Nat) (x : Core) : (setCore s c x).unanswered = s.unanswered := rfl
@[simp] theorem setCore_keeps (c : Nat) (x : Core) : (setCore s c x).keeps = s.keeps := rfl
@[simp] theorem setCore_snapshots (c : Nat) (x : Core) : (setCore s c x).snapshots = s.snapshots := rfl
@[simp] theorem setCore_recs (c : Nat) (x : Core) : (setCore s c x).recs = s.recs := rfl
@[simp] theorem setCore_log (c : Nat) (x : Core) : (setCore s c x).log = s.log := rfl
@[simp] theorem setCore_logNext (c : Nat) (x : Core) : (setCore s c x).logNext = s.logNext := rfl
@[simp] theorem setCore_latch (c : Nat) (x : Core) : (setCore s c x).latch = s.latch := rfl
@[simp] theorem setCore_units (c : Nat) (x : Core) : (setCore s c x).units = s.units := rfl
@[simp] theorem setCore_builds (c : Nat) (x : Core) : (setCore s c x).builds = s.builds := rfl
@[simp] theorem setCore_loads (c : Nat) (x : Core) : (setCore s c x).loads = s.loads := rfl
@[simp] theorem setCore_adapters (c : Nat) (x : Core) : (setCore s c x).adapters = s.adapters := rfl
@[simp] theorem setCore_stores (c : Nat) (x : Core) : (setCore s c x).stores = s.stores := rfl
@[simp] theorem setCore_bays (c : Nat) (x : Core) : (setCore s c x).bays = s.bays := rfl
@[simp] theorem setCore_yealms (c : Nat) (x : Core) : (setCore s c x).yealms = s.yealms := rfl
@[simp] theorem setCore_sessions (c : Nat) (x : Core) : (setCore s c x).sessions = s.sessions := rfl
@[simp] theorem setCore_gens (c : Nat) (x : Core) : (setCore s c x).gens = s.gens := rfl
@[simp] theorem setCore_sessLost (c : Nat) (x : Core) : (setCore s c x).sessLost = s.sessLost := rfl
@[simp] theorem setCore_spills (c : Nat) (x : Core) : (setCore s c x).spills = s.spills := rfl
@[simp] theorem setCore_mesh (c : Nat) (x : Core) : (setCore s c x).mesh = s.mesh := rfl
@[simp] theorem setCore_thatch (c : Nat) (x : Core) : (setCore s c x).thatch = s.thatch := rfl
@[simp] theorem setCore_channels (c : Nat) (x : Core) : (setCore s c x).channels = s.channels := rfl
@[simp] theorem setCore_scrubFound (c : Nat) (x : Core) : (setCore s c x).scrubFound = s.scrubFound := rfl
@[simp] theorem setCore_slices (c : Nat) (x : Core) : (setCore s c x).slices = s.slices := rfl
@[simp] theorem setCore_tdm (c : Nat) (x : Core) : (setCore s c x).tdm = s.tdm := rfl
@[simp] theorem setCore_pdm (c : Nat) (x : Core) : (setCore s c x).pdm = s.pdm := rfl
@[simp] theorem setCore_tap (c : Nat) (x : Core) : (setCore s c x).tap = s.tap := rfl
@[simp] theorem setCore_side (c : Nat) (x : Core) : (setCore s c x).side = s.side := rfl
@[simp] theorem setCore_gpCounters (c : Nat) (x : Core) : (setCore s c x).gpCounters = s.gpCounters := rfl

/-! ### `setChannel` writes `channels` -/

@[simp] theorem setChannel_pending (i : Nat) (x : Channel) : (setChannel s i x).pending = s.pending := rfl
@[simp] theorem setChannel_now (i : Nat) (x : Channel) : (setChannel s i x).now = s.now := rfl
@[simp] theorem setChannel_fresh (i : Nat) (x : Channel) : (setChannel s i x).fresh = s.fresh := rfl
@[simp] theorem setChannel_wire (i : Nat) (x : Channel) : (setChannel s i x).wire = s.wire := rfl
@[simp] theorem setChannel_boot (i : Nat) (x : Channel) : (setChannel s i x).boot = s.boot := rfl
@[simp] theorem setChannel_fuses (i : Nat) (x : Channel) : (setChannel s i x).fuses = s.fuses := rfl
@[simp] theorem setChannel_flash (i : Nat) (x : Channel) : (setChannel s i x).flash = s.flash := rfl
@[simp] theorem setChannel_fault (i : Nat) (x : Channel) : (setChannel s i x).fault = s.fault := rfl
@[simp] theorem setChannel_fatalRun (i : Nat) (x : Channel) : (setChannel s i x).fatalRun = s.fatalRun := rfl
@[simp] theorem setChannel_lastReinit (i : Nat) (x : Channel) : (setChannel s i x).lastReinit = s.lastReinit := rfl
@[simp] theorem setChannel_deviceRecoveries (i : Nat) (x : Channel) : (setChannel s i x).deviceRecoveries = s.deviceRecoveries := rfl
@[simp] theorem setChannel_power (i : Nat) (x : Channel) : (setChannel s i x).power = s.power := rfl
@[simp] theorem setChannel_chunk (i : Nat) (x : Channel) : (setChannel s i x).chunk = s.chunk := rfl
@[simp] theorem setChannel_t0 (i : Nat) (x : Channel) : (setChannel s i x).t0 = s.t0 := rfl
@[simp] theorem setChannel_ports (i : Nat) (x : Channel) : (setChannel s i x).ports = s.ports := rfl
@[simp] theorem setChannel_conns (i : Nat) (x : Channel) : (setChannel s i x).conns = s.conns := rfl
@[simp] theorem setChannel_epochs (i : Nat) (x : Channel) : (setChannel s i x).epochs = s.epochs := rfl
@[simp] theorem setChannel_opened (i : Nat) (x : Channel) : (setChannel s i x).opened = s.opened := rfl
@[simp] theorem setChannel_resets (i : Nat) (x : Channel) : (setChannel s i x).resets = s.resets := rfl
@[simp] theorem setChannel_mail (i : Nat) (x : Channel) : (setChannel s i x).mail = s.mail := rfl
@[simp] theorem setChannel_mailLast (i : Nat) (x : Channel) : (setChannel s i x).mailLast = s.mailLast := rfl
@[simp] theorem setChannel_unanswered (i : Nat) (x : Channel) : (setChannel s i x).unanswered = s.unanswered := rfl
@[simp] theorem setChannel_keeps (i : Nat) (x : Channel) : (setChannel s i x).keeps = s.keeps := rfl
@[simp] theorem setChannel_snapshots (i : Nat) (x : Channel) : (setChannel s i x).snapshots = s.snapshots := rfl
@[simp] theorem setChannel_recs (i : Nat) (x : Channel) : (setChannel s i x).recs = s.recs := rfl
@[simp] theorem setChannel_log (i : Nat) (x : Channel) : (setChannel s i x).log = s.log := rfl
@[simp] theorem setChannel_logNext (i : Nat) (x : Channel) : (setChannel s i x).logNext = s.logNext := rfl
@[simp] theorem setChannel_latch (i : Nat) (x : Channel) : (setChannel s i x).latch = s.latch := rfl
@[simp] theorem setChannel_units (i : Nat) (x : Channel) : (setChannel s i x).units = s.units := rfl
@[simp] theorem setChannel_builds (i : Nat) (x : Channel) : (setChannel s i x).builds = s.builds := rfl
@[simp] theorem setChannel_loads (i : Nat) (x : Channel) : (setChannel s i x).loads = s.loads := rfl
@[simp] theorem setChannel_adapters (i : Nat) (x : Channel) : (setChannel s i x).adapters = s.adapters := rfl
@[simp] theorem setChannel_stores (i : Nat) (x : Channel) : (setChannel s i x).stores = s.stores := rfl
@[simp] theorem setChannel_bays (i : Nat) (x : Channel) : (setChannel s i x).bays = s.bays := rfl
@[simp] theorem setChannel_yealms (i : Nat) (x : Channel) : (setChannel s i x).yealms = s.yealms := rfl
@[simp] theorem setChannel_sessions (i : Nat) (x : Channel) : (setChannel s i x).sessions = s.sessions := rfl
@[simp] theorem setChannel_gens (i : Nat) (x : Channel) : (setChannel s i x).gens = s.gens := rfl
@[simp] theorem setChannel_sessLost (i : Nat) (x : Channel) : (setChannel s i x).sessLost = s.sessLost := rfl
@[simp] theorem setChannel_cores (i : Nat) (x : Channel) : (setChannel s i x).cores = s.cores := rfl
@[simp] theorem setChannel_spills (i : Nat) (x : Channel) : (setChannel s i x).spills = s.spills := rfl
@[simp] theorem setChannel_mesh (i : Nat) (x : Channel) : (setChannel s i x).mesh = s.mesh := rfl
@[simp] theorem setChannel_thatch (i : Nat) (x : Channel) : (setChannel s i x).thatch = s.thatch := rfl
@[simp] theorem setChannel_scrubFound (i : Nat) (x : Channel) : (setChannel s i x).scrubFound = s.scrubFound := rfl
@[simp] theorem setChannel_slices (i : Nat) (x : Channel) : (setChannel s i x).slices = s.slices := rfl
@[simp] theorem setChannel_tdm (i : Nat) (x : Channel) : (setChannel s i x).tdm = s.tdm := rfl
@[simp] theorem setChannel_pdm (i : Nat) (x : Channel) : (setChannel s i x).pdm = s.pdm := rfl
@[simp] theorem setChannel_tap (i : Nat) (x : Channel) : (setChannel s i x).tap = s.tap := rfl
@[simp] theorem setChannel_side (i : Nat) (x : Channel) : (setChannel s i x).side = s.side := rfl
@[simp] theorem setChannel_gpCounters (i : Nat) (x : Channel) : (setChannel s i x).gpCounters = s.gpCounters := rfl

/-! ### `setSlice` writes `slices` -/

@[simp] theorem setSlice_pending (i : Nat) (x : Slice) : (setSlice s i x).pending = s.pending := rfl
@[simp] theorem setSlice_now (i : Nat) (x : Slice) : (setSlice s i x).now = s.now := rfl
@[simp] theorem setSlice_fresh (i : Nat) (x : Slice) : (setSlice s i x).fresh = s.fresh := rfl
@[simp] theorem setSlice_wire (i : Nat) (x : Slice) : (setSlice s i x).wire = s.wire := rfl
@[simp] theorem setSlice_boot (i : Nat) (x : Slice) : (setSlice s i x).boot = s.boot := rfl
@[simp] theorem setSlice_fuses (i : Nat) (x : Slice) : (setSlice s i x).fuses = s.fuses := rfl
@[simp] theorem setSlice_flash (i : Nat) (x : Slice) : (setSlice s i x).flash = s.flash := rfl
@[simp] theorem setSlice_fault (i : Nat) (x : Slice) : (setSlice s i x).fault = s.fault := rfl
@[simp] theorem setSlice_fatalRun (i : Nat) (x : Slice) : (setSlice s i x).fatalRun = s.fatalRun := rfl
@[simp] theorem setSlice_lastReinit (i : Nat) (x : Slice) : (setSlice s i x).lastReinit = s.lastReinit := rfl
@[simp] theorem setSlice_deviceRecoveries (i : Nat) (x : Slice) : (setSlice s i x).deviceRecoveries = s.deviceRecoveries := rfl
@[simp] theorem setSlice_power (i : Nat) (x : Slice) : (setSlice s i x).power = s.power := rfl
@[simp] theorem setSlice_chunk (i : Nat) (x : Slice) : (setSlice s i x).chunk = s.chunk := rfl
@[simp] theorem setSlice_t0 (i : Nat) (x : Slice) : (setSlice s i x).t0 = s.t0 := rfl
@[simp] theorem setSlice_ports (i : Nat) (x : Slice) : (setSlice s i x).ports = s.ports := rfl
@[simp] theorem setSlice_conns (i : Nat) (x : Slice) : (setSlice s i x).conns = s.conns := rfl
@[simp] theorem setSlice_epochs (i : Nat) (x : Slice) : (setSlice s i x).epochs = s.epochs := rfl
@[simp] theorem setSlice_opened (i : Nat) (x : Slice) : (setSlice s i x).opened = s.opened := rfl
@[simp] theorem setSlice_resets (i : Nat) (x : Slice) : (setSlice s i x).resets = s.resets := rfl
@[simp] theorem setSlice_mail (i : Nat) (x : Slice) : (setSlice s i x).mail = s.mail := rfl
@[simp] theorem setSlice_mailLast (i : Nat) (x : Slice) : (setSlice s i x).mailLast = s.mailLast := rfl
@[simp] theorem setSlice_unanswered (i : Nat) (x : Slice) : (setSlice s i x).unanswered = s.unanswered := rfl
@[simp] theorem setSlice_keeps (i : Nat) (x : Slice) : (setSlice s i x).keeps = s.keeps := rfl
@[simp] theorem setSlice_snapshots (i : Nat) (x : Slice) : (setSlice s i x).snapshots = s.snapshots := rfl
@[simp] theorem setSlice_recs (i : Nat) (x : Slice) : (setSlice s i x).recs = s.recs := rfl
@[simp] theorem setSlice_log (i : Nat) (x : Slice) : (setSlice s i x).log = s.log := rfl
@[simp] theorem setSlice_logNext (i : Nat) (x : Slice) : (setSlice s i x).logNext = s.logNext := rfl
@[simp] theorem setSlice_latch (i : Nat) (x : Slice) : (setSlice s i x).latch = s.latch := rfl
@[simp] theorem setSlice_units (i : Nat) (x : Slice) : (setSlice s i x).units = s.units := rfl
@[simp] theorem setSlice_builds (i : Nat) (x : Slice) : (setSlice s i x).builds = s.builds := rfl
@[simp] theorem setSlice_loads (i : Nat) (x : Slice) : (setSlice s i x).loads = s.loads := rfl
@[simp] theorem setSlice_adapters (i : Nat) (x : Slice) : (setSlice s i x).adapters = s.adapters := rfl
@[simp] theorem setSlice_stores (i : Nat) (x : Slice) : (setSlice s i x).stores = s.stores := rfl
@[simp] theorem setSlice_bays (i : Nat) (x : Slice) : (setSlice s i x).bays = s.bays := rfl
@[simp] theorem setSlice_yealms (i : Nat) (x : Slice) : (setSlice s i x).yealms = s.yealms := rfl
@[simp] theorem setSlice_sessions (i : Nat) (x : Slice) : (setSlice s i x).sessions = s.sessions := rfl
@[simp] theorem setSlice_gens (i : Nat) (x : Slice) : (setSlice s i x).gens = s.gens := rfl
@[simp] theorem setSlice_sessLost (i : Nat) (x : Slice) : (setSlice s i x).sessLost = s.sessLost := rfl
@[simp] theorem setSlice_cores (i : Nat) (x : Slice) : (setSlice s i x).cores = s.cores := rfl
@[simp] theorem setSlice_spills (i : Nat) (x : Slice) : (setSlice s i x).spills = s.spills := rfl
@[simp] theorem setSlice_mesh (i : Nat) (x : Slice) : (setSlice s i x).mesh = s.mesh := rfl
@[simp] theorem setSlice_thatch (i : Nat) (x : Slice) : (setSlice s i x).thatch = s.thatch := rfl
@[simp] theorem setSlice_channels (i : Nat) (x : Slice) : (setSlice s i x).channels = s.channels := rfl
@[simp] theorem setSlice_scrubFound (i : Nat) (x : Slice) : (setSlice s i x).scrubFound = s.scrubFound := rfl
@[simp] theorem setSlice_tdm (i : Nat) (x : Slice) : (setSlice s i x).tdm = s.tdm := rfl
@[simp] theorem setSlice_pdm (i : Nat) (x : Slice) : (setSlice s i x).pdm = s.pdm := rfl
@[simp] theorem setSlice_tap (i : Nat) (x : Slice) : (setSlice s i x).tap = s.tap := rfl
@[simp] theorem setSlice_side (i : Nat) (x : Slice) : (setSlice s i x).side = s.side := rfl
@[simp] theorem setSlice_gpCounters (i : Nat) (x : Slice) : (setSlice s i x).gpCounters = s.gpCounters := rfl

/-! ### `setConn` writes `conns` -/

@[simp] theorem setConn_pending (c : Nat) (x : Conn) : (setConn s c x).pending = s.pending := rfl
@[simp] theorem setConn_now (c : Nat) (x : Conn) : (setConn s c x).now = s.now := rfl
@[simp] theorem setConn_fresh (c : Nat) (x : Conn) : (setConn s c x).fresh = s.fresh := rfl
@[simp] theorem setConn_wire (c : Nat) (x : Conn) : (setConn s c x).wire = s.wire := rfl
@[simp] theorem setConn_boot (c : Nat) (x : Conn) : (setConn s c x).boot = s.boot := rfl
@[simp] theorem setConn_fuses (c : Nat) (x : Conn) : (setConn s c x).fuses = s.fuses := rfl
@[simp] theorem setConn_flash (c : Nat) (x : Conn) : (setConn s c x).flash = s.flash := rfl
@[simp] theorem setConn_fault (c : Nat) (x : Conn) : (setConn s c x).fault = s.fault := rfl
@[simp] theorem setConn_fatalRun (c : Nat) (x : Conn) : (setConn s c x).fatalRun = s.fatalRun := rfl
@[simp] theorem setConn_lastReinit (c : Nat) (x : Conn) : (setConn s c x).lastReinit = s.lastReinit := rfl
@[simp] theorem setConn_deviceRecoveries (c : Nat) (x : Conn) : (setConn s c x).deviceRecoveries = s.deviceRecoveries := rfl
@[simp] theorem setConn_power (c : Nat) (x : Conn) : (setConn s c x).power = s.power := rfl
@[simp] theorem setConn_chunk (c : Nat) (x : Conn) : (setConn s c x).chunk = s.chunk := rfl
@[simp] theorem setConn_t0 (c : Nat) (x : Conn) : (setConn s c x).t0 = s.t0 := rfl
@[simp] theorem setConn_ports (c : Nat) (x : Conn) : (setConn s c x).ports = s.ports := rfl
@[simp] theorem setConn_epochs (c : Nat) (x : Conn) : (setConn s c x).epochs = s.epochs := rfl
@[simp] theorem setConn_opened (c : Nat) (x : Conn) : (setConn s c x).opened = s.opened := rfl
@[simp] theorem setConn_resets (c : Nat) (x : Conn) : (setConn s c x).resets = s.resets := rfl
@[simp] theorem setConn_mail (c : Nat) (x : Conn) : (setConn s c x).mail = s.mail := rfl
@[simp] theorem setConn_mailLast (c : Nat) (x : Conn) : (setConn s c x).mailLast = s.mailLast := rfl
@[simp] theorem setConn_unanswered (c : Nat) (x : Conn) : (setConn s c x).unanswered = s.unanswered := rfl
@[simp] theorem setConn_keeps (c : Nat) (x : Conn) : (setConn s c x).keeps = s.keeps := rfl
@[simp] theorem setConn_snapshots (c : Nat) (x : Conn) : (setConn s c x).snapshots = s.snapshots := rfl
@[simp] theorem setConn_recs (c : Nat) (x : Conn) : (setConn s c x).recs = s.recs := rfl
@[simp] theorem setConn_log (c : Nat) (x : Conn) : (setConn s c x).log = s.log := rfl
@[simp] theorem setConn_logNext (c : Nat) (x : Conn) : (setConn s c x).logNext = s.logNext := rfl
@[simp] theorem setConn_latch (c : Nat) (x : Conn) : (setConn s c x).latch = s.latch := rfl
@[simp] theorem setConn_units (c : Nat) (x : Conn) : (setConn s c x).units = s.units := rfl
@[simp] theorem setConn_builds (c : Nat) (x : Conn) : (setConn s c x).builds = s.builds := rfl
@[simp] theorem setConn_loads (c : Nat) (x : Conn) : (setConn s c x).loads = s.loads := rfl
@[simp] theorem setConn_adapters (c : Nat) (x : Conn) : (setConn s c x).adapters = s.adapters := rfl
@[simp] theorem setConn_stores (c : Nat) (x : Conn) : (setConn s c x).stores = s.stores := rfl
@[simp] theorem setConn_bays (c : Nat) (x : Conn) : (setConn s c x).bays = s.bays := rfl
@[simp] theorem setConn_yealms (c : Nat) (x : Conn) : (setConn s c x).yealms = s.yealms := rfl
@[simp] theorem setConn_sessions (c : Nat) (x : Conn) : (setConn s c x).sessions = s.sessions := rfl
@[simp] theorem setConn_gens (c : Nat) (x : Conn) : (setConn s c x).gens = s.gens := rfl
@[simp] theorem setConn_sessLost (c : Nat) (x : Conn) : (setConn s c x).sessLost = s.sessLost := rfl
@[simp] theorem setConn_cores (c : Nat) (x : Conn) : (setConn s c x).cores = s.cores := rfl
@[simp] theorem setConn_spills (c : Nat) (x : Conn) : (setConn s c x).spills = s.spills := rfl
@[simp] theorem setConn_mesh (c : Nat) (x : Conn) : (setConn s c x).mesh = s.mesh := rfl
@[simp] theorem setConn_thatch (c : Nat) (x : Conn) : (setConn s c x).thatch = s.thatch := rfl
@[simp] theorem setConn_channels (c : Nat) (x : Conn) : (setConn s c x).channels = s.channels := rfl
@[simp] theorem setConn_scrubFound (c : Nat) (x : Conn) : (setConn s c x).scrubFound = s.scrubFound := rfl
@[simp] theorem setConn_slices (c : Nat) (x : Conn) : (setConn s c x).slices = s.slices := rfl
@[simp] theorem setConn_tdm (c : Nat) (x : Conn) : (setConn s c x).tdm = s.tdm := rfl
@[simp] theorem setConn_pdm (c : Nat) (x : Conn) : (setConn s c x).pdm = s.pdm := rfl
@[simp] theorem setConn_tap (c : Nat) (x : Conn) : (setConn s c x).tap = s.tap := rfl
@[simp] theorem setConn_side (c : Nat) (x : Conn) : (setConn s c x).side = s.side := rfl
@[simp] theorem setConn_gpCounters (c : Nat) (x : Conn) : (setConn s c x).gpCounters = s.gpCounters := rfl

/-! ### `setPort` writes `ports` -/

@[simp] theorem setPort_pending (p : Nat) (x : Port) : (setPort s p x).pending = s.pending := rfl
@[simp] theorem setPort_now (p : Nat) (x : Port) : (setPort s p x).now = s.now := rfl
@[simp] theorem setPort_fresh (p : Nat) (x : Port) : (setPort s p x).fresh = s.fresh := rfl
@[simp] theorem setPort_wire (p : Nat) (x : Port) : (setPort s p x).wire = s.wire := rfl
@[simp] theorem setPort_boot (p : Nat) (x : Port) : (setPort s p x).boot = s.boot := rfl
@[simp] theorem setPort_fuses (p : Nat) (x : Port) : (setPort s p x).fuses = s.fuses := rfl
@[simp] theorem setPort_flash (p : Nat) (x : Port) : (setPort s p x).flash = s.flash := rfl
@[simp] theorem setPort_fault (p : Nat) (x : Port) : (setPort s p x).fault = s.fault := rfl
@[simp] theorem setPort_fatalRun (p : Nat) (x : Port) : (setPort s p x).fatalRun = s.fatalRun := rfl
@[simp] theorem setPort_lastReinit (p : Nat) (x : Port) : (setPort s p x).lastReinit = s.lastReinit := rfl
@[simp] theorem setPort_deviceRecoveries (p : Nat) (x : Port) : (setPort s p x).deviceRecoveries = s.deviceRecoveries := rfl
@[simp] theorem setPort_power (p : Nat) (x : Port) : (setPort s p x).power = s.power := rfl
@[simp] theorem setPort_chunk (p : Nat) (x : Port) : (setPort s p x).chunk = s.chunk := rfl
@[simp] theorem setPort_t0 (p : Nat) (x : Port) : (setPort s p x).t0 = s.t0 := rfl
@[simp] theorem setPort_conns (p : Nat) (x : Port) : (setPort s p x).conns = s.conns := rfl
@[simp] theorem setPort_epochs (p : Nat) (x : Port) : (setPort s p x).epochs = s.epochs := rfl
@[simp] theorem setPort_opened (p : Nat) (x : Port) : (setPort s p x).opened = s.opened := rfl
@[simp] theorem setPort_resets (p : Nat) (x : Port) : (setPort s p x).resets = s.resets := rfl
@[simp] theorem setPort_mail (p : Nat) (x : Port) : (setPort s p x).mail = s.mail := rfl
@[simp] theorem setPort_mailLast (p : Nat) (x : Port) : (setPort s p x).mailLast = s.mailLast := rfl
@[simp] theorem setPort_unanswered (p : Nat) (x : Port) : (setPort s p x).unanswered = s.unanswered := rfl
@[simp] theorem setPort_keeps (p : Nat) (x : Port) : (setPort s p x).keeps = s.keeps := rfl
@[simp] theorem setPort_snapshots (p : Nat) (x : Port) : (setPort s p x).snapshots = s.snapshots := rfl
@[simp] theorem setPort_recs (p : Nat) (x : Port) : (setPort s p x).recs = s.recs := rfl
@[simp] theorem setPort_log (p : Nat) (x : Port) : (setPort s p x).log = s.log := rfl
@[simp] theorem setPort_logNext (p : Nat) (x : Port) : (setPort s p x).logNext = s.logNext := rfl
@[simp] theorem setPort_latch (p : Nat) (x : Port) : (setPort s p x).latch = s.latch := rfl
@[simp] theorem setPort_units (p : Nat) (x : Port) : (setPort s p x).units = s.units := rfl
@[simp] theorem setPort_builds (p : Nat) (x : Port) : (setPort s p x).builds = s.builds := rfl
@[simp] theorem setPort_loads (p : Nat) (x : Port) : (setPort s p x).loads = s.loads := rfl
@[simp] theorem setPort_adapters (p : Nat) (x : Port) : (setPort s p x).adapters = s.adapters := rfl
@[simp] theorem setPort_stores (p : Nat) (x : Port) : (setPort s p x).stores = s.stores := rfl
@[simp] theorem setPort_bays (p : Nat) (x : Port) : (setPort s p x).bays = s.bays := rfl
@[simp] theorem setPort_yealms (p : Nat) (x : Port) : (setPort s p x).yealms = s.yealms := rfl
@[simp] theorem setPort_sessions (p : Nat) (x : Port) : (setPort s p x).sessions = s.sessions := rfl
@[simp] theorem setPort_gens (p : Nat) (x : Port) : (setPort s p x).gens = s.gens := rfl
@[simp] theorem setPort_sessLost (p : Nat) (x : Port) : (setPort s p x).sessLost = s.sessLost := rfl
@[simp] theorem setPort_cores (p : Nat) (x : Port) : (setPort s p x).cores = s.cores := rfl
@[simp] theorem setPort_spills (p : Nat) (x : Port) : (setPort s p x).spills = s.spills := rfl
@[simp] theorem setPort_mesh (p : Nat) (x : Port) : (setPort s p x).mesh = s.mesh := rfl
@[simp] theorem setPort_thatch (p : Nat) (x : Port) : (setPort s p x).thatch = s.thatch := rfl
@[simp] theorem setPort_channels (p : Nat) (x : Port) : (setPort s p x).channels = s.channels := rfl
@[simp] theorem setPort_scrubFound (p : Nat) (x : Port) : (setPort s p x).scrubFound = s.scrubFound := rfl
@[simp] theorem setPort_slices (p : Nat) (x : Port) : (setPort s p x).slices = s.slices := rfl
@[simp] theorem setPort_tdm (p : Nat) (x : Port) : (setPort s p x).tdm = s.tdm := rfl
@[simp] theorem setPort_pdm (p : Nat) (x : Port) : (setPort s p x).pdm = s.pdm := rfl
@[simp] theorem setPort_tap (p : Nat) (x : Port) : (setPort s p x).tap = s.tap := rfl
@[simp] theorem setPort_side (p : Nat) (x : Port) : (setPort s p x).side = s.side := rfl
@[simp] theorem setPort_gpCounters (p : Nat) (x : Port) : (setPort s p x).gpCounters = s.gpCounters := rfl

/-! ### `setMailbox` writes `mail` -/

@[simp] theorem setMailbox_pending (b : Nat) (l : List MailMsg) : (setMailbox s b l).pending = s.pending := rfl
@[simp] theorem setMailbox_now (b : Nat) (l : List MailMsg) : (setMailbox s b l).now = s.now := rfl
@[simp] theorem setMailbox_fresh (b : Nat) (l : List MailMsg) : (setMailbox s b l).fresh = s.fresh := rfl
@[simp] theorem setMailbox_wire (b : Nat) (l : List MailMsg) : (setMailbox s b l).wire = s.wire := rfl
@[simp] theorem setMailbox_boot (b : Nat) (l : List MailMsg) : (setMailbox s b l).boot = s.boot := rfl
@[simp] theorem setMailbox_fuses (b : Nat) (l : List MailMsg) : (setMailbox s b l).fuses = s.fuses := rfl
@[simp] theorem setMailbox_flash (b : Nat) (l : List MailMsg) : (setMailbox s b l).flash = s.flash := rfl
@[simp] theorem setMailbox_fault (b : Nat) (l : List MailMsg) : (setMailbox s b l).fault = s.fault := rfl
@[simp] theorem setMailbox_fatalRun (b : Nat) (l : List MailMsg) : (setMailbox s b l).fatalRun = s.fatalRun := rfl
@[simp] theorem setMailbox_lastReinit (b : Nat) (l : List MailMsg) : (setMailbox s b l).lastReinit = s.lastReinit := rfl
@[simp] theorem setMailbox_deviceRecoveries (b : Nat) (l : List MailMsg) : (setMailbox s b l).deviceRecoveries = s.deviceRecoveries := rfl
@[simp] theorem setMailbox_power (b : Nat) (l : List MailMsg) : (setMailbox s b l).power = s.power := rfl
@[simp] theorem setMailbox_chunk (b : Nat) (l : List MailMsg) : (setMailbox s b l).chunk = s.chunk := rfl
@[simp] theorem setMailbox_t0 (b : Nat) (l : List MailMsg) : (setMailbox s b l).t0 = s.t0 := rfl
@[simp] theorem setMailbox_ports (b : Nat) (l : List MailMsg) : (setMailbox s b l).ports = s.ports := rfl
@[simp] theorem setMailbox_conns (b : Nat) (l : List MailMsg) : (setMailbox s b l).conns = s.conns := rfl
@[simp] theorem setMailbox_epochs (b : Nat) (l : List MailMsg) : (setMailbox s b l).epochs = s.epochs := rfl
@[simp] theorem setMailbox_opened (b : Nat) (l : List MailMsg) : (setMailbox s b l).opened = s.opened := rfl
@[simp] theorem setMailbox_resets (b : Nat) (l : List MailMsg) : (setMailbox s b l).resets = s.resets := rfl
@[simp] theorem setMailbox_mailLast (b : Nat) (l : List MailMsg) : (setMailbox s b l).mailLast = s.mailLast := rfl
@[simp] theorem setMailbox_unanswered (b : Nat) (l : List MailMsg) : (setMailbox s b l).unanswered = s.unanswered := rfl
@[simp] theorem setMailbox_keeps (b : Nat) (l : List MailMsg) : (setMailbox s b l).keeps = s.keeps := rfl
@[simp] theorem setMailbox_snapshots (b : Nat) (l : List MailMsg) : (setMailbox s b l).snapshots = s.snapshots := rfl
@[simp] theorem setMailbox_recs (b : Nat) (l : List MailMsg) : (setMailbox s b l).recs = s.recs := rfl
@[simp] theorem setMailbox_log (b : Nat) (l : List MailMsg) : (setMailbox s b l).log = s.log := rfl
@[simp] theorem setMailbox_logNext (b : Nat) (l : List MailMsg) : (setMailbox s b l).logNext = s.logNext := rfl
@[simp] theorem setMailbox_latch (b : Nat) (l : List MailMsg) : (setMailbox s b l).latch = s.latch := rfl
@[simp] theorem setMailbox_units (b : Nat) (l : List MailMsg) : (setMailbox s b l).units = s.units := rfl
@[simp] theorem setMailbox_builds (b : Nat) (l : List MailMsg) : (setMailbox s b l).builds = s.builds := rfl
@[simp] theorem setMailbox_loads (b : Nat) (l : List MailMsg) : (setMailbox s b l).loads = s.loads := rfl
@[simp] theorem setMailbox_adapters (b : Nat) (l : List MailMsg) : (setMailbox s b l).adapters = s.adapters := rfl
@[simp] theorem setMailbox_stores (b : Nat) (l : List MailMsg) : (setMailbox s b l).stores = s.stores := rfl
@[simp] theorem setMailbox_bays (b : Nat) (l : List MailMsg) : (setMailbox s b l).bays = s.bays := rfl
@[simp] theorem setMailbox_yealms (b : Nat) (l : List MailMsg) : (setMailbox s b l).yealms = s.yealms := rfl
@[simp] theorem setMailbox_sessions (b : Nat) (l : List MailMsg) : (setMailbox s b l).sessions = s.sessions := rfl
@[simp] theorem setMailbox_gens (b : Nat) (l : List MailMsg) : (setMailbox s b l).gens = s.gens := rfl
@[simp] theorem setMailbox_sessLost (b : Nat) (l : List MailMsg) : (setMailbox s b l).sessLost = s.sessLost := rfl
@[simp] theorem setMailbox_cores (b : Nat) (l : List MailMsg) : (setMailbox s b l).cores = s.cores := rfl
@[simp] theorem setMailbox_spills (b : Nat) (l : List MailMsg) : (setMailbox s b l).spills = s.spills := rfl
@[simp] theorem setMailbox_mesh (b : Nat) (l : List MailMsg) : (setMailbox s b l).mesh = s.mesh := rfl
@[simp] theorem setMailbox_thatch (b : Nat) (l : List MailMsg) : (setMailbox s b l).thatch = s.thatch := rfl
@[simp] theorem setMailbox_channels (b : Nat) (l : List MailMsg) : (setMailbox s b l).channels = s.channels := rfl
@[simp] theorem setMailbox_scrubFound (b : Nat) (l : List MailMsg) : (setMailbox s b l).scrubFound = s.scrubFound := rfl
@[simp] theorem setMailbox_slices (b : Nat) (l : List MailMsg) : (setMailbox s b l).slices = s.slices := rfl
@[simp] theorem setMailbox_tdm (b : Nat) (l : List MailMsg) : (setMailbox s b l).tdm = s.tdm := rfl
@[simp] theorem setMailbox_pdm (b : Nat) (l : List MailMsg) : (setMailbox s b l).pdm = s.pdm := rfl
@[simp] theorem setMailbox_tap (b : Nat) (l : List MailMsg) : (setMailbox s b l).tap = s.tap := rfl
@[simp] theorem setMailbox_side (b : Nat) (l : List MailMsg) : (setMailbox s b l).side = s.side := rfl
@[simp] theorem setMailbox_gpCounters (b : Nat) (l : List MailMsg) : (setMailbox s b l).gpCounters = s.gpCounters := rfl

/-! ### `setRec` writes `recs` -/

@[simp] theorem setRec_pending (id k : Nat) (r : CfgRec) : (setRec s id k r).pending = s.pending := rfl
@[simp] theorem setRec_now (id k : Nat) (r : CfgRec) : (setRec s id k r).now = s.now := rfl
@[simp] theorem setRec_fresh (id k : Nat) (r : CfgRec) : (setRec s id k r).fresh = s.fresh := rfl
@[simp] theorem setRec_wire (id k : Nat) (r : CfgRec) : (setRec s id k r).wire = s.wire := rfl
@[simp] theorem setRec_boot (id k : Nat) (r : CfgRec) : (setRec s id k r).boot = s.boot := rfl
@[simp] theorem setRec_fuses (id k : Nat) (r : CfgRec) : (setRec s id k r).fuses = s.fuses := rfl
@[simp] theorem setRec_flash (id k : Nat) (r : CfgRec) : (setRec s id k r).flash = s.flash := rfl
@[simp] theorem setRec_fault (id k : Nat) (r : CfgRec) : (setRec s id k r).fault = s.fault := rfl
@[simp] theorem setRec_fatalRun (id k : Nat) (r : CfgRec) : (setRec s id k r).fatalRun = s.fatalRun := rfl
@[simp] theorem setRec_lastReinit (id k : Nat) (r : CfgRec) : (setRec s id k r).lastReinit = s.lastReinit := rfl
@[simp] theorem setRec_deviceRecoveries (id k : Nat) (r : CfgRec) : (setRec s id k r).deviceRecoveries = s.deviceRecoveries := rfl
@[simp] theorem setRec_power (id k : Nat) (r : CfgRec) : (setRec s id k r).power = s.power := rfl
@[simp] theorem setRec_chunk (id k : Nat) (r : CfgRec) : (setRec s id k r).chunk = s.chunk := rfl
@[simp] theorem setRec_t0 (id k : Nat) (r : CfgRec) : (setRec s id k r).t0 = s.t0 := rfl
@[simp] theorem setRec_ports (id k : Nat) (r : CfgRec) : (setRec s id k r).ports = s.ports := rfl
@[simp] theorem setRec_conns (id k : Nat) (r : CfgRec) : (setRec s id k r).conns = s.conns := rfl
@[simp] theorem setRec_epochs (id k : Nat) (r : CfgRec) : (setRec s id k r).epochs = s.epochs := rfl
@[simp] theorem setRec_opened (id k : Nat) (r : CfgRec) : (setRec s id k r).opened = s.opened := rfl
@[simp] theorem setRec_resets (id k : Nat) (r : CfgRec) : (setRec s id k r).resets = s.resets := rfl
@[simp] theorem setRec_mail (id k : Nat) (r : CfgRec) : (setRec s id k r).mail = s.mail := rfl
@[simp] theorem setRec_mailLast (id k : Nat) (r : CfgRec) : (setRec s id k r).mailLast = s.mailLast := rfl
@[simp] theorem setRec_unanswered (id k : Nat) (r : CfgRec) : (setRec s id k r).unanswered = s.unanswered := rfl
@[simp] theorem setRec_keeps (id k : Nat) (r : CfgRec) : (setRec s id k r).keeps = s.keeps := rfl
@[simp] theorem setRec_snapshots (id k : Nat) (r : CfgRec) : (setRec s id k r).snapshots = s.snapshots := rfl
@[simp] theorem setRec_log (id k : Nat) (r : CfgRec) : (setRec s id k r).log = s.log := rfl
@[simp] theorem setRec_logNext (id k : Nat) (r : CfgRec) : (setRec s id k r).logNext = s.logNext := rfl
@[simp] theorem setRec_latch (id k : Nat) (r : CfgRec) : (setRec s id k r).latch = s.latch := rfl
@[simp] theorem setRec_units (id k : Nat) (r : CfgRec) : (setRec s id k r).units = s.units := rfl
@[simp] theorem setRec_builds (id k : Nat) (r : CfgRec) : (setRec s id k r).builds = s.builds := rfl
@[simp] theorem setRec_loads (id k : Nat) (r : CfgRec) : (setRec s id k r).loads = s.loads := rfl
@[simp] theorem setRec_adapters (id k : Nat) (r : CfgRec) : (setRec s id k r).adapters = s.adapters := rfl
@[simp] theorem setRec_stores (id k : Nat) (r : CfgRec) : (setRec s id k r).stores = s.stores := rfl
@[simp] theorem setRec_bays (id k : Nat) (r : CfgRec) : (setRec s id k r).bays = s.bays := rfl
@[simp] theorem setRec_yealms (id k : Nat) (r : CfgRec) : (setRec s id k r).yealms = s.yealms := rfl
@[simp] theorem setRec_sessions (id k : Nat) (r : CfgRec) : (setRec s id k r).sessions = s.sessions := rfl
@[simp] theorem setRec_gens (id k : Nat) (r : CfgRec) : (setRec s id k r).gens = s.gens := rfl
@[simp] theorem setRec_sessLost (id k : Nat) (r : CfgRec) : (setRec s id k r).sessLost = s.sessLost := rfl
@[simp] theorem setRec_cores (id k : Nat) (r : CfgRec) : (setRec s id k r).cores = s.cores := rfl
@[simp] theorem setRec_spills (id k : Nat) (r : CfgRec) : (setRec s id k r).spills = s.spills := rfl
@[simp] theorem setRec_mesh (id k : Nat) (r : CfgRec) : (setRec s id k r).mesh = s.mesh := rfl
@[simp] theorem setRec_thatch (id k : Nat) (r : CfgRec) : (setRec s id k r).thatch = s.thatch := rfl
@[simp] theorem setRec_channels (id k : Nat) (r : CfgRec) : (setRec s id k r).channels = s.channels := rfl
@[simp] theorem setRec_scrubFound (id k : Nat) (r : CfgRec) : (setRec s id k r).scrubFound = s.scrubFound := rfl
@[simp] theorem setRec_slices (id k : Nat) (r : CfgRec) : (setRec s id k r).slices = s.slices := rfl
@[simp] theorem setRec_tdm (id k : Nat) (r : CfgRec) : (setRec s id k r).tdm = s.tdm := rfl
@[simp] theorem setRec_pdm (id k : Nat) (r : CfgRec) : (setRec s id k r).pdm = s.pdm := rfl
@[simp] theorem setRec_tap (id k : Nat) (r : CfgRec) : (setRec s id k r).tap = s.tap := rfl
@[simp] theorem setRec_side (id k : Nat) (r : CfgRec) : (setRec s id k r).side = s.side := rfl
@[simp] theorem setRec_gpCounters (id k : Nat) (r : CfgRec) : (setRec s id k r).gpCounters = s.gpCounters := rfl

/-! ### `setUnit` writes `units` -/

@[simp] theorem setUnit_pending (u : W32) (h : UnitH) : (setUnit s u h).pending = s.pending := rfl
@[simp] theorem setUnit_now (u : W32) (h : UnitH) : (setUnit s u h).now = s.now := rfl
@[simp] theorem setUnit_fresh (u : W32) (h : UnitH) : (setUnit s u h).fresh = s.fresh := rfl
@[simp] theorem setUnit_wire (u : W32) (h : UnitH) : (setUnit s u h).wire = s.wire := rfl
@[simp] theorem setUnit_boot (u : W32) (h : UnitH) : (setUnit s u h).boot = s.boot := rfl
@[simp] theorem setUnit_fuses (u : W32) (h : UnitH) : (setUnit s u h).fuses = s.fuses := rfl
@[simp] theorem setUnit_flash (u : W32) (h : UnitH) : (setUnit s u h).flash = s.flash := rfl
@[simp] theorem setUnit_fault (u : W32) (h : UnitH) : (setUnit s u h).fault = s.fault := rfl
@[simp] theorem setUnit_fatalRun (u : W32) (h : UnitH) : (setUnit s u h).fatalRun = s.fatalRun := rfl
@[simp] theorem setUnit_lastReinit (u : W32) (h : UnitH) : (setUnit s u h).lastReinit = s.lastReinit := rfl
@[simp] theorem setUnit_deviceRecoveries (u : W32) (h : UnitH) : (setUnit s u h).deviceRecoveries = s.deviceRecoveries := rfl
@[simp] theorem setUnit_power (u : W32) (h : UnitH) : (setUnit s u h).power = s.power := rfl
@[simp] theorem setUnit_chunk (u : W32) (h : UnitH) : (setUnit s u h).chunk = s.chunk := rfl
@[simp] theorem setUnit_t0 (u : W32) (h : UnitH) : (setUnit s u h).t0 = s.t0 := rfl
@[simp] theorem setUnit_ports (u : W32) (h : UnitH) : (setUnit s u h).ports = s.ports := rfl
@[simp] theorem setUnit_conns (u : W32) (h : UnitH) : (setUnit s u h).conns = s.conns := rfl
@[simp] theorem setUnit_epochs (u : W32) (h : UnitH) : (setUnit s u h).epochs = s.epochs := rfl
@[simp] theorem setUnit_opened (u : W32) (h : UnitH) : (setUnit s u h).opened = s.opened := rfl
@[simp] theorem setUnit_resets (u : W32) (h : UnitH) : (setUnit s u h).resets = s.resets := rfl
@[simp] theorem setUnit_mail (u : W32) (h : UnitH) : (setUnit s u h).mail = s.mail := rfl
@[simp] theorem setUnit_mailLast (u : W32) (h : UnitH) : (setUnit s u h).mailLast = s.mailLast := rfl
@[simp] theorem setUnit_unanswered (u : W32) (h : UnitH) : (setUnit s u h).unanswered = s.unanswered := rfl
@[simp] theorem setUnit_keeps (u : W32) (h : UnitH) : (setUnit s u h).keeps = s.keeps := rfl
@[simp] theorem setUnit_snapshots (u : W32) (h : UnitH) : (setUnit s u h).snapshots = s.snapshots := rfl
@[simp] theorem setUnit_recs (u : W32) (h : UnitH) : (setUnit s u h).recs = s.recs := rfl
@[simp] theorem setUnit_log (u : W32) (h : UnitH) : (setUnit s u h).log = s.log := rfl
@[simp] theorem setUnit_logNext (u : W32) (h : UnitH) : (setUnit s u h).logNext = s.logNext := rfl
@[simp] theorem setUnit_latch (u : W32) (h : UnitH) : (setUnit s u h).latch = s.latch := rfl
@[simp] theorem setUnit_builds (u : W32) (h : UnitH) : (setUnit s u h).builds = s.builds := rfl
@[simp] theorem setUnit_loads (u : W32) (h : UnitH) : (setUnit s u h).loads = s.loads := rfl
@[simp] theorem setUnit_adapters (u : W32) (h : UnitH) : (setUnit s u h).adapters = s.adapters := rfl
@[simp] theorem setUnit_stores (u : W32) (h : UnitH) : (setUnit s u h).stores = s.stores := rfl
@[simp] theorem setUnit_bays (u : W32) (h : UnitH) : (setUnit s u h).bays = s.bays := rfl
@[simp] theorem setUnit_yealms (u : W32) (h : UnitH) : (setUnit s u h).yealms = s.yealms := rfl
@[simp] theorem setUnit_sessions (u : W32) (h : UnitH) : (setUnit s u h).sessions = s.sessions := rfl
@[simp] theorem setUnit_gens (u : W32) (h : UnitH) : (setUnit s u h).gens = s.gens := rfl
@[simp] theorem setUnit_sessLost (u : W32) (h : UnitH) : (setUnit s u h).sessLost = s.sessLost := rfl
@[simp] theorem setUnit_cores (u : W32) (h : UnitH) : (setUnit s u h).cores = s.cores := rfl
@[simp] theorem setUnit_spills (u : W32) (h : UnitH) : (setUnit s u h).spills = s.spills := rfl
@[simp] theorem setUnit_mesh (u : W32) (h : UnitH) : (setUnit s u h).mesh = s.mesh := rfl
@[simp] theorem setUnit_thatch (u : W32) (h : UnitH) : (setUnit s u h).thatch = s.thatch := rfl
@[simp] theorem setUnit_channels (u : W32) (h : UnitH) : (setUnit s u h).channels = s.channels := rfl
@[simp] theorem setUnit_scrubFound (u : W32) (h : UnitH) : (setUnit s u h).scrubFound = s.scrubFound := rfl
@[simp] theorem setUnit_slices (u : W32) (h : UnitH) : (setUnit s u h).slices = s.slices := rfl
@[simp] theorem setUnit_tdm (u : W32) (h : UnitH) : (setUnit s u h).tdm = s.tdm := rfl
@[simp] theorem setUnit_pdm (u : W32) (h : UnitH) : (setUnit s u h).pdm = s.pdm := rfl
@[simp] theorem setUnit_tap (u : W32) (h : UnitH) : (setUnit s u h).tap = s.tap := rfl
@[simp] theorem setUnit_side (u : W32) (h : UnitH) : (setUnit s u h).side = s.side := rfl
@[simp] theorem setUnit_gpCounters (u : W32) (h : UnitH) : (setUnit s u h).gpCounters = s.gpCounters := rfl

/-! ### `setTdm` writes `tdm` -/

@[simp] theorem setTdm_pending (n : Nat) (t : Tdm) : (setTdm s n t).pending = s.pending := rfl
@[simp] theorem setTdm_now (n : Nat) (t : Tdm) : (setTdm s n t).now = s.now := rfl
@[simp] theorem setTdm_fresh (n : Nat) (t : Tdm) : (setTdm s n t).fresh = s.fresh := rfl
@[simp] theorem setTdm_wire (n : Nat) (t : Tdm) : (setTdm s n t).wire = s.wire := rfl
@[simp] theorem setTdm_boot (n : Nat) (t : Tdm) : (setTdm s n t).boot = s.boot := rfl
@[simp] theorem setTdm_fuses (n : Nat) (t : Tdm) : (setTdm s n t).fuses = s.fuses := rfl
@[simp] theorem setTdm_flash (n : Nat) (t : Tdm) : (setTdm s n t).flash = s.flash := rfl
@[simp] theorem setTdm_fault (n : Nat) (t : Tdm) : (setTdm s n t).fault = s.fault := rfl
@[simp] theorem setTdm_fatalRun (n : Nat) (t : Tdm) : (setTdm s n t).fatalRun = s.fatalRun := rfl
@[simp] theorem setTdm_lastReinit (n : Nat) (t : Tdm) : (setTdm s n t).lastReinit = s.lastReinit := rfl
@[simp] theorem setTdm_deviceRecoveries (n : Nat) (t : Tdm) : (setTdm s n t).deviceRecoveries = s.deviceRecoveries := rfl
@[simp] theorem setTdm_power (n : Nat) (t : Tdm) : (setTdm s n t).power = s.power := rfl
@[simp] theorem setTdm_chunk (n : Nat) (t : Tdm) : (setTdm s n t).chunk = s.chunk := rfl
@[simp] theorem setTdm_t0 (n : Nat) (t : Tdm) : (setTdm s n t).t0 = s.t0 := rfl
@[simp] theorem setTdm_ports (n : Nat) (t : Tdm) : (setTdm s n t).ports = s.ports := rfl
@[simp] theorem setTdm_conns (n : Nat) (t : Tdm) : (setTdm s n t).conns = s.conns := rfl
@[simp] theorem setTdm_epochs (n : Nat) (t : Tdm) : (setTdm s n t).epochs = s.epochs := rfl
@[simp] theorem setTdm_opened (n : Nat) (t : Tdm) : (setTdm s n t).opened = s.opened := rfl
@[simp] theorem setTdm_resets (n : Nat) (t : Tdm) : (setTdm s n t).resets = s.resets := rfl
@[simp] theorem setTdm_mail (n : Nat) (t : Tdm) : (setTdm s n t).mail = s.mail := rfl
@[simp] theorem setTdm_mailLast (n : Nat) (t : Tdm) : (setTdm s n t).mailLast = s.mailLast := rfl
@[simp] theorem setTdm_unanswered (n : Nat) (t : Tdm) : (setTdm s n t).unanswered = s.unanswered := rfl
@[simp] theorem setTdm_keeps (n : Nat) (t : Tdm) : (setTdm s n t).keeps = s.keeps := rfl
@[simp] theorem setTdm_snapshots (n : Nat) (t : Tdm) : (setTdm s n t).snapshots = s.snapshots := rfl
@[simp] theorem setTdm_recs (n : Nat) (t : Tdm) : (setTdm s n t).recs = s.recs := rfl
@[simp] theorem setTdm_log (n : Nat) (t : Tdm) : (setTdm s n t).log = s.log := rfl
@[simp] theorem setTdm_logNext (n : Nat) (t : Tdm) : (setTdm s n t).logNext = s.logNext := rfl
@[simp] theorem setTdm_latch (n : Nat) (t : Tdm) : (setTdm s n t).latch = s.latch := rfl
@[simp] theorem setTdm_units (n : Nat) (t : Tdm) : (setTdm s n t).units = s.units := rfl
@[simp] theorem setTdm_builds (n : Nat) (t : Tdm) : (setTdm s n t).builds = s.builds := rfl
@[simp] theorem setTdm_loads (n : Nat) (t : Tdm) : (setTdm s n t).loads = s.loads := rfl
@[simp] theorem setTdm_adapters (n : Nat) (t : Tdm) : (setTdm s n t).adapters = s.adapters := rfl
@[simp] theorem setTdm_stores (n : Nat) (t : Tdm) : (setTdm s n t).stores = s.stores := rfl
@[simp] theorem setTdm_bays (n : Nat) (t : Tdm) : (setTdm s n t).bays = s.bays := rfl
@[simp] theorem setTdm_yealms (n : Nat) (t : Tdm) : (setTdm s n t).yealms = s.yealms := rfl
@[simp] theorem setTdm_sessions (n : Nat) (t : Tdm) : (setTdm s n t).sessions = s.sessions := rfl
@[simp] theorem setTdm_gens (n : Nat) (t : Tdm) : (setTdm s n t).gens = s.gens := rfl
@[simp] theorem setTdm_sessLost (n : Nat) (t : Tdm) : (setTdm s n t).sessLost = s.sessLost := rfl
@[simp] theorem setTdm_cores (n : Nat) (t : Tdm) : (setTdm s n t).cores = s.cores := rfl
@[simp] theorem setTdm_spills (n : Nat) (t : Tdm) : (setTdm s n t).spills = s.spills := rfl
@[simp] theorem setTdm_mesh (n : Nat) (t : Tdm) : (setTdm s n t).mesh = s.mesh := rfl
@[simp] theorem setTdm_thatch (n : Nat) (t : Tdm) : (setTdm s n t).thatch = s.thatch := rfl
@[simp] theorem setTdm_channels (n : Nat) (t : Tdm) : (setTdm s n t).channels = s.channels := rfl
@[simp] theorem setTdm_scrubFound (n : Nat) (t : Tdm) : (setTdm s n t).scrubFound = s.scrubFound := rfl
@[simp] theorem setTdm_slices (n : Nat) (t : Tdm) : (setTdm s n t).slices = s.slices := rfl
@[simp] theorem setTdm_pdm (n : Nat) (t : Tdm) : (setTdm s n t).pdm = s.pdm := rfl
@[simp] theorem setTdm_tap (n : Nat) (t : Tdm) : (setTdm s n t).tap = s.tap := rfl
@[simp] theorem setTdm_side (n : Nat) (t : Tdm) : (setTdm s n t).side = s.side := rfl
@[simp] theorem setTdm_gpCounters (n : Nat) (t : Tdm) : (setTdm s n t).gpCounters = s.gpCounters := rfl

/-! ### `modSess` writes `sessions` -/

@[simp] theorem modSess_pending (i : Nat) (f : Session → Session) : (modSess s i f).pending = s.pending := rfl
@[simp] theorem modSess_now (i : Nat) (f : Session → Session) : (modSess s i f).now = s.now := rfl
@[simp] theorem modSess_fresh (i : Nat) (f : Session → Session) : (modSess s i f).fresh = s.fresh := rfl
@[simp] theorem modSess_wire (i : Nat) (f : Session → Session) : (modSess s i f).wire = s.wire := rfl
@[simp] theorem modSess_boot (i : Nat) (f : Session → Session) : (modSess s i f).boot = s.boot := rfl
@[simp] theorem modSess_fuses (i : Nat) (f : Session → Session) : (modSess s i f).fuses = s.fuses := rfl
@[simp] theorem modSess_flash (i : Nat) (f : Session → Session) : (modSess s i f).flash = s.flash := rfl
@[simp] theorem modSess_fault (i : Nat) (f : Session → Session) : (modSess s i f).fault = s.fault := rfl
@[simp] theorem modSess_fatalRun (i : Nat) (f : Session → Session) : (modSess s i f).fatalRun = s.fatalRun := rfl
@[simp] theorem modSess_lastReinit (i : Nat) (f : Session → Session) : (modSess s i f).lastReinit = s.lastReinit := rfl
@[simp] theorem modSess_deviceRecoveries (i : Nat) (f : Session → Session) : (modSess s i f).deviceRecoveries = s.deviceRecoveries := rfl
@[simp] theorem modSess_power (i : Nat) (f : Session → Session) : (modSess s i f).power = s.power := rfl
@[simp] theorem modSess_chunk (i : Nat) (f : Session → Session) : (modSess s i f).chunk = s.chunk := rfl
@[simp] theorem modSess_t0 (i : Nat) (f : Session → Session) : (modSess s i f).t0 = s.t0 := rfl
@[simp] theorem modSess_ports (i : Nat) (f : Session → Session) : (modSess s i f).ports = s.ports := rfl
@[simp] theorem modSess_conns (i : Nat) (f : Session → Session) : (modSess s i f).conns = s.conns := rfl
@[simp] theorem modSess_epochs (i : Nat) (f : Session → Session) : (modSess s i f).epochs = s.epochs := rfl
@[simp] theorem modSess_opened (i : Nat) (f : Session → Session) : (modSess s i f).opened = s.opened := rfl
@[simp] theorem modSess_resets (i : Nat) (f : Session → Session) : (modSess s i f).resets = s.resets := rfl
@[simp] theorem modSess_mail (i : Nat) (f : Session → Session) : (modSess s i f).mail = s.mail := rfl
@[simp] theorem modSess_mailLast (i : Nat) (f : Session → Session) : (modSess s i f).mailLast = s.mailLast := rfl
@[simp] theorem modSess_unanswered (i : Nat) (f : Session → Session) : (modSess s i f).unanswered = s.unanswered := rfl
@[simp] theorem modSess_keeps (i : Nat) (f : Session → Session) : (modSess s i f).keeps = s.keeps := rfl
@[simp] theorem modSess_snapshots (i : Nat) (f : Session → Session) : (modSess s i f).snapshots = s.snapshots := rfl
@[simp] theorem modSess_recs (i : Nat) (f : Session → Session) : (modSess s i f).recs = s.recs := rfl
@[simp] theorem modSess_log (i : Nat) (f : Session → Session) : (modSess s i f).log = s.log := rfl
@[simp] theorem modSess_logNext (i : Nat) (f : Session → Session) : (modSess s i f).logNext = s.logNext := rfl
@[simp] theorem modSess_latch (i : Nat) (f : Session → Session) : (modSess s i f).latch = s.latch := rfl
@[simp] theorem modSess_units (i : Nat) (f : Session → Session) : (modSess s i f).units = s.units := rfl
@[simp] theorem modSess_builds (i : Nat) (f : Session → Session) : (modSess s i f).builds = s.builds := rfl
@[simp] theorem modSess_loads (i : Nat) (f : Session → Session) : (modSess s i f).loads = s.loads := rfl
@[simp] theorem modSess_adapters (i : Nat) (f : Session → Session) : (modSess s i f).adapters = s.adapters := rfl
@[simp] theorem modSess_stores (i : Nat) (f : Session → Session) : (modSess s i f).stores = s.stores := rfl
@[simp] theorem modSess_bays (i : Nat) (f : Session → Session) : (modSess s i f).bays = s.bays := rfl
@[simp] theorem modSess_yealms (i : Nat) (f : Session → Session) : (modSess s i f).yealms = s.yealms := rfl
@[simp] theorem modSess_gens (i : Nat) (f : Session → Session) : (modSess s i f).gens = s.gens := rfl
@[simp] theorem modSess_sessLost (i : Nat) (f : Session → Session) : (modSess s i f).sessLost = s.sessLost := rfl
@[simp] theorem modSess_cores (i : Nat) (f : Session → Session) : (modSess s i f).cores = s.cores := rfl
@[simp] theorem modSess_spills (i : Nat) (f : Session → Session) : (modSess s i f).spills = s.spills := rfl
@[simp] theorem modSess_mesh (i : Nat) (f : Session → Session) : (modSess s i f).mesh = s.mesh := rfl
@[simp] theorem modSess_thatch (i : Nat) (f : Session → Session) : (modSess s i f).thatch = s.thatch := rfl
@[simp] theorem modSess_channels (i : Nat) (f : Session → Session) : (modSess s i f).channels = s.channels := rfl
@[simp] theorem modSess_scrubFound (i : Nat) (f : Session → Session) : (modSess s i f).scrubFound = s.scrubFound := rfl
@[simp] theorem modSess_slices (i : Nat) (f : Session → Session) : (modSess s i f).slices = s.slices := rfl
@[simp] theorem modSess_tdm (i : Nat) (f : Session → Session) : (modSess s i f).tdm = s.tdm := rfl
@[simp] theorem modSess_pdm (i : Nat) (f : Session → Session) : (modSess s i f).pdm = s.pdm := rfl
@[simp] theorem modSess_tap (i : Nat) (f : Session → Session) : (modSess s i f).tap = s.tap := rfl
@[simp] theorem modSess_side (i : Nat) (f : Session → Session) : (modSess s i f).side = s.side := rfl
@[simp] theorem modSess_gpCounters (i : Nat) (f : Session → Session) : (modSess s i f).gpCounters = s.gpCounters := rfl

/-! ### `modYealm` writes `yealms` -/

@[simp] theorem modYealm_pending (y : Nat) (f : Yealm → Yealm) : (modYealm s y f).pending = s.pending := rfl
@[simp] theorem modYealm_now (y : Nat) (f : Yealm → Yealm) : (modYealm s y f).now = s.now := rfl
@[simp] theorem modYealm_fresh (y : Nat) (f : Yealm → Yealm) : (modYealm s y f).fresh = s.fresh := rfl
@[simp] theorem modYealm_wire (y : Nat) (f : Yealm → Yealm) : (modYealm s y f).wire = s.wire := rfl
@[simp] theorem modYealm_boot (y : Nat) (f : Yealm → Yealm) : (modYealm s y f).boot = s.boot := rfl
@[simp] theorem modYealm_fuses (y : Nat) (f : Yealm → Yealm) : (modYealm s y f).fuses = s.fuses := rfl
@[simp] theorem modYealm_flash (y : Nat) (f : Yealm → Yealm) : (modYealm s y f).flash = s.flash := rfl
@[simp] theorem modYealm_fault (y : Nat) (f : Yealm → Yealm) : (modYealm s y f).fault = s.fault := rfl
@[simp] theorem modYealm_fatalRun (y : Nat) (f : Yealm → Yealm) : (modYealm s y f).fatalRun = s.fatalRun := rfl
@[simp] theorem modYealm_lastReinit (y : Nat) (f : Yealm → Yealm) : (modYealm s y f).lastReinit = s.lastReinit := rfl
@[simp] theorem modYealm_deviceRecoveries (y : Nat) (f : Yealm → Yealm) : (modYealm s y f).deviceRecoveries = s.deviceRecoveries := rfl
@[simp] theorem modYealm_power (y : Nat) (f : Yealm → Yealm) : (modYealm s y f).power = s.power := rfl
@[simp] theorem modYealm_chunk (y : Nat) (f : Yealm → Yealm) : (modYealm s y f).chunk = s.chunk := rfl
@[simp] theorem modYealm_t0 (y : Nat) (f : Yealm → Yealm) : (modYealm s y f).t0 = s.t0 := rfl
@[simp] theorem modYealm_ports (y : Nat) (f : Yealm → Yealm) : (modYealm s y f).ports = s.ports := rfl
@[simp] theorem modYealm_conns (y : Nat) (f : Yealm → Yealm) : (modYealm s y f).conns = s.conns := rfl
@[simp] theorem modYealm_epochs (y : Nat) (f : Yealm → Yealm) : (modYealm s y f).epochs = s.epochs := rfl
@[simp] theorem modYealm_opened (y : Nat) (f : Yealm → Yealm) : (modYealm s y f).opened = s.opened := rfl
@[simp] theorem modYealm_resets (y : Nat) (f : Yealm → Yealm) : (modYealm s y f).resets = s.resets := rfl
@[simp] theorem modYealm_mail (y : Nat) (f : Yealm → Yealm) : (modYealm s y f).mail = s.mail := rfl
@[simp] theorem modYealm_mailLast (y : Nat) (f : Yealm → Yealm) : (modYealm s y f).mailLast = s.mailLast := rfl
@[simp] theorem modYealm_unanswered (y : Nat) (f : Yealm → Yealm) : (modYealm s y f).unanswered = s.unanswered := rfl
@[simp] theorem modYealm_keeps (y : Nat) (f : Yealm → Yealm) : (modYealm s y f).keeps = s.keeps := rfl
@[simp] theorem modYealm_snapshots (y : Nat) (f : Yealm → Yealm) : (modYealm s y f).snapshots = s.snapshots := rfl
@[simp] theorem modYealm_recs (y : Nat) (f : Yealm → Yealm) : (modYealm s y f).recs = s.recs := rfl
@[simp] theorem modYealm_log (y : Nat) (f : Yealm → Yealm) : (modYealm s y f).log = s.log := rfl
@[simp] theorem modYealm_logNext (y : Nat) (f : Yealm → Yealm) : (modYealm s y f).logNext = s.logNext := rfl
@[simp] theorem modYealm_latch (y : Nat) (f : Yealm → Yealm) : (modYealm s y f).latch = s.latch := rfl
@[simp] theorem modYealm_units (y : Nat) (f : Yealm → Yealm) : (modYealm s y f).units = s.units := rfl
@[simp] theorem modYealm_builds (y : Nat) (f : Yealm → Yealm) : (modYealm s y f).builds = s.builds := rfl
@[simp] theorem modYealm_loads (y : Nat) (f : Yealm → Yealm) : (modYealm s y f).loads = s.loads := rfl
@[simp] theorem modYealm_adapters (y : Nat) (f : Yealm → Yealm) : (modYealm s y f).adapters = s.adapters := rfl
@[simp] theorem modYealm_stores (y : Nat) (f : Yealm → Yealm) : (modYealm s y f).stores = s.stores := rfl
@[simp] theorem modYealm_bays (y : Nat) (f : Yealm → Yealm) : (modYealm s y f).bays = s.bays := rfl
@[simp] theorem modYealm_sessions (y : Nat) (f : Yealm → Yealm) : (modYealm s y f).sessions = s.sessions := rfl
@[simp] theorem modYealm_gens (y : Nat) (f : Yealm → Yealm) : (modYealm s y f).gens = s.gens := rfl
@[simp] theorem modYealm_sessLost (y : Nat) (f : Yealm → Yealm) : (modYealm s y f).sessLost = s.sessLost := rfl
@[simp] theorem modYealm_cores (y : Nat) (f : Yealm → Yealm) : (modYealm s y f).cores = s.cores := rfl
@[simp] theorem modYealm_spills (y : Nat) (f : Yealm → Yealm) : (modYealm s y f).spills = s.spills := rfl
@[simp] theorem modYealm_mesh (y : Nat) (f : Yealm → Yealm) : (modYealm s y f).mesh = s.mesh := rfl
@[simp] theorem modYealm_thatch (y : Nat) (f : Yealm → Yealm) : (modYealm s y f).thatch = s.thatch := rfl
@[simp] theorem modYealm_channels (y : Nat) (f : Yealm → Yealm) : (modYealm s y f).channels = s.channels := rfl
@[simp] theorem modYealm_scrubFound (y : Nat) (f : Yealm → Yealm) : (modYealm s y f).scrubFound = s.scrubFound := rfl
@[simp] theorem modYealm_slices (y : Nat) (f : Yealm → Yealm) : (modYealm s y f).slices = s.slices := rfl
@[simp] theorem modYealm_tdm (y : Nat) (f : Yealm → Yealm) : (modYealm s y f).tdm = s.tdm := rfl
@[simp] theorem modYealm_pdm (y : Nat) (f : Yealm → Yealm) : (modYealm s y f).pdm = s.pdm := rfl
@[simp] theorem modYealm_tap (y : Nat) (f : Yealm → Yealm) : (modYealm s y f).tap = s.tap := rfl
@[simp] theorem modYealm_side (y : Nat) (f : Yealm → Yealm) : (modYealm s y f).side = s.side := rfl
@[simp] theorem modYealm_gpCounters (y : Nat) (f : Yealm → Yealm) : (modYealm s y f).gpCounters = s.gpCounters := rfl

/-! ### `modBay` writes `bays` -/

@[simp] theorem modBay_pending (b : Nat) (f : Bay → Bay) : (modBay s b f).pending = s.pending := rfl
@[simp] theorem modBay_now (b : Nat) (f : Bay → Bay) : (modBay s b f).now = s.now := rfl
@[simp] theorem modBay_fresh (b : Nat) (f : Bay → Bay) : (modBay s b f).fresh = s.fresh := rfl
@[simp] theorem modBay_wire (b : Nat) (f : Bay → Bay) : (modBay s b f).wire = s.wire := rfl
@[simp] theorem modBay_boot (b : Nat) (f : Bay → Bay) : (modBay s b f).boot = s.boot := rfl
@[simp] theorem modBay_fuses (b : Nat) (f : Bay → Bay) : (modBay s b f).fuses = s.fuses := rfl
@[simp] theorem modBay_flash (b : Nat) (f : Bay → Bay) : (modBay s b f).flash = s.flash := rfl
@[simp] theorem modBay_fault (b : Nat) (f : Bay → Bay) : (modBay s b f).fault = s.fault := rfl
@[simp] theorem modBay_fatalRun (b : Nat) (f : Bay → Bay) : (modBay s b f).fatalRun = s.fatalRun := rfl
@[simp] theorem modBay_lastReinit (b : Nat) (f : Bay → Bay) : (modBay s b f).lastReinit = s.lastReinit := rfl
@[simp] theorem modBay_deviceRecoveries (b : Nat) (f : Bay → Bay) : (modBay s b f).deviceRecoveries = s.deviceRecoveries := rfl
@[simp] theorem modBay_power (b : Nat) (f : Bay → Bay) : (modBay s b f).power = s.power := rfl
@[simp] theorem modBay_chunk (b : Nat) (f : Bay → Bay) : (modBay s b f).chunk = s.chunk := rfl
@[simp] theorem modBay_t0 (b : Nat) (f : Bay → Bay) : (modBay s b f).t0 = s.t0 := rfl
@[simp] theorem modBay_ports (b : Nat) (f : Bay → Bay) : (modBay s b f).ports = s.ports := rfl
@[simp] theorem modBay_conns (b : Nat) (f : Bay → Bay) : (modBay s b f).conns = s.conns := rfl
@[simp] theorem modBay_epochs (b : Nat) (f : Bay → Bay) : (modBay s b f).epochs = s.epochs := rfl
@[simp] theorem modBay_opened (b : Nat) (f : Bay → Bay) : (modBay s b f).opened = s.opened := rfl
@[simp] theorem modBay_resets (b : Nat) (f : Bay → Bay) : (modBay s b f).resets = s.resets := rfl
@[simp] theorem modBay_mail (b : Nat) (f : Bay → Bay) : (modBay s b f).mail = s.mail := rfl
@[simp] theorem modBay_mailLast (b : Nat) (f : Bay → Bay) : (modBay s b f).mailLast = s.mailLast := rfl
@[simp] theorem modBay_unanswered (b : Nat) (f : Bay → Bay) : (modBay s b f).unanswered = s.unanswered := rfl
@[simp] theorem modBay_keeps (b : Nat) (f : Bay → Bay) : (modBay s b f).keeps = s.keeps := rfl
@[simp] theorem modBay_snapshots (b : Nat) (f : Bay → Bay) : (modBay s b f).snapshots = s.snapshots := rfl
@[simp] theorem modBay_recs (b : Nat) (f : Bay → Bay) : (modBay s b f).recs = s.recs := rfl
@[simp] theorem modBay_log (b : Nat) (f : Bay → Bay) : (modBay s b f).log = s.log := rfl
@[simp] theorem modBay_logNext (b : Nat) (f : Bay → Bay) : (modBay s b f).logNext = s.logNext := rfl
@[simp] theorem modBay_latch (b : Nat) (f : Bay → Bay) : (modBay s b f).latch = s.latch := rfl
@[simp] theorem modBay_units (b : Nat) (f : Bay → Bay) : (modBay s b f).units = s.units := rfl
@[simp] theorem modBay_builds (b : Nat) (f : Bay → Bay) : (modBay s b f).builds = s.builds := rfl
@[simp] theorem modBay_loads (b : Nat) (f : Bay → Bay) : (modBay s b f).loads = s.loads := rfl
@[simp] theorem modBay_adapters (b : Nat) (f : Bay → Bay) : (modBay s b f).adapters = s.adapters := rfl
@[simp] theorem modBay_stores (b : Nat) (f : Bay → Bay) : (modBay s b f).stores = s.stores := rfl
@[simp] theorem modBay_yealms (b : Nat) (f : Bay → Bay) : (modBay s b f).yealms = s.yealms := rfl
@[simp] theorem modBay_sessions (b : Nat) (f : Bay → Bay) : (modBay s b f).sessions = s.sessions := rfl
@[simp] theorem modBay_gens (b : Nat) (f : Bay → Bay) : (modBay s b f).gens = s.gens := rfl
@[simp] theorem modBay_sessLost (b : Nat) (f : Bay → Bay) : (modBay s b f).sessLost = s.sessLost := rfl
@[simp] theorem modBay_cores (b : Nat) (f : Bay → Bay) : (modBay s b f).cores = s.cores := rfl
@[simp] theorem modBay_spills (b : Nat) (f : Bay → Bay) : (modBay s b f).spills = s.spills := rfl
@[simp] theorem modBay_mesh (b : Nat) (f : Bay → Bay) : (modBay s b f).mesh = s.mesh := rfl
@[simp] theorem modBay_thatch (b : Nat) (f : Bay → Bay) : (modBay s b f).thatch = s.thatch := rfl
@[simp] theorem modBay_channels (b : Nat) (f : Bay → Bay) : (modBay s b f).channels = s.channels := rfl
@[simp] theorem modBay_scrubFound (b : Nat) (f : Bay → Bay) : (modBay s b f).scrubFound = s.scrubFound := rfl
@[simp] theorem modBay_slices (b : Nat) (f : Bay → Bay) : (modBay s b f).slices = s.slices := rfl
@[simp] theorem modBay_tdm (b : Nat) (f : Bay → Bay) : (modBay s b f).tdm = s.tdm := rfl
@[simp] theorem modBay_pdm (b : Nat) (f : Bay → Bay) : (modBay s b f).pdm = s.pdm := rfl
@[simp] theorem modBay_tap (b : Nat) (f : Bay → Bay) : (modBay s b f).tap = s.tap := rfl
@[simp] theorem modBay_side (b : Nat) (f : Bay → Bay) : (modBay s b f).side = s.side := rfl
@[simp] theorem modBay_gpCounters (b : Nat) (f : Bay → Bay) : (modBay s b f).gpCounters = s.gpCounters := rfl

/-! ### `modBuild` writes `builds` -/

@[simp] theorem modBuild_pending (id : W64) (f : Build → Build) : (modBuild s id f).pending = s.pending := rfl
@[simp] theorem modBuild_now (id : W64) (f : Build → Build) : (modBuild s id f).now = s.now := rfl
@[simp] theorem modBuild_fresh (id : W64) (f : Build → Build) : (modBuild s id f).fresh = s.fresh := rfl
@[simp] theorem modBuild_wire (id : W64) (f : Build → Build) : (modBuild s id f).wire = s.wire := rfl
@[simp] theorem modBuild_boot (id : W64) (f : Build → Build) : (modBuild s id f).boot = s.boot := rfl
@[simp] theorem modBuild_fuses (id : W64) (f : Build → Build) : (modBuild s id f).fuses = s.fuses := rfl
@[simp] theorem modBuild_flash (id : W64) (f : Build → Build) : (modBuild s id f).flash = s.flash := rfl
@[simp] theorem modBuild_fault (id : W64) (f : Build → Build) : (modBuild s id f).fault = s.fault := rfl
@[simp] theorem modBuild_fatalRun (id : W64) (f : Build → Build) : (modBuild s id f).fatalRun = s.fatalRun := rfl
@[simp] theorem modBuild_lastReinit (id : W64) (f : Build → Build) : (modBuild s id f).lastReinit = s.lastReinit := rfl
@[simp] theorem modBuild_deviceRecoveries (id : W64) (f : Build → Build) : (modBuild s id f).deviceRecoveries = s.deviceRecoveries := rfl
@[simp] theorem modBuild_power (id : W64) (f : Build → Build) : (modBuild s id f).power = s.power := rfl
@[simp] theorem modBuild_chunk (id : W64) (f : Build → Build) : (modBuild s id f).chunk = s.chunk := rfl
@[simp] theorem modBuild_t0 (id : W64) (f : Build → Build) : (modBuild s id f).t0 = s.t0 := rfl
@[simp] theorem modBuild_ports (id : W64) (f : Build → Build) : (modBuild s id f).ports = s.ports := rfl
@[simp] theorem modBuild_conns (id : W64) (f : Build → Build) : (modBuild s id f).conns = s.conns := rfl
@[simp] theorem modBuild_epochs (id : W64) (f : Build → Build) : (modBuild s id f).epochs = s.epochs := rfl
@[simp] theorem modBuild_opened (id : W64) (f : Build → Build) : (modBuild s id f).opened = s.opened := rfl
@[simp] theorem modBuild_resets (id : W64) (f : Build → Build) : (modBuild s id f).resets = s.resets := rfl
@[simp] theorem modBuild_mail (id : W64) (f : Build → Build) : (modBuild s id f).mail = s.mail := rfl
@[simp] theorem modBuild_mailLast (id : W64) (f : Build → Build) : (modBuild s id f).mailLast = s.mailLast := rfl
@[simp] theorem modBuild_unanswered (id : W64) (f : Build → Build) : (modBuild s id f).unanswered = s.unanswered := rfl
@[simp] theorem modBuild_keeps (id : W64) (f : Build → Build) : (modBuild s id f).keeps = s.keeps := rfl
@[simp] theorem modBuild_snapshots (id : W64) (f : Build → Build) : (modBuild s id f).snapshots = s.snapshots := rfl
@[simp] theorem modBuild_recs (id : W64) (f : Build → Build) : (modBuild s id f).recs = s.recs := rfl
@[simp] theorem modBuild_log (id : W64) (f : Build → Build) : (modBuild s id f).log = s.log := rfl
@[simp] theorem modBuild_logNext (id : W64) (f : Build → Build) : (modBuild s id f).logNext = s.logNext := rfl
@[simp] theorem modBuild_latch (id : W64) (f : Build → Build) : (modBuild s id f).latch = s.latch := rfl
@[simp] theorem modBuild_units (id : W64) (f : Build → Build) : (modBuild s id f).units = s.units := rfl
@[simp] theorem modBuild_loads (id : W64) (f : Build → Build) : (modBuild s id f).loads = s.loads := rfl
@[simp] theorem modBuild_adapters (id : W64) (f : Build → Build) : (modBuild s id f).adapters = s.adapters := rfl
@[simp] theorem modBuild_stores (id : W64) (f : Build → Build) : (modBuild s id f).stores = s.stores := rfl
@[simp] theorem modBuild_bays (id : W64) (f : Build → Build) : (modBuild s id f).bays = s.bays := rfl
@[simp] theorem modBuild_yealms (id : W64) (f : Build → Build) : (modBuild s id f).yealms = s.yealms := rfl
@[simp] theorem modBuild_sessions (id : W64) (f : Build → Build) : (modBuild s id f).sessions = s.sessions := rfl
@[simp] theorem modBuild_gens (id : W64) (f : Build → Build) : (modBuild s id f).gens = s.gens := rfl
@[simp] theorem modBuild_sessLost (id : W64) (f : Build → Build) : (modBuild s id f).sessLost = s.sessLost := rfl
@[simp] theorem modBuild_cores (id : W64) (f : Build → Build) : (modBuild s id f).cores = s.cores := rfl
@[simp] theorem modBuild_spills (id : W64) (f : Build → Build) : (modBuild s id f).spills = s.spills := rfl
@[simp] theorem modBuild_mesh (id : W64) (f : Build → Build) : (modBuild s id f).mesh = s.mesh := rfl
@[simp] theorem modBuild_thatch (id : W64) (f : Build → Build) : (modBuild s id f).thatch = s.thatch := rfl
@[simp] theorem modBuild_channels (id : W64) (f : Build → Build) : (modBuild s id f).channels = s.channels := rfl
@[simp] theorem modBuild_scrubFound (id : W64) (f : Build → Build) : (modBuild s id f).scrubFound = s.scrubFound := rfl
@[simp] theorem modBuild_slices (id : W64) (f : Build → Build) : (modBuild s id f).slices = s.slices := rfl
@[simp] theorem modBuild_tdm (id : W64) (f : Build → Build) : (modBuild s id f).tdm = s.tdm := rfl
@[simp] theorem modBuild_pdm (id : W64) (f : Build → Build) : (modBuild s id f).pdm = s.pdm := rfl
@[simp] theorem modBuild_tap (id : W64) (f : Build → Build) : (modBuild s id f).tap = s.tap := rfl
@[simp] theorem modBuild_side (id : W64) (f : Build → Build) : (modBuild s id f).side = s.side := rfl
@[simp] theorem modBuild_gpCounters (id : W64) (f : Build → Build) : (modBuild s id f).gpCounters = s.gpCounters := rfl

/-! ### `modTap` writes `tap` -/

@[simp] theorem modTap_pending (f : Tap → Tap) : (modTap s f).pending = s.pending := rfl
@[simp] theorem modTap_now (f : Tap → Tap) : (modTap s f).now = s.now := rfl
@[simp] theorem modTap_fresh (f : Tap → Tap) : (modTap s f).fresh = s.fresh := rfl
@[simp] theorem modTap_wire (f : Tap → Tap) : (modTap s f).wire = s.wire := rfl
@[simp] theorem modTap_boot (f : Tap → Tap) : (modTap s f).boot = s.boot := rfl
@[simp] theorem modTap_fuses (f : Tap → Tap) : (modTap s f).fuses = s.fuses := rfl
@[simp] theorem modTap_flash (f : Tap → Tap) : (modTap s f).flash = s.flash := rfl
@[simp] theorem modTap_fault (f : Tap → Tap) : (modTap s f).fault = s.fault := rfl
@[simp] theorem modTap_fatalRun (f : Tap → Tap) : (modTap s f).fatalRun = s.fatalRun := rfl
@[simp] theorem modTap_lastReinit (f : Tap → Tap) : (modTap s f).lastReinit = s.lastReinit := rfl
@[simp] theorem modTap_deviceRecoveries (f : Tap → Tap) : (modTap s f).deviceRecoveries = s.deviceRecoveries := rfl
@[simp] theorem modTap_power (f : Tap → Tap) : (modTap s f).power = s.power := rfl
@[simp] theorem modTap_chunk (f : Tap → Tap) : (modTap s f).chunk = s.chunk := rfl
@[simp] theorem modTap_t0 (f : Tap → Tap) : (modTap s f).t0 = s.t0 := rfl
@[simp] theorem modTap_ports (f : Tap → Tap) : (modTap s f).ports = s.ports := rfl
@[simp] theorem modTap_conns (f : Tap → Tap) : (modTap s f).conns = s.conns := rfl
@[simp] theorem modTap_epochs (f : Tap → Tap) : (modTap s f).epochs = s.epochs := rfl
@[simp] theorem modTap_opened (f : Tap → Tap) : (modTap s f).opened = s.opened := rfl
@[simp] theorem modTap_resets (f : Tap → Tap) : (modTap s f).resets = s.resets := rfl
@[simp] theorem modTap_mail (f : Tap → Tap) : (modTap s f).mail = s.mail := rfl
@[simp] theorem modTap_mailLast (f : Tap → Tap) : (modTap s f).mailLast = s.mailLast := rfl
@[simp] theorem modTap_unanswered (f : Tap → Tap) : (modTap s f).unanswered = s.unanswered := rfl
@[simp] theorem modTap_keeps (f : Tap → Tap) : (modTap s f).keeps = s.keeps := rfl
@[simp] theorem modTap_snapshots (f : Tap → Tap) : (modTap s f).snapshots = s.snapshots := rfl
@[simp] theorem modTap_recs (f : Tap → Tap) : (modTap s f).recs = s.recs := rfl
@[simp] theorem modTap_log (f : Tap → Tap) : (modTap s f).log = s.log := rfl
@[simp] theorem modTap_logNext (f : Tap → Tap) : (modTap s f).logNext = s.logNext := rfl
@[simp] theorem modTap_latch (f : Tap → Tap) : (modTap s f).latch = s.latch := rfl
@[simp] theorem modTap_units (f : Tap → Tap) : (modTap s f).units = s.units := rfl
@[simp] theorem modTap_builds (f : Tap → Tap) : (modTap s f).builds = s.builds := rfl
@[simp] theorem modTap_loads (f : Tap → Tap) : (modTap s f).loads = s.loads := rfl
@[simp] theorem modTap_adapters (f : Tap → Tap) : (modTap s f).adapters = s.adapters := rfl
@[simp] theorem modTap_stores (f : Tap → Tap) : (modTap s f).stores = s.stores := rfl
@[simp] theorem modTap_bays (f : Tap → Tap) : (modTap s f).bays = s.bays := rfl
@[simp] theorem modTap_yealms (f : Tap → Tap) : (modTap s f).yealms = s.yealms := rfl
@[simp] theorem modTap_sessions (f : Tap → Tap) : (modTap s f).sessions = s.sessions := rfl
@[simp] theorem modTap_gens (f : Tap → Tap) : (modTap s f).gens = s.gens := rfl
@[simp] theorem modTap_sessLost (f : Tap → Tap) : (modTap s f).sessLost = s.sessLost := rfl
@[simp] theorem modTap_cores (f : Tap → Tap) : (modTap s f).cores = s.cores := rfl
@[simp] theorem modTap_spills (f : Tap → Tap) : (modTap s f).spills = s.spills := rfl
@[simp] theorem modTap_mesh (f : Tap → Tap) : (modTap s f).mesh = s.mesh := rfl
@[simp] theorem modTap_thatch (f : Tap → Tap) : (modTap s f).thatch = s.thatch := rfl
@[simp] theorem modTap_channels (f : Tap → Tap) : (modTap s f).channels = s.channels := rfl
@[simp] theorem modTap_scrubFound (f : Tap → Tap) : (modTap s f).scrubFound = s.scrubFound := rfl
@[simp] theorem modTap_slices (f : Tap → Tap) : (modTap s f).slices = s.slices := rfl
@[simp] theorem modTap_tdm (f : Tap → Tap) : (modTap s f).tdm = s.tdm := rfl
@[simp] theorem modTap_pdm (f : Tap → Tap) : (modTap s f).pdm = s.pdm := rfl
@[simp] theorem modTap_side (f : Tap → Tap) : (modTap s f).side = s.side := rfl
@[simp] theorem modTap_gpCounters (f : Tap → Tap) : (modTap s f).gpCounters = s.gpCounters := rfl

end Sys2Proof.Machine
end

