-- ==== Sys2Proof/WellFormed.lean ====
section
/-!
DEFINITION. Sys2Proof/WellFormed.lean: which commands the environment can send at all. Each check has a name and says what
the operands must be; a message's or segment's own fields are not checked here, since the device checks them (R307, R332).
-/
namespace Sys2Proof

/-- Connection ids run from 0 to 4,095 (R305). -/
def connIdOk (c : Nat) : Bool := decide (c < 4096)
/-- Bay ids run from 0 to 63 (R268). -/
def bayIdOk (b : Nat) : Bool := decide (b < 64)
/-- Yealm ids run from 0 to 4,095 (R275). -/
def yealmIdOk (y : Nat) : Bool := decide (y < 4096)
/-- Session indices run from 0 to 65,535 (R355). -/
def sessIdxOk (i : Nat) : Bool := decide (i < 65536)

/-- MAC addresses have 48 bits and VIDs 12 (R298, R299). -/
def frameHdrOk (f : FrameHdr) : Bool :=
  decide (f.dest < 2 ^ 48) && decide (f.src < 2 ^ 48) && f.tags.all (fun v => decide (v < 4096))

/-- An IPv4 address has 32 bits, an IPv6 address 128. -/
def ipAddrOk (v6 : Bool) (a : Nat) : Bool := decide (a < 2 ^ (if v6 then 128 else 32))

/-- The frame, addresses and UDP ports that carried a segment. -/
def segCarrierOk (g : Seg) : Bool :=
  frameHdrOk g.frame && ipAddrOk g.v6 g.srcIp && ipAddrOk g.v6 g.dstIp && decide (g.srcUdp < 65536) && decide (g.dstUdp < 65536)

/-- A host message comes over a connection. -/
def hostMsgOk (m : HostMsg) : Bool := connIdOk m.conn

/-- Unit identifiers have a type of Table 14.5. -/
def unitIdOk (u : W32) : Bool := decide (1 ≤ u.toNat / 16777216) && decide (u.toNat / 16777216 ≤ 11)

/-- 80 junction sensors are read at once (R449). -/
def readingsOk (l : List (BitVec 16)) : Bool := decide (l.length = 80)
/-- Eight rails are compared at once (R430). -/
def railsOk (l : List Nat) : Bool := decide (l.length = 8)
/-- One value is sampled and one loaded for every boundary-scan cell (R494). -/
def scanOk (pins load : List Bool) : Bool := decide (pins.length = load.length)
/-- BYPASS is selected by its own codes; IDCODE, USERCODE and SAMPLE/PRELOAD never act as it (Table 21.1). -/
def bypassCodeOk (code : Byte) : Bool := !([1, 2, 3] : List Nat).contains code.toNat
/-- A frame edge ends a period. -/
def periodOk (p : Nat) : Bool := decide (1 ≤ p)
/-- A bus transfer moves at least one byte. -/
def countOk (n : Nat) : Bool := decide (1 ≤ n)
/-- Copies of a build: home, mirror, and one for each bay (Table 10.2). -/
def copyKindOk (k : Nat) : Bool := decide (k < 66)
/-- Cores of a bay have indices 0 to 63. -/
def coreIdxOk (i : Byte) : Bool := decide (i.toNat < 64)
/-- Boot stops at a stage with bit 7 set (Table 21.7). -/
def stopStageOk (b : Byte) : Bool := decide (128 ≤ b.toNat)

/-- The command can be sent. -/
def wellFormed (i : Instr) : Bool :=
  match i with
  | .resync m | .summary m | .profileSelect m | .powerState m | .powerCap m | .loadBuild m | .loadBuildAbort m
  | .rangeReload m | .unloadBuild m | .bayCreate m | .bayDestroy m | .planBind m | .planUnbind m | .yealmForm m
  | .yealmRelease m | .configWrite m | .configCommit m | .configRead m | .faultLogRead m | .faultClear m | .diagRead m
  | .fwUpdate m | .fwUpdateAbort m | .attest m | .voiceStore m | .voiceDrop m | .sessionOpen m | .sessionClose m
  | .textPush m | .speak m | .stop m | .attach m | .detach m | .sessionExport m | .sessionImport m | .enrollStart m
  | .enrollData m => hostMsgOk m
  | .configApply _ _ | .flashSlotEraseDone | .attestSigningDone => true
  | .enrollCaptureEnd session | .ringOutputTake session => sessIdxOk session
  | .lmxOpen g | .lmxData g | .lmxAck g | .lmxClose g | .lmxReset g | .lmxKeepalive g | .dgramFromHost g
  | .invalidSegment _ g => segCarrierOk g
  | .ackDelayExpiry conn | .rtoExpiry conn _ | .keepaliveTimerExpiry conn _ | .holdExpiry conn | .closingEnd conn => connIdOk conn
  | .arpRequest _ f _ _ | .neighbourSolicitation _ f _ _ | .pauseFrame _ f _ | .unsupportedFrame _ f => frameHdrOk f
  | .echoRequest _ f v6 srcIp dstIp _ => frameHdrOk f && ipAddrOk v6 srcIp && ipAddrOk v6 dstIp
  | .linkUp _ | .anFail _ | .linkLost _ | .portLinkIdlePoint _ | .chunkBoundary => true
  | .sliceStart bay | .coreLend bay | .reclaimStart bay | .reserveWindowPiece bay | .bulkTransferPieceDone bay
  | .reclaimComplete bay _ | .beSliceEnd bay _ _ => bayIdOk bay
  | .commit yealm => yealmIdOk yealm
  | .containedFault f | .fatalFault f => unitIdOk f.unit
  | .nop _ _ | .slotLoop _ _ _ | .descWrite _ _ _ _ | .ringWrite _ _ _ _ | .matmul _ _ _ | .diag _ _ _ | .winoOut _ _ _
  | .carry _ _ _ | .element _ _ _ | .convert _ _ _ | .func _ _ _ | .reduce _ _ _ | .softmax _ _ _ | .quant _ _ _
  | .rescale _ _ _ | .gate _ _ _ | .hadamard _ _ _ | .upsample _ _ _ | .sample _ _ _ | .markCmd _ _ _ | .arm _ _ _
  | .restore _ _ _ | .save _ _ _ | .spill _ _ _ | .unspill _ _ _ | .compatLoad _ _ _ | .compatSave _ _ _ | .draw _ _ _
  | .commandComplete _ _ | .dmaTransferComplete _ _ | .remoteSemaphoreSignal _ _ | .scheduleOverrun _ _
  | .rngTableFill _ => true
  | .linkStall bay coreIdx _ => bayIdOk bay && coreIdxOk coreIdx
  | .refresh _ _ | .patrolScrub _ _ | .phyRecalibration _ _ _ | .maintenanceCredit _ => true
  | .pageRewriteComplete _ copy _ => copyKindOk copy
  | .quietPeriodExpiry unit | .selfTestComplete unit _ => unitIdOk unit
  | .firmwareWatchdogExpiry | .deviceQuietPeriodExpiry | .warmReinitComplete | .backoffExpiry => true
  | .sensorReading readings => readingsOk readings
  | .supplyCheck milliVolts => railsOk milliVolts
  | .thermalAlarmClear | .refclkLost | .pllLossOfLock | .sdrefLost _ | .sdrefRestored _ | .pwrokRise | .pwrokFall
  | .resetNRise _ | .warmReset _ _ | .bootComplete | .trialBootTimeout _ | .powerStateEntryComplete
  | .powerStateExitComplete | .wake _ => true
  | .bootStop stage => stopStageOk stage
  | .tdmFrame _ period _ _ | .relockLocked _ period => periodOk period
  | .clockLoss _ | .tdmRestartRampDone _ | .bargeGateBlock _ _ _ | .pdmOutputSample _ _ _ => true
  | .i2cPointerWrite bytes => countOk bytes.length
  | .i2cRead count => countOk count
  | .telemetryRefresh | .tapReset | .idcode | .usercode | .extest | .clamp | .highz | .mbistRun _ | .mbistDone _
  | .serdesTestRun _ | .tapRegisterWrite _ _ | .flashProgramDone | .firmwareReloadComplete _ | .serdesCheckerLock _ _
  | .freewheelPlayTimePass _ _ => true
  | .samplePreload pins load => scanOk pins load
  | .bypass code => bypassCodeOk code

end Sys2Proof
end

