-- ==== Sys2Proof/Tests/Slice0.lean ====
section
/-!
SUPPORT. Sys2Proof/Tests/Slice0.lean: ill-formed commands that the checks of WellFormed refuse, witnesses that the hypotheses
of every statement can be met together, and small tests of single commands.
-/
namespace Sys2Proof.Tests

set_option Elab.async false

open Sys2Proof Sys2Proof.Machine

/-! ### States and messages of the tests -/

/-- The host at the other end of connection 0. -/
def path0 : Path :=
  { (default : Path) with bound := true, up := true, ip := 0x0A000002, udp := 5000, mac := 2, rto := 1000000 }

/-- Connection 0, open on network 0 alone. -/
def conn0 : Conn :=
  { (default : Conn) with epoch := 5, tag := 7, hostMax := 9000, paths := [(0, path0)], rxNext := 100, isn := 10
                          txNext := 11, peerWindow := 60000, bufLimit := 2097152 }

/-- Port 0 of the tests. -/
def port0 : Port := { (default : Port) with link := true }

/-- Port record: enabled, `mtu` 1,500, MAC address 02:00:00:00:00:01, PAUSE honoured. -/
def portRec : List Byte := le 1 1 ++ le 1 2 ++ le 2 1500 ++ [2, 0, 0, 0, 0, 1] ++ zeros 22

/-- IP record: 10.0.0.1 and fd00::1. -/
def ipRec : List Byte := [10, 0, 0, 1, 0xFD] ++ zeros 14 ++ [1, 1, 64] ++ zeros 10

/-- A device that has booted with nothing resident: connection 0 open, the link of port 0 up. -/
def up : State :=
  { State.reset with
    recs := (profRecs [(1, 0, portRec), (2, 0, ipRec)] State.reset).recs
    boot := { State.reset.boot with pwrok := true, resetN := true, stage := 8, complete := true, faultN := false }
    ports := [(0, port0)], conns := [(0, conn0)] }

/-- A message on connection 0 with number 1. -/
def msg (body : List Byte) : HostMsg :=
  { conn := 0, respBit := false, status := 0, msgId := 1, length := BitVec.ofNat 32 (12 + body.length), body := body }

/-- Bytes of the numbers. -/
def bs (l : List Nat) : List Byte := l.map (BitVec.ofNat 8)

/-- The request of message number 1 as firmware keeps it. -/
def asked (typ : W16) (body : List Byte) : RespTo :=
  { conn := 0, epoch := 5, tag := 7, msgId := 1, typ := typ, bodyCrc := crc32c body }

/-- `up` with a message accepted and not answered. -/
def upOwing (typ : W16) : State := { up with unanswered := [asked typ []] }

/-! ### Witnesses: control messages -/

/-- A write of `hold_ms` of record 0x03, one past the record's end, one of a record that does not exist. -/
theorem witness_configWrite :
    let m := msg (bs [3, 0, 6, 0, 2, 0, 0, 0, 10, 0])
    let past := msg (bs [3, 0, 31, 0, 2, 0, 0, 0, 1, 0])
    let none := msg (bs [0x20, 0, 0, 0, 1, 0, 0, 0, 1])
    passes up 0x0130 m = true ∧ isZero m.body 6 2 = true ∧ 1 ≤ fld m.body 4 2 ∧ fld m.body 4 2 ≤ 64 ∧
      fld m.body 4 2 = m.body.length - 8 ∧ recExists up 3 0 = true ∧ recBayBusy up 3 0 = false ∧
      recSize 3 < fld past.body 2 2 + (past.body.drop 8).length ∧ passes up 0x0130 past = true ∧
      passes up 0x0130 none = true ∧ recExists up 0x20 0 = false := by decide +kernel

theorem witness_configRead :
    let m := msg (bs [3, 0, 1, 0])
    let n := msg (bs [3, 0, 0, 0])
    passes up 0x0132 m = true ∧ fld m.body 2 1 < 2 ∧ isZero m.body 3 1 = true ∧ recExists up 3 0 = true ∧
      passes up 0x0132 n = true ∧ fld n.body 2 1 = 0 := by decide +kernel

/-- Record 0x03 with a shadow of another `hold_ms`. -/
def edited : State := setRec up 3 0 { recOf up 3 0 with shadow := splice (recOf up 3 0).shadow 6 (bs [11, 0]), shadowGen := 1 }

theorem witness_configCommit :
    let m := msg (bs [3, 0, 0, 0, 1, 0, 0, 0])
    passes edited 0x0131 m = true ∧ fld m.body 2 1 < 2 ∧ isZero m.body 3 1 = true ∧ recExists edited 3 0 = true ∧
      recBayBusy edited 3 0 = false ∧ stopChanged 3 (recOf edited 3 0).active (recOf edited 3 0).shadow = false ∧
      (recOf edited 3 0).commit = none ∧ fld m.body 4 4 = (recOf edited 3 0).shadowGen.toNat ∧
      recOk edited 3 0 (recOf edited 3 0).shadow = true ∧ (recOf edited 3 0).shadow ≠ (recOf edited 3 0).active := by
  decide +kernel

/-- The unchanged record is answered at once, and one with a commit in progress is busy. -/
theorem witness_configCommit_other :
    let m := msg (bs [3, 0, 0, 0, 0, 0, 0, 0])
    let busy := setRec up 3 0 { recOf up 3 0 with commit := some default }
    passes up 0x0131 m = true ∧ fld m.body 4 4 = (recOf up 3 0).shadowGen.toNat ∧
      recOk up 3 0 (recOf up 3 0).shadow = true ∧ (recOf up 3 0).shadow = (recOf up 3 0).active ∧
      passes busy 0x0131 m = true ∧ (recOf busy 3 0).commit.isSome = true := by
  decide +kernel

/-- A commit of a record that waits for its boundary, owed to connection 0. -/
def capture (id inst : Nat) (f : List Byte → List Byte) : CommitReq :=
  { bytes := f (act up id inst), gen := 1, restart := false, idle := [], resp := some (asked 0x0131 []) }

/-- The IP record of port 0 and the fault timing record with a commit that waits. -/
def captured (id inst : Nat) (f : List Byte → List Byte) : State :=
  setRec { upOwing 0x0131 with unanswered := [asked 0x0131 []] } id inst { recOf up id inst with commit := some (capture id inst f) }

theorem witness_safeBoundary :
    let c := capture 2 0 (fun b => splice b 3 [9])
    let s := captured 2 0 (fun b => splice b 3 [9])
    let u := setRec s 2 0 { recOf s 2 0 with commit := none }
    s.boot.complete = true ∧ s.fault = none ∧ tsorted none s.recs = true ∧ c.resp = some (asked 0x0131 []) ∧
      c.restart = false ∧ awaits s (asked 0x0131 []) = true ∧ recListed 2 0 = true ∧ (recOf s 2 0).commit = some c ∧
      captureOk u 2 0 c = true ∧ (recOf s 1 0).commit = none ∧ (recOf s 3 0).commit = none := by decide +kernel

theorem witness_safeBoundary_timing :
    let c := capture 0x30 0 (fun b => splice b 4 [9])
    let s := captured 0x30 0 (fun b => splice b 4 [9])
    let u := setRec s 0x30 0 { recOf s 0x30 0 with commit := none }
    tsorted none s.recs = true ∧ awaits s (asked 0x0131 []) = true ∧ (recOf s 0x30 0).commit = some c ∧
      captureOk u 0x30 0 c = true ∧ recListed 0x30 0 = true := by decide +kernel

theorem witness_safeBoundary_pdm :
    let c := capture 0x18 0 (fun b => splice b 28 [9])
    let s := captured 0x18 0 (fun b => splice b 28 [9])
    let u := setRec s 0x18 0 { recOf s 0x18 0 with commit := none }
    tsorted none s.recs = true ∧ awaits s (asked 0x0131 []) = true ∧ (recOf s 0x18 0).commit = some c ∧
      captureOk u 0x18 0 c = true ∧ recListed 0x18 0 = true := by decide +kernel

/-- `up` with a latched fault of source 0x0303. -/
def latched : State := { up with latch := some { (default : Latch) with source := 0x0303 } }

theorem witness_faultClear :
    let m := msg (bs [3, 3, 0, 0])
    let n := msg (bs [4, 3, 0, 0])
    passes latched 0x0141 m = true ∧ isZero m.body 2 2 = true ∧
      fld m.body 0 2 = ((latched.latch).map (fun l => l.source.toNat)).getD 0 ∧
      passes latched 0x0141 n = true ∧ fld n.body 0 2 ≠ ((latched.latch).map (fun l => l.source.toNat)).getD 0 ∧
      passes up 0x0141 (msg (bs [0, 0, 0, 0])) = true := by decide +kernel

theorem witness_reports :
    let log := msg (bs [0, 0, 0, 0, 1, 0, 0, 0])
    let most := msg (bs [0, 0, 0, 0, 0, 4, 0, 0])
    let diag := msg (bs [1, 0, 63, 0, 0, 0, 1, 0])
    let gone := msg (bs [1, 0, 64, 0, 0, 0, 1, 0])
    let path := msg (bs [6, 0, 0, 0, 0, 0, 1, 0])
    passes up 0x0140 log = true ∧ passes up 0x0140 most = true ∧ fld most.body 4 2 = 1024 ∧
      passes up 0x0142 diag = true ∧ isZero diag.body 1 1 = true ∧ (unitCounters up 1 63).isSome = true ∧
      passes up 0x0142 gone = true ∧ unitCounters up 1 64 = none ∧ passes up 0x0142 path = true ∧
      passes up 0x0101 (msg []) = true ∧ passes up 0x0102 (msg []) = true := by decide +kernel

/-- Profile 2 of the boot flash without an entry. -/
def flash2 : Tab Byte :=
  let h := le 4 0x46504D4C ++ le 2 1 ++ le 1 2 ++ le 1 0 ++ le 4 64 ++ le 2 0 ++ zeros 42 ++ le 4 (crc32c []).toNat
  mwrite 0xFF [] 0x30000 (h ++ le 4 (crc32c h).toNat)

theorem witness_profileSelect :
    let s : State := { up with flash := flash2 }
    let m := msg (bs [2, 1, 0, 0])
    let n := msg (bs [3, 0, 0, 0])
    passes s 0x0103 m = true ∧ fld m.body 0 1 ≤ 3 ∧ fld m.body 1 1 ≤ 1 ∧ isZero m.body 2 2 = true ∧
      profileValid s (fld m.body 0 1) = true ∧ passes s 0x0103 n = true ∧ profileValid s (fld n.body 0 1) = false := by
  decide +kernel

theorem witness_powerCap :
    let m := msg (le 4 40000)
    let n := msg (le 4 0)
    let p := msg (le 4 320000)
    passes up 0x0105 m = true ∧ powerNow (dropMarked up) ≤ 40000 ∧ passes up 0x0105 n = true ∧
      passes up 0x0105 p = true := by decide +kernel

theorem witness_powerState :
    let doze := msg (bs [2, 3, 0, 0])
    let run := msg (bs [0, 0, 0, 0])
    let busy : State := { up with boot := { up.boot with attest := some (default, []) } }
    passes up 0x0104 doze = true ∧ isZero doze.body 2 2 = true ∧ deep (pstateOf 2) = true ∧ pstateOf 2 ≠ up.power.state ∧
      pstateOf 2 ≠ .sealed ∧ up.boot.update = none ∧ up.boot.attest = none ∧ up.yealms = [] ∧
      passes up 0x0104 run = true ∧ pstateOf 0 = up.power.state ∧ passes busy 0x0104 doze = true := by decide +kernel
/-! ### Witnesses: builds, voices, firmware -/

/-- Build 9 of the tests: one plan of one core and one variant, certified for one slot and for two, and one adapter target. -/
def build9 : Build :=
  { (default : Build) with
    id := 9, outputRate := 48000, maxRank := 16, maxSlots := 2, stateBytes := 48, initHalf := zeros 48
    desc := { (default : ModelDesc) with vocab := 100, targets := [{ (default : Target) with dIn := 0 }], planKinds := [(0, 0)]
                                         codebooks := [{ codes := 2, invTemp := 0, topK := 1, topP := 0 }]
                                         layout := [{ id := 0x200, elemBytes := 4, elements := 2 }, { id := 0x201, elemBytes := 8, elements := 1 }] }
    plans := [{ index := 0, coreCount := 1, consts := zeros 128
                variants := [{ (default : Variant) with cores := 1, sRes := 1024, inits := [{ sems := [(3, 1)], rings := [], descs := [] }] }] }]
    certs := [{ coreCount := 1, variant := 0, slots := 1, plan := 0, wCycles := 5000, powerMw := 1000, spillBytes := 64 },
              { coreCount := 1, variant := 0, slots := 2, plan := 0, wCycles := 6000, powerMw := 1000, spillBytes := 64 }]
    copies := [{ kind := 0, channels := 2 ^ 47, base := 0, written := [], badPages := [] }] }

/-- Header of a LOAD_BUILD of build 9. -/
def loadHead (offset size flags : Nat) : List Byte := le 8 9 ++ le 8 offset ++ le 8 size ++ le 1 flags ++ zeros 7

/-- A load of build 9 that has four of its 100 bytes, and a section at bytes 50 to 69. -/
def loading : State :=
  { up with loads := [{ id := 9, size := 100, mirror := false, bytes := zeros 4, channels := [47], mirrorOn := []
                        dir := [{ typ := 3, index := 0, offset := 50, size := 20, crc := 0 }] }] }

theorem witness_loadPiece :
    let m := msg (loadHead 4 100 1 ++ zeros 45)
    let wrong := msg (loadHead 5 100 0 ++ zeros 4)
    ∃ l, loadOf loading 9 = some l ∧ passes loading 0x0110 m = true ∧ isZero m.body 25 7 = true ∧ fld m.body 24 1 ≤ 1 ∧
      BitVec.ofNat 64 (fld m.body 0 8) = 9#64 ∧ fld m.body 8 8 = l.bytes.length ∧ fld m.body 16 8 = l.size ∧
      sectionsDone l.dir l.bytes.length (l.bytes.length + 45) = [] ∧
      l.dir.all (fun x => decide (x.offset + x.size ≤ l.bytes.length + 45)) = false ∧ l.bytes.length + 45 < l.size ∧
      passes loading 0x0110 wrong = true ∧ fld wrong.body 8 8 ≠ l.bytes.length :=
  ⟨_, rfl, by decide +kernel⟩

theorem witness_loadAbort :
    let m := msg (loadHead 0 0 4)
    let n := msg (loadHead 0 0 7 ++ [1])
    passes loading 0x0110 m = true ∧ isZero m.body 25 7 = true ∧ 4 ≤ fld m.body 24 1 ∧ m.body.drop 32 = [] ∧
      passes loading 0x0110 n = true ∧ fld n.body 24 1 ≤ 7 ∧ n.body.drop 32 ≠ [] := by decide +kernel

/-- A weight page of zeros. -/
def page : List Byte := List.replicate 65536 0

/-- Image header and directory of build 9 with one weight section of one page at byte 65,536. -/
def weights : List Byte :=
  zeros 20 ++ le 2 1 ++ zeros 42 ++ le 2 2 ++ zeros 6 ++ le 8 65536 ++ le 8 65536 ++ zeros 8

/-- Build 9 with page 1 bad in its home copy and requested of the host. -/
def reloading : State :=
  { up with builds := [{ build9 with image := weights, pageCrcs := [(1, crc32c page)], requested := [1]
                                     copies := [{ kind := 0, channels := 2 ^ 47, base := 0, written := [], badPages := [1] }] }] }

theorem reload_length (h : List Byte) (hh : h.length = 32) : (h ++ page).length = 65568 := by
  rw [List.length_append, hh, page, List.length_replicate]

theorem witness_rangeReload :
    let h := loadHead 65536 0 2
    let m : HostMsg := { msg h with length := 65580, body := h ++ page }
    ∃ b, buildOf reloading 9 = some b ∧ passes reloading 0x0110 m = true ∧ isZero h 25 7 = true ∧ fld h 24 1 = 2 ∧
      pageAtOffset b (fld h 8 8) = some (1, crc32c page) ∧ b.requested.contains 1 = true ∧
      (m.body.drop 32).length = 65536 ∧ crc32c (m.body.drop 32) = crc32c page ∧
      b.copies.any (fun c => !copyIntact c 1) = true ∧ b.copies.all (fun c => (slicedOver reloading c).isNone) = true := by
  refine ⟨_, rfl, ?_, by decide +kernel, by decide +kernel, rfl, by decide +kernel, ?_, ?_, by decide +kernel, by decide +kernel⟩
  · have hl : (loadHead 65536 0 2 ++ page).length = 65568 := reload_length _ (by decide +kernel)
    have ht : taken reloading 0x0110 { msg (loadHead 65536 0 2) with length := 65580, body := loadHead 65536 0 2 ++ page } = true := rfl
    have hk : ∀ m : HostMsg, keyNew reloading 0x0110 m = true := fun _ => rfl
    have hf : reloading.fault.isNone = true := rfl
    simp only [passes, clears, formOk, headerOk, shapeOk, msgShape, hl, ht, hk, hf]
    decide +kernel
  · have : (loadHead 65536 0 2).length = 32 := by decide +kernel
    rw [List.drop_left' this, page, List.length_replicate]
  · have : (loadHead 65536 0 2).length = 32 := by decide +kernel
    rw [List.drop_left' this]

/-- Page 1 bad in a copy on the channel of bay 3, which has slices. -/
def reloadingSlow : State :=
  { reloading with
    builds := [{ build9 with image := weights, pageCrcs := [(1, crc32c page)], requested := [1]
                             copies := [{ kind := 0, channels := 2, base := 0, written := [], badPages := [1] }] }]
    bays := [(3, { (default : Bay) with attr := { (default : BayAttr) with channelMask := 2 }, order := [0] })]
    yealms := [(0, { (default : Yealm) with bay := 3, build := 9, admitted := true })] }

theorem witness_rangeReload_slow :
    let h := loadHead 65536 0 2
    let m : HostMsg := { msg h with length := 65580, body := h ++ page }
    ∃ b, buildOf reloadingSlow 9 = some b ∧ passes reloadingSlow 0x0110 m = true ∧ b.requested.contains 1 = true ∧
      pageAtOffset b (fld h 8 8) = some (1, crc32c page) ∧
      (b.copies.filter (fun c => !copyIntact c 1)).map (fun c => slicedOver reloadingSlow c) = [some 3] := by
  refine ⟨_, rfl, ?_, by decide +kernel, rfl, by decide +kernel⟩
  have hl : (loadHead 65536 0 2 ++ page).length = 65568 := reload_length _ (by decide +kernel)
  have ht : taken reloadingSlow 0x0110 { msg (loadHead 65536 0 2) with length := 65580, body := loadHead 65536 0 2 ++ page } = true := rfl
  have hk : ∀ m : HostMsg, keyNew reloadingSlow 0x0110 m = true := fun _ => rfl
  have hf : reloadingSlow.fault.isNone = true := rfl
  simp only [passes, clears, formOk, headerOk, shapeOk, msgShape, hl, ht, hk, hf]
  decide +kernel

theorem witness_rangeReload_other :
    let m := msg (loadHead 65536 0 3 ++ zeros 4)
    let calm : State := { up with builds := [{ build9 with image := weights, pageCrcs := [(1, 0)] }] }
    passes reloading 0x0110 m = true ∧ passes calm 0x0110 m = true ∧ fld m.body 24 1 = 3 ∧
      ((buildOf calm 9).bind (fun b => pageAtOffset b 65536)).isSome = true := by decide +kernel

/-- `up` with build 9 resident. -/
def loaded : State := { up with builds := [build9] }

theorem witness_unload :
    let m := msg (le 8 9)
    let bound : State := { loaded with bays := [(0, { (default : Bay) with plans := [{ build := 9, plan := 0, ready := true }] })] }
    passes up 0x0111 m = true ∧ passes loaded 0x0111 m = true ∧ passes bound 0x0111 m = true := by decide +kernel

/-- An adapter of rank 4 with build 9's one target. -/
def voice : List Byte :=
  le 4 0x44414C53 ++ le 2 1 ++ le 1 4 ++ le 1 0 ++ le 8 9 ++ le 2 1 ++ zeros 10 ++ le 4 0x4C700AD2 ++ le 4 0 ++ le 4 64 ++
    le 4 16 ++ zeros 36

theorem voice_crc : crc32c voice = 0xEFB4159F#32 := by
  have h : (voice.take 40).foldl crcByte 0xFFFFFFFF#32 = 0x7F391545#32 := by decide +kernel
  have g : (voice.drop 40).foldl crcByte 0x7F391545#32 = 0x104BEA60#32 := by decide +kernel
  rw [crc32c, ← List.take_append_drop 40 voice, List.foldl_append, h, g]
  rfl

/-- Header of a VOICE_STORE of adapter 77 of 80 bytes. -/
def voiceHeader (offset : Nat) (crc : W32) : List Byte :=
  le 8 77 ++ le 8 9 ++ le 1 4 ++ le 1 0 ++ zeros 2 ++ le 4 80 ++ le 4 offset ++ le 4 crc.toNat ++ zeros 4

/-- A store of adapter 77 that has its first 40 bytes. -/
def storing (crc : W32) : State := { loaded with stores := [{ voiceHead (voiceHeader 0 crc) with bytes := voice.take 40 }] }

theorem witness_voiceStore :
    let crc := 0xEFB4159F#32
    let s := storing crc
    let m := msg (voiceHeader 40 crc ++ voice.drop 40)
    let part := msg (voiceHeader 40 crc ++ zeros 39)
    let wrong := msg (voiceHeader 41 crc ++ zeros 39)
    let bad := msg (voiceHeader 40 5 ++ zeros 40)
    ∃ a, s.stores.find? (fun x => decide (x.id = (voiceHead m.body).id)) = some a ∧
      (passes s 0x0160 m = true ∧ voiceFields m.body = true ∧ fld m.body 24 4 = a.bytes.length ∧
        a.size = 40 + (m.body.drop 36).length ∧ (buildOf s a.build).isSome = true ∧
        adapterBusy s a.id (bit a.flags.toNat 0) = false ∧
        passes s 0x0160 part = true ∧ 40 + (part.body.drop 36).length < a.size ∧
        passes s 0x0160 wrong = true ∧ fld wrong.body 24 4 ≠ a.bytes.length ∧
        passes (storing 5) 0x0160 bad = true ∧ voiceFields bad.body = true) ∧
      { a with bytes := [] } = voiceHead m.body ∧ a.crc = crc ∧ a.bytes ++ m.body.drop 36 = voice ∧
      adapterStatus build9 { a with bytes := voice } = stOk ∧ buildOf s a.build = some build9 ∧ crc32c voice = crc :=
  ⟨_, rfl, by decide +kernel, by decide +kernel, by decide +kernel, by decide +kernel, by decide +kernel, rfl, voice_crc⟩

theorem witness_voiceDrop :
    let m := msg (le 8 77)
    let held : State := { loaded with adapters := [{ (default : Adapter) with id := 77 }] }
    let used : State := { held with sessions := [(0, { (default : Session) with adapter := 77 })] }
    passes held 0x0161 m = true ∧ passes used 0x0161 m = true ∧ passes up 0x0161 m = true := by decide +kernel

/-- A firmware update of 1,000 bytes into slot 1 that has taken `got` bytes. -/
def updating (got : Nat) (erasing : Bool) (q : List FwPiece) : State :=
  setUpdate (upOwing 0x0150) (some { slot := 1, size := 1000, got := got, erasing := erasing, queue := q })

/-- A piece of two bytes at offset 4 whose response is owed. -/
def piece : FwPiece :=
  { resp := asked 0x0150 [], msg := msg [], offset := 4, data := [1, 2], last := false, abort := false }

theorem witness_fwPiece :
    let s := { updating 6 false [piece] with unanswered := [] }
    let m := msg (le 4 6 ++ le 4 1000 ++ le 1 1 ++ zeros 3 ++ [3, 4])
    let wrong := msg (le 4 7 ++ le 4 1000 ++ le 1 0 ++ zeros 3 ++ [3, 4])
    let abort := msg (zeros 8 ++ le 1 3 ++ zeros 3)
    passes s 0x0150 m = true ∧ isZero m.body 9 3 = true ∧ fld m.body 8 1 ≤ 1 ∧ (s.boot.update).isSome = true ∧
      fld m.body 0 4 ≠ 0 ∧ (s.boot.update).map (fun u => (u.got, u.size)) = some (6, 1000) ∧
      passes s 0x0150 wrong = true ∧ passes up 0x0150 abort = true ∧ up.boot.update = none ∧
      passes { updating 6 false [] with unanswered := [] } 0x0150 abort = true := by decide +kernel

theorem witness_attest :
    let m := msg (zeros 32)
    let s := upOwing 0x0151
    let u : State := { s with boot := { s.boot with attest := some (asked 0x0151 [], zeros 32) } }
    passes up 0x0151 m = true ∧ up.boot.attest = none ∧ u.boot.attest = some (asked 0x0151 [], zeros 32) ∧
      awaits u (asked 0x0151 []) = true ∧ passes { u with unanswered := [] } 0x0151 m = true := by decide +kernel

theorem witness_flashPiece :
    let s := updating 6 true [piece]
    let u := updating 6 false [piece]
    Memory.wf 0xFF s.flash = true ∧ awaits s piece.resp = true ∧ piece.last = false ∧ piece.abort = false ∧
      (s.boot.update).map (fun u => (u.queue, u.erasing)) = some ([piece], true) ∧
      (u.boot.update).map (fun u => (u.queue, u.erasing)) = some ([piece], false) ∧ awaits u piece.resp = true := by
  decide +kernel
/-! ### Witnesses: bays, plans, yealms -/

/-- Bay 3: latency-critical, core 5, channel 1, with plan 0 of build 9 and yealm 0. -/
def bay3 : Bay :=
  { (default : Bay) with
    attr := { (default : BayAttr) with coreMask := 2 ^ 5, channelMask := 2 }, plans := [{ build := 9, plan := 0, ready := true }]
    order := [0], variant := some 0, lastVariant := some 0, nextGroup := 1 }

/-- Yealm 0: two slots of plan 0 of build 9 in bay 3. -/
def yealm0 : Yealm := { (default : Yealm) with bay := 3, build := 9, slots := 2, admitted := true }

/-- Session 0 of build 9, generation 1, its client on connection 0. -/
def sess0 : Session :=
  { (default : Session) with
    gen := 1, tag := 7, build := 9, halfA := zeros 48, halfB := zeros 48
    rings := [(0, { ringAbsent with entryBytes := 8, entries := 16384 }), (1, { ringAbsent with entryBytes := 64, entries := 64 }),
              (4, { ringAbsent with entryBytes := 32, entries := 64, dir := 1 })] }

/-- `loaded` with bay 3, yealm 0 and a session 0. -/
def farm (x : Session) : State := { loaded with bays := [(3, bay3)], yealms := [(0, yealm0)], sessions := [(0, x)] }

/-- A bay block: id, class, core mask, channel mask, slice. -/
def bayBlock (i cls cores chans slice : Nat) : List Byte :=
  le 1 i ++ le 1 cls ++ zeros 2 ++ le 8 cores ++ le 8 chans ++ zeros 4 ++ le 4 slice ++ zeros 4

theorem witness_bayCreate :
    let m := msg (bayBlock 63 1 1 (2 ^ 47) 1000)
    let taken := msg (bayBlock 3 0 1 1 0)
    passes (farm sess0) 0x0120 m = true ∧ bayCreateFields m.body = true ∧ bayCreateStatus (farm sess0) m.body = stOk ∧
      tsorted none (farm sess0).recs = true ∧ tsorted none (farm sess0).cores = true ∧
      passes (farm sess0) 0x0120 taken = true ∧ bayCreateFields taken.body = true ∧
      bayCreateStatus (farm sess0) taken.body = stBusy := by decide +kernel

theorem witness_bayDestroy :
    let m := msg (bs [3, 0, 0, 0])
    let s : State := { loaded with bays := [(3, { bay3 with order := [] })] }
    passes s 0x0121 m = true ∧ isZero m.body 1 3 = true ∧ fld m.body 0 1 ≤ 63 ∧
      (bayOf s 3).map (fun b => (b.destroying, b.order, b.bulk)) = some (none, [], []) ∧
      (bayOf s 3).map (fun b => b.groups.all (fun g => g.lender.isNone)) = some true ∧
      passes (farm sess0) 0x0121 m = true ∧ passes up 0x0121 (msg (bs [63, 0, 0, 0])) = true ∧ bayOf up 63 = none := by
  decide +kernel

theorem witness_planBind :
    let m := msg (bs [3, 0, 0, 0] ++ le 8 9)
    let bay : Bay := { bay3 with plans := [], order := [] }
    let s : State := { loaded with bays := [(3, bay)] }
    isZero m.body 2 2 = true ∧ passes s 0x0122 m = true ∧ bayOf s 3 = some bay ∧ bay.destroying = none ∧
      buildOf s 9 = some build9 ∧ (planOf build9 0).map (fun p => p.coreCount) = some (bayCores bay).length ∧
      bay.plans.length < 16 ∧ copyFits s 3 bay build9 = true ∧
      (planOf build9 0).map (fun p => reserveFits s bay p (copyNeeds 3 bay build9)) = some true ∧ waitCycle s (3, 9, 0) = false ∧ admittedYealms s bay = [] ∧
      passes up 0x0122 m = true ∧ bayOf up 3 = none ∧ passes up 0x0123 m = true := by decide +kernel

/-- A build whose plans 0 and 1 wait for each other's ring. -/
def waiting : Build :=
  { build9 with
    plans := [{ index := 0, coreCount := 1, consts := [], variants := [] }, { index := 1, coreCount := 1, consts := [], variants := [] }]
    desc := { build9.desc with
      rings := [{ entries := 2, entryBytes := 8, dir := 1, role := 1, peerPlan := 1 },
                { entries := 2, entryBytes := 8, dir := 1, role := 1, peerPlan := 0 }] } }

theorem witness_planBind_cycle :
    let m := msg (bs [4, 1, 0, 0] ++ le 8 9)
    let bay : Bay := { bay3 with plans := [], order := [], attr := { bay3.attr with coreMask := 1, channelMask := 4 } }
    let s : State := { up with builds := [waiting], bays := [(3, { bay3 with order := [] }), (4, bay)] }
    passes s 0x0122 m = true ∧ bayOf s 4 = some bay ∧ bay.destroying = none ∧ buildOf s 9 = some waiting ∧
      (planOf waiting 1).map (fun p => p.coreCount) = some (bayCores bay).length ∧ copyFits s 4 bay waiting = true ∧
      (planOf waiting 1).map (fun p => reserveFits s bay p (copyNeeds 4 bay waiting)) = some true ∧
      waitCycle s (4, 9, 1) = true := by decide +kernel

theorem witness_planUnbind :
    let m := msg (bs [3, 0, 0, 0] ++ le 8 9)
    let bay : Bay := { bay3 with order := [] }
    let s : State := { loaded with bays := [(3, bay)] }
    passes s 0x0123 m = true ∧ bayOf s 3 = some bay ∧ bay.destroying = none ∧
      (bay.plans.find? (fun x => decide (x.build = 9#64 ∧ x.plan = 0))).map (fun x => x.ready) = some true ∧
      (bayYealms s bay).any (fun e => decide (e.2.build = 9#64 ∧ e.2.plan = 0)) = false ∧
      passes (farm sess0) 0x0123 m = true ∧
      (bayYealms (farm sess0) bay3).any (fun e => decide (e.2.build = 9#64 ∧ e.2.plan = 0)) = true := by decide +kernel

theorem witness_yealmForm :
    let m := msg (bs [3, 0, 2, 0] ++ le 8 9)
    let bay : Bay := { bay3 with order := [] }
    let s : State := { loaded with bays := [(3, bay)] }
    passes s 0x0124 m = true ∧ isZero m.body 3 1 = true ∧ 1 ≤ fld m.body 2 1 ∧ fld m.body 2 1 ≤ 32 ∧
      bayOf s 3 = some bay ∧ bay.destroying = none ∧ bay.lent = false ∧ buildOf s 9 = some build9 ∧
      fld m.body 2 1 ≤ build9.maxSlots ∧ bay.plans.any (fun x => decide (x.build = 9#64 ∧ x.plan = 0) && x.ready) = true ∧
      yealmStatus s 3 bay (newYealm s 3 bay 9 0 2) = stOk := by decide +kernel

theorem witness_yealmForm_denied :
    let m := msg (bs [3, 0, 1, 0] ++ le 8 9)
    let bay : Bay := { bay3 with order := [] }
    let s : State := { loaded with bays := [(3, bay)], power := { loaded.power with alarm := true } }
    passes s 0x0124 m = true ∧ bayOf s 3 = some bay ∧ buildOf s 9 = some build9 ∧
      yealmStatus s 3 bay (newYealm s 3 bay 9 0 1) = stAdmissionDenied := by decide +kernel

theorem witness_yealmRelease :
    let m := msg (bs [0, 0, 0, 0])
    let held := { sess0 with attach := some { yealm := 0, slot := 0, ready := true, effective := true } }
    passes (farm sess0) 0x0125 m = true ∧ isZero m.body 2 2 = true ∧ yealmOf (farm sess0) 0 = some yealm0 ∧
      claimants (farm sess0) 0 = [] ∧ yealm0.releasing = none ∧ passes (farm held) 0x0125 m = true ∧
      claimants (farm held) 0 ≠ [] ∧ passes up 0x0125 m = true ∧ yealmOf up 0 = none := by decide +kernel

/-! ### Witnesses: sessions -/

/-- A body that names session 0 of generation `g`. -/
def handle (g : Nat) (rest : List Byte) : List Byte := le 2 0 ++ le 2 g ++ rest

theorem witness_handle :
    let s := farm sess0
    let lost := farm { sess0 with st := .lost }
    let m := msg (handle 2 (zeros 4))
    let n := msg (handle 1 (zeros 4))
    let t := msg (handle 2 (le 2 1 ++ zeros 2 ++ zeros 8))
    let e := msg (handle 2 (le 8 5 ++ le 8 0 ++ le 4 1 ++ le 4 0 ++ le 1 4 ++ zeros 11))
    let d := msg (handle 2 (zeros 8))
    passes s 0x0202 m = true ∧ handleFields m.body = true ∧ passes s 0x0203 t = true ∧ textFields t.body = true ∧
      passes s 0x0204 m = true ∧ passes s 0x0205 m = true ∧ passes s 0x0206 m = true ∧ isZero m.body 7 1 = true ∧
      passes s 0x0207 m = true ∧ (within (fld m.body 4 1) 0 1 && isZero m.body 5 3) = true ∧ passes s 0x0208 m = true ∧
      passes s 0x020A e = true ∧ enrollFields e.body = true ∧ passes s 0x020B d = true ∧ enrollDataFields d.body = true ∧
      fld m.body 0 4 % 65536 = 0 ∧ (sessOf s 0).map (fun x => decide (x.gen = fld m.body 0 4 / 65536)) = some false ∧
      passes lost 0x0204 n = true ∧ sess0.gen = fld n.body 0 4 / 65536 := by decide +kernel

/-- Body of a SESSION_OPEN of build 9. -/
def openBody (flags encoding : Nat) : List Byte := le 8 9 ++ zeros 18 ++ le 1 flags ++ le 1 encoding ++ zeros 4

theorem witness_sessionOpen :
    let m := msg (openBody 0 0)
    let bad := msg (openBody 4 0)
    let bind : Binding := { flags := 0, encoding := 0, port := 0, slot := 0 }
    passes (farm sess0) 0x0201 m = true ∧ openFields m.body = true ∧ buildOf (farm sess0) 9 = some build9 ∧
      BitVec.ofNat 64 (fld m.body 0 8) = 9#64 ∧ adapterUsable (farm sess0) build9 0 = true ∧ fld m.body 24 1 = 0 ∧
      bindBad bind = false ∧ bindBusy (farm sess0) bind = false ∧ passes (farm sess0) 0x0201 bad = true ∧
      openFields bad.body = true ∧ bindBad { bind with flags := 4 } = true := by decide +kernel

theorem witness_sessionClose :
    let m := msg (handle 1 (zeros 4))
    let held := { sess0 with attach := some default }
    passes (farm sess0) 0x0202 m = true ∧ handleFields m.body = true ∧ sessOf (farm sess0) 0 = some sess0 ∧
      sess0.gen = fld m.body 0 4 / 65536 ∧ sess0.st ≠ .lost ∧ sess0.attach = none ∧ passes (farm held) 0x0202 m = true := by
  decide +kernel

/-- Session 0 with one unspoken token. -/
def typed : Session :=
  { sess0 with unspoken := 1, rings := sess0.rings.map (fun e => if e.1 = 0 then (0, { e.2 with io := 1, data := [(0, [5, 0, 0, 0, 0, 0, 0, 0])] }) else e) }

theorem witness_text :
    let m := msg (handle 1 (le 2 1 ++ zeros 2 ++ le 2 99 ++ zeros 6))
    let bad := msg (handle 1 (le 2 1 ++ zeros 2 ++ le 2 100 ++ zeros 6))
    let n := msg (handle 1 (zeros 4))
    passes (farm sess0) 0x0203 m = true ∧ textFields m.body = true ∧ tokensOk (farm sess0) 9 (m.body.drop 8) = true ∧
      textHeld (farm sess0) sess0 + 1 ≤ 16384 ∧ passes (farm sess0) 0x0203 bad = true ∧ textFields bad.body = true ∧
      tokensOk (farm sess0) 9 (bad.body.drop 8) = false ∧ sessOf (farm typed) 0 = some typed ∧
      passes (farm typed) 0x0204 n = true ∧ handleFields n.body = true ∧ typed.unspoken = 1 ∧ typed.queuedTokens = none ∧
      typed.job = none ∧ (sessPos (farm typed) typed).chunkCount < chunkLimit ∧ controlRoom (farm typed) typed = true ∧ passes (farm sess0) 0x0204 n = true ∧
      passes (farm { typed with queuedTokens := some 1 }) 0x0204 n = true := by decide +kernel

/-- A session that speaks in slot 1 of yealm 0, in the chunk whose slice runs. -/
def speaking : Session :=
  { sess0 with st := .speaking, uttTokens := 2, attach := some { yealm := 0, slot := 1, ready := true, effective := true }, admitted := some 0 }

/-- `farm` with a step of yealm 0 begun for slot 1. -/
def begun (x : Session) : State :=
  { farm x with bays := [(3, { bay3 with running := true, todo := [{ (default : Step) with mask := 2, begun := true }] })] }

theorem witness_stop :
    let m := msg (handle 1 (zeros 4))
    passes (farm sess0) 0x0205 m = true ∧ sess0.job = none ∧ sess0.stopWait = [] ∧ sess0.uttTokens = 0 ∧
      sess0.queuedTokens.getD 0 + sess0.unspoken = 0 ∧ passes (begun speaking) 0x0205 m = true ∧
      sessOf (begun speaking) 0 = some speaking ∧ speaking.uttTokens ≠ 0 ∧ sliceBegun (begun speaking) speaking = true ∧
      passes (begun { speaking with stopWait := [default] }) 0x0205 m = true := by decide +kernel

theorem witness_detach :
    let m := msg (handle 1 (zeros 4))
    let now := msg (handle 1 (le 1 1 ++ zeros 3))
    passes (farm sess0) 0x0207 m = true ∧ fld m.body 4 1 ≤ 1 ∧ isZero m.body 5 3 = true ∧ sess0.detachWait = none ∧
      sess0.attach = none ∧ passes (begun speaking) 0x0207 m = true ∧ speaking.detachWait = none ∧
      (speaking.attach).map (fun a => a.effective) = some true ∧ passes (farm { speaking with admitted := none }) 0x0207 now = true ∧
      passes (farm { speaking with detachWait := some default }) 0x0207 m = true := by decide +kernel

theorem witness_attach :
    let m := msg (handle 1 (le 2 0 ++ le 1 1 ++ zeros 1))
    let far := msg (handle 1 (le 2 0 ++ le 1 2 ++ zeros 1))
    let near : Session := { sess0 with home := some 3 }
    passes (farm near) 0x0206 m = true ∧ isZero m.body 7 1 = true ∧ sessOf (farm near) 0 = some near ∧
      yealmOf (farm near) 0 = some yealm0 ∧ bayOf (farm near) 3 = some bay3 ∧ yealm0.releasing = none ∧
      planServes (farm near) yealm0 near = true ∧
      (attachChannels (farm near) near 3).all (fun ch => !fenced (farm near) (uChannel ch)) = true ∧
      fld m.body 6 1 < yealm0.slots ∧ attachBytes (farm near) near 3 = 0 ∧
      0 ≤ freeIn (farm near) (groupOf (farm near) (some 3)) ∧ passes (farm near) 0x0206 far = true ∧ yealm0.slots ≤ fld far.body 6 1 := by
  decide +kernel

theorem witness_attach_moves :
    let m := msg (handle 1 (le 2 0 ++ le 1 1 ++ zeros 1))
    let s := farm sess0
    passes s 0x0206 m = true ∧ planServes s yealm0 sess0 = true ∧
      (attachChannels s sess0 3).all (fun ch => !fenced s (uChannel ch)) = true ∧ attachBytes s sess0 3 ≠ 0 ∧
      attachBytes s sess0 3 ≤ freeIn s (groupOf s (some 3)) ∧ hasSlices s 3 = true := by decide +kernel

/-- A native image of build 9: header, its CRC-32C, and a half of 48 zero bytes with its CRC-32C. -/
def image9 : List Byte :=
  le 4 0x49534D4C ++ le 2 1 ++ le 2 0 ++ le 8 9 ++ zeros 16 ++ le 4 48 ++ zeros 20 ++ le 4 0x66739E75 ++ le 4 0x288C3AB9 ++ zeros 48

theorem witness_export :
    let m := msg (handle 1 (zeros 4))
    passes (farm sess0) 0x0208 m = true ∧ handleFields m.body = true ∧ sessOf (farm sess0) 0 = some sess0 ∧
      buildOf (farm sess0) sess0.build = some build9 ∧ sess0.home = none ∧ passes (farm { sess0 with home := some 3 }) 0x0208 m = true ∧
      hasSlices (farm { sess0 with home := some 3 }) 3 = true ∧ passes (farm speaking) 0x0208 m = true ∧
      speaking.attach.isSome = true := by
  decide +kernel

theorem witness_import :
    let m := msg (zeros 8 ++ le 4 112 ++ zeros 12 ++ image9)
    let text := msg (zeros 8 ++ le 4 112 ++ le 4 1 ++ zeros 8 ++ image9 ++ zeros 8)
    let bad := msg (zeros 8 ++ le 4 4 ++ zeros 12 ++ zeros 4)
    let bind : Binding := { flags := 0, encoding := 0, port := 0, slot := 0 }
    passes (farm sess0) 0x0209 m = true ∧ importFields m.body = true ∧ bindBad bind = false ∧ bindBusy (farm sess0) bind = false ∧
      (match takeImage (farm sess0) (cut m.body 24 (fld m.body 8 4)) false with
       | .ok o => decide (o.build = build9 ∧ o.compat = false) && importTextOk (farm sess0) m.body o &&
          !importTextOk (farm sess0) text.body o
       | .error _ => false) = true ∧
      passes (farm sess0) 0x0209 text = true ∧ importFields text.body = true ∧
      passes (farm sess0) 0x0209 bad = true ∧ importFields bad.body = true ∧
      (match takeImage (farm sess0) (cut bad.body 24 (fld bad.body 8 4)) false with
       | .ok _ => false
       | .error e => decide (e = stNotSupported)) = true := by decide +kernel

/-- An idle enrolment session with a token. -/
def enroller : Session := { typed with enrolment := true, st := .idle, attach := some { yealm := 0, slot := 1, ready := true, effective := true } }

/-- Body of an ENROLL_START of adapter 5 with a rank and a source. -/
def enrollBody (rank source ms : Nat) : List Byte :=
  handle 1 (le 8 5 ++ zeros 8 ++ le 4 1 ++ zeros 4 ++ le 1 rank ++ le 1 source ++ zeros 2 ++ le 4 ms ++ zeros 4)

theorem witness_enrollStart :
    let m := msg (enrollBody 16 0 0)
    let mic := msg (enrollBody 4 1 10000)
    passes (farm enroller) 0x020A m = true ∧ enrollFields m.body = true ∧ enroller.enrolment = true ∧
      sessOf (farm enroller) 0 = some enroller ∧ buildOf (farm enroller) enroller.build = some build9 ∧
      fld m.body 28 1 ≤ build9.maxRank ∧ enroller.st = .idle ∧ adapterOf (farm enroller) 5 = none ∧ enroller.unspoken ≠ 0 ∧
      fld m.body 29 1 ≠ 1 ∧ passes (farm enroller) 0x020A mic = true ∧ enrollFields mic.body = true ∧
      micEnabled (farm enroller) (fld mic.body 30 1) = false ∧
      passes (farm { enroller with unspoken := 0 }) 0x020A m = true ∧ passes (farm { enroller with st := .speaking }) 0x020A m = true := by
  decide +kernel

/-- A session whose job collects audio. -/
def collecting (source : Nat) (capture : Option Nat) : Session :=
  { enroller with st := .enrolling, job := some { (default : Job) with source := source, capture := capture } }

theorem witness_enrollData :
    let m := msg (handle 1 (zeros 8 ++ zeros 64))
    let wrong := msg (handle 1 (le 4 64 ++ zeros 4 ++ zeros 64))
    let x := collecting 0 none
    let y := collecting 1 (some 0)
    passes (farm x) 0x020B m = true ∧ enrollDataFields m.body = true ∧ sessOf (farm x) 0 = some x ∧
      (x.job).map (fun j => (j.source, j.training, j.audio)) = some (0, false, []) ∧ fld m.body 4 4 = 0 ∧ fld m.body 8 1 = 0 ∧
      passes (farm x) 0x020B wrong = true ∧ enrollDataFields wrong.body = true ∧ sessOf (farm y) 0 = some y ∧
      (y.job).map (fun j => (j.source, j.capture, j.training)) = some (1, some 0, false) := by decide +kernel
/-! ### Witnesses: messages in general -/

theorem witness_failed :
    let m := msg (le 8 9)
    let short := msg (le 4 9)
    let s : State := { up with fault := some { (default : FaultSt) with fwReady := true } }
    let kept : State := { up with keeps := [{ tag := 7, msgId := 1, typ := 0x0111, bodyCrc := crc32c m.body, resp := [1] }] }
    let other : State := { up with keeps := [{ tag := 7, msgId := 1, typ := 0x0112, bodyCrc := 0, resp := [1] }] }
    let twice : State := { up with unanswered := [asked 0x0111 m.body] }
    hostMsg (.unloadBuild m) = some (0x0111, m) ∧ taken up 0x0111 short = true ∧ formOk 0x0111 short = false ∧
      taken s 0x0111 m = true ∧ formOk 0x0111 m = true ∧ keyNew s 0x0111 m = true ∧
      taken kept 0x0111 m = true ∧ (keptOf kept (respTo kept 0x0111 m)).isSome = true ∧
      taken other 0x0111 m = true ∧ (keptOf other (respTo other 0x0111 m)).isSome = true ∧
      taken twice 0x0111 m = true ∧ keptOf twice (respTo twice 0x0111 m) = none ∧
      twice.unanswered.find? (fun r => decide (r.tag = 7#64 ∧ r.msgId = m.msgId)) = some (asked 0x0111 m.body) := by
  decide +kernel

/-- A session in slot 0 of yealm 0 whose slot has moved all that a chunk may move. -/
def spent : Session :=
  { sess0 with home := some 3, ioBytes := 65536, attach := some { yealm := 0, slot := 0, ready := true, effective := true } }

/-- `up` with 256 messages of mailbox 0 unanswered. -/
def flooded : State := { up with unanswered := List.replicate 256 (asked 0x0111 []) }

theorem witness_mailboxes_more :
    let m := msg (le 8 9)
    let t := msg (le 2 0 ++ le 2 1 ++ le 2 1 ++ zeros 2 ++ le 2 99 ++ zeros 6)
    ioWait (farm spent) (mailOf (farm spent) 0x0203 t) = true ∧ mailbox (farm spent) 0 = [] ∧ unknownCount (farm spent) = 0 ∧
      accepting (farm spent) = true ∧ (connOf (farm spent) 0).isSome = true ∧ ioWait up (mailOf up 0x0111 m) = false ∧
      256 ≤ unansweredOf flooded 0 ∧ mailbox flooded 0 = [] ∧ accepting flooded = true ∧ unknownCount up = 0 ∧ accepting up = true ∧
      nextServed (setMailbox up 0 [mailOf up 0x0111 m]) = some 0 := by decide +kernel

theorem witness_mailboxes :
    let m := msg (le 8 9)
    let n : HostMsg := { m with msgId := 2 }
    let s := setMailbox up 0 [mailOf up 0x0111 n]
    let dozing : State := { up with power := { up.power with state := .doze } }
    hostMsg (.unloadBuild m) = some (0x0111, m) ∧ State.reset.boot.complete = false ∧ (connOf up m.conn).isSome = true ∧
      mailbox s (m.conn % 64) = [mailOf up 0x0111 n] ∧ (mailbox s (m.conn % 64)).all (fun y => !isMsg 0x0111 m y) = true ∧ (connOf s m.conn).isSome = true ∧
      mailbox dozing (m.conn % 64) = [] ∧ accepting dozing = false ∧ (connOf dozing m.conn).isSome = true := by decide +kernel

/-! ### Witnesses: LMX segments -/

/-- A frame for port 0's own address. -/
def frame0 : FrameHdr := { dest := 0x020000000001, src := 2, tags := [], bytes := 200, fcsOk := true }

/-- A segment of connection 0 on port 0 without its trailer. -/
def bare (seq : W32) (flags : Byte) (payload : List Byte) : Seg :=
  { port := 0, frame := frame0, v6 := false, srcIp := 0x0A000002, dstIp := 0x0A000001, srcUdp := 5000, dstUdp := 47360
    magic := 0x4D4C, version := 1, connId := 0, flags := flags, rsv7 := 0, seq := seq, ack := 10, sack := 0
    payloadLen := BitVec.ofNat 16 payload.length, epoch := 5, window := 64, rsv30 := 0, payload := payload, crc := 0 }

/-- The segment with its trailer. -/
def signed (typ : Nat) (g : Seg) : Seg := { g with crc := crc32c (segRxHead typ g ++ g.payload) }

theorem witness_lmxOpen :
    let g := signed 3 { bare 7 0 (le 2 512 ++ zeros 2 ++ le 8 8) with connId := 0xFFFF }
    segIn up g = true ∧ segFormOk 3 g = true ∧ up.conns.all (fun e => !openRepeats g e.2) = true ∧ connOf up 1 = none ∧
      connOf up 0 ≠ none := by decide +kernel

theorem witness_lmxData :
    let g := signed 1 (bare 100 3 (le 2 0x0102 ++ zeros 2 ++ le 4 1 ++ le 4 12))
    segOn up 1 g conn0 = true ∧ up.boot.complete = true ∧ g.seq = conn0.rxNext ∧ conn0.rxBuf = [] ∧ conn0.asm = none ∧
      conn0.oversize = false ∧ g.flags.toNat % 4 = 3 ∧ unknownCount up = 0 ∧
      (msgShape (fld g.payload 0 2 % 32768)).isSome = true ∧ mailbox up 0 = [] := by decide +kernel

theorem witness_lmxAck :
    conn0.waiting = [] ∧ conn0.respWait = [] ∧ segOn up 2 (signed 2 (bare 0 0 [])) conn0 = true ∧
      segOn up 8 (signed 8 (bare 0 0 [])) conn0 = true ∧ (portOf up 0).pauseEnd ≤ up.now ∧ segOn up 5 (signed 5 (bare 100 0 [])) conn0 = true ∧
      conn0.rxNext = 100 ∧ conn0.rxBuf = [] := by decide +kernel

theorem witness_lmxReset :
    let g := signed 6 (bare 0 0 [1, 0, 0, 0])
    segIn up g = true ∧ segFormOk 6 g = true ∧ connOf up 0 = some conn0 ∧ conn0.epoch = g.epoch ∧ tsorted none up.conns = true ∧
      segIn up (bare 0 0 []) = true ∧ segFormOk 1 (bare 0 0 []) = false := by decide +kernel

/-- A well-formed segment of connection 3, which is not open, from an address that had its RESET in this millisecond. -/
theorem witness_lmxReset_limit :
    let g := signed 1 { bare 0 3 [1] with connId := 3 }
    let s : State := { up with resets := [(g.srcIp, 0)] }
    segIn up g = true ∧ segFormOk 1 g = true ∧ segConnOk up g = false ∧ (1#8).toNat ∉ [3, 6, 7] ∧
      up.resets.find? (fun r => decide (r.1 = g.srcIp)) = none ∧ segConnOk s g = false ∧
      s.resets.find? (fun r => decide (r.1 = g.srcIp)) = some (g.srcIp, 0) ∧ s.now < 0 + Config.cyclesPerMs := by decide +kernel

/-- A sent segment without an acknowledgement. -/
def sent0 : TxSeg :=
  { seq := 11, typ := 1, flags := 3, payload := [1], cls := .control, sentAt := 0, net := 0, resent := false, sacked := false }

theorem witness_timers :
    let x : Conn := { conn0 with ackDue := some 0, unacked := [sent0] }
    let s := setConn up 0 x
    connOf s 0 = some x ∧ (pathOf x 0).up = true ∧ (pathOf x 0).bound = true ∧ linkIsUp s (pathOf x 0).port = true ∧
      (portOf s 0).pauseEnd ≤ s.now ∧ (portOf s 0).heldTx = [] ∧ x.ackDue = some 0 ∧ x.unacked.find? (fun u => !u.sacked && decide (u.net = 0)) = some sent0 ∧ (pathOf x 0).expiries < 2 ∧
      (pathOf x 0).probes < 3 ∧ tsorted none s.conns = true ∧ connOf (setConn up 0 { x with st := .held }) 0 ≠ none ∧
      connOf (setConn up 0 { x with st := .closing }) 0 ≠ none := by decide +kernel

/-! ### Witnesses: Ethernet, links, output -/

theorem witness_ethernet :
    linkIsUp up 0 = true ∧ frameOk up 0 frame0 = true ∧ portIp4 up 0 = 0x0A000001 ∧ portIp6 up 0 ≠ 0 ∧
      linkLocal (portMac up 0) ≠ portIp6 up 0 ∧ echoAnswers up 0 false (portIp4 up 0) [1] = true ∧
      echoAnswers up 0 true (linkLocal (portMac up 0)) [1] = true ∧ (portOf up 0).echoes.length < 1000 ∧
      frame0.fcsOk = true ∧ 64 ≤ frame0.bytes ∧ frame0.bytes ≤ 9216 := by decide +kernel

/-- The thousandth echo reply of a second has just left. -/
theorem witness_echo_limit :
    let s := setPort up 0 { portOf up 0 with echoes := List.replicate 1000 0 }
    linkIsUp s 0 = true ∧ frameOk s 0 frame0 = true ∧ echoAnswers s 0 false (portIp4 s 0) [1] = true ∧
      1000 ≤ ((portOf (portCnt s 0 0 64) 0).echoes.filter (fun t => decide (s.now < t + Config.cyclesPerSecond))).length := by
  decide +kernel

theorem witness_links :
    let down := setPort up 0 { port0 with link := false }
    linkIsUp down 0 = false ∧ portEnabled down 0 = true ∧ (portOf down 0).sealedDown = false ∧ sdrefRuns down 0 = true ∧
      down.boot.resetN = true ∧ (unitOf down (uPort 0)).fence = .inService ∧ (portOf down 0).pauseEnd ≤ down.now ∧
      (portOf down 0).heldTx = [] ∧ linkIsUp up 0 = true ∧ tsorted none up.conns = true ∧
      tsorted none up.ports = true ∧ up.conns.length < 4096 := by decide +kernel

/-- A session with one event in ring 4 that its plan has published. -/
def talking : Session :=
  { sess0 with rings := sess0.rings.map (fun e => if e.1 = 4 then (4, { e.2 with planA := 1, planB := 1, data := [(0, le 2 1 ++ zeros 30)] }) else e) }

theorem witness_output :
    let s := farm talking
    sessOf s 0 = some talking ∧ s.fault = none ∧ talking.st ≠ .lost ∧ published s 0 2 = 0 ∧ published s 0 4 = 1 ∧
      sessConn s talking = some 0 ∧ connOf s 0 = some conn0 ∧ streamFits s 0 40 = true ∧ conn0.respWait = [] ∧
      ioFits s talking 32 = true ∧ (sringOf talking 2).entryBytes ≤ 64 ∧ (sringOf talking 3).entryBytes ≤ 16 ∧
      (sringOf talking 4).entryBytes ≤ 32 ∧ ioFits s talking (outputBytes s 0 talking) = true ∧
      published (farm sess0) 0 2 = 0 ∧ published (farm sess0) 0 4 = 0 := by decide +kernel

/-- A session whose plan has published a chunk of four samples of PCM16. -/
def sounding : Session :=
  { sess0 with
    bindFlags := 1
    rings := [(2, { ringAbsent with entryBytes := 64, entries := 8, dir := 1, planA := 1, planB := 1
                                    data := [(0, zeros 16 ++ le 2 4 ++ zeros 46)] })] }

theorem witness_output_audio :
    let s := farm sounding
    let e := entryGet (sringOf sounding 2) 0
    sessOf s 0 = some sounding ∧ s.fault = none ∧ sounding.st ≠ .lost ∧ published s 0 2 = 1 ∧ published s 0 4 = 0 ∧
      sessConn s sounding = some 0 ∧ connOf s 0 = some conn0 ∧ conn0.respWait = [] ∧ fld e 19 1 = 0 ∧ fld e 16 2 = 4 ∧
      bit sounding.bindFlags.toNat 0 = true ∧ bit sounding.bindFlags.toNat 2 = false ∧ ioFits s sounding (chunkCost s 0 sounding e) = true ∧
      streamFits s 0 200 = true ∧ (areaLines s (.eaves 0) 4096 8).any (poisonedAt s) = false := by decide +kernel
/-! ### Witnesses: the machine as a whole -/

theorem witness_machine :
    State.reset.pending = [] ∧ State.reset.Inv ∧ step State.reset = .next { State.reset with now := 1 } ∧
      exec .telemetryRefresh State.reset = .next State.reset ∧ writesFlash .telemetryRefresh = false := by
  refine ⟨rfl, ⟨rfl, rfl, rfl, rfl⟩, rfl, rfl, rfl⟩

/-! ### Witnesses: core commands -/

/-- Whether work of a command meets no fault. -/
def good {α : Type} (r : Try α) : Bool :=
  match r with
  | .ok _ => true
  | .error _ => false

/-- A session that runs a step in slot 0 of yealm 0. -/
def runner : Session :=
  { sess0 with st := .speaking, uttTokens := 2, attach := some { yealm := 0, slot := 0, ready := true, effective := true }, admitted := some 0 }

/-- A plain walk of `n` elements of one byte at byte 0 of the scratchpad. -/
def walk (mode n : Nat) : WalkDesc :=
  { (default : WalkDesc) with
    mode := mode, loops := 1, elemBytes := 1, counts := [n], strides := [1], win0 := { (default : Win) with loop := 0xFF }
    win1 := { (default : Win) with loop := 0xFF } }

/-- A windowed walk of one channel with one tap over four positions. -/
def tapWalk : WalkDesc :=
  { walk 3 4 with win0 := { (default : Win) with loop := 0, taps := 1, dil := 1, stride := 1, inDil := 1, len := 4, outHi := 4 } }

/-- Core 5 in a step of yealm 0. -/
def core5 : Core :=
  { coreD with
    sRes := 1024, sems := [(3, 1)], ctx := some { bay := 3, group := 0, idx := 0, yealm := 0, nSlots := 2 }
    prog := { walks := [walk 0 64, walk 0 64, tapWalk], consts := ringImage ++ zeros 96, wCycles := 5000, spillBytes := 64, leadIdx := 0, commitSem := 200, stream := []
              initSems := [], initRings := [], initDescs := [] } }
where
  /-- Image of a ring of three slots of 64 bytes. -/
  ringImage : List Byte := le 8 0 ++ le 4 64 ++ [3, 0, 1, 2, 0, 0, 0, 0] ++ zeros 12

/-- A step of yealm 0 on core 5. -/
def running (x : Core) : State :=
  { farm runner with
    bays := [(3, { bay3 with running := true, todo := [{ (default : Step) with mask := 1, begun := true }] })]
    yealms := [(0, { yealm0 with work := [(0, { (default : SlotWork) with session := 0 })] })]
    cores := [(5, x)] }

/-- A plain header. -/
def hdr : CmdHdr :=
  { flags := 0, waitSem := 0, waitCount := 0, postSem := 0, postCore := 0, postCount := 0, deadline := 0, rsvd := false }

/-- A header that waits for semaphore 3 and posts it, and ends the step. -/
def hdrWait : CmdHdr := { hdr with flags := 4, waitSem := 3, waitCount := 1, deadline := 5000, postSem := 3, postCore := 0xFF, postCount := 1 }

theorem witness_sequencer :
    let s := running core5
    goes s 5 hdr .nop = true ∧ goes s 5 hdrWait .nop = true ∧ goes s 5 hdr (.slotLoop 60) = true ∧ goes s 5 hdr (.slotLoop 1) = true ∧
      goes s 5 hdr (.descWrite 127 64) = true ∧ 64 + 64 ≤ (coreOf s 5).prog.consts.length ∧
      good (descOf (cut (coreOf s 5).prog.consts 64 64)) = true ∧ (dmaOf (coreOf s 5) 127).active = none ∧
      goes s 5 hdr (.ringWrite 63 0) = true ∧ 0 + 32 ≤ (coreOf s 5).prog.consts.length ∧
      ringImageOk (cut (coreOf s 5).prog.consts 0 32) = true := by decide +kernel

theorem witness_loopEnd :
    let s := running { core5 with loop := some { remaining := 1, body := [] }, stepEnded := true }
    coreRuns s 5 = true ∧ (coreOf s 5).loop = some { remaining := 1, body := [] } ∧ (coreOf s 5).stepEnded = true ∧
      (coreOf s 5).units.all (fun e => decide (e.2.queue = [])) = true := by decide +kernel

/-- Descriptor 4 copies a row of 64 bytes inside the scratchpad. -/
def desc4 : DmaDesc := { descD with ring := 0xFF, rowBytes := 64, src := 0, dst := 64, rows := 1 }

theorem witness_arm :
    let o : ArmOps := { engine := 1, desc := 4, armFlags := 0, srcSlotStep := 0, dstSlotStep := 0 }
    let x := { core5 with descs := [(4, desc4)] }
    let q : ArmReq := { engine := 1, post := { sem := 0, core := 0, count := 0 }, srcStep := 0, dstStep := 0, slot := none }
    let tr : Transfer := { (default : Transfer) with arm := q, rowBytes := 64, rows := 1, ring := 0xFF }
    let y := setDma x 4 { active := some tr, waiting := none, collided := none }
    goes (running x) 5 hdr (.arm o) = true ∧ (dmaOf (coreOf (running x) 5) 4).active = none ∧
      (match startXfer (setCore (running x) 5 (atIssue (running x) 5 hdr (.arm o))) 5 4 q with
       | .ok (some _) => true
       | _ => false) = true ∧
      goes (running y) 5 hdr (.arm o) = true ∧ (dmaOf (coreOf (running y) 5) 4).active = some tr ∧
      (dmaOf (coreOf (running y) 5) 4).waiting = none := by decide +kernel

/-- MATMUL of one token of two operands and one channel. -/
def arr (walkA walkW : W16) (k : W16) : ArrOps :=
  { mFixed := 1, mPerSlot := 0, k := k, n := 1, cellMode := 0, arrFlags := 0, accBase := 64, walkA := walkA, walkB := 0xFFFF
    walkW := walkW, winoPos := 0xFF, winoForm := 0 }

theorem witness_matmul :
    let s := running core5
    let o := arr 0 1 2
    let x := atIssue s 5 hdr (.matmul o)
    goes s 5 hdr (.matmul o) = true ∧ o.arrFlags.toNat < 8 ∧ arrLimits x 1 2 1 0 64 = true ∧
      (match walkAtIdx x 0 with
       | .ok wa => good (walkOk 2 wa) && decide (wa.mode = 0) && decide (1 ≤ walkTokens 2 wa 2) &&
          good (tryMap (fun t => tryMap (fun r => srcOperand s x (coreGroup s x) wa false (plainSrc 2 0 wa (t * 2 + r)))
            (List.range 2)) (List.range 1))
       | .error _ => false) = true ∧
      (match walkAtIdx x 1 with
       | .ok ww => good (walkOk 2 ww) && good (readWeights s x (coreGroup s x) 0 ww (weightUsed 0 2 false) (channelWeightBytes 0 2 false) 1)
       | .error _ => false) = true := by decide +kernel

theorem witness_diag :
    let s := running core5
    let o := arr 2 1 1
    let x := atIssue s 5 hdr (.diag o)
    goes s 5 hdr (.diag o) = true ∧ arrLimits x 1 1 1 0 64 = true ∧
      (match walkAtIdx x 2 with
       | .ok wa => good (walkOk 2 wa) && decide (wa.mode = 3) && decide (((walkWins wa).head?.map (fun g => g.taps)).getD 1 = 1) &&
          decide (1 ≤ walkTokens 2 wa 1) &&
          good (tryMap (fun t => tryMap (fun ch => tryMap (fun tap =>
            srcOperand s x (coreGroup s x) wa false (tapOperand 2 0 wa t ch [tap])) (List.range 1))
            (List.range (walkCin 2 wa))) (List.range 1))
       | .error _ => false) = true ∧
      (match walkAtIdx x 1 with
       | .ok ww => good (walkOk 2 ww) && good (readWeights s x (coreGroup s x) 0 ww (fun _ => true) 1 1)
       | .error _ => false) = true := by decide +kernel

theorem witness_winoCarry :
    let s := running core5
    let o : WinoOps := { accBase := 0, tilesFixed := 1, tilesPerSlot := 0, winoForm := 1 }
    let c : CarryOps := { start := 32704, len := 64, streams := 1, carryFlags := 0, streamStep := 64, samples := 1 }
    goes s 5 hdr (.winoOut o) = true ∧ o.winoForm.toNat ≤ 1 ∧ o.accBase.toNat + 1 * 16 ≤ 32768 - (coreOf s 5).sRes ∧ sResOk (coreOf s 5) = true ∧
      goes s 5 hdr (.winoOut { o with tilesFixed := 0 }) = true ∧ slotCount (coreOf s 5) 0 0 = 0 ∧
      goes s 5 hdr (.carry c) = true ∧ carryLimits (coreOf s 5) c = true ∧ (coreOf s 5).carryA = [] := by decide +kernel

/-- A vector command of `n` elements: operands at 0, 256 and 512, result at 768. -/
def vec (sub fmt flags : Byte) (n p0 p1 : W32) : VecOps :=
  { subOp := sub, fmt := fmt, vecFlags := flags, lenFixed := n, lenPerSlot := 0, src0 := 0, src1 := 256, src2 := 512, dst := 768
    tensorId := 0, elemBase := 0, param0 := p0, param1 := p1, slotStep := 0 }

/-- The command goes, and its first operand can be read. -/
def vecGoes (op : VecOps → CoreOp) (o : VecOps) (subs fmts w : Nat) : Bool :=
  let s := running core5
  goes s 5 hdr (op o) && vecLegal (coreOf s 5) o subs fmts && good (vecFirst s (atIssue s 5 hdr (op o)) o 0 w (vecLen (coreOf s 5) o)) &&
    spadIn (vecAddr o 0 o.dst) (4 * vecLen (coreOf s 5) o)

theorem witness_element :
    vecGoes .element (vec 6 0 0 2 5 0) (elemSubs 0) 2 4 = true ∧ elemCompare 0 = 6 ∧
      vecGoes .element (vec 3 1 0 1 0 0) (elemSubs 1) 2 2 = true ∧ elemArity 1 3 = 3 ∧
      vecGoes .element (vec 12 2 0 0 0 0) (elemSubs 2) 2 4 = true ∧
      good (spadWords (atIssue (running core5) 5 hdr .nop) 256 4 2) = true := by decide +kernel

theorem witness_convert :
    vecGoes .convert (vec 8 0 0 2 0 0) 9 0 4 = true ∧ vecGoes .convert (vec 5 0 4 2 0 0) 9 0 4 = true ∧
      vecGoes .convert (vec 6 0 4 2 0 0) 9 0 4 = true ∧ vecGoes .convert (vec 4 0 0 2 0x3F800000 255) 9 0 4 = true ∧
      invOk 0x3F800000 = true ∧ (coreOf (running core5) 5).carryRun = none ∧
      good (roundModes (running core5) core5 0 false 0 0 2) = true := by decide +kernel

theorem witness_vectorRest :
    vecGoes .func (vec 6 0 0 2 0 0) 7 0 4 = true ∧ vecGoes .reduce (vec 2 0 0 4 2 0) 3 0 4 = true ∧
      vecGoes .softmax (vec 0 0 0 4 2 0) 1 0 4 = true ∧ vecGoes .quant (vec 0 0 0 4 4 0) 1 0 4 = true ∧
      vecGoes .gate (vec 1 0 0 2 1024 0) 2 0 4 = true ∧ vecGoes .gate (vec 0 0 4 2 0 1) 2 0 4 = true ∧
      good (spadFp core5 1024 2) = true ∧ vecGoes .hadamard (vec 0 0 0 32 32 0) 1 0 4 = true ∧
      vecGoes .upsample (vec 0 0 0 2 8 0) 1 0 4 = true ∧ good (spadFp core5 256 1) = true := by decide +kernel

theorem witness_rescale :
    let s := running core5
    let o : VecOps := { vec 0 0 0 2 4096 255 with src1 := 0xFFFFFFFF, src2 := 2 }
    let x := atIssue s 5 hdr (.rescale o)
    goes s 5 hdr (.rescale o) = true ∧ vecLegal (coreOf s 5) o 2 0 = true ∧ vecLen (coreOf s 5) o = 2 ∧
      sResOk x = true ∧ o.src0.toNat + 2 ≤ 32768 - x.sRes ∧ o.vecFlags.toNat % 8 = 0 ∧ rescaleChained x = false ∧
      (match tryMap (fun i => match spadRead x ((4096 + 16 * i : Nat) : Int) 16 with
        | .error e => .error e
        | .ok bs => (.ok (rescaleEntry bs) : Try RescaleEntry)) (List.range 2) with
       | .ok table => table.all (fun e => e.rsvdZero)
       | .error _ => false) = true ∧ spadIn (vecAddr o 0 o.dst) 2 = true := by decide +kernel
theorem witness_sample :
    let s := running core5
    let o : SampleOps := { codebook := 0, sFixed := 1, sPerSlot := 0, vocab := 2, logits := 0, rowStride := 8, dst := 3145726 }
    goes s 5 hdr (.sample o) = true ∧ coreBuild s (atIssue s 5 hdr (.sample o)) = some build9 ∧
      (build9.desc.codebooks[0]?).isSome = true ∧ spadIn (o.dst.toNat : Int) 2 = true ∧
      (match sampleRows s o { codes := 2, invTemp := 0, topK := 1, topP := 0 } 0 1 0 (atIssue s 5 hdr (.sample o)) with
       | .ok (ds, _) => decide (ds.length = 1)
       | .error _ => false) = true := by decide +kernel

theorem witness_mark :
    let s := running core5
    let o : MarkOps := { sFixed := 1, sPerSlot := 0, scores := 0, rowStride := 0, counts := 0, countsStride := 0, dst := 64 }
    let x := atIssue s 5 hdr (.mark o)
    goes s 5 hdr (.mark o) = true ∧ coreBuild s x = some build9 ∧ spadIn (0 : Int) 0 = true ∧
      (match tryMap (slotMarks s x o build9) (List.range 1) with
       | .ok ms => (ms.mapIdx (fun r m => (r, m.1))).all (fun e => good (spadWrite x ((o.dst.toNat + 32 * e.1 : Nat) : Int) e.2.flatten))
       | .error _ => false) = true := by decide +kernel

/-- A session in compatibility mode in slot 0, with lane tables of zeros on its core. -/
def lanes : Core := { core5 with rng := { core5.rng with coarse := false, lanes := [(0, List.replicate 32 { lag := List.replicate 55 0, pos := 0 })] } }

/-- Core 5 with its generator in coarse mode. -/
def coarse5 : Core := { core5 with rng := { core5.rng with coarse := true } }

theorem laneSegment_length (l : List LaneTab) (h : ∀ e, e ∈ l → (laneBytes e).length = 224) :
    (compatSegment l).length = 8 + 224 * l.length := by
  have : ∀ m : List LaneTab, (∀ e, e ∈ m → (laneBytes e).length = 224) → ((m.map laneBytes).flatten).length = 224 * m.length := by
    intro m
    induction m with
    | nil => intro _; rfl
    | cons a r ih =>
      intro hm
      simp only [List.map_cons, List.flatten_cons, List.length_append, List.length_cons]
      rw [hm a (by simp), ih (fun e he => hm e (by simp [he]))]
      omega
  unfold compatSegment
  rw [List.length_append, this l h]
  rfl

theorem witness_compat :
    let ls := List.replicate 32 ({ lag := List.replicate 55 0, pos := 0 } : LaneTab)
    goes (running core5) 5 hdr (.compatLoad 3138552) = true ∧ spadIn (3138552 : Int) compatBytes = true ∧
      goes (running lanes) 5 hdr (.compatSave 0) = true ∧ tfind (coreOf (running lanes) 5).rng.lanes 0 = some ls ∧
      (coreOf (running lanes) 5).rng.coarse = false ∧ goes (running coarse5) 5 hdr (.compatSave 0) = true ∧
      (coreOf (running coarse5) 5).rng.coarse = true ∧ spadIn (0 : Int) compatBytes = true ∧
      (compatSegment ls).length = 7176 ∧ spadIn (0 : Int) 7176 = true := by
  refine ⟨by decide +kernel, by decide +kernel, by decide +kernel, rfl, by decide +kernel, by decide +kernel, by decide +kernel,
    by decide +kernel, ?_, by decide +kernel⟩
  rw [laneSegment_length]
  · rfl
  · intro e he
    rw [List.eq_of_mem_replicate he]
    decide +kernel

theorem witness_draw :
    let x := { core5 with rng := { core5.rng with coarse := true } }
    let o : DrawOps := { purpose := 3, tensorId := 1, elemBase := 0, count := 1, dst := 0, drawParam := 0x3F800000 }
    goes (running x) 5 hdr (.draw o) = true ∧ good (drawWords (running x) (atIssue (running x) 5 hdr (.draw o)) 0 3 1 0 1) = true ∧
      spadIn (0 : Int) 4 = true ∧ goes (running core5) 5 hdr (.draw { o with purpose := 4, drawParam := 0 }) = true := by
  decide +kernel

/-- SAVE or RESTORE of a component, all elements. -/
def move (component : W16) (flags : Byte) (n : W32) : SrOps :=
  { component := component, srFlags := flags, spad := 64, accBase := 32767, firstElem := 0, elements := n, elemStep := 1 }

theorem witness_saveRestore :
    let s := running core5
    coreBuild s core5 = some build9 ∧ srPlace build9 0x200 = some (32, 4, 2) ∧ good (srCheck core5 (move 0x200 0 2) 4 2) = true ∧
      srPlace build9 0x201 = some (40, 8, 1) ∧ good (srCheck core5 (move 0x201 1 1) 8 1) = true ∧
      srPlace build9 0xFFFF = some (0, 1, 32) ∧ good (srCheck core5 (move 0xFFFF 0 0) 1 32) = true ∧
      srElems (move 0xFFFF 0 0) 32 ≠ [] ∧ good (needClean s (.half 0 (sessActive s runner)) 32 8) = true ∧ (slotWork s core5 0).map (fun w => w.session) = some 0 ∧ sessOf s 0 = some runner ∧
      goes s 5 hdr (.restore (move 0x200 0 2)) = true ∧ goes s 5 hdr (.restore (move 0x201 1 1)) = true ∧
      goes s 5 hdr (.save (move 0x200 0 2)) = true ∧ goes s 5 hdr (.save (move 0x201 1 1)) = true ∧
      goes s 5 hdr (.save (move 0xFFFF 0 0)) = true ∧ spadIn (64 : Int) (1 * 32) = true := by decide +kernel

theorem witness_spill :
    let s := running core5
    let o : SrOps := { component := 0, srFlags := 0, spad := 64, accBase := 0, firstElem := 0, elements := 64, elemStep := 0 }
    core5.ctx.isSome = true ∧ good (spillCheck core5 o) = true ∧ goes s 5 hdr (.spill o) = true ∧ goes s 5 hdr (.unspill o) = true ∧
      good (copyLive core5 (tget coreD s.spills 0) o) = true ∧
      good (copyLive (tget coreD s.spills 0) (atIssue s 5 hdr (.unspill o)) o) = true := by decide +kernel

/-- Core 5 with a command in unit 0 that has made its writes. -/
def finishing (h : CmdHdr) : Core :=
  { core5 with units := [(0, { unitQD with busy := some ({ hdr := h, op := .nop, slot := 0, taken := false, index := 0 }, default) })] }

theorem witness_complete :
    let h := hdrWait
    let r : CmdHdr := { hdr with postSem := 3, postCore := 1, postCount := 1 }
    let c : CarryOps := { start := 32704, len := 64, streams := 1, carryFlags := 0, streamStep := 64, samples := 1 }
    let owed : Core := { finishing hdr with rng := { core5.rng with fills := [{ index := 0, slot := 0, table := default }] } }
    let x : Core := { core5 with
      carryRun := some { ops := c, done := 63 }
      units := [(9, { unitQD with busy := some ({ hdr := hdr, op := .carry c, slot := 0, taken := false, index := 0 }, default) })] }
    let s := running (finishing { h with waitCount := 0 })
    let two : State := { running (finishing r) with cores := [(5, finishing r), (6, { core5 with ctx := some { bay := 3, group := 0, idx := 1, yealm := 0, nSlots := 2 } })] }
    coreRuns s 5 = true ∧ (coreOf s 5).window = [] ∧ (coreOf s 5).units.all (fun e => decide (e.2.queue = [])) = true ∧
      (unitQ (coreOf s 5) 0).busy.isSome = true ∧ (coreOf s 5).carryRun = none ∧ (semOf (coreOf s 5) 3).toNat + 1 ≤ 65535 ∧
      doneKey (coreOf s 5) 0 = 0 ∧ (unitQ (coreOf s 5) 1).busy = none ∧ carryTotal c = 64 ∧
      (unitQ (coreOf (running x) 5) 9).busy.isSome = true ∧ (unitQ (coreOf (running x) 5) 1).busy = none ∧
      doneKey { x with carryRun := some { ops := c, done := 64 } } 1 = 9 ∧ coreRuns (running owed) 5 = true ∧
      ((unitQ (coreOf (running owed) 5) 0).busy).map (fun e => fillsOwed owed e.1) = some true ∧
      tsorted none two.cores = true ∧ coreAtIdx two 3 0 1 = some 6 ∧ coreRuns two 5 = true := by decide +kernel

theorem witness_transfers :
    let tr : Transfer := { (default : Transfer) with src := .spad 0, dst := .spad 64, rowBytes := 64, rows := 1, ring := 0xFF }
    let x := setDma core5 4 { active := some tr, waiting := none, collided := none }
    let s : State := { running x with mesh := [{ src := 5, dst := 5, sem := 255, count := 1 }] }
    let y := { core5 with rng := { core5.rng with fills := [default] } }
    coreRuns s 5 = true ∧ x.window = [] ∧ (dmaOf (coreOf s 5) 4).active = some tr ∧ (dmaOf (coreOf s 5) 4).waiting = none ∧
      (dmaOf (coreOf s 5) 4).collided = none ∧ spadIn (0 : Int) 64 = true ∧ spadIn (64 : Int) 64 = true ∧ tr.arm.post.count = 0 ∧
      (dmaOf (coreOf s 5) 127).active = none ∧ (s.mesh.find? (fun m => decide (m.src = 5 ∧ m.dst = 5))).isSome = true ∧
      (tget 0 x.sems 255).toNat + 1 ≤ 65535 ∧ s.mesh.find? (fun m => decide (m.src = 5 ∧ m.dst = 6)) = none ∧
      (coreOf (running y) 5).rng.fills = [default] := by decide +kernel
/-! ### Witnesses: scheduling -/

/-- A session attached to slot 0 with a queued utterance. -/
def queued : Session :=
  { sess0 with st := .speaking, queuedTokens := some 2, attach := some { yealm := 0, slot := 0, ready := true, effective := true } }

/-- A meter of microphone 0. -/
def meterRec : List Byte := splice (splice (recDefault 0x18) 0 [1, 4, 1, 0]) 20 [1, 0]

theorem witness_boundary :
    let s := setRec (farm queued) 0x18 0 (bootCopy meterRec)
    let f : State := { up with fault := some default, snapshots := [(asked 0x0102 [], false)], unanswered := [asked 0x0102 []] }
    quietBoundary s 3 bay3 0 = true ∧ tsorted none s.sessions = true ∧ bay3.attr.cls = 0 ∧
      (admittedYealms s bay3).map Prod.fst = [0] ∧ takingPart { s with chunk := 1 } 0 1 = 1 ∧ queued.admitted = none ∧
      meterLive (act s 0x18 0) 0 = true ∧ meterLive (act s 0x18 0) 1 = false ∧ fenced s (uAudio 4) = false ∧
      tsorted none s.pdm.chunk = true ∧ tsorted none s.pdm.levels = true ∧ quietBoundary (farm { queued with admitted := some 0 }) 3 bay3 0 = true ∧
      f.boot.complete = true ∧ f.fault.isSome = true ∧ awaits f (asked 0x0102 []) = true ∧
      State.reset.boot.complete = false := by decide +kernel

/-- Step of chunk 1 of yealm 0. -/
def step0 : Step := { (default : Step) with chunk := 1, mask := 1 }

/-- A bay that was stopped at the last boundary. -/
theorem witness_sliceStart_stopped :
    let b : Bay := { bay3 with todo := [step0], lastVariant := none }
    let s : State := { farm { queued with admitted := some 0 } with bays := [(3, b)] }
    bayOf s 3 = some b ∧ b.attr.cls = 0 ∧ stepsRun s = true ∧ variantNow s b = some 0 ∧ bayBlocked s b = false := by decide +kernel

theorem witness_sliceStart :
    let b : Bay := { bay3 with todo := [step0] }
    let s : State := { farm { queued with admitted := some 0 } with bays := [(3, b)] }
    bayOf s 3 = some b ∧ b.attr.cls = 0 ∧ stepsRun s = true ∧ variantNow s b = some 0 ∧ bayBlocked s b = false ∧ b.todo = [step0] ∧
      step0.begun = false ∧ yealmOf s step0.yealm = some yealm0 ∧ yealm0.susp ≠ .givenUp ∧ yealm0.beStep = none ∧
      b.lastVariant.isSome = true ∧
      buildOf s yealm0.build = some build9 ∧ (planOf build9 yealm0.plan).isSome = true ∧
      (certOf build9 yealm0.plan 0 yealm0.slots).isSome = true ∧
      (planOf build9 yealm0.plan).map (fun p => (p.variants[0]?).isSome) = some true ∧ tsorted none s.sessions = true ∧
      b.running = false ∧ b.lent = false ∧ startMask s step0 = 1 ∧ (partners s 0 1).map Prod.fst = [0] ∧
      bayOf { s with bays := [(3, { b with lent := true })] } 3 = some { b with lent := true } := by decide +kernel

theorem witness_commit :
    let w : SlotWork := { (default : SlotWork) with session := 0 }
    let v : Yealm := { yealm0 with work := [(0, w)] }
    let b : Bay := { bay3 with running := true, todo := [{ step0 with begun := true }] }
    let s : State := { running { core5 with sems := [(200, 1)] } with bays := [(3, b)] }
    commitReady s 3 0 = true ∧ commitReady (running core5) 3 0 = false ∧ (coreOf s 5).dma = [] ∧ s.fault = none ∧ yealmOf s 0 = some v ∧ bayOf s v.bay = some b ∧ b.attr.cls = 0 ∧ b.running = true ∧
      buildOf s v.build = some build9 ∧ v.work = [(0, w)] ∧ sessOf s w.session = some runner ∧
      (effAttach runner).map (fun a => (a.yealm, a.slot)) = some (0, 0) ∧ runner.st ≠ .lost ∧ runner.job = none ∧
      runner.stopWait = [] ∧ runner.detachWait = none ∧ bit runner.bindFlags.toNat 1 = false ∧ build9.desc.rings = [] ∧
      tsorted none s.cores = true ∧ (bayOf (farm runner) 3).map (fun b => b.running) = some false := by decide +kernel

/-- Best-effort bay 4, which may borrow two cores. -/
def bay4 (gs : List Group) : Bay :=
  { (default : Bay) with
    attr := { (default : BayAttr) with cls := 1, coreMask := 2 ^ 9, channelMask := 4, borrowMax := 2, beSlice := 1000 }
    groups := gs, nextGroup := 2, variant := some 0 }

/-- A group that bay 4 has borrowed of bay 3. -/
def group1 (stepping : Bool) : Group :=
  { (default : Group) with gid := 1, lender := some 3, cores := [5], yealm := some 1, stepping := stepping, reclaim := true }

/-- Bays 3 and 4, with yealm 1 of bay 4 on the borrowed group. -/
def lending (stepping : Bool) : State :=
  { farm sess0 with
    bays := [(3, { bay3 with attr := { bay3.attr with lend := 1 }, lent := true }), (4, bay4 [group1 stepping])]
    yealms := [(0, yealm0), (1, { yealm0 with bay := 4 })]
    cores := [(5, { core5 with stepEnded := true, ctx := some { bay := 4, group := 1, idx := 0, yealm := 1, nSlots := 2 } })] }

/-- The same with the core away from a preemption point. -/
def lendingFar (stepping : Bool) : State :=
  { lending stepping with cores := (lending stepping).cores.map (fun e => (e.1, { e.2 with stepEnded := false })) }

theorem witness_lend :
    let s := lending true
    let b : Bay := { bay3 with attr := { bay3.attr with lend := 1 }, lent := true }
    bayOf s 3 = some b ∧ b.attr.cls = 0 ∧ b.attr.lend ≠ 0 ∧ b.running = false ∧ b.destroying = none ∧ stepsRun s = true ∧
      nextStart s b = some 18800000 ∧ b.commitAt + 705000 ≤ 18800000 ∧ s.now + 235000 ≤ 18800000 ∧
      18800000 < ({ s with now := 18565001 } : State).now + 235000 ∧
      nextStart { s with now := 18565001 } b = some 18800000 := by decide +kernel

theorem witness_reclaim :
    tsorted none (lending true).bays = true ∧ tsorted none (lending true).cores = true ∧
      (bayOf (lending true) 4).map (fun b => b.groups) = some [group1 true] ∧ (group1 true).lender = some 3 ∧
      (group1 true).reclaim = true ∧ groupAtPoint (lending true) 4 (group1 true) = true ∧
      groupAtPoint (lendingFar true) 4 (group1 true) = false ∧
      ((bay4 [group1 true]).groups.find? (fun h => h.gid = 1)) = some (group1 true) ∧ (group1 true).yealm = some 1 ∧
      (yealmOf (lending true) 1).isSome = true ∧ worksFor (lending true) 4 1 5 = true ∧
      ((bay4 [group1 false]).groups.find? (fun h => h.gid = 1)) = some (group1 false) ∧ (group1 false).stepping = false := by
  decide +kernel

/-- Bay 3 with a bulk transfer at the head of its queue and its reserve window open. -/
def moving (k : Bulk) (x : Session) : State :=
  { farm x with
    bays := [(3, { bay3 with window := true, bulk := [k] })]
    unanswered := match k.resp with
      | some rt => [rt]
      | none => [] }

theorem witness_bulk :
    let ring : Bulk := { kind := .ringCarry 0 6, left := 262144, running := true, resp := none }
    let long : Bulk := { ring with left := 262145 }
    let plan : Bulk := { kind := .planCopy 9 0, left := 1, running := true, resp := some (asked 0x0122 []) }
    let move : Bulk := { kind := .attachMove 0 (some 3), left := 1, running := true, resp := some (asked 0x0206 []) }
    let x : Session := { sess0 with attach := some default }
    let reload : Bulk := { kind := .pageReload 9 0 1, left := 1, running := true, resp := some (asked 0x0110 []) }
    let leave : Bulk := { kind := .sessionExport 0, left := 1, running := true, resp := some (asked 0x0208 []) }
    let idle : Bulk := { plan with running := false }
    (bayOf (moving ring sess0) 3).map (fun b => b.bulk) = some [ring] ∧ sessOf (moving ring sess0) 0 = some sess0 ∧
      (bayOf (moving long sess0) 3).map (fun b => b.bulk) = some [long] ∧
      bulkOpen (moving idle sess0) 3 idle = true ∧ carryTarget (moving ring sess0) 0 6 = none ∧
      awaits (moving reload sess0) (asked 0x0110 []) = true ∧ awaits (moving leave sess0) (asked 0x0208 []) = true ∧ sess0.attach = none ∧
      (moving ring sess0).fault = none ∧ bulkOpen (farm sess0) 3 ring = false ∧
      awaits (moving plan sess0) (asked 0x0122 []) = true ∧ buildOf (moving plan sess0) 9 = some build9 ∧
      needsCopy build9 3 bay3.attr.channelMask = true ∧ awaits (moving move x) (asked 0x0206 []) = true ∧
      sessOf (moving move x) 0 = some x ∧ x.attach = some default := by decide +kernel

/-- A session in slot 0 of a yealm with a ring 6 of two entries, of which its plan has written `n`. -/
def ringSess (yealm n : Nat) : Session :=
  { sess0 with
    attach := some { yealm := yealm, slot := 0, ready := true, effective := true }
    rings := [(6, { ringAbsent with entryBytes := 8, entries := 2, dir := 1, planA := n, planB := n })] }

/-- Plan 0 of build 9 in bay 3 produces for plan 1 in bay 4. -/
def carrying : State :=
  { farm sess0 with
    builds := [{ build9 with
      desc := { build9.desc with rings := [{ entries := 2, entryBytes := 8, dir := 1, role := 1, peerPlan := 1 }] } }]
    bays := [(3, { bay3 with window := true, bulk := [{ kind := .ringCarry 0 6, left := 16, running := true, resp := none }] }),
             (4, { bay4 [] with window := true })]
    yealms := [(0, yealm0), (1, { yealm0 with bay := 4, plan := 1 })]
    sessions := [(0, ringSess 0 2), (1, ringSess 1 0)] }

theorem witness_bulk_carry :
    (bayOf carrying 3).map (fun b => b.bulk.length) = some 1 ∧ carryTarget carrying 0 6 = some (4, 1) ∧
      sessOf carrying 0 = some (ringSess 0 2) ∧ sessOf carrying 1 = some (ringSess 1 0) ∧
      bulkOpen carrying 3 { kind := .ringCarry 0 6, left := 16, running := false, resp := none } = true := by decide +kernel

/-! ### Witnesses: faults and recovery -/

/-- A device in boot, with trial firmware running or not. -/
def booting (trial : Bool) : State :=
  { State.reset with
    flash := flash2
    boot := { State.reset.boot with
      pwrok := true, resetN := true, stage := 5, fw := some { (default : Firmware) with trial := trial }, profileActive := 2 } }

theorem witness_contained :
    let s := running core5
    let f (n : W16) : FaultEvent := { source := n, unit := uCore 5, syndrome := 0 }
    s.boot.complete = true ∧ (f 0x0100).unit = uCore 5 ∧ (coreOf s 5).ctx.isSome = true ∧ (yealmOf s 0).isSome = true ∧
      (bayOf s 3).isSome = true ∧ (unitOf s (uCore 5)).fence = .inService ∧ tsorted none s.cores = true ∧ yealm0.attempts < 3 ∧
      faultKnown 0x010C = true ∧ faultKnown 0x0118 = true ∧ faultClass 0x0110 = .corrected ∧ faultClass 0x0502 = .corrected ∧
      faultClass 0x0205 = .corrected ∧ faultKnown 0xFFFF = false ∧ faultClass 0x0601 = .fatal ∧ tsorted none s.channels = true ∧ tsorted none s.ports = true ∧
      tsorted none s.tdm = true := by decide +kernel

/-- Four failed attempts and no session on the yealm. -/
theorem witness_contained_last :
    let v : Yealm := { yealm0 with attempts := 3 }
    let s : State := { running core5 with yealms := [(0, v)], sessions := [] }
    yealmOf s 0 = some v ∧ claimants s 0 = [] ∧ (coreOf s 5).ctx.isSome = true ∧ (bayOf s 3).isSome = true ∧
      tsorted none s.cores = true := by decide +kernel

theorem witness_overrun :
    let x : Core := { core5 with
      units := [(0, { unitQD with queue := [{ hdr := { hdrWait with waitCount := 2 }, op := .nop, slot := 0, taken := false, index := 0 }] })] }
    let s := running x
    coreRuns s 5 = true ∧ overrunSem s (coreOf s 5) 0 = some 3 ∧ waitsOn (coreOf s 5) 0 0xFF = true ∧ (coreOf s 5).ctx.isSome = true ∧ tsorted none s.cores = true ∧
      (unitOf s (uLink 3 (waitLink (coreOf s 5) { bay := 3, group := 0, idx := 0, yealm := 0, nSlots := 2 } 3).1
        (waitLink (coreOf s 5) { bay := 3, group := 0, idx := 0, yealm := 0, nSlots := 2 } 3).2)).fence = .inService ∧
      overrunSem s (coreOf s 5) 1 = none ∧ (unitOf s (uLink 3 0 0xFF)).fence = .inService ∧
      overrunSem (running { core5 with stepEnded := true }) { core5 with stepEnded := true } 7 = some 200 ∧
      waitsOn (coreOf s 5) 0 1 = false ∧ carrierWaits s 3 1 = false ∧ carrierWaits carrying 3 70 = true ∧ carrying.cores = [] ∧
      (unitOf carrying (uLink 3 0 70)).fence = .inService ∧
      (farm sess0).cores = [] ∧ (unitOf (farm sess0) (uLink 3 0 1)).fence = .inService := by decide +kernel

theorem witness_illegal :
    let s := running core5
    let h : CmdHdr := { hdr with flags := 8 }
    coreCmd (.nop 5 h) = some (5, h, .nop) ∧ coreRuns s 5 = true ∧ (coreOf s 5).window = [] ∧ (coreOf s 5).loop = none ∧
      (coreOf s 5).stepEnded = false ∧ (coreOf s 5).units.all (fun e => decide (e.2.queue = [])) = true ∧
      nextCmd (coreOf s 5) h .nop = .given ∧ hdrOk s (coreOf s 5) h = false ∧ (coreOf s 5).ctx.isSome = true ∧
      tsorted none s.cores = true := by decide +kernel

/-- A core of step streams: a NOP stands next, or 64 bytes that spell no command of the sequencer. -/
theorem witness_illegal_stream :
    let x (b : Byte) : Core := { core5 with prog := { core5.prog with stream := [b] ++ zeros 63 } }
    nextCmd (x 0) hdr .nop = .given ∧ nextCmd (x 0) hdrWait .nop = .other ∧ nextCmd (x 255) hdr .nop = .malformed 0 ∧
      coreRuns (running (x 255)) 5 = true ∧ (x 255).window = [] := by decide +kernel

/-- Core 5 of bay 3 reads the bay's channel 1 by a transfer. -/
def fetching : State :=
  let tr : Transfer := { (default : Transfer) with src := .bay 0, dst := .spad 0, rowBytes := 64, rows := 1 }
  running (setDma core5 4 { active := some tr, waiting := none, collided := none })

theorem witness_channels :
    let full := setChannel up 47 { channelOf up 47 with credits := 7520 }
    let b : Build := { build9 with copies := [{ kind := 0, channels := 1, base := 0, written := [], badPages := [2] }, { kind := 1, channels := 2, base := 0, written := [], badPages := [] }] }
    let lost : Build := { build9 with copies := [{ kind := 0, channels := 1, base := 0, written := [], badPages := [2] }] }
    tsorted none up.channels = true ∧ thatchActive up = true ∧ thatchActive State.reset = false ∧ (channelOf up 47).credits < 7520 ∧
      7520 ≤ (channelOf full 47).credits ∧ thatchActive full = true ∧ tsorted none full.channels = true ∧ up.bays = [] ∧
      up.sessions = [] ∧ (unitOf up (uChannel 47)).fence = .inService ∧ channelBusy up 47 = false ∧
      (channelOf full 47).recalAt + Config.cyclesPerSecond ≤ ({ full with now := 940000000 } : State).now ∧
      full.now < (channelOf full 47).recalAt + Config.cyclesPerSecond ∧ channelBusy fetching 1 = true ∧
      thatchActive fetching = true ∧ (channelOf fetching 1).credits = 0 ∧ 0 < (channelOf (earnCredit fetching 1) 1).credits ∧
      channelBusy (earnCredit fetching 1) 1 = true ∧ tsorted none fetching.channels = true ∧
      (buildOf { up with builds := [b] } 9).map (fun d => d.copies.any (fun c => !c.badPages.contains 2)) = some true ∧
      (buildOf { up with builds := [lost] } 9).map (fun d => d.copies.all (fun c => c.badPages.contains 2)) = some true := by
  decide +kernel

theorem witness_fatal :
    let s := running core5
    faultClass 0x0601 = .fatal ∧ s.boot.complete = true ∧ s.fault = none ∧ State.reset.boot.complete = false ∧
      ({ s with fault := some default } : State).fault = some default ∧ faultClass 0x0303 ≠ .fatal := by decide +kernel

theorem witness_recover :
    let f (x : FaultSt) : State := { up with fault := some x }
    let hurt (u : W32) (fence : FenceSt) : State := setUnit up u { unitOf up u with fence := fence }
    up.fault = none ∧ (f default).fault = some default ∧ (f { (default : FaultSt) with reinit := true }).fault.isSome = true ∧
      tsorted none up.tdm = true ∧ tsorted none up.channels = true ∧ unitType (uCore 5) = 1 ∧ unitIdx (uCore 5) < 64 ∧
      (booting false).boot.pwrok = true ∧ (booting false).boot.resetN = true ∧ (booting false).boot.complete = false ∧
      (unitOf (booting false) (uCore 5)).fence = .inService ∧ tsorted none (booting false).cores = true ∧
      (coreOf (booting false) 5).rng.coarse = true ∧ (default : FaultSt).lostChannels = [] ∧ (default : FaultSt).reinit = false ∧
      (unitOf (hurt (uCore 5) .quiet) (uCore 5)).fence = .quiet ∧ unitType (uCore 5) = 1 ∧
      (unitOf (hurt (uPort 7) .quiet) (uPort 7)).fence = .quiet ∧ unitType (uPort 7) = 4 ∧
      (unitOf (hurt (uLink 3 0 1) .quiet) (uLink 3 0 1)).fence = .quiet ∧ unitType (uLink 3 0 1) = 6 ∧
      (unitOf (hurt (uCore 5) .selfTest) (uCore 5)).fence = .selfTest ∧ tsorted none up.cores = true ∧
      (unitOf (hurt (uSlice 5) .selfTest) (uSlice 5)).fence = .selfTest ∧ unitType (uSlice 5) = 2 ∧ tsorted none up.slices = true ∧
      (unitOf (hurt (uChannel 5) .selfTest) (uChannel 5)).fence = .selfTest ∧ unitType (uChannel 5) = 3 ∧ up.sessions = [] ∧
      (unitOf (hurt (uAudio 1) .selfTest) (uAudio 1)).fence = .selfTest ∧ unitType (uAudio 1) ≠ 1 ∧ unitType (uAudio 1) ≠ 2 ∧
      unitType (uAudio 1) ≠ 3 ∧ unitType (uAudio 1) ≠ 4 ∧ (unitOf up (uCore 5)).fence ≠ .quiet := by decide +kernel
/-! ### Witnesses: boot, power, serial audio, test access -/

theorem witness_boot :
    let held : State := { State.reset with boot := { State.reset.boot with pwrok := true, resetN := false, coldWindow := true } }
    let s := booting false
    let picked : State := { up with boot := { up.boot with warmPending := true } }
    let cut : State := { s with fuses := { s.fuses with ok := false } }
    held.boot.pwrok = true ∧ held.boot.resetN = false ∧ held.fuses.ok = true ∧ cut.fuses.ok = false ∧
      up.boot.pwrok = true ∧ up.boot.resetN = true ∧ picked.boot.complete = true ∧ anyRunning picked = false ∧
      s.boot.fw.isSome = true ∧ s.boot.complete = false ∧ (booting true).boot.fw.map (fun f => f.trial) = some true ∧
      bootReady s = true ∧ profileOf s s.boot.profileActive = some [] ∧ s.sessions = [] ∧ bootReady up = false ∧
      stopCause cut 0x82 = true ∧ cut.boot.stage.toNat < 0x80 ∧ State.reset.boot.pwrok = false := by decide +kernel

/-- A transition in progress that answers a POWER_STATE. -/
def moved (entering : Bool) (target : PState) : Trans :=
  { entering := entering, target := target, resp := some (asked 0x0104 []), msg := none, wakeSeen := false }

/-- `up` with that transition. -/
def turning (was : PState) (tr : Trans) : State :=
  { upOwing 0x0104 with power := { up.power with state := was, trans := some tr, wakeArm := 1 } }

theorem witness_transitions :
    let s := turning .run (moved true .trim)
    let d := turning .run (moved true .doze)
    let q := turning .run (moved true .sealed)
    let x := turning .doze (moved false .run)
    s.power.trans = some (moved true .trim) ∧ s.fault = none ∧ tsorted none s.cores = true ∧ awaits s (asked 0x0104 []) = true ∧
      deep (moved true .doze).target = true ∧ d.fault = none ∧ tsorted none d.tdm = true ∧ tdmArmed d 0 = false ∧
      deep (moved true .sealed).target = true ∧ q.fault = none ∧ x.fault = none ∧ unknownCount x = 0 ∧ tsorted none x.channels = true ∧
      wakeValid d .wakeN = true ∧ wakeValid up .wakeN = false ∧ up.power.trans = none ∧
      deep ({ up with power := { up.power with state := .doze, wakeArm := 1 } } : State).power.state = true := by decide +kernel

theorem witness_readings :
    let cool : List W16 := List.replicate 80 800
    let hot : List W16 := 1760 :: List.replicate 79 800
    let s : State := { up with power := { up.power with hot := [(0, 1)] } }
    let r : State := { up with power := { up.power with railBad := [(7, 4)] } }
    let good := [1800, 1800, 1800, 1200, 1050, 850, 850, 750]
    cool.length = 80 ∧ cool.all (fun v => decide (v.toInt < 1760)) = true ∧ tsorted none s.power.sensors = true ∧
      tsorted none s.power.hot = true ∧ hot.length = 80 ∧ 1 ≤ tget 0 s.power.hot 0 ∧ 1760 ≤ (hot.getD 0 0).toInt ∧ s.fault = none ∧
      s.boot.complete = true ∧ good.length = 8 ∧
      (∀ i, i < 8 → (railLimits.getD i (0, 0)).1 ≤ good.getD i 0 ∧ good.getD i 0 ≤ (railLimits.getD i (0, 0)).2) ∧
      4 ≤ tget 0 r.power.railBad 7 ∧ 773 < 774 ∧ (railLimits.getD 7 (0, 0)).2 = 773 ∧ tsorted none r.power.railBad = true ∧
      tsorted none r.power.rails = true ∧ tget true up.power.sdref 0 = true ∧ tsorted none up.ports = true ∧
      ({ up with conns := [] } : State).boot.complete = true ∧ portEnabled up 0 = true := by decide +kernel

/-- TDM port record: I2S, two slots of 32 bits, slot 0 out and 1 in, the barge-in gate on slot 1. -/
def tdmRec0 : List Byte :=
  splice (splice (splice (splice (splice (recDefault 0x10) 0 [1, 0, 2, 32, 16, 0]) 8 [1]) 16 [2]) 32 [2]) 48 [0xD8, 10, 255, 0, 0, 0, 10]

/-- Port 0 of the block with that record, in a given condition. -/
def audio (x : Tdm) (ss : Session) : State :=
  { setRec (farm ss) 0x10 0 (bootCopy tdmRec0) with tdm := [(0, x)] }

/-- A port with one sample waiting in slot 1, whose gate opens at the next active block. -/
def tdm0 (st : TdmSt) : Tdm :=
  { (default : Tdm) with
    st := st, period := 62500, slots := [(1, { (default : TSlot) with buf := [(5, 0, 0, 0)], armed := true, activeBlocks := 0 })] }

theorem witness_tdm :
    let s (x : TdmSt) := audio (tdm0 x) sess0
    let t := tdm0 .running
    tsorted none (s .running).tdm = true ∧ tsorted none t.slots = true ∧ tsorted none t.counters = true ∧
      tdmAwake (s .running) 0 = true ∧ (recOf (s .running) 0x10 0).commit = none ∧ tdmMode (s .running) 0 ≠ 0 ∧
      (tdmOf (s .stopped) 0).st = .stopped ∧ (tdmOf (s .running) 0).st = .running ∧ (62500 :: t.recent).length < 64 ∧
      glitchy t.period 62500 = false ∧ glitchy t.period 1000 = true ∧ t.glitchRun < 2 ∧ inEnabled (s .running) 0 1 = true ∧
      outEnabled (s .running) 0 0 = true ∧ outEnabled (s .running) 0 1 = false ∧ (tslotOf t 0).buf = [] ∧ (tslotOf t 0).lag = none ∧
      (tdmOf (s .clockLost) 0).st = .clockLost ∧ (tslotOf (tdmOf (s .clockLost) 0) 1).buf ≠ [] ∧
      (s .relocking).sessions.all (fun e => !(bit e.2.bindFlags.toNat 1 && decide (e.2.tdmPort = 0))) = true ∧
      tdmAwake State.reset 0 = false ∧ tsorted none State.reset.tdm = true := by decide +kernel

/-- A session on slot 1 of port 0 that speaks, its slice begun. -/
def bargeSess : Session :=
  { sess0 with
    st := .speaking, uttTokens := 4, admitted := some 0, bindFlags := 2, tdmPort := 0, tdmSlot := 1
    attach := some { yealm := 0, slot := 0, ready := true, effective := true } }

theorem witness_barge :
    let s : State := { audio (tdm0 .running) bargeSess with bays := [(3, { bay3 with todo := [{ step0 with begun := true }] })] }
    let z := tslotOf (tdmOf s 0) 1
    tdmAwake s 0 = true ∧ (recOf s 0x10 0).commit = none ∧ bit (fld (tdmRec s 0) 32 8) 1 = true ∧ 16 * fldS (tdmRec s 0) 48 1 < 0 ∧
      ¬ 16 * fldS (tdmRec s 0) 48 1 < -2000 ∧ z.armed = true ∧ ceilDiv (fld (tdmRec s 0) 49 1) 10 ≤ z.activeBlocks + 1 ∧
      slotBound s 0 1 = some (0, bargeSess) ∧ slotBound (audio (tdm0 .running) sess0) 0 1 = none ∧
      tsorted none s.sessions = true ∧ s.fault = none ∧ 0 < bargeSess.uttTokens ∧ sliceBegun s bargeSess = true := by decide +kernel

theorem witness_ramp :
    let c : CommitReq := { bytes := tdmRec0, gen := 1, restart := true, idle := [], resp := some (asked 0x0131 []) }
    let r : CfgRec := { bootCopy (recDefault 0x10) with commit := some c }
    let s : State := { setRec (upOwing 0x0131) 0x10 0 r with tdm := [(0, { tdm0 .running with ramping := true })] }
    (tdmOf s 0).ramping = true ∧ s.fault = none ∧ (recOf s 0x10 0).commit = some c ∧ awaits s (asked 0x0131 []) = true ∧
      tsorted none s.recs = true ∧ captureOk (setRec s 0x10 0 { recOf s 0x10 0 with commit := none }) 0x10 0 c = true ∧
      tsorted none s.tdm = true ∧ tsorted none (tdmOf s 0).slots = true := by decide +kernel

theorem witness_pdm :
    let r := splice (splice (recDefault 0x18) 0 [1, 4, 1, 0]) 20 [1, 0]
    let s := setRec up 0x18 0 (bootCopy r)
    s.boot.complete = true ∧ (recOf s 0x18 0).commit = none ∧ micEnabled s 0 = true ∧ micEnabled s 1 = false ∧
      s.sessions.all (fun e => e.2.job.isNone) = true ∧ tsorted none s.pdm.outs = true ∧
      bit (meterMics (act s 0x18 0) 0) 0 = true ∧ fenced s (uAudio 4) = false := by decide +kernel

theorem witness_testAccess :
    let cold : State := { State.reset with boot := { State.reset.boot with pwrok := true, coldWindow := true } }
    let ran : State := { cold with tap := { cold.tap with mbRun := true, mbTarget := 1, sdRun := true } }
    cold.boot.coldWindow = true ∧ up.boot.coldWindow = false ∧ cold.tap.mbRun = false ∧ ran.tap.mbRun = true ∧
      ran.tap.sdRun = true ∧ ran.tap.sdPattern ≠ 3 ∧ up.boot.pwrok = true ∧ up.boot.complete = true ∧ up.latch = none ∧
      cold.boot.complete = false ∧ State.reset.boot.pwrok = false := by decide +kernel

/-! ### Ill-formed commands, one for each check -/

/-- A segment of the tests. -/
def seg0 : Seg := bare 1 0 []

theorem illFormed_connId : wellFormed (.ackDelayExpiry 4096) = false ∧ wellFormed (.ackDelayExpiry 4095) = true := by decide +kernel
theorem illFormed_bayId : wellFormed (.coreLend 64) = false ∧ wellFormed (.coreLend 63) = true := by decide +kernel
theorem illFormed_yealmId : wellFormed (.commit 4096) = false ∧ wellFormed (.commit 4095) = true := by decide +kernel
theorem illFormed_sessIdx :
    wellFormed (.ringOutputTake 65536) = false ∧ wellFormed (.ringOutputTake 65535) = true := by decide +kernel
theorem illFormed_frameHdr : wellFormed (.unsupportedFrame 0 { frame0 with dest := 2 ^ 48 }) = false ∧
    wellFormed (.unsupportedFrame 0 { frame0 with tags := [4096] }) = false ∧
    wellFormed (.unsupportedFrame 0 { frame0 with dest := 2 ^ 48 - 1, tags := [4095] }) = true := by decide +kernel
theorem illFormed_ipAddr : wellFormed (.echoRequest 0 frame0 false (2 ^ 32) 0 []) = false ∧
    wellFormed (.echoRequest 0 frame0 true (2 ^ 32) 0 []) = true := by decide +kernel
theorem illFormed_segCarrier : wellFormed (.lmxData { seg0 with srcUdp := 65536 }) = false ∧ wellFormed (.lmxData seg0) = true := by
  decide +kernel
theorem illFormed_hostMsg : wellFormed (.speak { msg [] with conn := 4096 }) = false ∧ wellFormed (.speak (msg [])) = true := by
  decide +kernel
theorem illFormed_unitId : wellFormed (.quietPeriodExpiry 0x0C000000) = false ∧ wellFormed (.quietPeriodExpiry 0) = false ∧
    wellFormed (.quietPeriodExpiry 0x0B000000) = true := by decide +kernel
theorem illFormed_readings : wellFormed (.sensorReading (List.replicate 79 0)) = false ∧
    wellFormed (.sensorReading (List.replicate 80 0)) = true := by decide +kernel
theorem illFormed_rails : wellFormed (.supplyCheck [1800]) = false := by decide +kernel
theorem illFormed_scan : wellFormed (.samplePreload [true] []) = false := by decide +kernel
theorem illFormed_bypassCode : wellFormed (.bypass 2) = false ∧ wellFormed (.bypass 0xFF) = true := by decide +kernel
theorem illFormed_period : wellFormed (.relockLocked 0 0) = false ∧ wellFormed (.relockLocked 0 1) = true := by decide +kernel
theorem illFormed_count : wellFormed (.i2cRead 0) = false ∧ wellFormed (.i2cRead 1) = true := by decide +kernel
theorem illFormed_copyKind : wellFormed (.pageRewriteComplete 9 66 0) = false ∧ wellFormed (.pageRewriteComplete 9 65 0) = true := by
  decide +kernel
theorem illFormed_coreIdx : wellFormed (.linkStall 3 64 0) = false ∧ wellFormed (.linkStall 3 63 0) = true := by decide +kernel
theorem illFormed_stopStage : wellFormed (.bootStop 0x7F) = false ∧ wellFormed (.bootStop 0x82) = true := by decide +kernel

/-! ### The spec's worked examples -/

/-- spec/03, example below R40: 22/32 of a unit rounds down with r = 0x4E1A_77C2 and up with r = 0x5B00_0000. -/
theorem test_stochastic_rounding : srShift 22 5 0x4E1A77C2 = 0 ∧ srShift 22 5 0x5B000000 = 1 := by decide +kernel

/-- spec/03, the zero-range token: every element −0.75 (four of them here). -/
theorem test_zero_range_token :
    (quantToken (fun _ => .det) (List.replicate 4 0xBF400000)).z = 128 ∧
      (quantToken (fun _ => .det) (List.replicate 4 0xBF400000)).codes = [1, 1, 1, 1] ∧
      (quantToken (fun _ => .det) (List.replicate 4 0xBF400000)).degen = 1 := by decide +kernel

/-- The int4 output channel of the example in spec/03. -/
def exampleEntry : RescaleEntry := { mult := 0x50000000, shift := 14, rsvdZero := true, bias := -3584, rowsum := -1536 }

theorem test_rescale :
    rescaleCode .det 118 392192 131 exampleEntry = (140, 0) ∧
      rescaleCode (.stoch 0x80000000) 118 392192 131 exampleEntry = (141, 0) ∧
      rescaleCode (.stoch 0x7FFFFFFF) 118 392192 131 exampleEntry = (140, 0) := by decide +kernel

/-- spec/03, PCM16 conversion of 0x3F00_0101 and of the tie 0x3F00_0100. -/
theorem test_pcm16 : toPcm 16 0x3F000101 = (16385, 0) ∧ toPcm 16 0x3F000100 = (16384, 0) := by decide +kernel

/-- spec/05: the first element 1.0 of a block of 32 gives 0x3E35_04F3 everywhere. -/
theorem test_hadamard : hadBlock 5 (0x3F800000 :: List.replicate 31 0) = List.replicate 32 0x3E3504F3 := by decide +kernel

/-- The walk of the example in spec/06 below R119. -/
def exampleWin : Win :=
  { loop := 0, padMode := 2, inDil := 1, taps := 5, len := 7, dil := 2, stride := 3, padLo := 4, padHi := 4, outLo := 0
    outHi := 65535, hist := 0, histBase := 0 }

theorem test_reflected_walk :
    winN exampleWin = 3 ∧
      (List.range 3).map (fun p => (List.range 5).map (fun k => tapSrc exampleWin (tapPos exampleWin p k))) =
        [[.elem 4, .elem 2, .elem 0, .elem 2, .elem 4], [.elem 1, .elem 1, .elem 3, .elem 5, .elem 5],
          [.elem 2, .elem 4, .elem 6, .elem 4, .elem 2]] := by decide +kernel

/-- spec/06, one channel of an F(2,3) tile: the inputs' transform and the outputs' transform. -/
theorem test_winograd :
    (List.range 4).map (fun p => (winoOperand 0 p (fun _ j => ([3, -2, 12, 0] : List Int).getD j 0)).1) = [-9, 10, 14, -2] ∧
      ((winoTile 0 (([-36, 40, 84, -12] : List Int).map (fun v => BitVec.ofInt 40 (512 * v)))).1.map BitVec.toInt) =
        [45056, -16384] := by decide +kernel

/-- spec/07: h = 0x00_C000_0001, a = 0x7FE0, u = −0.25 give 0x7FD0_0001. -/
theorem test_carry_step : carryStep 0x7FE0 0x00C0000001 (BitVec.ofInt 40 (-(2 ^ 30))) = (0x007FD00001, 0) := by decide +kernel

/-- spec/08: token 6 with three frames after token 5 with one; the best score lies at q = −3 and q = 2. -/
theorem test_mark_onset :
    markOnset { (default : MarkParams) with p := 16, h := 8 }
      ((List.replicate 32 0x00000000#32).mapIdx (fun i v => if i = 13 ∨ i = 18 then 0x3F800000#32 else if i = 7 then 0x40000000#32 else v))
      (some 1) 3 = (-3, false) := by decide +kernel

/-- spec/09: the four input words of draw 5 of a Salokan-S session. -/
theorem test_mixer_input :
    mixInput { seed := 0, purpose := 0, tensor := 0x0031, step := 0x123456789A } 0 1 =
      { x0 := 0x3456789A, x1 := 0x00310012, x2 := 0x4E000000, x3 := 1 } := by decide +kernel

/-- spec/09: w[55] and w[79] from w[0], w[24] and w[31]. -/
theorem test_lagged_words :
    let tab : List W32 := (List.range 55).map (fun i => if i = 0 then 0xF0000001 else if i = 24 then 0x0FFFFFFF else if i = 31 then 0x20000003 else 0)
    tableWord tab 55 = 0x10000004 ∧ tableWord tab 79 = 0x20000003 := by decide +kernel

/-- spec/13: SRTT 60 µs and RTTVAR 20 µs give an RTO of 200 µs. -/
theorem test_rto : rtoOf (some (60000, 20000)) = 200000 := by decide +kernel

/-- spec/10: bay address 0x0001_2345 of a group TC12 to TC17. -/
theorem test_bay_address : (match physOf [12, 13, 14, 15, 16, 17] 0x12345 with
    | .ok p => decide (p = 0x600003345)
    | .error _ => false) = true := by decide +kernel

/-- The record of bay 3 with `shadow_gen` 7. -/
def exampleBay : State :=
  setRec (farm sess0) 0x20 3 { bootCopy (recDefault 0x20) with shadowGen := 7 }

/-- spec/14: bytes 20 03 14 00 02 00 00 00 F0 00, `length` 22, write `way_mask` = 0x00F0 and give `shadow_gen` 8. -/
theorem test_config_write :
    let m := msg (bs [0x20, 0x03, 0x14, 0x00, 0x02, 0, 0, 0, 0xF0, 0x00])
    m.length = 22 ∧ (match exec (.configWrite m) exampleBay with
      | .next t => decide (cut (recOf t 0x20 3).shadow 20 2 = [0xF0, 0x00] ∧ (recOf t 0x20 3).shadowGen = 8)
      | _ => false) = true := by decide +kernel

/-- Table 21.6: the block starts with 4D 4C 4D 54 and version 1 (R501). -/
theorem test_telemetry : (match exec .telemetryRefresh up with
    | .next t => decide (t.side.block.take 5 = [0x4D, 0x4C, 0x4D, 0x54, 0x01] ∧ t.side.block.length = 256)
    | _ => false) = true := by decide +kernel

/-- R435: a RESET_N pulse of 5 µs is forbidden, one of 0.9 µs changes nothing. -/
theorem test_reset_pulse :
    exec (.warmReset (.resetN 5000) 0) up = .fault .resetPulseForbidden ∧ exec (.warmReset (.resetN 900) 0) up = .next up := by
  exact ⟨rfl, rfl⟩
end Sys2Proof.Tests
end

section
/-!
PROOFS. Commands of the vector engine: the core while one runs, where its result goes (R93), and what QUANT, RESCALE, GATE, HADAMARD
and UPSAMPLE leave (R52, R56 to R58, R106 to R111, R125).
-/
namespace Sys2Proof.Machine

open Sys2Proof

/-! ### Rules for the steps of a vector command -/

theorem need_of {b : Bool} {src : Nat} (h : b = true) : need b src = .ok () := by
  unfold need
  rw [if_pos h]

/-- A step that succeeds passes its result on. -/
theorem bind_of {α β : Type} {m : Try α} {a : α} {f : α → Try β} (h : m = .ok a) : (m >>= f) = f a := by
  rw [h]
  rfl

theorem vecZero_of {p : W32} (h : p = 0) : vecZero p = .ok () := need_of (decide_eq_true h)

theorem spadWrite_of_in {x : Core} {a : Int} {bs : List Byte} (h : spadIn a bs.length = true) :
    spadWrite x a bs = .ok (wrote x a bs) := by
  unfold spadWrite
  rw [if_pos (.inr h)]
  rfl

/-- With no state-carry command, what arrives on the path waits. -/
theorem carryAdvance_idle {x : Core} (h : x.carryRun = none) : carryAdvance x = x := by
  unfold carryAdvance
  generalize x.carryA.length = n
  cases n with
  | zero => rfl
  | succ n => unfold carryGo; rw [h]

/-- The result of a lane command goes where `vec_flags` sends it (R93). -/
theorem vecResult_lands (s : State) (c : Nat) {z : Core} {o : VecOps} {k : Nat} {vals : List Nat} (f : ResFmt) (busy slow : Nat)
    (d : Completion) (h : vecLands z o k vals) :
    vecResult s c z o 0 k f vals busy slow d = .ok (setCore s c (vecLeft z o k f vals busy slow), vecRecord o f vals d) := by
  unfold vecLands at h
  unfold vecResult vecLeft vecRecord
  by_cases hc : vecToCarry o = true
  · rw [if_pos hc] at h
    simp only [hc, if_true, List.map_map]
    rw [carryAdvance_idle]
    · rfl
    · exact h
  · rw [if_neg hc] at h
    simp only [hc, if_false, Bool.false_eq_true]
    unfold vecWrite
    rw [spadWrite_of_in h]
    rfl

theorem vecLeft_units (z : Core) (o : VecOps) (k : Nat) (f : ResFmt) (vals : List Nat) (busy slow : Nat) (U : Tab UnitQ) :
    vecLeft { z with units := U } o k f vals busy slow = { vecLeft z o k f vals busy slow with units := U } := by
  unfold vecLeft
  split <;> rfl

/-! ### The core while a vector command runs -/

/-- Core `y` holds the same commands as `x`, for the same step: in its units, in its window and in its stream. -/
def SameSeq (x y : Core) : Prop :=
  y.units = x.units ∧ y.ctx = x.ctx ∧ y.window = x.window ∧ y.prog = x.prog ∧ y.fetchIndex = x.fetchIndex

theorem SameSeq.refl (x : Core) : SameSeq x x := ⟨rfl, rfl, rfl, rfl, rfl⟩

theorem SameSeq.trans {x y z : Core} (h : SameSeq x y) (k : SameSeq y z) : SameSeq x z :=
  ⟨k.1.trans h.1, k.2.1.trans h.2.1, k.2.2.1.trans h.2.2.1, k.2.2.2.1.trans h.2.2.2.1, k.2.2.2.2.trans h.2.2.2.2⟩

theorem vecFirst_sameSeq {s : State} {x z : Core} {o : VecOps} {as : List Nat} {slot k n : Nat}
    (h : vecFirst s x o slot k n = .ok (as, z)) : SameSeq x z := by
  unfold vecFirst at h
  split at h
  · cases h; exact .refl x
  · split at h
    · cases h; exact ⟨rfl, rfl, rfl, rfl, rfl⟩
    · split at h
      · cases h
      · cases h; exact .refl x

theorem vecLeft_sameSeq (z : Core) (o : VecOps) (k : Nat) (f : ResFmt) (vals : List Nat) (busy slow : Nat) :
    SameSeq z (vecLeft z o k f vals busy slow) := by
  unfold vecLeft
  split <;> exact ⟨rfl, rfl, rfl, rfl, rfl⟩

/-- Random words depend neither on the cores that the device holds nor on the core's unit queues. -/
theorem drawWords_units {s : State} {c : Nat} {x w y : Core} {slot purpose first n : Nat} {tensor : W16} {ws : List W32} {b : Bool}
    (U : Tab UnitQ) (h : drawWords s x slot purpose tensor first n = .ok (ws, y, b)) :
    drawWords (setCore s c w) { x with units := U } slot purpose tensor first n = .ok (ws, { y with units := U }, b) ∧
      SameSeq x y := by
  have hsd : slotSeed (setCore s c w) { x with units := U } slot = slotSeed s x slot := rfl
  have hsc : slotCompat (setCore s c w) { x with units := U } slot = slotCompat s x slot := rfl
  have hsg : slotSegments (setCore s c w) { x with units := U } = slotSegments s x := rfl
  unfold drawWords at h ⊢
  rw [hsd, hsc, hsg]
  dsimp only at h ⊢
  by_cases h0 : n = 0
  · rw [if_pos h0] at h ⊢
    cases h; exact ⟨rfl, .refl x⟩
  rw [if_neg h0] at h ⊢
  by_cases h1 : 4294967296 < first + n
  · rw [if_pos h1] at h; cases h
  rw [if_neg h1] at h ⊢
  by_cases h2 : x.rng.coarse = true
  · rw [if_pos h2] at h ⊢
    cases h; exact ⟨rfl, rfl, rfl, rfl, rfl, rfl⟩
  rw [if_neg h2] at h ⊢
  by_cases h3 : slotCompat s x slot = true
  · rw [if_pos h3] at h ⊢
    cases hl : tfind x.rng.lanes slot with
    | none => rw [hl] at h; cases h
    | some ls => rw [hl] at h; cases h; exact ⟨rfl, rfl, rfl, rfl, rfl, rfl⟩
  · rw [if_neg h3] at h ⊢
    cases h; exact ⟨rfl, rfl, rfl, rfl, rfl, rfl⟩

/-- Rounding modes, likewise. -/
theorem roundModes_units {s : State} {c : Nat} {x w y : Core} {slot first n : Nat} {stoch : Bool} {tensor : W16} {mds : List RMode}
    (U : Tab UnitQ) (h : roundModes s x slot stoch tensor first n = .ok (mds, y)) :
    roundModes (setCore s c w) { x with units := U } slot stoch tensor first n = .ok (mds, { y with units := U }) ∧
      SameSeq x y := by
  unfold roundModes at h ⊢
  by_cases h0 : stoch = true
  · rw [if_neg (by simp [h0])] at h ⊢
    cases hd : drawWords s x slot 1 tensor first n with
    | error e => rw [hd] at h; cases h
    | ok r =>
      obtain ⟨ws, v, b⟩ := r
      obtain ⟨hd', hv⟩ := drawWords_units (c := c) (w := w) U hd
      rw [hd] at h
      rw [hd']
      cases h
      exact ⟨rfl, hv⟩
  · rw [if_pos h0] at h ⊢
    cases h; exact ⟨rfl, .refl x⟩

/-- The rounding modes that a command draws are those of the core as it issues. -/
theorem roundModes_run {s : State} {c : Nat} {h : CmdHdr} {op : CoreOp} {x y : Core} {slot first n : Nat} {stoch : Bool} {tensor : W16}
    {mds : List RMode} (U : Tab UnitQ) (hm : roundModes s x slot stoch tensor first n = .ok (mds, y)) :
    roundModes (atUnit s c h op) { x with units := U } slot stoch tensor first n = .ok (mds, { y with units := U }) ∧ SameSeq x y :=
  roundModes_units U hm

/-! ### A vector command that meets nothing -/

/-- A command of the vector engine that meets nothing runs as its unit does it. -/
theorem issues_vec {i : Instr} {s : State} {c : Nat} {h : CmdHdr} {op : CoreOp} {y : Core} {d : Completion} (hu : opUnit op = 2)
    (hi : exec i s = .next (submit s c h op)) (hg : goes s c h op = true) (hy : SameSeq (atIssue s c h op) y)
    (hr : runOp (atUnit s c h op) c (inUnit s c h op) =
      .ok (setCore (atUnit s c h op) c { y with units := unitsAt (coreOf s c) (opUnit op) (inUnit s c h op) }, some d)) :
    Issues i c h op s s y d := by
  obtain ⟨hunits, hctx, hwin, -, -⟩ := hy
  obtain ⟨hrun, hw, -⟩ := goes_parts hg
  have hc : y.ctx.isSome = true := by rw [hctx]; exact coreRuns_ctx hrun
  rw [atUnit_set hg { y with units := unitsAt (coreOf s c) (opUnit op) (inUnit s c h op) } hc] at hr
  refine issues_of hi hg ?_ ?_ hr (fun _ _ => rfl) (hwin.trans hw) hc hunits
  · rintro o rfl
    have : opUnit (.arm o) = 5 + o.engine.val := rfl
    omega
  · rintro o rfl
    exact absurd hu (by decide : (1 : Nat) ≠ 2)

/-- A lane command whose unit comes to the result `vals` leaves the core and its record as R93 and R64 say. -/
theorem issues_lane {i : Instr} {s : State} {c : Nat} {h : CmdHdr} {op : CoreOp} {o : VecOps} {y : Core} {k busy slow : Nat} {f : ResFmt}
    {vals : List Nat} {d : Completion} (hu : opUnit op = 2) (hi : exec i s = .next (submit s c h op)) (hg : goes s c h op = true)
    (hy : SameSeq (atIssue s c h op) y) (hl : vecLands y o k vals)
    (hr : ∀ t e, vecResult (atUnit s c h op) c { y with units := unitsAt (coreOf s c) (opUnit op) (inUnit s c h op) } o 0 k f vals
      busy slow d = .ok (t, e) → runOp (atUnit s c h op) c (inUnit s c h op) = .ok (t, some e)) :
    Issues i c h op s s (vecLeft y o k f vals busy slow) (vecRecord o f vals d) := by
  refine issues_vec hu hi hg (hy.trans (vecLeft_sameSeq ..)) ?_
  rw [← vecLeft_units]
  exact hr _ _ (vecResult_lands _ _ _ _ _ _ hl)

/-! ### What each command computes -/

/-- The tokens of a QUANT, quantised with their elements' rounding modes (R52). -/
def quantTokens (as : List Nat) (mds : List RMode) (k n : Nat) : List QuantTok :=
  (chop k (n / k) (as.map (BitVec.ofNat 32))).mapIdx (fun t v => quantToken (fun i => mds.getD (t * k + i) .det) v)

/-- Scale and zero point of each token, as QUANT stores them. -/
def quantScales (toks : List QuantTok) : List Byte := wordBytes 4 ((toks.map (fun t => [t.scale.toNat, t.z])).flatten)

/-- Entry `i` of a RESCALE's table (R57). -/
def tableEntry (x : Core) (a i : Nat) : Try RescaleEntry := (spadRead x ((a + 16 * i : Nat) : Int) 16).map rescaleEntry

/-- What RESCALE makes of `n` accumulators: codes or fp32 words, with their saturation counts (R57, R58). -/
def rescaleResults (y : Core) (o : VecOps) (table : List RescaleEntry) (zs : List Nat) (mds : List RMode) (n : Nat) : List (Nat × Nat) :=
  (List.range n).map (fun i =>
    let e := table.getD (i % o.src2.toNat) { mult := 0, shift := 0, rsvdZero := true, bias := 0, rowsum := 0 }
    let a := (accGet y (o.src0.toNat + i)).toInt
    let q := zs.getD (i / o.src2.toNat) 0
    if decide (o.subOp = 0) = true then rescaleCode (mds.getD i .det) o.param1.toNat a q e
    else ((rescaleReal a q e).1.toNat, (rescaleReal a q e).2))

/-- The core with a RESCALE's results in the stage's output. -/
def rescaleStage (y : Core) (vals : List Nat) (n : Nat) : Core :=
  coreAdd .rescaleElements n { y with rescaleOut := vals.map (BitVec.ofNat 32) }

/-- A RESCALE's result words as bytes. -/
def rescaleBytes (o : VecOps) (vals : List Nat) : List Byte := wordBytes (if decide (o.subOp = 0) = true then 1 else 4) vals

section
variable {s : State} {c slot : Nat} {x z y : Core} {o : VecOps} {as : List Nat} (hx : coreOf s c = x)
include hx

theorem doQuant_of {mds : List RMode} (hv : vecLegal x o 1 0 = true) (hk1 : 1 ≤ o.param0.toNat)
    (hk2 : o.param0.toNat ≤ 16384) (hdiv : vecLen x o % o.param0.toNat = 0) (hp : o.param1 = 0) (hn : 1 ≤ vecLen x o)
    (hf : vecFirst s x o slot 4 (vecLen x o) = .ok (as, z))
    (hm : roundModes s z slot (vecStoch o) o.tensorId o.elemBase.toNat (vecLen x o) = .ok (mds, y))
    (hs : spadIn (vecAddr o slot o.src1) (quantScales (quantTokens as mds o.param0.toNat (vecLen x o))).length = true) :
    let k := o.param0.toNat
    let n := vecLen x o
    let toks := quantTokens as mds k n
    doQuant s c slot o = vecResult s c (wrote y (vecAddr o slot o.src1) (quantScales toks)) o slot 1 .other
      ((toks.map (fun t => t.codes)).flatten) (2 * (n / k) * ceilDiv k 64)
      (if vecStoch o = true then n / k * vecSlow s y slot k else 0)
      (completion false ((toks.map (fun t => t.sat)).sum) ((toks.map (fun t => t.degen)).sum) (vecStoch o && y.rng.coarse)) := by
  unfold doQuant
  simp only [hx]
  refine (bind_of (vecCheck_ok hv)).trans ?_
  refine (bind_of (vecZero_of hp)).trans ?_
  refine (bind_of (need_of (by simp [hk1, hk2, hdiv]))).trans ?_
  refine (if_neg (by omega)).trans ?_
  refine (bind_of hf).trans ?_
  refine (bind_of hm).trans ?_
  exact bind_of (spadWrite_of_in hs)

theorem doRescale_of {table : List RescaleEntry} {zs : List Nat} {mds : List RMode} (hv : vecLegal x o 2 0 = true)
    (hp : o.param1.toNat ≤ 255) (hr : 1 ≤ o.src2.toNat) (hdiv : vecLen x o % o.src2.toNat = 0) (hfl : o.vecFlags.toNat % 8 = 0)
    (hn : 1 ≤ vecLen x o) (hs : sResOk x = true) (ha : o.src0.toNat + vecLen x o ≤ 32768 - x.sRes)
    (ht : tryMap (tableEntry x o.param0.toNat) (List.range o.src2.toNat) = .ok table)
    (hrsv : table.all (fun e => e.rsvdZero) = true)
    (hz : (if o.src1 = 0xFFFFFFFF#32 then .ok [] else spadWords x (vecAddr o slot o.src1) 1 (vecLen x o / o.src2.toNat)) = Except.ok zs)
    (hm : roundModes s x slot (vecStoch o && decide (o.subOp = 0)) o.tensorId o.elemBase.toNat (vecLen x o) = .ok (mds, y)) :
    let n := vecLen x o
    let stoch := vecStoch o && decide (o.subOp = 0)
    let rs := rescaleResults y o table zs mds n
    let out := rescaleStage y (rs.map Prod.fst) n
    let bs := rescaleBytes o (rs.map Prod.fst)
    ∀ chained, rescaleChained out = chained → (chained = false → spadIn (vecAddr o slot o.dst) bs.length = true) →
    doRescale s c slot o = .ok (setCore s c (coreAdd .srSlowCycles (if stoch = true then vecSlow s y slot n else 0)
        (if chained = true then out else wrote out (vecAddr o slot o.dst) bs)),
      completion false ((rs.map Prod.snd).sum) 0 (stoch && y.rng.coarse)) := by
  intro n stoch rs out bs chained hch hin
  have hplace : (if rescaleChained out = true then Except.ok out else spadWrite out (vecAddr o slot o.dst) bs) =
      .ok (if chained = true then out else wrote out (vecAddr o slot o.dst) bs) := by
    rw [hch]
    cases chained with
    | true => rfl
    | false => exact spadWrite_of_in (hin rfl)
  unfold doRescale
  simp only [hx]
  refine (bind_of (vecCheck_ok hv)).trans ?_
  refine (bind_of (need_of (by simp [hp]))).trans ?_
  refine (bind_of (need_of (by simp [hr, hdiv, hfl]))).trans ?_
  refine (bind_of (need_of (by simp [hs, ha]))).trans ?_
  refine (if_neg (by omega)).trans ?_
  refine (bind_of (Eq.trans (congrArg (tryMap · _) (funext fun i => ?_)) ht)).trans ?_
  · unfold tableEntry
    cases spadRead x ((o.param0.toNat + 16 * i : Nat) : Int) 16 <;> rfl
  refine (bind_of (need_of hrsv)).trans ?_
  refine (bind_of hz).trans ?_
  refine (bind_of hm).trans ?_
  split
  · rename_i he
    cases he.symm.trans hplace
  · rename_i he
    cases he.symm.trans hplace
    rfl

section
variable {lams bs : List W32} (hv : vecLegal x o 2 0 = true) (hform : o.subOp.toNat = 1 ∨ o.param0.toNat = 0)
  (hn : 1 ≤ vecLen x o) (hf : vecFirst s x o slot 4 (vecLen x o) = .ok (as, z))
  (hl : (if o.subOp.toNat = 1 then spadFp z (o.param0.toNat : Int) (vecLen x o) else .ok []) = Except.ok lams)
  (hb : spadFp z (vecAddr o slot o.src1) (vecLen x o) = .ok bs)
include hv hform hn hf hl hb

theorem doGate_output_of {vs hs : List W32} (hp : o.param1 = 0) (hvs : spadFp z (vecAddr o slot o.src2) (vecLen x o) = .ok vs)
    (hhs : spadFp z (vecAddr o slot o.dst) (vecLen x o) = .ok hs) :
    let form := o.subOp.toNat
    let n := vecLen x o
    let rs := (List.range n).map (fun i =>
      gateElem form (BitVec.ofNat 32 (as.getD i 0)) (lams.getD i 0) (bs.getD i 0) (vs.getD i 0) (hs.getD i 0))
    doGate s c slot o = vecResult s c (coreAdd .fuEvals ((form + 2) * n) z) o slot 4 .fp32 (rs.map (fun r => r.1.toNat))
      (ceilDiv ((form + 2) * n) 64) 0 (completion false ((rs.map Prod.snd).sum) 0 false) := by
  unfold doGate
  simp only [hx]
  refine (bind_of (vecCheck_ok hv)).trans ?_
  refine (bind_of (need_of ?_)).trans ?_
  · rcases hform with hform | hform
    · simp [hp, hform]
    · simp [hp, BitVec.eq_of_toNat_eq (y := 0#32) hform]
  refine (if_neg (by omega)).trans ?_
  refine (bind_of hf).trans ?_
  refine (bind_of hl).trans ?_
  refine (bind_of hb).trans ?_
  refine (if_neg (by simp [hp])).trans ?_
  refine (bind_of hvs).trans ?_
  exact bind_of hhs

theorem doGate_cell_of (hp : o.param1 = 1) (hc : z.carryRun = none) :
    let form := o.subOp.toNat
    let n := vecLen x o
    let ds := (List.range n).map (fun i => toDecay (gateDecay form (BitVec.ofNat 32 (as.getD i 0)) (lams.getD i 0)))
    let us := bs.map toState
    doGate s c slot o = .ok (setCore s c
        (coreAdd .vecBusyCycles (ceilDiv ((form + 1) * n) 64) (coreAdd .fuEvals ((form + 1) * n)
          { z with carryA := z.carryA ++ ds.map Prod.fst, carryU := z.carryU ++ us.map Prod.fst })),
      completion false ((ds.map Prod.snd).sum + (us.map Prod.snd).sum) 0 false) := by
  unfold doGate
  simp only [hx]
  refine (bind_of (vecCheck_ok hv)).trans ?_
  refine (bind_of (need_of ?_)).trans ?_
  · rcases hform with hform | hform
    · simp [hp, hform]
    · simp [hp, BitVec.eq_of_toNat_eq (y := 0#32) hform]
  refine (if_neg (by omega)).trans ?_
  refine (bind_of hf).trans ?_
  refine (bind_of hl).trans ?_
  refine (bind_of hb).trans ?_
  refine (if_pos (by simp [hp])).trans ?_
  dsimp only
  rw [carryAdvance_idle]
  exact hc

end

theorem doHadamard_of (hv : vecLegal x o 1 0 = true)
    (hk : o.param0.toNat = 32 ∨ o.param0.toNat = 64 ∨ o.param0.toNat = 128 ∨ o.param0.toNat = 256)
    (hdiv : vecLen x o % o.param0.toNat = 0) (hp : o.param1 = 0) (hn : 1 ≤ vecLen x o)
    (hf : vecFirst s x o slot 4 (vecLen x o) = .ok (as, z)) :
    let k := o.param0.toNat
    let n := vecLen x o
    doHadamard s c slot o = vecResult s c (coreAdd .hadamardBlocks (n / k) z) o slot 4 .fp32
      ((mapBlocks (hadBlock (Nat.log2 k)) k (n / k) (as.map (BitVec.ofNat 32))).map BitVec.toNat) (ceilDiv n 64) 0
      (completion false 0 0 false) := by
  unfold doHadamard
  simp only [hx]
  refine (bind_of (vecCheck_ok hv)).trans ?_
  refine (bind_of (vecZero_of hp)).trans ?_
  refine (bind_of (need_of (by simp [hk, hdiv]))).trans ?_
  refine (if_neg (by omega)).trans ?_
  exact bind_of hf

theorem doUpsample_of {prev : W32} (hv : vecLegal x o 1 0 = true) (hk : 2 ≤ o.param0.toNat ∧ o.param0.toNat ≤ 8)
    (hp : o.param1 = 0) (hn : 1 ≤ vecLen x o) (hf : vecFirst s x o slot 4 (vecLen x o) = .ok (as, z))
    (hprev : spadFp z (vecAddr o slot o.src1) 1 = .ok [prev]) :
    let k := o.param0.toNat
    let n := vecLen x o
    doUpsample s c slot o = vecResult s c z o slot 4 .fp32
      ((upsampleRow k prev (as.map (BitVec.ofNat 32))).map BitVec.toNat) (ceilDiv n 64 + ceilDiv (n * k) 64) 0
      (completion false 0 0 false) := by
  unfold doUpsample
  simp only [hx]
  refine (bind_of (vecCheck_ok hv)).trans ?_
  refine (bind_of (vecZero_of hp)).trans ?_
  refine (bind_of (need_of (by simp [hk]))).trans ?_
  refine (if_neg (by omega)).trans ?_
  refine (bind_of hf).trans ?_
  exact bind_of hprev

end

end Sys2Proof.Machine
end

section
/-!
PROOFS. The operators that a plan composes (spec/02): durations, the router over the ranking of R166, early exit, the silence gate.
-/
namespace Sys2Proof.Machine

open Sys2Proof

/-! ### Operators that a plan composes: durations (R25), the router (R26), early exit (R27) -/

/-- A duration that is not a NaN's is 1 to 255 frames, whatever the sign of an infinity. -/
theorem durationOf_finite {v : W32} (hn : fpIsNan v = false) (hi : fpIsInf v = false) :
    durationOf v = ((max 1 (min 255 (roundDy .det (fpDy v)))).toNat,
      if 1 ≤ roundDy .det (fpDy v) ∧ roundDy .det (fpDy v) ≤ 255 then 0 else 1) := by
  unfold durationOf satTo
  rw [if_neg (by simp [hn]), if_neg (by simp [hi])]
  generalize roundDy .det (fpDy v) = r
  dsimp only
  by_cases hlo : r < 1
  · rw [if_pos hlo, if_neg (by omega)]
    exact congrArg₂ Prod.mk (by omega) rfl
  · rw [if_neg hlo]
    by_cases hhi : 255 < r
    · rw [if_pos hhi, if_neg (by omega)]
      exact congrArg₂ Prod.mk (by omega) rfl
    · rw [if_neg hhi, if_pos (by omega)]
      exact congrArg₂ Prod.mk (by omega) rfl

theorem durationOf_nan {v : W32} (hn : fpIsNan v = true) : durationOf v = (1, 1) := by
  unfold durationOf
  rw [if_pos hn]

theorem durationOf_range (v : W32) : 1 ≤ (durationOf v).1 ∧ (durationOf v).1 ≤ 255 := by
  cases hn : fpIsNan v with
  | true => rw [durationOf_nan hn]; decide
  | false =>
    cases hi : fpIsInf v with
    | true =>
      unfold durationOf
      rw [if_neg (by simp [hn]), if_pos hi]
      dsimp only
      split <;> decide
    | false => rw [durationOf_finite hn hi]; dsimp only; omega

/-- What the ranking of R166 decides: the larger value, or the lower code of equal values. -/
theorem ranksBefore_iff (a b : Nat × W32) :
    ranksBefore a b = true ↔ fpKey b.2 < fpKey a.2 ∨ fpKey a.2 = fpKey b.2 ∧ a.1 < b.1 := by
  simp [ranksBefore]

theorem rankFirst_mem {l : List (Nat × W32)} {x : Nat × W32} (h : rankFirst l = some x) : x ∈ l := by
  induction l generalizing x with
  | nil => cases h
  | cons a rest ih =>
    unfold rankFirst at h
    cases hr : rankFirst rest with
    | none => rw [hr] at h; cases h; exact List.mem_cons_self
    | some y =>
      rw [hr] at h
      dsimp only at h
      split at h
      · cases h; exact List.mem_cons_self
      · cases h; exact List.mem_cons_of_mem _ (ih hr)

theorem rankFirst_none {l : List (Nat × W32)} (h : rankFirst l = none) : l = [] := by
  cases l with
  | nil => rfl
  | cons a rest =>
    unfold rankFirst at h
    cases hr : rankFirst rest with
    | none => rw [hr] at h; cases h
    | some y => rw [hr] at h; dsimp only at h; split at h <;> cases h

/-- Nothing of a list ranks before the code that ranks first. -/
theorem rankFirst_best {l : List (Nat × W32)} {x : Nat × W32} (h : rankFirst l = some x) :
    ∀ y ∈ l, ¬ ranksBefore y x = true := by
  induction l generalizing x with
  | nil => cases h
  | cons a rest ih =>
    unfold rankFirst at h
    cases hr : rankFirst rest with
    | none =>
      rw [hr] at h; cases h
      rw [rankFirst_none hr]
      intro y hy
      rw [List.mem_singleton.mp hy, ranksBefore_iff]
      omega
    | some b =>
      rw [hr] at h
      dsimp only at h
      by_cases hab : ranksBefore a b = true
      · rw [if_pos hab] at h
        cases h
        rw [ranksBefore_iff] at hab
        intro y hy
        rcases List.mem_cons.mp hy with rfl | hy
        · rw [ranksBefore_iff]; omega
        · have := ih hr y hy
          rw [ranksBefore_iff] at this ⊢
          omega
      · rw [if_neg hab] at h
        cases h
        intro y hy
        rcases List.mem_cons.mp hy with rfl | hy
        · exact hab
        · exact ih hr y hy

theorem mem_rankTop {k e : Nat} {l : List (Nat × W32)} (h : e ∈ rankTop k l) : ∃ v, (e, v) ∈ l := by
  induction k generalizing l with
  | zero => cases h
  | succ k ih =>
    unfold rankTop at h
    cases hr : rankFirst l with
    | none => rw [hr] at h; cases h
    | some x =>
      rw [hr] at h
      rcases List.mem_cons.mp h with rfl | h
      · exact ⟨x.2, rankFirst_mem hr⟩
      · obtain ⟨v, hv⟩ := ih h
        exact ⟨v, List.mem_of_mem_filter hv⟩

theorem rankTop_nodup (k : Nat) (l : List (Nat × W32)) : (rankTop k l).Nodup := by
  induction k generalizing l with
  | zero => exact List.nodup_nil
  | succ k ih =>
    unfold rankTop
    cases hr : rankFirst l with
    | none => exact List.nodup_nil
    | some x =>
      refine List.nodup_cons.mpr ⟨fun h => ?_, ih _⟩
      obtain ⟨v, hv⟩ := mem_rankTop h
      simpa using (List.mem_filter.mp hv).2

/-- Of a list of distinct codes, taking one away leaves one fewer. -/
theorem length_filter_code {l : List (Nat × W32)} {x : Nat × W32} (hd : (l.map Prod.fst).Nodup) (hx : x ∈ l) :
    (l.filter (fun y => y.1 ≠ x.1)).length + 1 = l.length := by
  have hmem : x.1 ∈ l.map Prod.fst := List.mem_map_of_mem hx
  have h1 := List.length_erase_of_mem hmem
  have h2 := List.length_pos_of_mem hmem
  rw [hd.erase_eq_filter, List.filter_map, List.length_map, List.length_map] at h1
  rw [List.length_map] at h2
  have h3 : l.filter (fun y => y.1 ≠ x.1) = l.filter ((fun c => c != x.1) ∘ Prod.fst) :=
    List.filter_congr (by simp [bne, beq_eq_decide])
  rw [h3, h1]
  omega

theorem length_rankTop (k : Nat) {l : List (Nat × W32)} (hd : (l.map Prod.fst).Nodup) :
    (rankTop k l).length = min k l.length := by
  induction k generalizing l with
  | zero => simp [rankTop]
  | succ k ih =>
    unfold rankTop
    cases hr : rankFirst l with
    | none => rw [rankFirst_none hr]; simp
    | some x =>
      have hl := length_filter_code hd (rankFirst_mem hr)
      have hs : ((l.filter (fun y => y.1 ≠ x.1)).map Prod.fst).Nodup := hd.sublist (List.filter_sublist.map _)
      dsimp only
      rw [List.length_cons, ih hs]
      omega

/-- No code left out ranks before a code of the top ranks. -/
theorem rankTop_best {k : Nat} {l : List (Nat × W32)} (hd : (l.map Prod.fst).Nodup) {a b : Nat × W32} (ha : a ∈ l) (hb : b ∈ l)
    (hin : a.1 ∈ rankTop k l) (hout : b.1 ∉ rankTop k l) : ¬ ranksBefore b a = true := by
  induction k generalizing l with
  | zero => cases hin
  | succ k ih =>
    unfold rankTop at hin hout
    cases hr : rankFirst l with
    | none => rw [hr] at hin; cases hin
    | some x =>
      rw [hr] at hin hout
      dsimp only at hin hout
      rw [List.mem_cons, not_or] at hout
      by_cases hax : a.1 = x.1
      · have : a = x := List.inj_on_of_nodup_map hd ha (rankFirst_mem hr) hax
        rw [this]
        exact rankFirst_best hr b hb
      · refine ih (hd.sublist (List.filter_sublist.map _)) ?_ ?_ ((List.mem_cons.mp hin).resolve_left hax) hout.2
        · exact List.mem_filter.mpr ⟨ha, by simpa using hax⟩
        · exact List.mem_filter.mpr ⟨hb, by simpa using hout.1⟩

/-- Values with their positions as codes. -/
theorem mem_indexed {l : List W32} {e : Nat} {v : W32} : (e, v) ∈ l.mapIdx (fun i v => (i, v)) ↔ l[e]? = some v := by
  rw [List.mem_mapIdx, List.getElem?_eq_some_iff]
  constructor
  · rintro ⟨i, hi, h⟩
    cases h
    exact ⟨hi, rfl⟩
  · rintro ⟨hi, rfl⟩
    exact ⟨e, hi, rfl⟩

theorem indexed_nodup (l : List W32) : ((l.mapIdx (fun i v => (i, v))).map Prod.fst).Nodup := by
  have : (l.mapIdx (fun i v => (i, v))).map Prod.fst = List.range l.length :=
    List.ext_getElem (by simp) (by simp)
  rw [this]
  exact List.nodup_range

theorem fpKey_of_less {a b : W32} (h : fcmp 2 a b = true) : fpKey a < fpKey b := by
  unfold fcmp at h
  split at h
  · simp at h
  · simpa using h

theorem fpKey_of_equal {a b : W32} (h : fcmp 0 a b = true) : fpKey a = fpKey b := by
  unfold fcmp at h
  split at h
  · simp at h
  · simpa using h

/-- The codes of the top ranks of a list of values: as many as are asked for, each once, and a code left out has no larger
value, and none as large before it (R166). -/
theorem rankTop_indexed (m : Nat) (l : List W32) :
    let es := rankTop m (l.mapIdx (fun i v => (i, v)))
    es.length = min m l.length ∧ es.Nodup ∧ (∀ e, e ∈ es → e < l.length) ∧
      ∀ e d, e ∈ es → d < l.length → d ∉ es →
        fcmp 2 (l.getD e 0) (l.getD d 0) = false ∧ (fcmp 0 (l.getD e 0) (l.getD d 0) = true → e < d) := by
  have hlt : ∀ e, e ∈ rankTop m (l.mapIdx (fun i v => (i, v))) → e < l.length := by
    intro e he
    obtain ⟨v, hv⟩ := mem_rankTop he
    exact (List.getElem?_eq_some_iff.mp (mem_indexed.mp hv)).1
  refine ⟨?_, rankTop_nodup _ _, hlt, ?_⟩
  · rw [length_rankTop m (indexed_nodup l), List.length_mapIdx]
  · intro e d he hd hout
    have hmem : ∀ i, i < l.length → (i, l.getD i 0) ∈ l.mapIdx (fun i v => (i, v)) := by
      intro i hi
      rw [mem_indexed]
      simp [hi]
    have hbest := rankTop_best (indexed_nodup l) (hmem e (hlt e he)) (hmem d hd) he hout
    rw [ranksBefore_iff] at hbest
    constructor
    · by_contra hc
      exact hbest (.inl (fpKey_of_less (by simpa using hc)))
    · intro heq
      have hne : e ≠ d := fun h => hout (h ▸ he)
      have hkey := fpKey_of_equal heq
      dsimp only at hbest
      omega

/-- Above an exit layer each layer only updates its state, from the exit layer's output (R27). -/
theorem generatorFrame_exited {σ α : Type} (recur : Nat → σ → α → σ × α) (ff : Nat → α → α) (heads : Nat → α → List W32)
    (ls : List Layer) (i e : Nat) (q : σ) (x : α) :
    generatorFrame recur ff heads ls i (some e) q x =
      ((List.range ls.length).foldl (fun q j => (recur (i + j) q x).1) q, x, some e) := by
  induction ls generalizing i q with
  | nil => rfl
  | cons l rest ih =>
    unfold generatorFrame
    rw [ih, List.length_cons, List.range_succ_eq_map, List.foldl_cons, List.foldl_map]
    simp only [Nat.add_zero, Nat.succ_eq_add_one, Nat.add_assoc, Nat.add_comm 1]

theorem silentChunk_disabled {d : ModelDesc} (v : List W32) (h : fpIsZero d.silence = true) : silentChunk d v = false := by
  unfold silentChunk
  rw [h]
  rfl

end Sys2Proof.Machine
end

section
/-!
PROOFS. The vector units run (O41).
-/
namespace Sys2Proof.Machine

open Sys2Proof

/-! ### Vector units -/

/-- What comes after a command in its core's stream is the same when the command runs as when it issued. -/
theorem rescaleChained_run {s : State} {c : Nat} {h : CmdHdr} {op : CoreOp} {y : Core} (hg : goes s c h op = true)
    (hy : SameSeq (atIssue s c h op) y) :
    rescaleChained { y with units := unitsAt (coreOf s c) (opUnit op) (inUnit s c h op) } = rescaleChained (atIssue s c h op) := by
  obtain ⟨-, -, -, -, hall, -⟩ := goes_parts hg
  obtain ⟨-, -, hwin, hprog, hidx⟩ := hy
  have hrun : (unitQ { y with units := unitsAt (coreOf s c) (opUnit op) (inUnit s c h op) } 2).queue = [] := unitsAt_queue _ _ _ _ hall
  have hiss : (unitQ (atIssue s c h op) 2).queue = [] := unitQ_queue hall 2
  unfold rescaleChained nextVec opsAhead
  rw [hrun, hiss, hwin, hprog, hidx]

/-- Settles O41: the vector units by what each command computes (`doQuant_of` to `doUpsample_of`), the composed operators by the
ranking of R166 and the recursion over the layers. -/
theorem vectorUnitsRun : Obligations.VectorUnitsRun := by
  unfold Obligations.VectorUnitsRun
  intro s c h o as z n k Legal First Ends fine
  have hfirst : ∀ op, First op → vecFirst (atUnit s c h op) { atIssue s c h op with
      units := unitsAt (coreOf s c) (opUnit op) (inUnit s c h op) } o 0 4 n =
        .ok (as, { z with units := unitsAt (coreOf s c) (opUnit op) (inUnit s c h op) }) ∧ SameSeq (atIssue s c h op) z :=
    fun op hf => ⟨(vecFirst_units (atUnit s c h op) rfl _ hf.2).1, vecFirst_sameSeq hf.2⟩
  refine ⟨?quant, ?rescale, ?gate, ?hadamard, ?upsample, ?duration, ?router, ?exit, ?silence⟩
  case quant =>
    rintro mds y ⟨hg, hv⟩ hk1 hk2 hdiv hp hf hm toks scales hs hl
    obtain ⟨hfu, hz⟩ := hfirst _ hf
    obtain ⟨hmu, hy⟩ := roundModes_run (unitsAt (coreOf s c) 2 (inUnit s c h (.quant o))) hm
    refine issues_lane rfl rfl hg (hz.trans hy) hl fun t e hr => ?_
    have hdo := (doQuant_of (coreOf_atUnit hg) hv hk1 hk2 hdiv hp hf.1 hfu hmu hs).trans hr
    simp only [runOp, inUnit, hdo]
  case rescale =>
    rintro table zs mds y ⟨hg, hv⟩ hp hr hdiv hfl hn x code stoch hs ha ht hrsv hz hm rs vals bs out hin
    obtain ⟨hmu, hy⟩ := roundModes_run (unitsAt (coreOf s c) 2 (inUnit s c h (.rescale o))) hm
    have hch := rescaleChained_run (y := out) hg hy
    have htab : tryMap (tableEntry { x with units := unitsAt (coreOf s c) 2 (inUnit s c h (.rescale o)) } k)
        (List.range o.src2.toNat) = .ok table := by
      refine Eq.trans (congrArg (tryMap · _) (funext fun i => ?_)) ht
      change Except.map rescaleEntry (spadRead x ((k + 16 * i : Nat) : Int) 16) = _
      cases spadRead x ((k + 16 * i : Nat) : Int) 16 <;> rfl
    have hdo := doRescale_of (coreOf_atUnit hg) hv hp hr hdiv hfl hn hs ha htab hrsv hz hmu _ hch hin
    refine issues_vec rfl rfl hg ?_ ?_
    · have hout : SameSeq x (if rescaleChained x = true then out else wrote out (vecAddr o 0 o.dst) bs) := by
        split <;> exact hy
      exact hout
    · simp only [runOp, inUnit, hdo]
      cases rescaleChained x <;> rfl
  case gate =>
    rintro lams bs vs hs ⟨hg, hv⟩ hform hf form hl hb g lam
    obtain ⟨hfu, hz⟩ := hfirst _ hf
    constructor
    · intro hp hvs hhs rs hlands
      refine issues_lane rfl rfl hg hz hlands fun t e hr => ?_
      have hdo := (doGate_output_of (coreOf_atUnit hg) hv hform hf.1 hfu hl hb hp hvs hhs).trans hr
      simp only [runOp, inUnit, hdo]
    · intro hp hc ds us
      refine issues_vec rfl rfl hg hz ?_
      have hdo := doGate_cell_of (coreOf_atUnit hg) hv hform hf.1 hfu hl hb hp hc
      simp only [runOp, inUnit, hdo]
      rfl
  case hadamard =>
    rintro ⟨hg, hv⟩ hk hdiv hp hf hl
    obtain ⟨hfu, hz⟩ := hfirst _ hf
    refine issues_lane rfl rfl hg hz hl fun t e hr => ?_
    have hdo := (doHadamard_of (coreOf_atUnit hg) hv hk hdiv hp hf.1 hfu).trans hr
    simp only [runOp, inUnit, hdo]
  case upsample =>
    rintro prev ⟨hg, hv⟩ hk1 hk2 hp hf hprev hl
    obtain ⟨hfu, hz⟩ := hfirst _ hf
    refine issues_lane rfl rfl hg hz hl fun t e hr => ?_
    have hdo := (doUpsample_of (coreOf_atUnit hg) hv ⟨hk1, hk2⟩ hp hf.1 hfu hprev).trans hr
    simp only [runOp, inUnit, hdo]
  case duration =>
    exact fun v => ⟨(durationOf_range v).1, (durationOf_range v).2, durationOf_nan, durationOf_finite⟩
  case router =>
    intro m logits l r
    obtain ⟨hlen, hnodup, hlt, hbest⟩ := rankTop_indexed m l
    exact ⟨hlen, hnodup, hlt, hbest, rfl, rfl⟩
  case exit => exact fun _ _ recur ff heads ls i e q x => generatorFrame_exited recur ff heads ls i e q x
  case silence => exact fun d v y => ⟨silentChunk_disabled v, rfl⟩

end Sys2Proof.Machine
end

section
/-!
PROOFS. Rules of the state's tables: what an entry is after a change of one or of several, for sessions, yealms, bays and cores, and
what a sorted table lists.
-/
namespace Sys2Proof.Machine

open Sys2Proof

/-! ### One entry -/

theorem tfind_tmod {α : Type} (t : Tab α) (k : Nat) (f : α → α) (j : Nat) :
    tfind (tmod t k f) j = if k = j then (tfind t j).map f else tfind t j := by
  unfold tmod
  by_cases h : k = j
  · subst h
    rw [if_pos rfl]
    cases hk : tfind t k with
    | none => rw [hk]; rfl
    | some v => simp
  · rw [if_neg h]
    cases tfind t k with
    | none => rfl
    | some v => exact tfind_tins_other t _ h

theorem sessOf_modSess (s : State) (i : Nat) (f : Session → Session) (j : Nat) :
    sessOf (modSess s i f) j = if i = j then (sessOf s j).map f else sessOf s j := tfind_tmod _ _ _ _

theorem yealmOf_modYealm (s : State) (i : Nat) (f : Yealm → Yealm) (j : Nat) :
    yealmOf (modYealm s i f) j = if i = j then (yealmOf s j).map f else yealmOf s j := tfind_tmod _ _ _ _

theorem bayOf_modBay (s : State) (i : Nat) (f : Bay → Bay) (j : Nat) :
    bayOf (modBay s i f) j = if i = j then (bayOf s j).map f else bayOf s j := tfind_tmod _ _ _ _

theorem coreOf_modCore (s : State) (c : Nat) (f : Core → Core) (h : f (coreOf s c) ≠ coreD) :
    coreOf (modCore s c f) c = f (coreOf s c) := coreOf_setCore s c _ h

theorem coreOf_modCore_other (s : State) {c e : Nat} (f : Core → Core) (h : c ≠ e) : coreOf (modCore s c f) e = coreOf s e :=
  coreOf_setCore_other s _ h

/-! ### Several entries -/

/-- Sessions changed one after the other, each once. -/
theorem sessOf_foldl_modSess {α : Type} (key : α → Nat) (f : α → Session → Session) (l : List α) (hd : (l.map key).Nodup) (s : State) :
    (∀ a, a ∈ l → sessOf (l.foldl (fun s a => modSess s (key a) (f a)) s) (key a) = (sessOf s (key a)).map (f a)) ∧
      ∀ j, j ∉ l.map key → sessOf (l.foldl (fun s a => modSess s (key a) (f a)) s) j = sessOf s j := by
  induction l generalizing s with
  | nil => exact ⟨fun _ h => absurd h List.not_mem_nil, fun _ _ => rfl⟩
  | cons b rest ih =>
    rw [List.map_cons, List.nodup_cons] at hd
    obtain ⟨hsame, hother⟩ := ih hd.2 (modSess s (key b) (f b))
    refine ⟨fun a ha => ?_, fun j hj => ?_⟩
    · rcases List.mem_cons.mp ha with rfl | ha
      · exact (hother _ hd.1).trans (by rw [sessOf_modSess, if_pos rfl])
      · have hne : key b ≠ key a := fun e => hd.1 (e ▸ List.mem_map_of_mem ha)
        exact (hsame a ha).trans (by rw [sessOf_modSess, if_neg hne])
    · rw [List.map_cons, List.mem_cons, not_or] at hj
      exact (hother j hj.2).trans (by rw [sessOf_modSess, if_neg (Ne.symm hj.1)])

theorem foldl_modSess_rest {α : Type} (key : α → Nat) (f : α → Session → Session) (l : List α) (s : State) :
    l.foldl (fun s a => modSess s (key a) (f a)) s =
      { s with sessions := (l.foldl (fun s a => modSess s (key a) (f a)) s).sessions } := by
  have h := foldl_keep (fun s : State => { s with sessions := [] }) (fun s a => modSess s (key a) (f a)) (fun _ _ => rfl) l s
  exact congrArg (fun t : State => { t with sessions := (l.foldl (fun s a => modSess s (key a) (f a)) s).sessions }) h

theorem foldl_modCore_rest {α : Type} (key : α → Nat) (f : Nat → α → Core → Core) (l : List α) (s : State) :
    l.foldl (fun s a => modCore s (key a) (f s.fresh a)) s =
      { s with cores := (l.foldl (fun s a => modCore s (key a) (f s.fresh a)) s).cores } := by
  have h := foldl_keep (fun s : State => { s with cores := [] }) (fun s a => modCore s (key a) (f s.fresh a)) (fun _ _ => rfl) l s
  exact congrArg (fun t : State => { t with cores := (l.foldl (fun s a => modCore s (key a) (f s.fresh a)) s).cores }) h

/-- Cores changed one after the other, each once, none of them into a core at reset. -/
theorem coreOf_foldl_modCore {α : Type} (key : α → Nat) (f : Nat → α → Core → Core) (hne : ∀ n a x, f n a x ≠ coreD) (l : List α)
    (hd : (l.map key).Nodup) (s : State) :
    (∀ a, a ∈ l → coreOf (l.foldl (fun s a => modCore s (key a) (f s.fresh a)) s) (key a) = f s.fresh a (coreOf s (key a))) ∧
      ∀ c, c ∉ l.map key → coreOf (l.foldl (fun s a => modCore s (key a) (f s.fresh a)) s) c = coreOf s c := by
  induction l generalizing s with
  | nil => exact ⟨fun _ h => absurd h List.not_mem_nil, fun _ _ => rfl⟩
  | cons b rest ih =>
    rw [List.map_cons, List.nodup_cons] at hd
    obtain ⟨hsame, hother⟩ := ih hd.2 (modCore s (key b) (f s.fresh b))
    refine ⟨fun a ha => ?_, fun c hc => ?_⟩
    · rcases List.mem_cons.mp ha with rfl | ha
      · exact (hother _ hd.1).trans (coreOf_modCore _ _ _ (hne _ _ _))
      · have hk : key b ≠ key a := fun e => hd.1 (e ▸ List.mem_map_of_mem ha)
        exact (hsame a ha).trans (congrArg (f s.fresh a) (coreOf_modCore_other _ _ hk))
    · rw [List.map_cons, List.mem_cons, not_or] at hc
      exact (hother c hc.2).trans (coreOf_modCore_other _ _ (Ne.symm hc.1))

/-! ### Sorted tables -/

theorem mem_of_tfind {α : Type} {t : Tab α} {k : Nat} {v : α} (h : tfind t k = some v) : (k, v) ∈ t := by
  induction t with
  | nil => cases h
  | cons e rest ih =>
    obtain ⟨j, w⟩ := e
    rw [tfind_cons] at h
    split at h
    · rename_i hj; cases h; subst hj; exact List.mem_cons_self
    · exact List.mem_cons_of_mem _ (ih h)

/-- Every key of a sorted table lies above its bound. -/
theorem tsorted_above {α : Type} {t : Tab α} {lo : Nat} (h : tsorted (some lo) t = true) : ∀ e, e ∈ t → lo < e.1 := by
  induction t generalizing lo with
  | nil => exact fun _ h => absurd h List.not_mem_nil
  | cons a rest ih =>
    obtain ⟨j, w⟩ := a
    simp only [tsorted, Bool.and_eq_true, decide_eq_true_eq] at h
    intro e he
    rcases List.mem_cons.mp he with rfl | he
    · exact h.1
    · exact h.1.trans (ih h.2 e he)

theorem tfind_of_mem {α : Type} {t : Tab α} {lo : Option Nat} {k : Nat} {v : α} (hs : tsorted lo t = true) (h : (k, v) ∈ t) :
    tfind t k = some v := by
  induction t generalizing lo with
  | nil => cases h
  | cons a rest ih =>
    obtain ⟨j, w⟩ := a
    simp only [tsorted, Bool.and_eq_true] at hs
    rw [tfind_cons]
    rcases List.mem_cons.mp h with h | h
    · cases h; exact if_pos rfl
    · rw [if_neg (Nat.ne_of_lt (tsorted_above hs.2 _ h))]
      exact ih hs.2 h

theorem tsorted_nodup {α : Type} {t : Tab α} {lo : Option Nat} (hs : tsorted lo t = true) : (t.map Prod.fst).Nodup := by
  induction t generalizing lo with
  | nil => exact List.nodup_nil
  | cons a rest ih =>
    obtain ⟨j, w⟩ := a
    simp only [tsorted, Bool.and_eq_true] at hs
    refine List.nodup_cons.mpr ⟨fun hj => ?_, ih hs.2⟩
    obtain ⟨e, he, heq⟩ := List.mem_map.mp hj
    exact absurd (tsorted_above hs.2 e he) (by rw [heq]; exact Nat.lt_irrefl _)

/-! ### Time -/

/-- Time goes on: frames that an honoured pause held back may leave, and nothing else changes but the clock. -/
theorem timeTo_rest (s : State) (n : Nat) :
    timeTo s n = { s with now := n, ports := (timeTo s n).ports, wire := (timeTo s n).wire } := by
  have hport : ∀ p s, { releasePort s p with ports := [], wire := [] } = { s with ports := [], wire := [] } := by
    intro p s
    unfold releasePort
    dsimp only
    split
    · rfl
    · exact foldl_keep (fun s : State => { s with ports := [], wire := [] }) (fun s e => sendFrame s p e) (fun _ _ => rfl) _ _
  have h : { timeTo s n with ports := [], wire := [] } = { s with now := n, ports := [], wire := [] } :=
    iter_keep (fun s : State => { s with ports := [], wire := [] }) (fun p s => releasePort s p) hport 8 { s with now := n }
  generalize timeTo s n = t at h ⊢
  exact congrArg (fun z : State => { z with ports := t.ports, wire := t.wire }) h

end Sys2Proof.Machine
end

section
/-!
PROOFS. The start of a step (R75, R252, R254, R279, R360): what a core holds once it is loaded, which sessions take part, and what
`beginStep` does to the whole state.
-/
namespace Sys2Proof.Machine

open Sys2Proof

/-! ### Cores -/

/-- A core that has stopped holds no command. -/
theorem stopCore_unit (x : Core) (u : Nat) : (unitQ (stopCore x) u).queue = [] ∧ (unitQ (stopCore x) u).busy = none := by
  have hall : (stopCore x).units.all (fun e => decide (e.2.queue = [] ∧ e.2.busy = none)) = true := by
    rw [List.all_eq_true]
    intro e he
    obtain ⟨a, -, ha⟩ := List.mem_filterMap.mp he
    dsimp only at ha
    split at ha
    · cases ha
    · cases ha; rfl
  exact of_decide_eq_true (tget_all unitQD _ u (fun q => decide (q.queue = [] ∧ q.busy = none)) hall rfl)

theorem stopCore_stopped (x : Core) : Stopped x (stopCore x) := ⟨rfl, stopCore_unit x, rfl⟩

/-- Writes of accumulators from `lo` on leave the rest of the core, and the accumulators outside them. -/
theorem foldl_accPut (lo : Nat) (v : Nat → Acc) (n : Nat) (x : Core) :
    let y := (List.range n).foldl (fun x j => accPut x (lo + j) (v j)) x
    y = { x with acc := y.acc } ∧ ∀ i, i < lo ∨ lo + n ≤ i → accGet y i = accGet x i := by
  induction n with
  | zero => exact ⟨rfl, fun _ _ => rfl⟩
  | succ n ih =>
    obtain ⟨hrest, hacc⟩ := ih
    rw [List.range_succ, List.foldl_append, List.foldl_cons, List.foldl_nil]
    refine ⟨?_, fun i hi => ?_⟩
    · rw [hrest]
      rfl
    · exact (tget_tput_other _ _ _ (by omega)).trans (hacc i (by omega))

/-- A change of S_res touches the accumulators that change region alone (R75). -/
theorem regionChange_keeps (fresh n : Nat) (x : Core) :
    regionChange fresh n x = { x with acc := (regionChange fresh n x).acc } ∧
      ∀ i, i < 32768 - max x.sRes n ∨ 32768 - max x.sRes n + (max x.sRes n - min x.sRes n) ≤ i →
        accGet (regionChange fresh n x) i = accGet x i := by
  obtain ⟨hrest, hacc⟩ := foldl_accPut (Config.accCount - min Config.accCount (max x.sRes n))
    (fun j => Config.freeAcc fresh (Config.accCount - min Config.accCount (max x.sRes n) + j))
    (min Config.accCount (max x.sRes n) - min x.sRes n) x
  refine ⟨hrest, fun i hi => hacc i ?_⟩
  have hc : Config.accCount = 32768 := rfl
  omega

/-- A loaded core stands at t0 of the step (R75, R254). -/
theorem loadCore_loaded (fresh : Nat) (k : CoreCtx) (p : Plan) (v : Variant) (c : Cert) (x : Core) :
    StepLoaded k p v c x (loadCore fresh k p v c x) := by
  obtain ⟨hrest, hacc⟩ := regionChange_keeps fresh v.sRes (stopCore x)
  refine ⟨fun u => ?_, hacc, ?_⟩
  · have hq : unitQ (loadCore fresh k p v c x) u = unitQ (stopCore x) u := by
      unfold loadCore
      dsimp only
      rw [hrest]
      rfl
    rw [hq]
    exact stopCore_unit x u
  · unfold loadCore
    dsimp only
    rw [hrest]
    rfl

theorem loadCore_ne (fresh : Nat) (k : CoreCtx) (p : Plan) (v : Variant) (c : Cert) (x : Core) : loadCore fresh k p v c x ≠ coreD :=
  core_ne rfl

/-- Positions of a mask's bits come each once. -/
theorem maskBits_nodup (n mask : Nat) : (maskBits n mask).Nodup := List.nodup_range.filter _

theorem groupCores_nodup (s : State) (i : Nat) : (groupCores s i 0).Nodup := by
  unfold groupCores
  split
  · exact List.nodup_nil
  · exact ((maskBits_nodup 64 _).filter _).sublist (List.take_sublist _ _)

/-! ### Sessions that take part -/

/-- What a slot of a yealm finds is one of the device's sessions, attached there. -/
theorem slotSession_spec {s : State} {y k : Nat} {e : Nat × Session} (h : slotSession s y k = some e) :
    e ∈ s.sessions ∧ (e.2.attach.map (fun a => a.slot)) = some k := by
  unfold slotSession at h
  have hmem := List.mem_of_find?_eq_some h
  have hp := List.find?_some h
  refine ⟨List.mem_of_mem_filter hmem, ?_⟩
  split at hp
  · rename_i a ha
    simp only [Bool.and_eq_true, decide_eq_true_eq] at hp
    rw [ha, ← hp.1.1]
    rfl
  · cases hp

theorem mem_partners {s : State} {y mask : Nat} {e : Nat × Nat × Session} (h : e ∈ partners s y mask) :
    slotSession s y e.1 = some e.2 := by
  obtain ⟨k, -, hk⟩ := List.mem_filterMap.mp h
  obtain ⟨a, ha, rfl⟩ := Option.map_eq_some_iff.mp hk
  exact ha

theorem sessOf_partner {s : State} {y mask : Nat} {e : Nat × Nat × Session} (hs : tsorted none s.sessions = true)
    (h : e ∈ partners s y mask) : sessOf s e.2.1 = some e.2.2 :=
  tfind_of_mem hs (slotSession_spec (mem_partners h)).1

/-- A session takes part in one slot. -/
theorem partners_nodup {s : State} {y mask : Nat} (hs : tsorted none s.sessions = true) :
    ((partners s y mask).map (fun e => e.2.1)).Nodup := by
  have hslots : (partners s y mask).Nodup := by
    refine (maskBits_nodup 32 mask).filterMap ?_
    intro a b e ha hb
    obtain ⟨x, -, rfl⟩ := Option.map_eq_some_iff.mp ha
    obtain ⟨z, -, hz⟩ := Option.map_eq_some_iff.mp hb
    exact (congrArg Prod.fst hz).symm
  refine List.Nodup.map_on ?_ hslots
  intro e he f hf heq
  have h1 := sessOf_partner hs he
  have h2 := sessOf_partner hs hf
  rw [heq, h2] at h1
  have h3 := (slotSession_spec (mem_partners he)).2
  have h4 := (slotSession_spec (mem_partners hf)).2
  have hx : f.2.2 = e.2.2 := Option.some.inj h1
  have hk : e.1 = f.1 := by
    rw [hx, h3] at h4
    exact Option.some.inj h4
  exact Prod.ext hk (Prod.ext heq hx.symm)

/-! ### The step -/

/-- Sessions of some slots as a step's start leaves them (R251, R360). -/
def sessionsStarted (s : State) (y : Yealm) (slots : List (Nat × Nat × Session)) : State :=
  slots.foldl (fun s e => modSess s e.2.1 (startSession (bit y.rcd.active e.1))) s

/-- Working state of the taking-part slots at t0 (R252). -/
def startWork (d : Build) (y : Yealm) (slots : List (Nat × Nat × Session)) : Tab SlotWork :=
  slots.map (fun e =>
    (e.1, startSlot d e.2.1 (startSession (bit y.rcd.active e.1) e.2.2) (bit y.rcd.active e.1) (tfind y.work e.1)))

/-- A step's record is read, its sessions start, and its yealm has their working state (Table 7.7). -/
def stepOpened (s : State) (gid : Nat) (p : Step) (y : Yealm) (d : Build) : State :=
  modYealm (sessionsStarted (areaRead s (.record p.yealm) 0 64) y (partners s p.yealm (startMask s p))) p.yealm (fun z => { z with
    work := startWork d y (partners s p.yealm (startMask s p))
    beStep := if gid = 0 ∧ z.beStep.isNone then none else some { p with mask := startMask s p, begun := true } })

/-- The cores of a work group, in its order, loaded with the plan (R254). -/
def coresLoaded (s : State) (i gid yealm slots : Nat) (cores : List Nat) (pl : Plan) (vr : Variant) (c : Cert) : State :=
  (cores.mapIdx (fun n core => (n, core))).foldl (fun s e =>
    modCore s e.2 (loadCore s.fresh { bay := i, group := gid, idx := e.1, yealm := yealm, nSlots := slots } pl vr c)) s

theorem sessionsStarted_rest (s : State) (y : Yealm) (slots : List (Nat × Nat × Session)) :
    sessionsStarted s y slots = { s with sessions := (sessionsStarted s y slots).sessions } :=
  foldl_modSess_rest (fun e : Nat × Nat × Session => e.2.1) (fun e => startSession (bit y.rcd.active e.1)) slots s

theorem stepOpened_rest (s : State) (gid : Nat) (p : Step) (y : Yealm) (d : Build) :
    stepOpened s gid p y d = { s with
      channels := (stepOpened s gid p y d).channels, sessions := (stepOpened s gid p y d).sessions
      yealms := (stepOpened s gid p y d).yealms } := by
  unfold stepOpened
  rw [sessionsStarted_rest]
  rfl

/-- Each session that takes part starts from its committed half; no other session changes (R251). -/
theorem sessOf_stepOpened {s : State} (gid : Nat) (p : Step) (y : Yealm) (d : Build) (hs : tsorted none s.sessions = true) :
    (∀ e, e ∈ partners s p.yealm (startMask s p) →
      sessOf (stepOpened s gid p y d) e.2.1 = some (startSession (bit y.rcd.active e.1) e.2.2)) ∧
      ∀ j, (∀ e, e ∈ partners s p.yealm (startMask s p) → e.2.1 ≠ j) → sessOf (stepOpened s gid p y d) j = sessOf s j := by
  obtain ⟨hin, hout⟩ := sessOf_foldl_modSess (fun e : Nat × Nat × Session => e.2.1) (fun e => startSession (bit y.rcd.active e.1))
    (partners s p.yealm (startMask s p)) (partners_nodup hs) (areaRead s (.record p.yealm) 0 64)
  refine ⟨fun e he => (hin e he).trans (congrArg (Option.map _) (sessOf_partner hs he)), fun j hj => hout j ?_⟩
  intro hmem
  obtain ⟨e, he, heq⟩ := List.mem_map.mp hmem
  exact hj e he heq

theorem yealmOf_stepOpened {s : State} {p : Step} {y : Yealm} (d : Build) (hy : yealmOf s p.yealm = some y) (hbe : y.beStep = none) :
    yealmOf (stepOpened s 0 p y d) p.yealm = some { y with work := startWork d y (partners s p.yealm (startMask s p)) } ∧
      ∀ k, k ≠ p.yealm → yealmOf (stepOpened s 0 p y d) k = yealmOf s k := by
  have hall : ∀ k, yealmOf (sessionsStarted (areaRead s (.record p.yealm) 0 64) y (partners s p.yealm (startMask s p))) k = yealmOf s k := by
    intro k
    rw [sessionsStarted_rest]
    rfl
  unfold stepOpened
  refine ⟨?_, fun k hk => ?_⟩
  · rw [yealmOf_modYealm, if_pos rfl, hall, hy]
    simp only [Option.map_some, hbe, Option.isNone_none, and_self, if_true]
  · rw [yealmOf_modYealm, if_neg (Ne.symm hk), hall]

theorem coresLoaded_rest (s : State) (i gid yealm slots : Nat) (cores : List Nat) (pl : Plan) (vr : Variant) (c : Cert) :
    coresLoaded s i gid yealm slots cores pl vr c = { s with cores := (coresLoaded s i gid yealm slots cores pl vr c).cores } :=
  foldl_modCore_rest (fun e : Nat × Nat => e.2)
    (fun n e => loadCore n { bay := i, group := gid, idx := e.1, yealm := yealm, nSlots := slots } pl vr c) _ s

/-- Each of the group's cores is loaded for its place, and no other core is touched. -/
theorem coreOf_coresLoaded (s : State) (i gid yealm slots : Nat) {cores : List Nat} (hd : cores.Nodup) (pl : Plan) (vr : Variant)
    (c : Cert) :
    (∀ n e, cores[n]? = some e →
      StepLoaded { bay := i, group := gid, idx := n, yealm := yealm, nSlots := slots } pl vr c (coreOf s e)
        (coreOf (coresLoaded s i gid yealm slots cores pl vr c) e)) ∧
      ∀ e, e ∉ cores → coreOf (coresLoaded s i gid yealm slots cores pl vr c) e = coreOf s e := by
  have hmap : (cores.mapIdx (fun n core => (n, core))).map (fun e => e.2) = cores := List.ext_getElem (by simp) (by simp)
  obtain ⟨hin, hout⟩ := coreOf_foldl_modCore (fun e : Nat × Nat => e.2)
    (fun n e => loadCore n { bay := i, group := gid, idx := e.1, yealm := yealm, nSlots := slots } pl vr c)
    (fun _ _ _ h => loadCore_ne _ _ _ _ _ _ h) (cores.mapIdx (fun n core => (n, core))) (by rw [hmap]; exact hd) s
  rw [hmap] at hout
  refine ⟨fun n e he => ?_, hout⟩
  have hmem : (n, e) ∈ cores.mapIdx (fun n core => (n, core)) := by
    obtain ⟨hn, rfl⟩ := List.getElem?_eq_some_iff.mp he
    exact List.mem_mapIdx.mpr ⟨n, hn, rfl⟩
  have hload : coreOf (coresLoaded s i gid yealm slots cores pl vr c) e = _ := hin (n, e) hmem
  rw [hload]
  exact loadCore_loaded ..

section
variable {s : State} {v : Nat} {p : Step} {y : Yealm} {d : Build} {pl : Plan} {c : Cert} {vr : Variant}
  (hy : yealmOf s p.yealm = some y) (hd : buildOf s y.build = some d) (hpl : planOf d y.plan = some pl)
  (hc : certOf d y.plan v y.slots = some c) (hvr : pl.variants[v]? = some vr) (hp : p.begun = false)
include hy hd hpl hc hvr hp

/-- The first attempt at a step opens it and loads the cores of the group. -/
theorem beginStep_eq (i gid : Nat) (cores : List Nat) :
    let t := coresLoaded (stepOpened s gid p y d) i gid p.yealm y.slots cores pl vr c
    beginStep s i gid cores v p = bayCnt { t with fresh := t.fresh + 1 } i 0 1 := by
  unfold beginStep
  simp only [hy, hd, hpl, hc, hvr, hp]
  rfl

/-- What the first attempt at a step of a bay's own cores leaves. -/
theorem beginStep_first (hbe : y.beStep = none) (hs : tsorted none s.sessions = true) (i : Nat) {cores : List Nat} (hcores : cores.Nodup) :
    let t := beginStep s i 0 cores v p
    let slots := partners s p.yealm (startMask s p)
    t.bays = (bayCnt s i 0 1).bays ∧
      yealmOf t p.yealm = some { y with work := startWork d y slots } ∧
      (∀ k, k ≠ p.yealm → yealmOf t k = yealmOf s k) ∧
      (∀ e, e ∈ slots → sessOf t e.2.1 = some (startSession (bit y.rcd.active e.1) e.2.2)) ∧
      (∀ j, (∀ e, e ∈ slots → e.2.1 ≠ j) → sessOf t j = sessOf s j) ∧
      (∀ n e, cores[n]? = some e →
        StepLoaded { bay := i, group := 0, idx := n, yealm := p.yealm, nSlots := y.slots } pl vr c (coreOf s e) (coreOf t e)) ∧
      (∀ e, e ∉ cores → coreOf t e = coreOf s e) ∧
      { t with bays := [], yealms := [], sessions := [], cores := [], channels := [], fresh := 0 } =
        { s with bays := [], yealms := [], sessions := [], cores := [], channels := [], fresh := 0 } := by
  intro t slots
  have ht : t = _ := beginStep_eq hy hd hpl hc hvr hp i 0 cores
  obtain ⟨hyealm, hyealms⟩ := yealmOf_stepOpened d hy hbe
  obtain ⟨hstart, hsess⟩ := sessOf_stepOpened 0 p y d hs
  obtain ⟨hgroup, hothers⟩ := coreOf_coresLoaded (stepOpened s 0 p y d) i 0 p.yealm y.slots hcores pl vr c
  have hopen := stepOpened_rest s 0 p y d
  have hload := coresLoaded_rest (stepOpened s 0 p y d) i 0 p.yealm y.slots cores pl vr c
  generalize coresLoaded (stepOpened s 0 p y d) i 0 p.yealm y.slots cores pl vr c = A at ht hgroup hothers hload
  generalize stepOpened s 0 p y d = O at hyealm hyealms hstart hsess hgroup hothers hopen hload
  have hA := hload.trans (congrArg (fun z : State => { z with cores := A.cores }) hopen)
  have hcore : ∀ e, coreOf O e = coreOf s e := fun e => by rw [hopen]; rfl
  have htyealm : t.yealms = O.yealms := by rw [ht, hA]; rfl
  have htsess : t.sessions = O.sessions := by rw [ht, hA]; rfl
  have htcore : t.cores = A.cores := by rw [ht]; rfl
  unfold yealmOf sessOf coreOf at *
  rw [htyealm, htsess, htcore]
  refine ⟨by rw [ht, hA]; rfl, hyealm, hyealms, hstart, hsess, ?_, ?_, by rw [ht, hA]; rfl⟩
  · exact fun n e he => hcore e ▸ hgroup n e he
  · exact fun e he => (hothers e he).trans (hcore e)

end

end Sys2Proof.Machine
end

section
/-!
PROOFS. SLICE_START of a latency-critical bay (O47).
-/
namespace Sys2Proof.Machine

open Sys2Proof

section
variable {s : State} {i v : Nat} {b : Bay} {p : Step} {rest : List Step} {y : Yealm} {d : Build} {c : Cert}
  (hbay : bayOf s i = some b) (hcls : b.attr.cls = 0) (hrun : stepsRun s = true) (hvar : variantNow s b = some v)
  (hblock : bayBlocked s b = false)

include hbay in
/-- A bay that was stopped at the last boundary starts no slice (R274). -/
theorem startSlice_stopped (hlast : b.lastVariant = none) : startSlice s i = s := by
  unfold startSlice sliceVariant
  simp only [hbay, hlast, Option.isNone_none, if_true]

include hbay hcls hrun hvar hblock in
theorem startSlice_lc (hlast : b.lastVariant.isSome = true) : startSlice s i = startLc s i b v := by
  have hsome : b.lastVariant.isNone = false := by
    rw [← Option.not_isSome, hlast]
    rfl
  unfold startSlice sliceVariant
  simp [hbay, hsome, hvar, hrun, hblock, hcls]

section
variable (htodo : b.todo = p :: rest) (hy : yealmOf s p.yealm = some y) (hsusp : y.susp ≠ .givenUp)
  (hd : buildOf s y.build = some d) (hc : certOf d y.plan v y.slots = some c)
include htodo hy hsusp hd hc

/-- The first step that waits is the one a slice takes up. -/
theorem find_startable :
    b.todo.find? (fun t => ((yealmOf s t.yealm).map (fun y => decide (y.susp ≠ .givenUp) && (yealmCert s y v).isSome)).getD false) =
      some p := by
  have hcert : yealmCert s y v = some c := by
    unfold yealmCert
    rw [hd]
    exact hc
  rw [htodo, List.find?_cons_of_pos]
  simp [hy, hsusp, hcert]

/-- While its slice runs or its cores are lent a bay starts none. -/
theorem startLc_busy (hbusy : b.running = true ∨ b.lent = true) : startLc s i b v = s := by
  unfold startLc
  rw [find_startable htodo hy hsusp hd hc]
  exact if_pos hbusy

theorem startLc_first (hidle : b.running = false) (hfree : b.lent = false) {r : State} (hr : timeTo s (max s.now p.start) = r) :
    let u := modBay r i (fun b => { b with variant := some v })
    startLc s i b v = modBay (beginStep u i 0 (groupCores u i 0) v p) i (fun b =>
      { b with running := true, window := false, todo := { p with begun := true, mask := startMask u p } :: b.todo.erase p }) := by
  subst hr
  unfold startLc
  rw [find_startable htodo hy hsusp hd hc]
  exact if_neg (by simp [hidle, hfree])

end
end

/-- Settles O47: the clock moves to the scheduled start, and the step begins as `beginStep_first` says. -/
theorem sliceStartLoadsTheGroup : Obligations.SliceStartLoadsTheGroup := by
  unfold Obligations.SliceStartLoadsTheGroup
  intro s i b v p rest y d pl c vr hbay hcls hrun hvar hblock htodo hp hy hsusp hbe hd hpl hc hvr hs u mask act cores
  have hexec : exec (.sliceStart i) s = .next (startSlice s i) := rfl
  rw [hexec]
  constructor
  · intro hnone
    cases hlast : b.lastVariant with
    | none => rw [startSlice_stopped hbay hlast]
    | some w =>
      rw [startSlice_lc hbay hcls hrun hvar hblock (by rw [hlast]; rfl), startLc_busy htodo hy hsusp hd hc (by simpa [hlast] using hnone)]
  · intro hidle hfree hlast
    rw [startSlice_lc hbay hcls hrun hvar hblock hlast, startLc_first htodo hy hsusp hd hc hidle hfree (show _ = u from rfl)]
    have htime : u = { s with now := max s.now p.start, ports := u.ports, wire := u.wire } := timeTo_rest s (max s.now p.start)
    clear_value u
    have hw : modBay u i (fun b => { b with variant := some v }) = { s with
        now := max s.now p.start, ports := u.ports, wire := u.wire
        bays := (modBay s i (fun b => { b with variant := some v })).bays } := by
      rw [htime]
      rfl
    have hcores : groupCores (modBay u i (fun b => { b with variant := some v })) i 0 = cores := by rw [hw]; rfl
    have hmask : startMask (modBay u i (fun b => { b with variant := some v })) p = mask := by rw [hw]; rfl
    have hslots : partners (modBay u i (fun b => { b with variant := some v })) p.yealm mask = partners s p.yealm mask := by rw [hw]; rfl
    obtain ⟨hbays, hyealm, hyealms, hstart, hsess, hgroup, hothers, hframe⟩ :=
      beginStep_first (s := modBay u i (fun b => { b with variant := some v })) (v := v) (p := p) (y := y)
        (by rw [hw]; exact hy) (by rw [hw]; exact hd) hpl hc hvr hp hbe (by rw [hw]; exact hs) i (groupCores_nodup _ i)
    rw [hmask, hslots] at hyealm hstart hsess
    rw [hcores] at hbays hyealm hyealms hstart hsess hgroup hothers hframe ⊢
    rw [hmask]
    generalize beginStep (modBay u i (fun b => { b with variant := some v })) i 0 cores v p = t at *
    have hbayOf : ∀ j, bayOf t j = bayOf (bayCnt (modBay u i (fun b => { b with variant := some v })) i 0 1) j := fun j =>
      congrArg (fun l => tfind l j) hbays
    have hu : ∀ j, bayOf u j = bayOf s j := fun j => by rw [htime]; rfl
    have hcore : ∀ e, coreOf (modBay u i (fun b => { b with variant := some v })) e = coreOf s e := fun e => by rw [hw]; rfl
    refine ⟨_, rfl, ?_, ?_, hyealm, ?_, hstart, ?_, ?_, ?_, ?_⟩
    · rw [bayOf_modBay, if_pos rfl, hbayOf, bayCnt, bayOf_modBay, if_pos rfl, bayOf_modBay, if_pos rfl, hu, hbay]
      simp only [Option.map_some, htodo, List.erase_cons_head]
      rfl
    · intro j hj
      rw [bayOf_modBay, if_neg (Ne.symm hj), hbayOf, bayCnt, bayOf_modBay, if_neg (Ne.symm hj), bayOf_modBay, if_neg (Ne.symm hj), hu]
    · exact fun k hk => (hyealms k hk).trans (by rw [hw]; rfl)
    · exact fun j hj => (hsess j hj).trans (by rw [hw]; rfl)
    · exact fun n e he => hcore e ▸ hgroup n e he
    · exact fun e he => (hothers e he).trans (hcore e)
    · exact hframe

end Sys2Proof.Machine
end

section
/-!
PROOFS. COMMIT of a latency-critical step (O48): the parts of the commit instant one by one, and what is left when no stop point, no
DETACH, no TDM slot and no cross-bay ring waits for it.
-/
namespace Sys2Proof.Machine

open Sys2Proof

/-! ### The cores of a work group (R34, R150) -/

theorem mem_workCores {s : State} (hs : tsorted none s.cores = true) (b gid c : Nat) :
    c ∈ workCores s b gid ↔ worksFor s b gid c = true := by
  unfold workCores worksFor coreOf tget
  constructor
  · intro h
    obtain ⟨⟨k, x⟩, he, rfl⟩ := List.mem_map.mp h
    obtain ⟨hmem, hctx⟩ := List.mem_filter.mp he
    rw [tfind_of_mem hs hmem]
    exact hctx
  · intro h
    cases hx : tfind s.cores c with
    | none =>
      rw [hx] at h
      cases h
    | some x =>
      rw [hx] at h
      exact List.mem_map.mpr ⟨(c, x), List.mem_filter.mpr ⟨mem_of_tfind hx, h⟩, rfl⟩

theorem workCores_contains {s : State} (hs : tsorted none s.cores = true) (b gid c : Nat) :
    (workCores s b gid).contains c = worksFor s b gid c := by
  rw [Bool.eq_iff_iff, List.contains_iff_mem]
  exact mem_workCores hs b gid c

theorem workCores_nodup {s : State} (hs : tsorted none s.cores = true) (b gid : Nat) : (workCores s b gid).Nodup :=
  (tsorted_nodup hs).sublist (List.filter_sublist.map Prod.fst)

/-- Cores that have stopped after a commit, clock-gated or not. -/
def coresReleased (s : State) (cs : List Nat) (lc : Bool) : State :=
  cs.foldl (fun s c => modCore s c (fun x => { stopCore x with gated := lc })) s

theorem coresReleased_rest (s : State) (cs : List Nat) (lc : Bool) :
    coresReleased s cs lc = { s with cores := (coresReleased s cs lc).cores } :=
  foldl_modCore_rest id (fun _ _ x => { stopCore x with gated := lc }) cs s

theorem coreOf_coresReleased (s : State) {cs : List Nat} (hd : cs.Nodup) (c : Nat) :
    coreOf (coresReleased s cs true) c = if c ∈ cs then { stopCore (coreOf s c) with gated := true } else coreOf s c := by
  have hne : ∀ x : Core, { stopCore x with gated := true } ≠ coreD := fun x h => Bool.noConfusion (congrArg Core.gated h)
  obtain ⟨hin, hout⟩ :=
    coreOf_foldl_modCore id (fun _ _ x => { stopCore x with gated := true }) (fun _ _ x => hne x) cs (by rwa [List.map_id]) s
  rw [List.map_id] at hout
  split
  · exact hin c ‹_›
  · exact hout c ‹_›

section
variable {s : State} {b gid : Nat}
  (hclean : ∀ c, worksFor s b gid c = true → (coreOf s c).dma.all (fun e => e.2.collided.isNone) = true)
  (hs : tsorted none s.cores = true)
include hclean hs

/-- Without a collision no core is flashed: the group's cores stop, gated, and their signals to one another are dropped. -/
theorem releaseCores_rest (lc : Bool) :
    releaseCores s b gid lc = { s with
      cores := (coresReleased s (workCores s b gid) lc).cores
      mesh := s.mesh.filter (fun m => !worksFor s b gid m.src && !worksFor s b gid m.dst) } := by
  have hnone : (workCores s b gid).filter (fun c => (coreOf s c).dma.any (fun e => e.2.collided.isSome)) = [] := by
    rw [List.filter_eq_nil_iff]
    intro c hc hany
    obtain ⟨e, he, hsome⟩ := List.any_eq_true.mp hany
    have hno := List.all_eq_true.mp (hclean c ((mem_workCores hs b gid c).mp hc)) e he
    rw [Option.isNone_iff_eq_none] at hno
    rw [hno] at hsome
    cases hsome
  unfold releaseCores
  simp only [hnone, List.foldl_nil, workCores_contains hs]
  exact congrArg (fun t : State => { t with
    mesh := t.mesh.filter (fun m => !worksFor s b gid m.src && !worksFor s b gid m.dst) }) (coresReleased_rest s _ lc)

/-- The cores that worked for the step are stopped and clock-gated; no other core is touched. -/
theorem coreOf_releaseCores (c : Nat) :
    coreOf (releaseCores s b gid true) c =
      if worksFor s b gid c = true then { stopCore (coreOf s c) with gated := true } else coreOf s c := by
  rw [releaseCores_rest hclean hs]
  exact (coreOf_coresReleased s (workCores_nodup hs b gid) c).trans (by simp only [mem_workCores hs])

end

/-! ### The session (R251, R361, R362, R369) -/

/-- A session after the commit of its slot into half `h`: position block, rings 0 and 2 to 4, and the end of its utterance. -/
def sessionCommitted (d : Build) (h : Bool) (w : SlotWork) (x : Session) : Session :=
  let z := publish d h w (putHalf x h (splice (halfOf x h) 0 (posBytes (finalPos d w x.uttTokens))))
  { z with uttTokens := if bit w.pos.flags.toNat 0 = true then 0 else z.uttTokens }

theorem putHalf_rest (x : Session) (h : Bool) (bs : List Byte) :
    putHalf x h bs = { x with halfA := (putHalf x h bs).halfA, halfB := (putHalf x h bs).halfB } := by
  cases h <;> rfl

theorem publish_rest (d : Build) (h : Bool) (w : SlotWork) (x : Session) :
    publish d h w x = { x with rings := (publish d h w x).rings } := by
  unfold publish putRing
  rfl

theorem sessionCommitted_keeps (d : Build) (h : Bool) (w : SlotWork) (x : Session) :
    let z := sessionCommitted d h w x
    z.job = x.job ∧ z.stopWait = x.stopWait ∧ z.detachWait = x.detachWait ∧ z.bindFlags = x.bindFlags := by
  unfold sessionCommitted
  rw [publish_rest, putHalf_rest]
  exact ⟨rfl, rfl, rfl, rfl⟩

theorem commitSession_speech {s : State} {w : SlotWork} {x : Session} (hx : sessOf s w.session = some x) (hjob : x.job = none)
    (d : Build) (active : Bool) :
    sessOf (commitSession s d active w) w.session = some (sessionCommitted d (!active) w x) ∧
      (∀ j, j ≠ w.session → sessOf (commitSession s d active w) j = sessOf s j) ∧
      commitSession s d active w = { s with sessions := (commitSession s d active w).sessions } := by
  unfold commitSession
  simp only [hx, hjob]
  refine ⟨?_, fun j hj => ?_, rfl⟩
  · rw [sessOf_modSess, if_pos rfl, hx]
    rfl
  · rw [sessOf_modSess, if_neg (Ne.symm hj)]

theorem admitNext_free {s : State} {i : Nat} {z : Session} (hz : sessOf s i = some z) (hstop : z.stopWait = [])
    (hdetach : z.detachWait = none) (y slot bay : Nat) :
    admitNext s i y slot bay = modSess s i (fun x => { x with
      admitted := ((bayOf s bay).bind (fun b => b.todo.find? (fun t => decide (t.yealm = y) && bit t.mask slot))).map
        (fun t => t.chunk) }) := by
  unfold admitNext
  simp [hz, hstop, hdetach]

theorem jobCommitted_none {s : State} {i : Nat} {z : Session} (hz : sessOf s i = some z) (hjob : z.job = none) :
    jobCommitted s i = s := by
  unfold jobCommitted
  simp [hz, hjob]

/-- A session with no job, no STOP and no DETACH that waits: the commit instant admits its next chunk and brings its state up to
date (R153). -/
theorem afterCommit_plain {s : State} {i : Nat} {z : Session} (hz : sessOf s i = some z) (hjob : z.job = none)
    (hstop : z.stopWait = []) (hdetach : z.detachWait = none) {bay y slot : Nat} {b : Bay} (hb : bayOf s bay = some b) :
    let t := afterCommit bay y slot s i
    sessOf t i = some { z with
      st := stateOfSess z
      admitted := (b.todo.find? (fun q => decide (q.yealm = y) && bit q.mask slot)).map (fun q => q.chunk) } ∧
      (∀ j, j ≠ i → sessOf t j = sessOf s j) ∧ t = { s with sessions := t.sessions } := by
  have hadmit := admitNext_free hz hstop hdetach y slot bay
  rw [hb, Option.bind_some] at hadmit
  generalize (b.todo.find? (fun q => decide (q.yealm = y) && bit q.mask slot)).map (fun q => q.chunk) = next at hadmit ⊢
  have hnext : sessOf (modSess s i (fun x => { x with admitted := next })) i = some { z with admitted := next } := by
    rw [sessOf_modSess, if_pos rfl, hz]
    rfl
  have hfix : sessOf (fixState (modSess s i (fun x => { x with admitted := next })) i) i =
      some { z with admitted := next, st := stateOfSess z } := by
    unfold fixState
    rw [sessOf_modSess, if_pos rfl, hnext]
    rfl
  have hplain : afterCommit bay y slot s i = fixState (modSess s i (fun x => { x with admitted := next })) i := by
    unfold afterCommit
    rw [hadmit]
    simp [jobCommitted_none hnext hjob, hnext, hstop, hfix, hdetach]
  intro t
  have ht : t = fixState (modSess s i (fun x => { x with admitted := next })) i := hplain
  clear_value t
  subst ht
  refine ⟨hfix, fun j hj => ?_, rfl⟩
  unfold fixState
  rw [sessOf_modSess, if_neg (Ne.symm hj), sessOf_modSess, if_neg (Ne.symm hj)]

/-! ### The record (R147, R148) -/

/-- A yealm whose commit record counts a step of the slots of `mask`, with nothing kept for a replay of it. -/
def recordFlipped (s : State) (y mask : Nat) : State :=
  modRcd (modYealm (dropSpills s y) y (fun v => { v with attempts := 0, beStep := none, work := [] })) y (fun r => { r with
    stepCount := r.stepCount + 1, active := r.active ^^^ mask, prevValid := r.prevValid ||| mask })

/-- The lines of the record are written as well. -/
def recordCommitted (s : State) (y mask : Nat) : State := areaWrote (recordFlipped s y mask) (.record y) 0 64

theorem recordFlipped_rest (s : State) (y mask : Nat) :
    recordFlipped s y mask = { s with
      yealms := (recordFlipped s y mask).yealms, spills := s.spills.filter (fun e => decide (e.1 / 64 ≠ y)) } := by
  have hmod : ∀ (u : State) (f : Yealm → Yealm),
      u = { s with yealms := u.yealms, spills := s.spills.filter (fun e => decide (e.1 / 64 ≠ y)) } →
      modYealm u y f =
        { s with yealms := (modYealm u y f).yealms, spills := s.spills.filter (fun e => decide (e.1 / 64 ≠ y)) } :=
    fun u f h => congrArg (fun t : State => { t with yealms := (modYealm u y f).yealms }) h
  exact hmod _ _ (hmod _ _ rfl)

theorem yealmOf_recordFlipped (s : State) (y mask j : Nat) :
    yealmOf (recordFlipped s y mask) j = if y = j then (yealmOf s j).map (fun v => { v with
      attempts := 0, beStep := none, spilled := none, work := []
      rcd := sealRcd { v.rcd with
        stepCount := v.rcd.stepCount + 1, active := v.rcd.active ^^^ mask, prevValid := v.rcd.prevValid ||| mask } })
    else yealmOf s j := by
  have hdrop : yealmOf (dropSpills s y) j = if y = j then (yealmOf s j).map (fun v => { v with spilled := none }) else yealmOf s j :=
    yealmOf_modYealm s y _ j
  unfold recordFlipped modRcd
  rw [yealmOf_modYealm, yealmOf_modYealm, hdrop]
  split
  · cases yealmOf s j <;> rfl
  · rfl

theorem recordCommitted_rest (s : State) (y mask : Nat) :
    recordCommitted s y mask = { s with
      yealms := (recordFlipped s y mask).yealms, channels := (recordCommitted s y mask).channels
      spills := s.spills.filter (fun e => decide (e.1 / 64 ≠ y)) } :=
  congrArg (fun t : State => { t with channels := (recordCommitted s y mask).channels }) (recordFlipped_rest s y mask)

theorem yealmOf_recordCommitted (s : State) (y mask j : Nat) :
    yealmOf (recordCommitted s y mask) j = yealmOf (recordFlipped s y mask) j := rfl

/-! ### The bay (R212, R279) -/

/-- A latency-critical bay goes on from step `p`, and keeps how late its latest commit was. -/
def bayAdvanced (s : State) (i : Nat) (p : Step) : State :=
  let t := modBay s i (fun c => { c with
    running := false, commitAt := s.now, todo := c.todo.drop 1, window := decide (c.todo.length ≤ 1 ∧ s.chunk ≤ p.chunk) })
  bayMax t i 2 (t.now - p.due)

theorem bayOf_bayAdvanced {s : State} {i : Nat} {p : Step} {rest : List Step} {b : Bay} (hb : bayOf s i = some b)
    (htodo : b.todo = p :: rest) :
    bayOf (bayAdvanced s i p) i = some { b with
      running := false, commitAt := s.now, todo := rest, window := decide (rest = [] ∧ s.chunk ≤ p.chunk)
      counters := tput 0 b.counters 2 (max (tget 0 b.counters 2) (min (s.now - p.due) 4294967295)) } := by
  have hlast : ((p :: rest).length ≤ 1 ∧ s.chunk ≤ p.chunk) ↔ (rest = [] ∧ s.chunk ≤ p.chunk) := by simp
  unfold bayAdvanced bayMax
  rw [bayOf_modBay, if_pos rfl, bayOf_modBay, if_pos rfl, hb]
  simp only [Option.map_some, htodo, hlast]
  rfl

theorem bayOf_bayAdvanced_other (s : State) {i j : Nat} (p : Step) (h : j ≠ i) : bayOf (bayAdvanced s i p) j = bayOf s j := by
  unfold bayAdvanced bayMax
  rw [bayOf_modBay, if_neg (Ne.symm h), bayOf_modBay, if_neg (Ne.symm h)]

theorem bayAdvanced_rest (s : State) (i : Nat) (p : Step) : bayAdvanced s i p = { s with bays := (bayAdvanced s i p).bays } := by
  unfold bayAdvanced bayMax
  rfl

/-! ### What waits for the instant -/

theorem feedTdm_unbound {s : State} {w : SlotWork} {z : Session} (hz : sessOf s w.session = some z)
    (hbind : bit z.bindFlags.toNat 1 = false) (d : Build) (chunk : Nat) : feedTdm s d chunk w = s := by
  unfold feedTdm
  simp [hz, hbind]

theorem queueCarries_none {d : Build} (h : d.desc.rings = []) (s : State) (bay i : Nat) : queueCarries s d bay i = s := by
  unfold queueCarries
  rw [h]
  rfl

/-! ### The commit -/

theorem coreOf_congr {s t : State} (h : s.cores = t.cores) (c : Nat) : coreOf s c = coreOf t c := by
  unfold coreOf
  rw [h]

theorem bayOf_congr {s t : State} (h : s.bays = t.bays) (i : Nat) : bayOf s i = bayOf t i := by
  unfold bayOf
  rw [h]

theorem yealmOf_congr {s t : State} (h : s.yealms = t.yealms) (y : Nat) : yealmOf s y = yealmOf t y := by
  unfold yealmOf
  rw [h]

theorem sessOf_congr {s t : State} (h : s.sessions = t.sessions) (i : Nat) : sessOf s i = sessOf t i := by
  unfold sessOf
  rw [h]

/-- The commit instant of one slot, part by part. -/
def slotCommitted (s : State) (y : Nat) (v : Yealm) (d : Build) (p : Step) (k : Nat) (w : SlotWork) : State :=
  bayAdvanced (releaseCores (recordCommitted (commitSession s d (bit v.rcd.active k) w) y (2 ^ k)) v.bay 0 true) v.bay p

section
variable {s : State} {y : Nat} {v : Yealm} {b : Bay} (hy : yealmOf s y = some v) (hb : bayOf s v.bay = some b) (hcls : b.attr.cls = 0)
include hy hb hcls

/-- In a latency-critical bay only the head of the running slice runs, in work group 0. -/
theorem runningStep_lc {e : Nat × Nat × Step} (h : runningStep s y = some e) :
    b.running = true ∧ ∃ p, e = (v.bay, 0, p) := by
  unfold runningStep at h
  simp only [hy, hb, hcls, if_true] at h
  cases htodo : b.todo with
  | nil =>
    rw [htodo] at h
    cases h
  | cons p rest =>
    rw [htodo] at h
    obtain ⟨⟨hrun, -⟩, he⟩ := Option.ite_none_right_eq_some.mp h
    exact ⟨hrun, p, (Option.some.inj he).symm⟩

theorem runningStep_head {p : Step} {rest : List Step} (hrun : b.running = true) (htodo : b.todo = p :: rest) (hp : p.yealm = y) :
    runningStep s y = some (v.bay, 0, p) := by
  unfold runningStep
  simp [hy, hb, hcls, htodo, hrun, hp]

theorem commitYealm_waits (h : b.running = false ∨ commitReady s v.bay 0 = false) : commitYealm s y = s := by
  unfold commitYealm
  cases hstep : runningStep s y with
  | none => simp only [hy]
  | some e =>
    obtain ⟨hrun, p, rfl⟩ := runningStep_lc hy hb hcls hstep
    have hready : commitReady s v.bay 0 = false := h.resolve_left (by simp [hrun])
    simp only [hy, hb]
    cases buildOf s v.build with
    | none => rfl
    | some d => exact if_pos (Or.inr (by simp [hready]))

theorem commitYealm_slot {p : Step} {rest : List Step} {d : Build} {k : Nat} {w : SlotWork} (hrun : b.running = true)
    (htodo : b.todo = p :: rest) (hp : p.yealm = y) (hd : buildOf s v.build = some d) (hwork : v.work = [(k, w)])
    (hfault : s.fault = none) (hready : commitReady s v.bay 0 = true) :
    commitYealm s y =
      afterCommit v.bay y k (queueCarries (feedTdm (slotCommitted s y v d p k w) d p.chunk w) d v.bay w.session) w.session := by
  have hmask : maskOf [k] = 2 ^ k := Nat.zero_or _
  unfold commitYealm
  simp only [hy, runningStep_head hy hb hcls hrun htodo hp, hb, hd]
  rw [if_neg (by simp [hfault, hready])]
  simp only [hwork, hcls, List.map_cons, List.map_nil, hmask, List.foldl_cons, List.foldl_nil, decide_true, if_true]
  rfl

end

section
variable {s : State} {y k : Nat} {v : Yealm} {b : Bay} {p : Step} {rest : List Step} {w : SlotWork} {x : Session}
  (hb : bayOf s v.bay = some b) (htodo : b.todo = p :: rest) (hx : sessOf s w.session = some x) (hjob : x.job = none)
  (hsorted : tsorted none s.cores = true)
  (hclean : ∀ c, worksFor s v.bay 0 c = true → (coreOf s c).dma.all (fun e => e.2.collided.isNone) = true)
include hb htodo hx hjob hsorted hclean

/-- The whole state behind the commit instant of one slot, before what waited for it. -/
theorem slotCommitted_spec {d : Build} {t : State} (ht : slotCommitted s y v d p k w = t) :
    yealmOf t y = (yealmOf s y).map (fun v => { v with
      attempts := 0, beStep := none, spilled := none, work := []
      rcd := sealRcd { v.rcd with
        stepCount := v.rcd.stepCount + 1, active := v.rcd.active ^^^ 2 ^ k, prevValid := v.rcd.prevValid ||| 2 ^ k } }) ∧
    (∀ j, j ≠ y → yealmOf t j = yealmOf s j) ∧
    sessOf t w.session = some (sessionCommitted d (!bit v.rcd.active k) w x) ∧
    (∀ j, j ≠ w.session → sessOf t j = sessOf s j) ∧
    bayOf t v.bay = some { b with
      running := false, commitAt := s.now, todo := rest, window := decide (rest = [] ∧ s.chunk ≤ p.chunk)
      counters := tput 0 b.counters 2 (max (tget 0 b.counters 2) (min (s.now - p.due) 4294967295)) } ∧
    (∀ j, j ≠ v.bay → bayOf t j = bayOf s j) ∧
    (∀ c, coreOf t c = if worksFor s v.bay 0 c = true then { stopCore (coreOf s c) with gated := true } else coreOf s c) ∧
    t = { s with
      yealms := t.yealms, sessions := t.sessions, bays := t.bays, cores := t.cores, channels := t.channels
      spills := s.spills.filter (fun e => decide (e.1 / 64 ≠ y))
      mesh := s.mesh.filter (fun m => !worksFor s v.bay 0 m.src && !worksFor s v.bay 0 m.dst) } := by
  unfold slotCommitted at ht
  obtain ⟨hsess, hsessions, e1⟩ := commitSession_speech hx hjob d (bit v.rcd.active k)
  generalize commitSession s d (bit v.rcd.active k) w = u1 at ht hsess hsessions e1
  have hyealm := fun j => (yealmOf_recordCommitted u1 y (2 ^ k) j).trans (yealmOf_recordFlipped u1 y (2 ^ k) j)
  obtain ⟨yealms, channels, e2⟩ : ∃ l m, recordCommitted u1 y (2 ^ k) = { u1 with
      yealms := l, channels := m, spills := u1.spills.filter (fun e => decide (e.1 / 64 ≠ y)) } :=
    ⟨_, _, recordCommitted_rest u1 y (2 ^ k)⟩
  generalize recordCommitted u1 y (2 ^ k) = u2 at ht hyealm e2
  have hcores : u2.cores = s.cores := by rw [e2, e1]
  have hcoreOf : ∀ c, coreOf u2 c = coreOf s c := coreOf_congr hcores
  have hworks : ∀ c, worksFor u2 v.bay 0 c = worksFor s v.bay 0 c := fun c => by rw [worksFor, hcoreOf, ← worksFor]
  have hclean2 : ∀ c, worksFor u2 v.bay 0 c = true → (coreOf u2 c).dma.all (fun e => e.2.collided.isNone) = true :=
    fun c hc => hcoreOf c ▸ hclean c (hworks c ▸ hc)
  have hsorted2 : tsorted none u2.cores = true := hcores ▸ hsorted
  have hcore := coreOf_releaseCores hclean2 hsorted2
  obtain ⟨cores, e3⟩ : ∃ l, releaseCores u2 v.bay 0 true = { u2 with
      cores := l, mesh := u2.mesh.filter (fun m => !worksFor u2 v.bay 0 m.src && !worksFor u2 v.bay 0 m.dst) } :=
    ⟨_, releaseCores_rest hclean2 hsorted2 true⟩
  generalize releaseCores u2 v.bay 0 true = u3 at ht hcore e3
  have hbays3 : u3.bays = s.bays := by rw [e3, e2, e1]
  have hbay3 : bayOf u3 v.bay = some b := (bayOf_congr hbays3 _).trans hb
  have hnow : u3.now = s.now := by rw [e3, e2, e1]
  have hchunk : u3.chunk = s.chunk := by rw [e3, e2, e1]
  have hbay := bayOf_bayAdvanced hbay3 htodo
  have hbays := fun j (hj : j ≠ v.bay) => bayOf_bayAdvanced_other u3 p hj
  have e4 := bayAdvanced_rest u3 v.bay p
  rw [ht] at hbay hbays e4
  have hsess4 : t.sessions = u1.sessions := by rw [e4, e3, e2]
  have hyealm4 : ∀ j, yealmOf t j = yealmOf u2 j := yealmOf_congr (by rw [e4, e3])
  have hyealm1 : ∀ j, yealmOf u1 j = yealmOf s j := yealmOf_congr (by rw [e1])
  have hcore4 : ∀ c, coreOf t c = coreOf u3 c := coreOf_congr (by rw [e4])
  refine ⟨?_, fun j hj => ?_, (sessOf_congr hsess4 _).trans hsess, fun j hj => (sessOf_congr hsess4 _).trans (hsessions j hj), ?_,
    fun j hj => (hbays j hj).trans (bayOf_congr hbays3 _), fun c => ?_, ?_⟩
  · rw [hyealm4, hyealm, if_pos rfl, hyealm1]
  · rw [hyealm4, hyealm, if_neg (Ne.symm hj), hyealm1]
  · rw [hbay, hnow, hchunk]
  · rw [hcore4, hcore, hworks, hcoreOf]
  · simp only [hworks] at e3
    rw [e4, e3, e2, e1]

end

/-- Settles O48, with one lemma for each part of the commit instant. -/
theorem commitPublishesTheChunk : Obligations.CommitPublishesTheChunk := by
  unfold Obligations.CommitPublishesTheChunk
  intro s y v b hfault hy hb hcls
  have hexec : exec (.commit y) s = .next (commitYealm s y) := rfl
  rw [hexec]
  refine ⟨fun h => by rw [commitYealm_waits hy hb hcls h], ?_⟩
  intro p rest d k w x a hrun htodo hp hd hwork hx heff hya hslot hlost hjob hstop hdetach htdm hrings hsorted hready hclean flip mine z z'
  rw [commitYealm_slot hy hb hcls hrun htodo hp hd hwork hfault hready]
  have hspec := slotCommitted_spec (s := s) (y := y) (k := k) hb htodo hx hjob hsorted hclean (d := d) rfl
  generalize slotCommitted s y v d p k w = u at hspec ⊢
  obtain ⟨hyealm, hyealms, hsess, hsessions, hbay, hbays, hcore, hrest⟩ := hspec
  obtain ⟨hzjob, hzstop, hzdetach, hzbind⟩ := sessionCommitted_keeps d flip w x
  rw [feedTdm_unbound hsess (hzbind ▸ htdm), queueCarries_none hrings]
  obtain ⟨hsess', hsessions', hrest'⟩ := afterCommit_plain (y := y) (slot := k) hsess (hzjob.trans hjob) (hzstop.trans hstop)
    (hzdetach.trans hdetach) hbay
  generalize afterCommit v.bay y k u w.session = t at hsess' hsessions' hrest' ⊢
  have hcore' : ∀ c, coreOf t c = coreOf u c := coreOf_congr (by rw [hrest'])
  have hyealm' : ∀ j, yealmOf t j = yealmOf u j := yealmOf_congr (by rw [hrest'])
  have hbay' : ∀ j, bayOf t j = bayOf u j := bayOf_congr (by rw [hrest'])
  refine ⟨t, rfl, ?_, fun j hj => (hyealm' j).trans (hyealms j hj), hsess', fun j hj => (hsessions' j hj).trans (hsessions j hj),
    (hbay' _).trans hbay, fun j hj => (hbay' j).trans (hbays j hj), fun c hc => ?_, fun c hc => ?_, ?_, ?_, ?_⟩
  · rw [hyealm', hyealm, hy]
    rfl
  · rw [hcore', hcore, if_pos hc]
    exact stopCore_stopped { coreOf s c with gated := true }
  · rw [hcore', hcore, if_neg (by rw [show worksFor s v.bay 0 c = false from hc]; exact Bool.false_ne_true)]
  · rw [hrest', hrest]
  · rw [hrest', hrest]
  · rw [hrest', hrest]

end Sys2Proof.Machine
end

section
/-!
PROOFS. Vector commands run (O40): what ELEMENT, CONVERT, FUNC, REDUCE and SOFTMAX do on legal operands (R97, R99 to R101, R105).
-/
namespace Sys2Proof.Machine

open Sys2Proof

/-! ### What each lane command computes -/

/-- Result word and saturation count of each element of a CONVERT, with its rounding mode (R99). -/
def convResults (o : VecOps) (as : List Nat) (mds : List RMode) : List (Nat × Nat) :=
  as.mapIdx (fun i a => convOne o.subOp.toNat o.param0 o.param1.toNat (mds.getD i .det) (BitVec.ofNat 32 a))

/-- A CONVERT rounds stochastically: `vec_flags` asks for it, and its sub-operation rounds to an integer or a code (R42). -/
def convStoch (o : VecOps) : Bool := vecStoch o && decide (o.subOp.toNat = 0 ∨ o.subOp.toNat = 4)

/-- Evaluations of the function unit that a SOFTMAX makes over its rows (R105). -/
def softmaxEvals (k : Nat) (rows : List (List W32)) : Nat :=
  (rows.map (fun r => if r.any fpIsNan = true ∨ maxW r = fpNegInf then 0 else if maxW r = fpInf then 1 else k + 1)).sum

section
variable {s : State} {c slot : Nat} {x : Core} {o : VecOps} (hx : coreOf s c = x)
include hx

theorem doElement_of_legal (hv : vecLegal x o (elemSubs o.fmt.toNat) 2 = true)
    (hk : if o.subOp.toNat = elemCompare o.fmt.toNat then o.param0.toNat ≤ 5 else o.param0.toNat = 0) (hp : o.param1 = 0) :
    let n := vecLen x o
    let sub := o.subOp.toNat
    let fmt := o.fmt.toNat
    let w := if fmt = 1 then 2 else 4
    let wide := elemForm o
    (n = 0 → doElement s c slot o = .ok (s, emptyDone)) ∧
    (∀ as z bs cs, 1 ≤ n → vecFirst s x o slot w n = .ok (as, z) →
      (if elemArity fmt sub < 2 then .ok [] else spadWords z (vecAddr o slot o.src1) w n) = Except.ok bs →
      (if elemArity fmt sub < 3 then .ok [] else spadWords z (vecAddr o slot o.src2) (if wide.1 = true then 4 else w) n) =
        Except.ok cs →
      doElement s c slot o = vecResult s c z o slot (if wide.2 = true then 4 else w)
        (if fmt = 2 then .other else if fmt = 1 ∧ wide.2 = false then .bf16 else .fp32)
        (elemRun fmt sub o.param0.toNat wide as bs cs) (ceilDiv n (if fmt = 1 then 128 else 64)) 0 (completion false 0 0 false)) := by
  intro n sub fmt w wide
  have hneed : (if sub = elemCompare fmt then decide (o.param0.toNat ≤ 5) else decide (o.param0 = 0)) = true := by
    split at hk
    · exact (if_pos ‹_›).trans (decide_eq_true hk)
    · exact (if_neg ‹_›).trans (decide_eq_true (BitVec.eq_of_toNat_eq hk))
  unfold doElement
  simp only [hx]
  refine ⟨fun hn => ?_, fun as z bs cs hn hf hb hc => ?_⟩ <;>
    refine (bind_of (vecCheck_ok hv)).trans ((bind_of (need_of hneed)).trans ((bind_of (vecZero_of hp)).trans ?_))
  · exact if_pos hn
  · refine (if_neg (by omega)).trans ((bind_of hf).trans ((bind_of hb).trans ((bind_of hc).trans ?_)))
    simp only [Bool.not_eq_true]
    rfl

theorem doConvert_of_legal (hv : vecLegal x o 9 0 = true)
    (hk : if o.subOp.toNat = 4 then invOk o.param0 = true ∧ o.param1.toNat ≤ 255 else o.param0 = 0 ∧ o.param1 = 0) :
    (vecLen x o = 0 → doConvert s c slot o = .ok (s, emptyDone)) ∧
    (∀ as z mds y, 1 ≤ vecLen x o → vecFirst s x o slot (convIn o.subOp.toNat) (vecLen x o) = .ok (as, z) →
      roundModes s z slot (convStoch o) o.tensorId o.elemBase.toNat (vecLen x o) = .ok (mds, y) →
      let n := vecLen x o
      let sub := o.subOp.toNat
      let vals := (convResults o as mds).map Prod.fst
      let d := completion false (((convResults o as mds).map Prod.snd).sum) 0 (convStoch o && y.rng.coarse)
      (vecToCarry o = false ∨ (sub ≠ 5 ∧ sub ≠ 6) →
        doConvert s c slot o = vecResult s c y o slot (convOut sub)
          (if sub = 1 ∨ sub = 3 then .fp32 else if sub = 2 then .bf16 else .other) vals (ceilDiv n 64)
          (if convStoch o = true then vecSlow s y slot n else 0) d) ∧
      (vecToCarry o = true → (sub = 5 ∨ sub = 6) → y.carryRun = none →
        doConvert s c slot o = .ok (setCore s c (coreAdd .vecBusyCycles (ceilDiv n 64)
          (if sub = 5 then { y with carryA := y.carryA ++ vals.map (BitVec.ofNat 16) }
            else { y with carryU := y.carryU ++ vals.map (BitVec.ofNat 40) })), d))) := by
  have hneed : (if o.subOp.toNat = 4 then invOk o.param0 && decide (o.param1.toNat ≤ 255)
      else decide (o.param0 = 0 ∧ o.param1 = 0)) = true := by
    split at hk
    · rw [if_pos ‹_›, hk.1, decide_eq_true hk.2]; rfl
    · exact (if_neg ‹_›).trans (decide_eq_true hk)
  unfold doConvert
  simp only [hx]
  refine ⟨fun hn => ?_, fun as z mds y hn hf hm => ⟨fun hroute => ?_, fun hcarry hsub hidle => ?_⟩⟩ <;>
    refine (bind_of (vecCheck_ok hv)).trans ((bind_of (need_of hneed)).trans ?_)
  · exact if_pos hn
  · refine (if_neg (by omega)).trans ((bind_of hf).trans ((bind_of hm).trans (if_neg ?_)))
    rintro ⟨hcarry, hsub⟩
    rcases hroute with h | ⟨h5, h6⟩
    · rw [h] at hcarry; cases hcarry
    · exact hsub.elim h5 h6
  · refine (if_neg (by omega)).trans ((bind_of hf).trans ((bind_of hm).trans ((if_pos ⟨hcarry, hsub⟩).trans ?_)))
    rw [carryAdvance_idle]
    · rfl
    · split <;> exact hidle

theorem doFunc_of_legal (hv : vecLegal x o 7 0 = true) (hp0 : o.param0 = 0) (hp1 : o.param1 = 0) :
    let n := vecLen x o
    (n = 0 → doFunc s c slot o = .ok (s, emptyDone)) ∧
    (∀ as z, 1 ≤ n → vecFirst s x o slot 4 n = .ok (as, z) →
      doFunc s c slot o = vecResult s c (coreAdd .fuEvals n z) o slot 4 .fp32
        (as.map (fun a => (funcUnit (funcOf o.subOp.toNat) (BitVec.ofNat 32 a)).toNat)) (ceilDiv n 64) 0
        (completion false 0 0 false)) := by
  unfold doFunc
  simp only [hx]
  refine ⟨fun hn => ?_, fun as z hn hf => ?_⟩ <;>
    refine (bind_of (vecCheck_ok hv)).trans ((bind_of (vecZero_of hp0)).trans ((bind_of (vecZero_of hp1)).trans ?_))
  · exact if_pos hn
  · exact (if_neg (by omega)).trans (bind_of hf)

theorem doReduce_of_legal (hv : vecLegal x o 3 0 = true) (hk : 1 ≤ o.param0.toNat) (hdiv : vecLen x o % o.param0.toNat = 0)
    (hp : o.param1 = 0) :
    let n := vecLen x o
    let k := o.param0.toNat
    (n = 0 → doReduce s c slot o = .ok (s, emptyDone)) ∧
    (∀ as z, 1 ≤ n → vecFirst s x o slot 4 n = .ok (as, z) →
      doReduce s c slot o = vecResult s c z o slot 4 .fp32
        ((chop k (n / k) (as.map (BitVec.ofNat 32))).map (fun r => ((reduceW (reduceOp o.subOp.toNat) r).getD 0).toNat))
        (ceilDiv n 64) 0 (completion false 0 0 false)) := by
  unfold doReduce
  simp only [hx]
  refine ⟨fun hn => ?_, fun as z hn hf => ?_⟩ <;>
    refine (bind_of (vecCheck_ok hv)).trans ((bind_of (vecZero_of hp)).trans ((bind_of (need_of (by simp [hk, hdiv]))).trans ?_))
  · exact if_pos hn
  · exact (if_neg (by omega)).trans (bind_of hf)

theorem doSoftmax_of_legal (hv : vecLegal x o 1 0 = true) (hk1 : 1 ≤ o.param0.toNat) (hk2 : o.param0.toNat ≤ 16384)
    (hdiv : vecLen x o % o.param0.toNat = 0) (hp : o.param1 = 0) :
    let n := vecLen x o
    let k := o.param0.toNat
    (n = 0 → doSoftmax s c slot o = .ok (s, emptyDone)) ∧
    (∀ as z, 1 ≤ n → vecFirst s x o slot 4 n = .ok (as, z) →
      let rows := chop k (n / k) (as.map (BitVec.ofNat 32))
      doSoftmax s c slot o = vecResult s c (coreAdd .fuEvals (softmaxEvals k rows) z) o slot 4 .fp32
        (((rows.map softmaxRow).flatten).map BitVec.toNat) (3 * (n / k) * ceilDiv k 64) 0 (completion false 0 0 false)) := by
  unfold doSoftmax
  simp only [hx]
  refine ⟨fun hn => ?_, fun as z hn hf => ?_⟩ <;>
    refine (bind_of (vecCheck_ok hv)).trans
      ((bind_of (vecZero_of hp)).trans ((bind_of (need_of (by simp [hk1, hk2, hdiv]))).trans ?_))
  · exact if_pos hn
  · exact (if_neg (by omega)).trans (bind_of hf)

end

/-! ### The commands -/

/-- A vector command with no elements completes empty and leaves the core as it found it (R64). -/
theorem issues_empty {i : Instr} {s : State} {c : Nat} {h : CmdHdr} {op : CoreOp} (hu : opUnit op = 2)
    (hi : exec i s = .next (submit s c h op)) (hg : goes s c h op = true)
    (hr : runOp (atUnit s c h op) c (inUnit s c h op) = .ok (atUnit s c h op, some emptyDone)) :
    Issues i c h op s s (atIssue s c h op) emptyDone :=
  issues_vec hu hi hg (.refl _) (hr.trans (congrArg (fun t => Except.ok (t, some emptyDone))
    (atUnit_set hg { atIssue s c h op with units := unitsAt (coreOf s c) (opUnit op) (inUnit s c h op) }
      (coreRuns_ctx (goes_parts hg).1)).symm))

/-- Settles O40: a command with no elements by `issues_empty`, one with elements by what its unit computes (`doElement_of_legal` to
`doSoftmax_of_legal`) and by where a lane command's result goes (`issues_lane`). -/
theorem vectorCommandsRun : Obligations.VectorCommandsRun := by
  unfold Obligations.VectorCommandsRun
  intro s c h o as z n sub k fmt Legal First Ends fine
  have hfirst : ∀ {op w}, First op w → vecFirst (atUnit s c h op) { atIssue s c h op with
      units := unitsAt (coreOf s c) (opUnit op) (inUnit s c h op) } o 0 w n =
        .ok (as, { z with units := unitsAt (coreOf s c) (opUnit op) (inUnit s c h op) }) :=
    fun {op _} hf => (vecFirst_units (atUnit s c h op) rfl _ hf.2).1
  have hseq : ∀ {op w}, First op w → SameSeq (atIssue s c h op) z := fun hf => vecFirst_sameSeq hf.2
  refine ⟨?element, ?convert, ?func, ?reduce, ?softmax⟩
  case element =>
    rintro ⟨hg, hv⟩ hk hp w wide
    have hrun : ∀ t e, doElement (atUnit s c h (.element o)) c 0 o = .ok (t, e) →
        runOp (atUnit s c h (.element o)) c (inUnit s c h (.element o)) = .ok (t, some e) :=
      fun t e hdo => by simp only [runOp, inUnit, hdo]
    obtain ⟨hempty, hsome⟩ := doElement_of_legal (slot := 0) (coreOf_atUnit hg) hv hk hp
    refine ⟨fun hn => issues_empty rfl rfl hg (hrun _ _ (hempty hn)), fun bs cs hf hb hc hl => ?_⟩
    exact issues_lane rfl rfl hg (hseq hf) hl fun t e hr => hrun t e ((hsome _ _ bs cs hf.1 (hfirst hf) hb hc).trans hr)
  case convert =>
    rintro ⟨hg, hv⟩ hk
    have hrun : ∀ t e, doConvert (atUnit s c h (.convert o)) c 0 o = .ok (t, e) →
        runOp (atUnit s c h (.convert o)) c (inUnit s c h (.convert o)) = .ok (t, some e) :=
      fun t e hdo => by simp only [runOp, inUnit, hdo]
    obtain ⟨hempty, hsome⟩ := doConvert_of_legal (slot := 0) (coreOf_atUnit hg) hv hk
    refine ⟨fun hn => issues_empty rfl rfl hg (hrun _ _ (hempty hn)), ?_⟩
    intro mds y hf stoch hm rs vals d
    obtain ⟨hmu, hy⟩ := roundModes_run (unitsAt (coreOf s c) 2 (inUnit s c h (.convert o))) hm
    obtain ⟨hlane, hpath⟩ := hsome _ _ _ _ hf.1 (hfirst hf) hmu
    have hseq : SameSeq (atIssue s c h (.convert o)) y := (hseq hf).trans hy
    constructor
    · exact fun hroute hl => issues_lane rfl rfl hg hseq hl fun t e hr => hrun t e ((hlane hroute).trans hr)
    · intro hcarry hsub hidle
      refine issues_vec rfl rfl hg ?_ (hrun _ _ ((hpath hcarry hsub hidle).trans ?_))
      · split <;> exact hseq
      · split <;> rfl
  case func =>
    rintro ⟨hg, hv⟩ hp0 hp1
    have hrun : ∀ t e, doFunc (atUnit s c h (.func o)) c 0 o = .ok (t, e) →
        runOp (atUnit s c h (.func o)) c (inUnit s c h (.func o)) = .ok (t, some e) :=
      fun t e hdo => by simp only [runOp, inUnit, hdo]
    obtain ⟨hempty, hsome⟩ := doFunc_of_legal (slot := 0) (coreOf_atUnit hg) hv hp0 hp1
    refine ⟨fun hn => issues_empty rfl rfl hg (hrun _ _ (hempty hn)), fun hf hl => ?_⟩
    exact issues_lane rfl rfl hg (hseq hf) hl fun t e hr => hrun t e ((hsome _ _ hf.1 (hfirst hf)).trans hr)
  case reduce =>
    rintro ⟨hg, hv⟩ hk hdiv hp
    have hrun : ∀ t e, doReduce (atUnit s c h (.reduce o)) c 0 o = .ok (t, e) →
        runOp (atUnit s c h (.reduce o)) c (inUnit s c h (.reduce o)) = .ok (t, some e) :=
      fun t e hdo => by simp only [runOp, inUnit, hdo]
    obtain ⟨hempty, hsome⟩ := doReduce_of_legal (slot := 0) (coreOf_atUnit hg) hv hk hdiv hp
    refine ⟨fun hn => issues_empty rfl rfl hg (hrun _ _ (hempty hn)), fun hf hl => ?_⟩
    exact issues_lane rfl rfl hg (hseq hf) hl fun t e hr => hrun t e ((hsome _ _ hf.1 (hfirst hf)).trans hr)
  case softmax =>
    rintro ⟨hg, hv⟩ hk1 hk2 hdiv hp
    have hrun : ∀ t e, doSoftmax (atUnit s c h (.softmax o)) c 0 o = .ok (t, e) →
        runOp (atUnit s c h (.softmax o)) c (inUnit s c h (.softmax o)) = .ok (t, some e) :=
      fun t e hdo => by simp only [runOp, inUnit, hdo]
    obtain ⟨hempty, hsome⟩ := doSoftmax_of_legal (slot := 0) (coreOf_atUnit hg) hv hk1 hk2 hdiv hp
    refine ⟨fun hn => issues_empty rfl rfl hg (hrun _ _ (hempty hn)), ?_⟩
    intro hf rows evals hl
    exact issues_lane rfl rfl hg (hseq hf) hl fun t e hr => hrun t e ((hsome _ _ hf.1 (hfirst hf)).trans hr)

end Sys2Proof.Machine
end

section
/-!
PROOFS. COMMAND_COMPLETE (O44, R64, R234, R241): what it leaves of the core and of the device. A unit is free afterwards where the
core lists it once; a core that lists a unit twice refutes O44 as it stands.
-/
namespace Sys2Proof.Machine

open Sys2Proof

/-! ### The core -/

/-- Core `x` once the command of its unit `k` has completed with record `d` (R64). -/
def freed (x : Core) (k : Nat) (d : Completion) : Core :=
  let y := coreAdd .degenTotal d.degen (coreAdd .satTotal d.sat (setUnitQ x k { unitQ x k with busy := none, last := d }))
  if k = 9 then { y with carryRun := none } else y

theorem freed_rest (x : Core) (k : Nat) (d : Completion) :
    freed x k d = { coreAdd .degenTotal d.degen (coreAdd .satTotal d.sat x) with
      units := tput unitQD x.units k { unitQ x k with busy := none, last := d }
      carryRun := if k = 9 then none else x.carryRun } := by
  unfold freed
  split <;> rfl

@[simp] theorem freed_ctx (x : Core) (k : Nat) (d : Completion) : (freed x k d).ctx = x.ctx := by
  rw [freed_rest]; rfl
@[simp] theorem freed_window (x : Core) (k : Nat) (d : Completion) : (freed x k d).window = x.window := by
  rw [freed_rest]; rfl
@[simp] theorem freed_sems (x : Core) (k : Nat) (d : Completion) : (freed x k d).sems = x.sems := by
  rw [freed_rest]; rfl

/-- A unit that the core lists once is free and holds the record. -/
theorem unitQ_freed {x : Core} (k : Nat) (d : Completion) (hs : tsorted none x.units = true) :
    unitQ (freed x k d) k = { unitQ x k with busy := none, last := d } := by
  rw [freed_rest]
  exact tget_tput_sorted _ _ _ _ hs

theorem unitQ_freed_other (x : Core) {j k : Nat} (d : Completion) (h : j ≠ k) : unitQ (freed x k d) j = unitQ x j := by
  rw [freed_rest]
  exact tget_tput_other _ _ _ (Ne.symm h)

/-- Completion puts no command into a queue. -/
theorem freed_queues {x : Core} (k : Nat) (d : Completion) (hq : x.units.all (fun e => decide (e.2.queue = [])) = true) :
    (freed x k d).units.all (fun e => decide (e.2.queue = [])) = true := by
  rw [freed_rest]
  exact all_tput unitQD x.units k _ (fun v => decide (v.queue = [])) hq (decide_eq_true (unitQ_queue hq k))

/-- Core `x` with `n` units more in a semaphore. -/
def raised (x : Core) (sem : Byte) (n : W16) : Core := { x with sems := tput 0 x.sems sem.toNat (semOf x sem + n) }

/-! ### The device -/

/-- A change of a listed value keeps the key that a search of a sorted table finds, where the search does not see the change. -/
theorem find?_tins_key {α : Type} {t : Tab α} {lo : Option Nat} {k : Nat} {v w : α} {p : Nat × α → Bool} (hs : tsorted lo t = true)
    (hk : tfind t k = some w) (hp : p (k, v) = p (k, w)) : ((tins t k v).find? p).map Prod.fst = (t.find? p).map Prod.fst := by
  induction t generalizing lo with
  | nil => cases hk
  | cons e rest ih =>
    obtain ⟨j, a⟩ := e
    simp only [tsorted, Bool.and_eq_true] at hs
    rw [tfind_cons] at hk
    rw [tins_cons]
    by_cases hj : j = k
    · rw [if_pos hj] at hk
      cases hk
      subst hj
      rw [if_neg (Nat.lt_irrefl _), if_pos rfl, List.find?_cons, List.find?_cons, hp]
      cases p (j, w) <;> rfl
    · rw [if_neg hj] at hk
      rw [if_pos (tsorted_above hs.2 _ (mem_of_tfind hk)), List.find?_cons, List.find?_cons]
      cases p (j, a)
      · exact ih hs.2 hk
      · rfl

/-- A core found by its index in a work group is the same after a change that leaves every core its step. -/
theorem coreAtIdx_setCore {s : State} {c : Nat} {y : Core} (hs : tsorted none s.cores = true) (hc : (coreOf s c).ctx.isSome = true)
    (hy : y.ctx = (coreOf s c).ctx) (b gid idx : Nat) : coreAtIdx (setCore s c y) b gid idx = coreAtIdx s b gid idx := by
  have hlist : tfind s.cores c = some (coreOf s c) := by
    unfold coreOf tget at hc ⊢
    cases hf : tfind s.cores c with
    | none => rw [hf] at hc; cases hc
    | some x => rfl
  have hne : y ≠ coreD := core_ne (hy ▸ hc)
  unfold coreAtIdx setCore tput
  rw [if_neg hne]
  exact find?_tins_key hs hlist (by simp only [hy])

/-- A core with nothing to issue goes no further. -/
theorem advanceCore_idle {s : State} {c : Nat} (hw : (coreOf s c).window = [])
    (hq : (coreOf s c).units.all (fun e => decide (e.2.queue = [])) = true) : advanceCore s c = s :=
  advance_stop s c _ hw (unitQ_queue hq)

theorem postSignal_none {s : State} {c : Nat} {p : Post} (h : p.count = 0) : postSignal s c p = s := by
  unfold postSignal
  rw [if_pos h]

/-- A signal to the core's own semaphore is there at once (R241). -/
theorem postSignal_own {s : State} {c : Nat} {p : Post} {k : CoreCtx} (hctx : (coreOf s c).ctx = some k) (h : p.count ≠ 0)
    (hown : p.core = 0xFF#8 ∨ p.core.toNat = k.idx) (hfit : (semOf (coreOf s c) p.sem).toNat + p.count.toNat ≤ 65535) :
    postSignal s c p = setCore s c (raised (coreOf s c) p.sem p.count) := by
  have hsum : BitVec.ofNat 16 ((semOf (coreOf s c) p.sem).toNat + p.count.toNat) = semOf (coreOf s c) p.sem + p.count := by
    rw [BitVec.ofNat_add, BitVec.ofNat_toNat, BitVec.ofNat_toNat, BitVec.setWidth_eq, BitVec.setWidth_eq]
  unfold postSignal
  rw [if_neg h, hctx]
  dsimp only
  rw [if_pos hown]
  unfold addSem
  dsimp only
  rw [if_neg (by omega), hsum]
  rfl

/-- A signal to another core is on its way (R241). -/
theorem postSignal_other {s : State} {c e : Nat} {p : Post} {k : CoreCtx} (hctx : (coreOf s c).ctx = some k) (h : p.count ≠ 0)
    (hff : p.core ≠ 0xFF#8) (hidx : p.core.toNat ≠ k.idx) (he : coreAtIdx s k.bay k.group p.core.toNat = some e) :
    postSignal s c p = { s with mesh := s.mesh ++ [{ src := c, dst := e, sem := p.sem.toNat, count := p.count.toNat }] } := by
  unfold postSignal
  rw [if_neg h, hctx]
  dsimp only
  rw [if_neg (by simp [hff, hidx]), he]

/-! ### COMMAND_COMPLETE -/

/-- Where a completed command says its signal goes. -/
def postOf (q : QCmd) : Post := { sem := q.hdr.postSem, core := q.hdr.postCore, count := q.hdr.postCount }

section
variable {s : State} {c u : Nat} {k : CoreCtx} {q : QCmd} {d : Completion} (hrun : coreRuns s c = true)
  (hwin : (coreOf s c).window = []) (hq : (coreOf s c).units.all (fun e => decide (e.2.queue = [])) = true)
  (hctx : (coreOf s c).ctx = some k) (hbusy : (unitQ (coreOf s c) (doneKey (coreOf s c) u)).busy = some (q, d))
  (hfills : fillsOwed (coreOf s c) q = false) (hwait : q.hdr.waitCount = 0)

include hctx in
theorem coreOf_freed : coreOf (setCore s c (freed (coreOf s c) u d)) c = freed (coreOf s c) u d :=
  coreOf_setCore _ _ _ (core_ne (by rw [freed_ctx, hctx]; rfl))

include hrun hbusy hfills hwait in
/-- A completed command that held no ring end by its wait frees its unit and posts its signal; then the core goes on. -/
theorem completeUnit_posts : completeUnit s c u =
    advanceCore (postSignal (setCore s c (freed (coreOf s c) (doneKey (coreOf s c) u) d)) c (postOf q)) c := by
  have hrings : ∀ x, cmdRings x q = x := fun x => if_pos (.inl hwait)
  unfold completeUnit
  rw [if_neg (not_not_intro hrun)]
  dsimp only
  rw [hbusy]
  dsimp only
  rw [hfills, if_neg Bool.false_ne_true]
  unfold finishCmd
  dsimp only
  rw [hrings]
  rfl

include hrun hwin hq hctx hbusy hfills hwait

theorem completeUnit_noSignal (h : q.hdr.postCount = 0) :
    completeUnit s c u = setCore s c (freed (coreOf s c) (doneKey (coreOf s c) u) d) := by
  rw [completeUnit_posts hrun hbusy hfills hwait, postSignal_none h]
  refine advanceCore_idle ?_ ?_ <;> rw [coreOf_freed hctx]
  · exact (freed_window ..).trans hwin
  · exact freed_queues _ d hq

theorem completeUnit_ownSignal (h : q.hdr.postCount ≠ 0) (hown : q.hdr.postCore = 0xFF#8 ∨ q.hdr.postCore.toNat = k.idx)
    (hfit : (semOf (coreOf s c) q.hdr.postSem).toNat + q.hdr.postCount.toNat ≤ 65535) :
    completeUnit s c u =
      setCore s c (raised (freed (coreOf s c) (doneKey (coreOf s c) u) d) q.hdr.postSem q.hdr.postCount) := by
  have hcore := coreOf_freed (u := doneKey (coreOf s c) u) (d := d) hctx
  have hfctx := (freed_ctx (coreOf s c) (doneKey (coreOf s c) u) d).trans hctx
  have hsem : semOf (freed (coreOf s c) (doneKey (coreOf s c) u) d) = semOf (coreOf s c) :=
    funext fun sem => congrArg (tget 0 · sem.toNat) (freed_sems ..)
  have hctx' : (raised (freed (coreOf s c) (doneKey (coreOf s c) u) d) (postOf q).sem (postOf q).count).ctx.isSome = true :=
    Option.isSome_of_eq_some hfctx
  rw [completeUnit_posts hrun hbusy hfills hwait,
    postSignal_own (k := k) (by rw [hcore, hfctx]) h hown (by rw [hcore, hsem]; exact hfit), hcore,
    setCore_setCore _ _ (core_ne (Option.isSome_of_eq_some hfctx)) (core_ne hctx')]
  refine advanceCore_idle ?_ ?_ <;> rw [coreOf_setCore _ _ _ (core_ne hctx')]
  · exact (freed_window ..).trans hwin
  · exact freed_queues _ d hq

theorem completeUnit_meshSignal {e : Nat} (h : q.hdr.postCount ≠ 0) (hff : q.hdr.postCore ≠ 0xFF#8)
    (hidx : q.hdr.postCore.toNat ≠ k.idx) (hs : tsorted none s.cores = true)
    (he : coreAtIdx s k.bay k.group q.hdr.postCore.toNat = some e) :
    completeUnit s c u = { setCore s c (freed (coreOf s c) (doneKey (coreOf s c) u) d) with
      mesh := s.mesh ++ [{ src := c, dst := e, sem := q.hdr.postSem.toNat, count := q.hdr.postCount.toNat }] } := by
  have hcore := coreOf_freed (u := doneKey (coreOf s c) u) (d := d) hctx
  have hat := coreAtIdx_setCore hs (Option.isSome_of_eq_some hctx) (freed_ctx (coreOf s c) (doneKey (coreOf s c) u) d) k.bay
    k.group q.hdr.postCore.toNat
  rw [completeUnit_posts hrun hbusy hfills hwait,
    postSignal_other (k := k) (e := e) (by rw [hcore, freed_ctx, hctx]) h hff hidx (hat.trans he), advanceCore_idle]
  · rfl
  · exact (congrArg Core.window hcore).trans ((freed_window ..).trans hwin)
  · exact (congrArg (fun x : Core => x.units.all (fun e => decide (e.2.queue = []))) hcore).trans (freed_queues _ d hq)

end

/-- What O44 says of a command that completes, for a core that lists the unit once: the unit is free and keeps the record, the other
units are as they were, the counts are added, and the signal is posted. -/
theorem commandComplete_frees_of_sorted {s : State} {c : Fin 64} {u : Fin 9} {k : CoreCtx} {q : QCmd} {d : Completion}
    (hrun : coreRuns s c = true) (hwin : (coreOf s c).window = [])
    (hq : (coreOf s c).units.all (fun e => decide (e.2.queue = [])) = true) (hctx : (coreOf s c).ctx = some k)
    (hbusy : (unitQ (coreOf s c) (doneKey (coreOf s c) u)).busy = some (q, d)) (hfills : fillsOwed (coreOf s c) q = false)
    (hwait : q.hdr.waitCount = 0) (hs : tsorted none (coreOf s c).units = true) :
    let x := coreOf s c
    let key := doneKey x u
    let Done (sems : Tab W16) (mesh : List MeshSignal) : Prop :=
      ∃ t, exec (.commandComplete c u) s = .next t ∧ unitQ (coreOf t c) key = { unitQ x key with busy := none, last := d } ∧
        (∀ j, j ≠ key → unitQ (coreOf t c) j = unitQ x j) ∧
        { coreOf t c with units := [] } = { coreAdd .degenTotal d.degen (coreAdd .satTotal d.sat x) with
          units := [], sems := sems, carryRun := if key = 9 then none else x.carryRun } ∧ t.mesh = mesh ∧
        (∀ e, e ≠ c.val → coreOf t e = coreOf s e) ∧ { t with cores := [], mesh := [] } = { s with cores := [], mesh := [] }
    (q.hdr.postCount = 0 → Done x.sems s.mesh) ∧
    (q.hdr.postCount ≠ 0 → (q.hdr.postCore = 0xFF#8 ∨ q.hdr.postCore.toNat = k.idx) →
      (semOf x q.hdr.postSem).toNat + q.hdr.postCount.toNat ≤ 65535 →
      Done (tput 0 x.sems q.hdr.postSem.toNat (semOf x q.hdr.postSem + q.hdr.postCount)) s.mesh) ∧
    (∀ e, q.hdr.postCount ≠ 0 → q.hdr.postCore ≠ 0xFF#8 → q.hdr.postCore.toNat ≠ k.idx → tsorted none s.cores = true →
      coreAtIdx s k.bay k.group q.hdr.postCore.toNat = some e →
      Done x.sems (s.mesh ++ [{ src := c, dst := e, sem := q.hdr.postSem.toNat, count := q.hdr.postCount.toNat }])) := by
  intro x key Done
  have hexec : exec (.commandComplete c u) s = .next (completeUnit s c u) := rfl
  have hdone : ∀ {sems mesh y}, completeUnit s c u = { setCore s c y with mesh := mesh } → y = { freed x key d with sems := sems } →
      Done sems mesh := by
    rintro sems mesh y ht rfl
    have hcore : coreOf (completeUnit s c u) c = { freed x key d with sems := sems } := by
      rw [ht]
      exact coreOf_setCore _ _ _ (core_ne (Option.isSome_of_eq_some ((freed_ctx x key d).trans hctx)))
    refine ⟨_, hexec, ?_, fun j hj => ?_, ?_, ?_, fun e he => ?_, ?_⟩
    · rw [hcore]; exact unitQ_freed key d hs
    · rw [hcore]; exact unitQ_freed_other x d hj
    · rw [hcore, freed_rest]
    · rw [ht]
    · rw [ht]; exact coreOf_setCore_other _ _ (Ne.symm he)
    · rw [ht]; rfl
  refine ⟨fun h => ?_, fun h hown hfit => ?_, fun e h hff hidx hcores he => ?_⟩
  · exact hdone (completeUnit_noSignal hrun hwin hq hctx hbusy hfills hwait h) (by rw [← freed_sems x key d])
  · refine hdone (completeUnit_ownSignal hrun hwin hq hctx hbusy hfills hwait h hown hfit) ?_
    unfold raised semOf
    rw [freed_sems]
  · exact hdone (completeUnit_meshSignal hrun hwin hq hctx hbusy hfills hwait h hff hidx hcores he) (by rw [← freed_sems x key d])

/-! ### A core that lists a unit twice -/

/-- A NOP that waits for nothing and posts nothing. -/
def plainNop : QCmd :=
  { hdr := { flags := 0, waitSem := 0, waitCount := 0, postSem := 0, postCore := 0, postCount := 0, deadline := 0, rsvd := false }
    op := .nop, slot := 0, taken := false, index := 0 }

/-- Unit 0 executing a NOP. -/
def nopBusy : UnitQ := { unitQD with busy := some (plainNop, completion false 0 0 false) }

/-- Core 0 runs a step, and its table of units lists unit 0 twice. -/
def unitTwice : State :=
  { State.reset with cores := [(0, { coreD with
      units := [(0, nopBusy), (0, nopBusy)], ctx := some { bay := 0, group := 0, idx := 0, yealm := 0, nSlots := 1 } })] }

/-- Refutes O44: it asks for sorted units where it reads the record, not where it reads that the unit is free. In `unitTwice` the
completion of the first entry takes it out of the table, and the unit reads as the second one, busy. With every unit listed once the
rest of O44 holds (`commandComplete_frees_of_sorted`). -/
theorem not_completionFreesTheUnit : ¬ Obligations.CompletionFreesTheUnit := by
  unfold Obligations.CompletionFreesTheUnit
  intro h
  obtain ⟨-, -, -, hdone⟩ :=
    h unitTwice 0 0 { bay := 0, group := 0, idx := 0, yealm := 0, nSlots := 1 } rfl rfl rfl rfl
  obtain ⟨hnone, -, -⟩ := hdone plainNop (completion false 0 0 false) rfl rfl rfl
  obtain ⟨t, ht, hfree, -⟩ := hnone rfl
  cases (completeUnit_noSignal (s := unitTwice) (c := 0) (u := 0) rfl rfl rfl rfl rfl rfl rfl rfl).symm.trans (Host.Outcome.next.inj ht)
  exact absurd hfree (by decide)

end Sys2Proof.Machine
end

section
/-!
PROOFS. What the address generators and the array deliver, apart from the core's unit queues and the device's cores: operands,
weights, lines, accumulators and tile buffers (R67, R78, R118, R222 to R226).
-/
namespace Sys2Proof.Machine

open Sys2Proof

/-! ### Operands and weights -/

section
variable (s : State) (c : Nat) (w : Core)

theorem areaAt_setCore : areaAt (setCore s c w) = areaAt s := by
  have hspans : spans (setCore s c w) = spans s := rfl
  unfold areaAt
  rw [hspans]

theorem physByte_setCore (phys : Nat) : physByte (setCore s c w) phys = physByte s phys := by
  unfold physByte
  rw [areaAt_setCore]
  cases areaAt s phys with
  | none => rfl
  | some e =>
    obtain ⟨a, o⟩ := e
    cases a <;> rfl

theorem bayRead_setCore : bayRead (setCore s c w) = bayRead s := by
  have hsource : readSource (setCore s c w) = readSource s := by
    unfold readSource
    rw [areaAt_setCore]
    rfl
  have hfault : poisonFault (setCore s c w) = poisonFault s := by
    unfold poisonFault
    rw [hsource]
    rfl
  have hbyte : bayByte (setCore s c w) = bayByte s := by
    unfold bayByte
    simp only [physByte_setCore]
  unfold bayRead
  rw [hfault, hbyte]

variable (x : Core) (U : Tab UnitQ) (group : List Nat)

theorem srcBytes_setCore (src : OpSrc) (n : Nat) :
    srcBytes (setCore s c w) { x with units := U } group src n = srcBytes s x group src n := by
  cases src with
  | spad a => rfl
  | bay a => exact congrFun (congrFun (congrFun (bayRead_setCore s c w) group) a) n
  | code k => rfl

theorem srcOperand_setCore (wd : WalkDesc) (sign : Bool) :
    srcOperand (setCore s c w) { x with units := U } group wd sign = srcOperand s x group wd sign := by
  funext src
  unfold srcOperand
  rw [srcBytes_setCore]

theorem readWeights_setCore (slot : Nat) (wd : WalkDesc) (used : Nat → Bool) (per n : Nat) :
    readWeights (setCore s c w) { x with units := U } group slot wd used per n = readWeights s x group slot wd used per n := by
  unfold readWeights
  simp only [srcBytes_setCore]
  rfl

end

/-- Work that meets no fault meets none where each of its results is changed by `e`. -/
theorem tryMap_ok_map {α β γ : Type} {f : α → Try β} {g : α → Try γ} {e : β → γ} (hg : ∀ a b, f a = .ok b → g a = .ok (e b))
    {l : List α} {bs : List β} (h : tryMap f l = .ok bs) : tryMap g l = .ok (bs.map e) := by
  induction l generalizing bs with
  | nil => cases h; rfl
  | cons a rest ih =>
    unfold tryMap at h ⊢
    cases hf : f a with
    | error _ => rw [hf] at h; cases h
    | ok b =>
      rw [hf] at h
      cases hr : tryMap f rest with
      | error _ => rw [hr] at h; cases h
      | ok bs' =>
        rw [hr] at h
        cases h
        rw [hg a b hf, ih hr]
        rfl

/-! ### Lines -/

theorem ridgeRead_cores (s : State) (t : Tab Core) (b phys : Nat) (alloc : Bool) :
    ridgeRead { s with cores := t } b phys alloc = { ridgeRead s b phys alloc with cores := t } := by
  have hways : waysOf { s with cores := t } b = waysOf s b := rfl
  have hcache : cacheable { s with cores := t } phys = cacheable s phys := rfl
  have hfence : fenced { s with cores := t } = fenced s := rfl
  have hslice : sliceOf { s with cores := t } = sliceOf s := rfl
  unfold ridgeRead
  simp only [hways, hcache, hfence, hslice]
  split
  · rfl
  · split <;> rfl

theorem foldl_ridgeRead_cores (b : Nat) (lines : List Nat) (s : State) (t : Tab Core) :
    lines.foldl (fun s p => ridgeRead s b p true) { s with cores := t } =
      { lines.foldl (fun s p => ridgeRead s b p true) s with cores := t } := by
  induction lines generalizing s with
  | nil => rfl
  | cons p rest ih => rw [List.foldl_cons, List.foldl_cons, ridgeRead_cores, ih]

section
variable (s : State) (x : Core) (group : List Nat) (ws : List WalkDesc) (weights : List OpSrc) (acts : List (List OpSrc))

theorem walkFetch_cores (t : Tab Core) :
    walkFetch { s with cores := t } x group ws weights acts = { walkFetch s x group ws weights acts with cores := t } := by
  unfold walkFetch
  split
  · rfl
  · exact foldl_ridgeRead_cores ..

theorem cores_walkFetch : (walkFetch s x group ws weights acts).cores = s.cores :=
  (congrArg State.cores (walkFetch_cores s x group ws weights acts s.cores) :)

theorem walkFetch_setCore (c : Nat) (w : Core) :
    walkFetch (setCore s c w) x group ws weights acts = setCore (walkFetch s x group ws weights acts) c w := by
  unfold setCore
  rw [walkFetch_cores, cores_walkFetch]

end

/-! ### Accumulators and tile buffers -/

theorem foldl_accPut_acc {α : Type} (k : α → Nat) (v : α → Acc) (l : List α) (x : Core) :
    l.foldl (fun y e => accPut y (k e) (v e)) x = { x with acc := l.foldl (fun t e => tput 0 t (k e) (v e)) x.acc } := by
  induction l generalizing x with
  | nil => rfl
  | cons e rest ih => rw [List.foldl_cons, ih]; rfl

/-- The core after a command of the array: its cells are in their accumulators, the tile buffers have swapped at each pass, and the
passes are counted (R67, R78, R82). -/
def arrayLeft (x : Core) (cells : List (Nat × Acc × Nat)) (tile : Nat → List (List Byte)) (passes cycles skips : Nat) : Core :=
  coreAdd .skipGroups skips (coreAdd .arrayStreamCycles cycles (coreAdd .arrayPassCount passes
    (swapTiles (cells.foldl (fun y e => accPut y e.1 e.2.1) x) tile passes)))

section
variable (x : Core) (cells : List (Nat × Acc × Nat)) (tile : Nat → List (List Byte)) (passes cycles skips : Nat)

theorem arrayLeft_units (U : Tab UnitQ) : arrayLeft { x with units := U } cells tile passes cycles skips =
    { arrayLeft x cells tile passes cycles skips with units := U } := by
  unfold arrayLeft swapTiles
  rw [foldl_accPut_acc, foldl_accPut_acc]
  split <;> rfl

theorem arrayLeft_sameSeq : SameSeq x (arrayLeft x cells tile passes cycles skips) := by
  unfold arrayLeft swapTiles
  rw [foldl_accPut_acc]
  split <;> exact ⟨rfl, rfl, rfl, rfl, rfl⟩

end

theorem arrRun_units (x : Core) (a : ArrIn) (sat : Nat) (U : Tab UnitQ) :
    arrRun { x with units := U } a sat = ({ (arrRun x a sat).1 with units := U }, (arrRun x a sat).2) :=
  Prod.ext (arrayLeft_units x _ _ _ _ _ U) rfl

theorem arrRun_sameSeq (x : Core) (a : ArrIn) (sat : Nat) : SameSeq x (arrRun x a sat).1 := arrayLeft_sameSeq ..

end Sys2Proof.Machine
end

section
/-!
PROOFS. MATMUL of a plain walk, DIAG and WINO_OUT: what each computes on legal operands (R72, R78, R126, R129), and a command of
the array that meets nothing.
-/
namespace Sys2Proof.Machine

open Sys2Proof

/-! ### MATMUL of a plain walk (R78) -/

/-- Tokens that a MATMUL with one generator multiplies. -/
def matmulTokens (x : Core) (o : ArrOps) (wa : WalkDesc) : Nat :=
  min (slotCount x o.mFixed.toNat o.mPerSlot.toNat) (min (walkTokens (nSlotsOf x) wa o.k.toNat) 512)

/-- Operand `r` of token `t` of a plain walk. -/
def matmulSrc (x : Core) (slot : Nat) (o : ArrOps) (wa : WalkDesc) (t r : Nat) : OpSrc :=
  plainSrc (nSlotsOf x) slot wa (t * o.k.toNat + r)

/-- The operands of each token. -/
def matmulReads (s : State) (x : Core) (slot : Nat) (o : ArrOps) (wa : WalkDesc) : Try (List (List Int)) :=
  tryMap (fun t => tryMap (fun r => srcOperand s x (coreGroup s x) wa (bit o.arrFlags.toNat 2) (matmulSrc x slot o wa t r))
    (List.range o.k.toNat)) (List.range (matmulTokens x o wa))

/-- A weight byte serves a row below K. -/
def matmulUsed (o : ArrOps) : Nat → Bool := weightUsed o.cellMode.toNat o.k.toNat (bit o.arrFlags.toNat 1)

/-- Bytes of a channel's weights. -/
def matmulPer (o : ArrOps) : Nat := channelWeightBytes o.cellMode.toNat o.k.toNat (bit o.arrFlags.toNat 1)

/-- What the array works with. -/
def matmulIn (x : Core) (o : ArrOps) (wa : WalkDesc) (ops : List (List Int)) (ws : List (List Byte)) : ArrIn :=
  { m := matmulTokens x o wa, k := o.k.toNat, n := o.n.toNat, mode := o.cellMode.toNat, keep := bit o.arrFlags.toNat 0
    scales := bit o.arrFlags.toNat 1, base := o.accBase.toNat, ops := ops, ws := ws }

/-- The device after the lines of a MATMUL are fetched. -/
def matmulFetched (s : State) (x : Core) (slot : Nat) (o : ArrOps) (wa ww : WalkDesc) : State :=
  walkFetch s x (coreGroup s x) [wa, wa, ww] (weightSrcs (nSlotsOf x) slot ww (matmulUsed o) (matmulPer o) o.n.toNat)
    [(List.range (matmulTokens x o wa)).flatMap (fun t => (List.range o.k.toNat).map (matmulSrc x slot o wa t)), []]

/-- Operands without saturation, as the Winograd transform would count it. -/
def noSat (ops : List (List Int)) : List (List (Int × Nat)) := ops.map (List.map (fun v => (v, 0)))

theorem noSat_operands (ops : List (List Int)) : (noSat ops).map (fun l => l.map Prod.fst) = ops := by
  simp [noSat, Function.comp_def]

theorem noSat_sum (ops : List (List Int)) : ((noSat ops).map (fun l => (l.map Prod.snd).sum)).sum = 0 := by
  simp [noSat, Function.comp_def]

theorem flatMap_none {α β : Type} (l : List α) : l.flatMap (fun _ => ([] : List β)) = [] :=
  List.flatMap_eq_nil_iff.2 fun _ _ => rfl

/-- One generator supplies all of K. -/
theorem genShare_one (k : Nat) : genShare false false k = k := by
  simp [genShare, genOf]

theorem matmulReads_setCore (s : State) (c : Nat) (w x : Core) (U : Tab UnitQ) (slot : Nat) (o : ArrOps) (wa : WalkDesc) :
    matmulReads (setCore s c w) { x with units := U } slot o wa = matmulReads s x slot o wa := by
  unfold matmulReads
  rw [srcOperand_setCore]
  rfl

theorem matmulFetched_setCore (s : State) (c : Nat) (w x : Core) (U : Tab UnitQ) (slot : Nat) (o : ArrOps) (wa ww : WalkDesc) :
    matmulFetched (setCore s c w) { x with units := U } slot o wa ww = setCore (matmulFetched s x slot o wa ww) c w :=
  walkFetch_setCore ..

/-! ### DIAG (R126) -/

/-- Taps of a diagonal-mode walk. -/
def diagTaps (wa : WalkDesc) : Nat := ((walkWins wa).head?.map (fun g => g.taps)).getD 1

/-- Input channels of a group. -/
def diagGroup (o : ArrOps) (wa : WalkDesc) : Nat := o.k.toNat / max 1 (diagTaps wa)

/-- Input channels that a column's segments hold at a time. -/
def diagSegments (o : ArrOps) (wa : WalkDesc) : Nat := max 1 (min (diagGroup o wa) (32 / max 1 (diagTaps wa)))

/-- K-tiles of an output. -/
def diagKts (o : ArrOps) (wa : WalkDesc) : Nat := ceilDiv (diagGroup o wa) (diagSegments o wa)

/-- Tokens that a DIAG with one generator computes. -/
def diagTokens (x : Core) (o : ArrOps) (wa : WalkDesc) : Nat :=
  min (slotCount x o.mFixed.toNat o.mPerSlot.toNat) (walkTokens (nSlotsOf x) wa o.k.toNat)

/-- The operand at a tap of a channel of a token. -/
def diagSrc (x : Core) (slot : Nat) (wa : WalkDesc) (t ch tap : Nat) : OpSrc := tapOperand (nSlotsOf x) slot wa t ch [tap]

/-- The operands of each token's channels. -/
def diagReads (s : State) (x : Core) (slot : Nat) (o : ArrOps) (wa : WalkDesc) : Try (List (List (List Int))) :=
  tryMap (fun t => tryMap (fun ch => tryMap (fun tap =>
    srcOperand s x (coreGroup s x) wa (bit o.arrFlags.toNat 2) (diagSrc x slot wa t ch tap)) (List.range (diagTaps wa)))
    (List.range (walkCin (nSlotsOf x) wa))) (List.range (diagTokens x o wa))

/-- The operand at a tap of input channel `i` of the group of output channel `ch`. -/
def diagOperand (x : Core) (o : ArrOps) (wa : WalkDesc) (ins : List (List (List Int))) (t ch i tap : Nat) : Int :=
  let g := diagGroup o wa
  ((ins.getD t []).getD (ch * max 1 (walkCin (nSlotsOf x) wa / g) / o.n.toNat * g + i) []).getD tap 0

/-- Accumulator, value and saturations of each output. -/
def diagCells (x : Core) (o : ArrOps) (wa : WalkDesc) (ins : List (List (List Int))) (ws : List (List Byte)) :
    List (Nat × Acc × Nat) :=
  ((List.range (diagTokens x o wa)).map (fun t => (List.range o.n.toNat).map (fun ch =>
    let idx := o.accBase.toNat + ((ch / 64) * diagTokens x o wa + t) * 64 + ch % 64
    (idx, diagCell (bit o.arrFlags.toNat 0) (accGet x idx) (diagGroup o wa) (diagTaps wa)
      (fun i => ((ws.getD ch []).getD i 0).toInt) (diagOperand x o wa ins t ch))))).flatten

/-- The weight tile of a pass. -/
def diagTile (o : ArrOps) (wa : WalkDesc) (ws : List (List Byte)) (p : Nat) : List (List Byte) :=
  let kts := diagKts o wa
  let width := diagSegments o wa * diagTaps wa
  (List.range (min 64 (o.n.toNat - p / kts * 64))).map (fun j => cut (ws.getD (p / kts * 64 + j) []) (p % kts * width) width)

/-- The core after a DIAG. -/
def diagLeft (x : Core) (o : ArrOps) (wa : WalkDesc) (ins : List (List (List Int))) (ws : List (List Byte)) : Core :=
  let m := diagTokens x o wa
  let passes := ceilDiv o.n.toNat 64 * diagKts o wa
  let runs := ceilDiv m (max 1 (((walkWins wa).head?.map winOuts).getD 1))
  arrayLeft x (diagCells x o wa ins ws) (diagTile o wa ws) passes (passes * (m + runs * (diagTaps wa - 1)))
    (diagSkips m o.n.toNat (diagGroup o wa) (diagTaps wa) (diagOperand x o wa ins))

/-- The device after the lines of a DIAG are fetched. -/
def diagFetched (s : State) (x : Core) (slot : Nat) (o : ArrOps) (wa ww : WalkDesc) : State :=
  walkFetch s x (coreGroup s x) [wa, wa, ww] (weightSrcs (nSlotsOf x) slot ww (fun _ => true) o.k.toNat o.n.toNat)
    [(List.range (diagTokens x o wa)).flatMap (fun t => (List.range (walkCin (nSlotsOf x) wa)).flatMap (fun ch =>
      (List.range (diagTaps wa)).map (diagSrc x slot wa t ch))), []]

theorem diagReads_setCore (s : State) (c : Nat) (w x : Core) (U : Tab UnitQ) (slot : Nat) (o : ArrOps) (wa : WalkDesc) :
    diagReads (setCore s c w) { x with units := U } slot o wa = diagReads s x slot o wa := by
  unfold diagReads
  rw [srcOperand_setCore]
  rfl

theorem diagFetched_setCore (s : State) (c : Nat) (w x : Core) (U : Tab UnitQ) (slot : Nat) (o : ArrOps) (wa ww : WalkDesc) :
    diagFetched (setCore s c w) { x with units := U } slot o wa ww = setCore (diagFetched s x slot o wa ww) c w :=
  walkFetch_setCore ..

/-! ### The commands on legal operands -/

section
variable {s : State} {c slot : Nat} {x : Core} {o : ArrOps} {wa ww : WalkDesc} (hx : coreOf s c = x)
  (hflags : o.arrFlags.toNat < 8) (hpos : o.winoPos = 0xFF#8) (hform : o.winoForm = 0) (hwb : o.walkB = 0xFFFF#16)
  (hwa : walkAtIdx x o.walkA.toNat = .ok wa) (hwaok : walkOk (nSlotsOf x) wa = .ok ())
  (hww : walkAtIdx x o.walkW.toNat = .ok ww) (hwwok : walkOk (nSlotsOf x) ww = .ok ())
include hx hflags hpos hform hwb hwa hwaok hww hwwok

theorem doMatmul_plain (hmode : wa.mode = 0) (hlim : arrLimits x (slotCount x o.mFixed.toNat o.mPerSlot.toNat) o.k.toNat o.n.toNat
      o.cellMode.toNat o.accBase.toNat = true) :
    (matmulTokens x o wa = 0 ∨ prodL (walkCounts (nSlotsOf x) ww) = 0 → doMatmul s c slot o = .ok (s, emptyDone)) ∧
    (∀ ops ws, 1 ≤ matmulTokens x o wa → prodL (walkCounts (nSlotsOf x) ww) ≠ 0 → matmulReads s x slot o wa = .ok ops →
      readWeights s x (coreGroup s x) slot ww (matmulUsed o) (matmulPer o) o.n.toNat = .ok ws →
      doMatmul s c slot o = .ok (setCore (matmulFetched s x slot o wa ww) c (arrRun x (matmulIn x o wa ops ws) 0).1,
        (arrRun x (matmulIn x o wa ops ws) 0).2)) := by
  have hwino : decide (o.winoPos ≠ 0xFF#8) = false := decide_eq_false (not_not_intro hpos)
  have htwo : decide (o.walkB ≠ 0xFFFF#16) = false := decide_eq_false (not_not_intro hwb)
  have hsrc : ∀ row t r, walkSrc (nSlotsOf x) slot wa row o.k.toNat t r = matmulSrc x slot o wa t r :=
    fun row t r => by unfold walkSrc; rw [hmode]; rfl
  unfold doMatmul
  simp only [hx, hwino, htwo, Bool.false_eq_true, if_false, genOf, genShare_one]
  refine ⟨fun hn => ?empty, fun ops ws hm hw hops hws => ?run⟩ <;>
    refine (bind_of (need_of (decide_eq_true hflags))).trans ((bind_of (need_of hlim)).trans ((bind_of (need_of (by simp [hform]))).trans
      ((bind_of hwa).trans ((bind_of hwaok).trans ((bind_of rfl).trans ((bind_of hwaok).trans ((bind_of hww).trans
        ((bind_of hwwok).trans ((bind_of (need_of (by simp [hmode]))).trans ?_)))))))))
  case empty => exact if_pos hn
  case run =>
    have hcells : tryMap (fun t => tryMap (fun r =>
        match srcOperand s x (coreGroup s x) wa (bit o.arrFlags.toNat 2) (matmulSrc x slot o wa t r) with
        | .error e => .error e
        | .ok v => .ok (v, 0)) (List.range o.k.toNat)) (List.range (matmulTokens x o wa)) = .ok (noSat ops) :=
      tryMap_ok_map (fun t vs hvs => tryMap_ok_map (fun r v hv => by rw [hv]) hvs) hops
    refine (if_neg (not_or.2 ⟨Nat.ne_of_gt hm, hw⟩)).trans ((bind_of (a := (0, s)) (if_neg (by omega))).trans ?_)
    simp only [hsrc]
    refine (bind_of hcells).trans ((bind_of hws).trans ?_)
    simp only [noSat_operands, noSat_sum, decide_true, decide_false, List.filter_true, List.filter_false, ← List.map_eq_flatMap,
      List.flatMap_nil, flatMap_none]
    rfl

theorem doDiag_of (hmode : wa.mode = 3) (hcell : o.cellMode = 0) (hsc : bit o.arrFlags.toNat 1 = false)
    (hdiv : o.k.toNat % diagTaps wa = 0) (hone : 1 ≤ diagGroup o wa)
    (hlim : arrLimits x (slotCount x o.mFixed.toNat o.mPerSlot.toNat) o.k.toNat o.n.toNat 0 o.accBase.toNat = true) :
    (diagTokens x o wa = 0 ∨ prodL (walkCounts (nSlotsOf x) ww) = 0 → doDiag s c slot o = .ok (s, emptyDone)) ∧
    (∀ ins ws, 1 ≤ diagTokens x o wa → prodL (walkCounts (nSlotsOf x) ww) ≠ 0 → diagReads s x slot o wa = .ok ins →
      readWeights s x (coreGroup s x) slot ww (fun _ => true) o.k.toNat o.n.toNat = .ok ws →
      doDiag s c slot o = .ok (setCore (diagFetched s x slot o wa ww) c (diagLeft x o wa ins ws),
        completion false (((diagCells x o wa ins ws).map (fun e => e.2.2)).sum) 0 false)) := by
  have htwo : decide (o.walkB ≠ 0xFFFF#16) = false := decide_eq_false (not_not_intro hwb)
  have hlegal : (decide (o.cellMode = 0) && !(bit o.arrFlags.toNat 1) && decide (wa.mode = 3) && decide (wa.mode = 3) &&
      decide (o.k.toNat % diagTaps wa = 0) && decide (1 ≤ diagGroup o wa)) = true := by
    simp [hcell, hsc, hmode, hdiv, hone]
  unfold doDiag
  simp only [hx, htwo, Bool.false_eq_true, if_false, genOf]
  refine ⟨fun hn => ?empty, fun ins ws hm hw hins hws => ?run⟩ <;>
    refine (bind_of (need_of (decide_eq_true hflags))).trans ((bind_of (need_of (by simp [hlim, hpos, hform]))).trans
      ((bind_of hwa).trans ((bind_of hwaok).trans ((bind_of rfl).trans ((bind_of hwaok).trans ((bind_of hww).trans
        ((bind_of hwwok).trans ((bind_of (need_of hlegal)).trans ?_)))))))) <;>
    simp only [min_self, Nat.add_zero]
  case empty => exact if_pos hn
  case run =>
    refine (if_neg (not_or.2 ⟨Nat.ne_of_gt hm, hw⟩)).trans ((bind_of hins).trans ((bind_of hws).trans ?_))
    simp only [decide_true, decide_false, List.filter_true, List.filter_false, List.flatMap_nil, flatMap_none]
    rfl

end

/-! ### WINO_OUT (R129, R130) -/

/-- Accumulator of position `j` of tile `i`. -/
def winoAcc (o : WinoOps) (tiles i j : Nat) : Nat := o.accBase.toNat + j * tiles + i

/-- The results of tile `i` with their saturations (R129). -/
def winoResult (x : Core) (o : WinoOps) (tiles i : Nat) : List Acc × Nat :=
  winoTile o.winoForm.toNat
    ((List.range (if o.winoForm.toNat = 0 then 4 else 16)).map (fun j => accGet x (winoAcc o tiles i j)))

/-- The results of tile `i` that are no surplus output, by position (R130). -/
def winoKept (x : Core) (o : WinoOps) (tiles i : Nat) : List (Nat × Acc) :=
  ((winoResult x o tiles i).1.mapIdx (fun j v => (j, v))).filter (fun e => !winoSurplus x.wino o.winoForm.toNat i e.1)

/-- The core with the results of tile `i` of core `x` written, and the saturations so far. -/
def winoWrite (x : Core) (o : WinoOps) (tiles : Nat) (r : Core × Nat) (i : Nat) : Core × Nat :=
  ((winoKept x o tiles i).foldl (fun y e => accPut y (winoAcc o tiles i e.1) e.2) r.1, r.2 + (winoResult x o tiles i).2)

/-- The core after a WINO_OUT, with its saturations. -/
def winoLeft (x : Core) (o : WinoOps) (tiles : Nat) : Core × Nat := (List.range tiles).foldl (winoWrite x o tiles) (x, 0)

theorem winoWrite_units (x : Core) (o : WinoOps) (tiles : Nat) (U : Tab UnitQ) (r : Core × Nat) (i : Nat) :
    winoWrite x o tiles ({ r.1 with units := U }, r.2) i =
      ({ (winoWrite x o tiles r i).1 with units := U }, (winoWrite x o tiles r i).2) := by
  simp only [winoWrite, foldl_accPut_acc]

theorem winoWrite_sameSeq (x : Core) (o : WinoOps) (tiles : Nat) (r : Core × Nat) (i : Nat) :
    SameSeq r.1 (winoWrite x o tiles r i).1 := by
  simp only [winoWrite, foldl_accPut_acc]
  exact ⟨rfl, rfl, rfl, rfl, rfl⟩

theorem foldl_winoWrite (x : Core) (o : WinoOps) (tiles : Nat) (U : Tab UnitQ) (l : List Nat) (r : Core × Nat) :
    l.foldl (winoWrite x o tiles) ({ r.1 with units := U }, r.2) =
        ({ (l.foldl (winoWrite x o tiles) r).1 with units := U }, (l.foldl (winoWrite x o tiles) r).2) ∧
      SameSeq r.1 (l.foldl (winoWrite x o tiles) r).1 := by
  induction l generalizing r with
  | nil => exact ⟨rfl, .refl _⟩
  | cons i rest ih =>
    obtain ⟨hunits, hsame⟩ := ih (winoWrite x o tiles r i)
    rw [List.foldl_cons, List.foldl_cons, winoWrite_units]
    exact ⟨hunits, (winoWrite_sameSeq x o tiles r i).trans hsame⟩

theorem doWinoOut_of {s : State} {c : Nat} {x : Core} {o : WinoOps} {tiles : Nat} (hx : coreOf s c = x)
    (htiles : slotCount x o.tilesFixed.toNat o.tilesPerSlot.toNat = tiles) (hform : o.winoForm.toNat ≤ 1) (hres : sResOk x = true)
    (hbase : o.accBase.toNat % 64 = 0)
    (hfit : o.accBase.toNat + tiles * (if o.winoForm.toNat = 0 then 4 else 16) ≤ 32768 - x.sRes) :
    (tiles = 0 → doWinoOut s c o = .ok (s, emptyDone)) ∧
    (1 ≤ tiles → doWinoOut s c o =
      .ok (setCore s c (winoLeft x o tiles).1, completion false (winoLeft x o tiles).2 0 false)) := by
  have hlegal : (sResOk x && decide (o.winoForm.toNat ≤ 1) && decide (o.accBase.toNat % 64 = 0) &&
      decide (o.accBase.toNat + tiles * (if o.winoForm.toNat = 0 then 4 else 16) ≤ 32768 - x.sRes)) = true := by
    rw [hres, decide_eq_true hform, decide_eq_true hbase, decide_eq_true hfit]
    rfl
  unfold doWinoOut
  simp only [hx, htiles]
  refine ⟨fun hn => ?empty, fun hn => ?run⟩ <;> refine (bind_of (need_of hlegal)).trans ?_
  case empty => exact if_pos hn
  case run => exact if_neg (by omega)

theorem winoLeft_units (x : Core) (o : WinoOps) (tiles : Nat) (U : Tab UnitQ) :
    winoLeft { x with units := U } o tiles = ({ (winoLeft x o tiles).1 with units := U }, (winoLeft x o tiles).2) :=
  (foldl_winoWrite x o tiles U _ (x, 0)).1

theorem winoLeft_sameSeq (x : Core) (o : WinoOps) (tiles : Nat) : SameSeq x (winoLeft x o tiles).1 :=
  (foldl_winoWrite x o tiles [] _ (x, 0)).2

end Sys2Proof.Machine
end

section
/-!
PROOFS. Commands of the matrix array (O39): the array's by what each computes, CARRY beside them (R77, R83). A core that lists the
array twice refutes O39 as it stands.
-/
namespace Sys2Proof.Machine

open Sys2Proof

/-! ### The core while a command runs -/

/-- Core `y` with the units of core `c` as they stand while the command leaves its unit's queue. -/
def leaving (s : State) (c : Nat) (h : CmdHdr) (op : CoreOp) (y : Core) : Core :=
  { y with units := unitsAt (coreOf s c) (opUnit op) (inUnit s c h op) }

theorem atIssue_ctx {s : State} {c : Nat} {h : CmdHdr} {op : CoreOp} (hg : goes s c h op = true) :
    (atIssue s c h op).ctx.isSome = true := coreRuns_ctx (goes_parts hg).1

theorem leaving_ne {s : State} {c : Nat} {h : CmdHdr} {op : CoreOp} {y : Core} (hc : y.ctx.isSome = true) :
    leaving s c h op y ≠ coreD := core_ne hc

theorem coreOf_atUnit_leaving {s : State} {c : Nat} {h : CmdHdr} {op : CoreOp} (hg : goes s c h op = true) :
    coreOf (atUnit s c h op) c = leaving s c h op (atIssue s c h op) := coreOf_atUnit hg

/-- A command that leaves its unit's queue leaves every unit as it was, where the core lists each unit once. -/
theorem unitQ_unitsAt {x : Core} (u : Nat) (q : QCmd) (hq : x.units.all (fun e => decide (e.2.queue = [])) = true)
    (hs : tsorted none x.units = true) (k : Nat) : tget unitQD (unitsAt x u q) k = unitQ x k := by
  by_cases hk : k = u
  · have hin := tsorted_tput unitQD x.units none u { unitQ x u with queue := (unitQ x u).queue ++ [q] } hs (fun l hl => by cases hl)
    have hput : tget unitQD (tput unitQD x.units u { unitQ x u with queue := (unitQ x u).queue ++ [q] }) u = _ :=
      tget_tput_ne _ _ _ _ (unitQD_queue (by simp))
    unfold unitsAt
    rw [hk, tget_tput_sorted _ _ _ _ hin, hput]
    exact congrArg (fun l => { unitQ x u with queue := l }) (unitQ_queue hq u).symm
  · exact unitsAt_other x q hk

/-! ### A command of the array that meets nothing -/

section
variable {i : Instr} {s : State} {c : Nat} {h : CmdHdr} {op : CoreOp}

/-- What the command's unit leaves of the device and of the core is what the command leaves. -/
theorem issues_array {u : State} {y : Core} {d : Completion} (hu : opUnit op = 1) (hcar : ∀ o, op ≠ .carry o)
    (hi : exec i s = .next (submit s c h op)) (hg : goes s c h op = true) (hy : SameSeq (atIssue s c h op) y)
    (hcores : u.cores = s.cores)
    (hr : runOp (atUnit s c h op) c (inUnit s c h op) =
      .ok (setCore (setCore u c (leaving s c h op (atIssue s c h op))) c (leaving s c h op y), some d)) :
    Issues i c h op s u y d := by
  obtain ⟨hunits, hctx, hwin, -, -⟩ := hy
  obtain ⟨-, hw, -⟩ := goes_parts hg
  have hc : y.ctx.isSome = true := hctx ▸ atIssue_ctx hg
  rw [setCore_setCore u c (leaving_ne (atIssue_ctx hg)) (leaving_ne hc)] at hr
  refine issues_of hi hg ?_ hcar hr (fun e _ => coreOf_congr hcores e) (hwin.trans hw) hc hunits
  rintro o rfl
  have : opUnit (.arm o) = 5 + o.engine.val := rfl
  omega

/-- A command of the array that completes empty leaves the core as it found it (R64, R135). -/
theorem issues_arrayEmpty (hu : opUnit op = 1) (hcar : ∀ o, op ≠ .carry o) (hi : exec i s = .next (submit s c h op))
    (hg : goes s c h op = true) (hr : runOp (atUnit s c h op) c (inUnit s c h op) = .ok (atUnit s c h op, some emptyDone)) :
    Issues i c h op s s (atIssue s c h op) emptyDone := by
  refine issues_array hu hcar hi hg (.refl _) rfl (hr.trans (congrArg (fun t => Except.ok (t, some emptyDone)) ?_))
  have hne : leaving s c h op (atIssue s c h op) ≠ coreD := leaving_ne (atIssue_ctx hg)
  exact (setCore_setCore s c hne hne).symm

end

/-! ### CARRY -/

theorem doCarry_of {s : State} {c : Nat} {x : Core} {o : CarryOps} (hx : coreOf s c = x) (hf : o.carryFlags.toNat < 2)
    (hl : carryLimits x o = true) :
    doCarry s c o = .ok (setCore s c { x with carryRun := some { ops := o, done := 0 } }, completion false 0 0 false) := by
  unfold doCarry
  simp only [hx]
  exact (bind_of (need_of (decide_eq_true hf))).trans (bind_of (need_of hl))

section
variable (s : State) (c : Nat) (h : CmdHdr) (o : CarryOps)

/-- The core with the run of a CARRY begun (R83). -/
def runBegun : Core := { atIssue s c h (.carry o) with carryRun := some { ops := o, done := 0 } }

/-- The entry of the state-carry path, key 9 beside the array's (R77), once it holds the CARRY. -/
def pathHolds : UnitQ :=
  { unitQ (coreOf s c) 9 with busy := some (inUnit s c h (.carry o), completion false 0 0 false) }

/-- The core once the path holds the CARRY. -/
def carrying : Core := setUnitQ (leaving s c h (.carry o) (runBegun s c h o)) 9 (pathHolds s c h o)

end

section
variable {s : State} {c : Nat} {h : CmdHdr} {o : CarryOps}

theorem unitQ_carrying_path : unitQ (carrying s c h o) 9 = pathHolds s c h o :=
  unitQ_setUnitQ_ne _ _ _ (fun e => by cases congrArg UnitQ.busy e)

theorem unitQ_carrying_other {k : Nat} (hk : k ≠ 9) :
    unitQ (carrying s c h o) k = tget unitQD (unitsAt (coreOf s c) 1 (inUnit s c h (.carry o))) k :=
  unitQ_setUnitQ_other _ _ hk.symm

theorem unitQ_carrying_queue (hq : (coreOf s c).units.all (fun e => decide (e.2.queue = [])) = true) (k : Nat) :
    (unitQ (carrying s c h o) k).queue = [] := by
  by_cases hk : k = 9
  · rw [hk, unitQ_carrying_path]
    exact unitQ_queue hq 9
  · rw [unitQ_carrying_other hk]
    exact unitsAt_queue _ _ _ _ hq

/-- With no operand on the path, the run stays at its start. -/
theorem executing_carry (hA : (coreOf s c).carryA = []) :
    executing (.carry o) (inUnit s c h (.carry o), completion false 0 0 false) (leaving s c h (.carry o) (runBegun s c h o)) =
      carrying s c h o := by
  have hpath : unitQ (leaving s c h (.carry o) (runBegun s c h o)) 9 = unitQ (coreOf s c) 9 :=
    unitsAt_other (coreOf s c) _ (by decide : 9 ≠ 1)
  have hgo : ∀ {y : Core}, y.carryA = [] → carryAdvance y = y := fun hy => by unfold carryAdvance; rw [hy]; rfl
  unfold executing
  rw [show busyKey (.carry o) = 9 from rfl, hpath]
  exact hgo hA

/-- A CARRY that meets nothing starts its run on the free path (R83). -/
theorem carry_starts (hg : goes s c h (.carry o) = true) (hf : o.carryFlags.toNat < 2) (hl : carryLimits (coreOf s c) o = true)
    (hA : (coreOf s c).carryA = []) :
    ∃ n, submit s c h (.carry o) = setCore { s with fresh := n } c (carrying s c h o) := by
  obtain ⟨hrun, hwin, -, -, hall, -⟩ := goes_parts hg
  have hctx := coreRuns_ctx hrun
  have hcore : coreOf (setCore s c (leaving s c h (.carry o) (runBegun s c h o))) c = leaving s c h (.carry o) (runBegun s c h o) :=
    coreOf_setCore _ _ _ (core_ne hctx)
  have hdo := (doCarry_of (coreOf_atUnit_leaving hg) hf hl).trans
    (congrArg (fun t => Except.ok (t, _)) (atUnit_set hg (leaving s c h (.carry o) (runBegun s c h o)) hctx))
  have hexec := executing_carry (h := h) (o := o) hA
  obtain ⟨n, hn⟩ := submit_run hg (fun _ e => by cases e) (by simp only [runOp, inUnit, hdo]; rfl)
    (by rw [hcore, hexec]; exact hwin) (by rw [hcore, hexec]; exact hctx) (by rw [hcore, hexec]; exact unitQ_carrying_queue hall)
  refine ⟨n, hn.trans ?_⟩
  unfold modCore
  rw [show coreOf { setCore s c _ with fresh := n } c = _ from hcore, hexec]
  exact setCore_setCore { s with fresh := n } c (core_ne hctx) (core_ne hctx)

/-- CARRY as O39 has it, for a core that lists each unit once: without that, the array's own entry may read otherwise after the
command has left its queue. -/
theorem carry_issues_of_sorted {c : Fin 64} (hg : goes s c h (.carry o) = true) (hf : o.carryFlags.toNat < 2)
    (hl : carryLimits (coreOf s c) o = true) (hA : (coreOf s c).carryA = []) (hs : tsorted none (coreOf s c).units = true) :
    Issues (.carry c h o) c h (.carry o) s s { atIssue s c h (.carry o) with carryRun := some { ops := o, done := 0 } }
      (completion false 0 0 false) := by
  obtain ⟨hrun, -, -, -, hall, -⟩ := goes_parts hg
  obtain ⟨n, hn⟩ := carry_starts hg hf hl hA
  have hcore : coreOf (setCore { s with fresh := n } c (carrying s c h o)) c = carrying s c h o :=
    coreOf_setCore _ _ _ (core_ne (coreRuns_ctx hrun))
  have hsame : ∀ k, k ≠ 9 → unitQ (carrying s c h o) k = unitQ (coreOf s c) k := fun k hk => by
    rw [unitQ_carrying_other hk]
    exact unitQ_unitsAt _ _ hall hs k
  refine ⟨_, congrArg Host.Outcome.next hn, ?_⟩
  rw [hcore]
  refine ⟨unitQ_carrying_queue hall 1, congrArg UnitQ.busy unitQ_carrying_path, fun _ k => ?_, fun k _ hk => hsame k hk,
    fun k hk => congrArg UnitQ.busy (hsame k hk), rfl, fun e he => coreOf_setCore_other _ _ (Ne.symm he), rfl⟩
  by_cases hk : k = 9
  · rw [hk, unitQ_carrying_path]; rfl
  · exact congrArg UnitQ.last (hsame k hk)

end

/-! ### The commands of the array -/

/-- All that O39 says, for a core that lists each unit once. Only CARRY needs that. -/
theorem arrayCommandsRun_of_sorted {s : State} {c : Fin 64} {h : CmdHdr} (hs : tsorted none (coreOf s c).units = true) :
    (∀ (o : ArrOps) (wa ww : WalkDesc), goes s c h (.matmul o) = true →
      let x := atIssue s c h (.matmul o)
      let ns := nSlotsOf x
      let k := o.k.toNat
      let n := o.n.toNat
      let mode := o.cellMode.toNat
      let m := slotCount x o.mFixed.toNat o.mPerSlot.toNat
      let mm := min m (min (walkTokens ns wa k) 512)
      let scales := bit o.arrFlags.toNat 1
      let used := weightUsed mode k scales
      let per := channelWeightBytes mode k scales
      let src (t r : Nat) : OpSrc := plainSrc ns 0 wa (t * k + r)
      o.arrFlags.toNat < 8 → arrLimits x m k n mode o.accBase.toNat = true → o.winoPos = 0xFF#8 → o.winoForm = 0 →
      o.walkB = 0xFFFF#16 → walkAtIdx x o.walkA.toNat = .ok wa → walkOk ns wa = .ok () → wa.mode = 0 →
      walkAtIdx x o.walkW.toNat = .ok ww → walkOk ns ww = .ok () →
      (mm = 0 ∨ prodL (walkCounts ns ww) = 0 → Issues (.matmul c h o) c h (.matmul o) s s x emptyDone) ∧
      (∀ (ops : List (List Int)) (ws : List (List Byte)), 1 ≤ mm → prodL (walkCounts ns ww) ≠ 0 →
        tryMap (fun t => tryMap (fun r => srcOperand s x (coreGroup s x) wa (bit o.arrFlags.toNat 2) (src t r)) (List.range k))
          (List.range mm) = .ok ops →
        readWeights s x (coreGroup s x) 0 ww used per n = .ok ws →
        let a : ArrIn := { m := mm, k := k, n := n, mode := mode, keep := bit o.arrFlags.toNat 0, scales := scales
                           base := o.accBase.toNat, ops := ops, ws := ws }
        Issues (.matmul c h o) c h (.matmul o) s
          (walkFetch s x (coreGroup s x) [wa, wa, ww] (weightSrcs ns 0 ww used per n)
            [(List.range mm).flatMap (fun t => (List.range k).map (src t)), []])
          (arrRun x a 0).1 (arrRun x a 0).2)) ∧
    (∀ (o : ArrOps) (wa ww : WalkDesc), goes s c h (.diag o) = true →
      let x := atIssue s c h (.diag o)
      let ns := nSlotsOf x
      let k := o.k.toNat
      let n := o.n.toNat
      let m := slotCount x o.mFixed.toNat o.mPerSlot.toNat
      let taps := ((walkWins wa).head?.map (fun g => g.taps)).getD 1
      let g := k / max 1 taps
      let mm := min m (walkTokens ns wa k)
      let chans := walkCin ns wa
      let sN := max 1 (min g (32 / max 1 taps))
      let kts := ceilDiv g sN
      let passes := ceilDiv n 64 * kts
      let runs := ceilDiv mm (max 1 (((walkWins wa).head?.map winOuts).getD 1))
      let src (t ch tap : Nat) : OpSrc := tapOperand ns 0 wa t ch [tap]
      o.arrFlags.toNat < 8 → arrLimits x m k n 0 o.accBase.toNat = true → o.winoPos = 0xFF#8 → o.winoForm = 0 →
      o.cellMode = 0 → bit o.arrFlags.toNat 1 = false → o.walkB = 0xFFFF#16 →
      walkAtIdx x o.walkA.toNat = .ok wa → walkOk ns wa = .ok () → wa.mode = 3 → k % taps = 0 → 1 ≤ g →
      walkAtIdx x o.walkW.toNat = .ok ww → walkOk ns ww = .ok () →
      (mm = 0 ∨ prodL (walkCounts ns ww) = 0 → Issues (.diag c h o) c h (.diag o) s s x emptyDone) ∧
      (∀ (ins : List (List (List Int))) (ws : List (List Byte)), 1 ≤ mm → prodL (walkCounts ns ww) ≠ 0 →
        tryMap (fun t => tryMap (fun ch => tryMap (fun tap =>
          srcOperand s x (coreGroup s x) wa (bit o.arrFlags.toNat 2) (src t ch tap)) (List.range taps))
          (List.range chans)) (List.range mm) = .ok ins →
        readWeights s x (coreGroup s x) 0 ww (fun _ => true) k n = .ok ws →
        let v (t ch i tap : Nat) : Int := ((ins.getD t []).getD (ch * max 1 (chans / g) / n * g + i) []).getD tap 0
        let cells := ((List.range mm).map (fun t => (List.range n).map (fun ch =>
          let idx := o.accBase.toNat + ((ch / 64) * mm + t) * 64 + ch % 64
          (idx, diagCell (bit o.arrFlags.toNat 0) (accGet x idx) g taps (fun i => ((ws.getD ch []).getD i 0).toInt) (v t ch))))).flatten
        let tile (p : Nat) : List (List Byte) := (List.range (min 64 (n - p / kts * 64))).map (fun j =>
          cut (ws.getD (p / kts * 64 + j) []) (p % kts * (sN * taps)) (sN * taps))
        Issues (.diag c h o) c h (.diag o) s
          (walkFetch s x (coreGroup s x) [wa, wa, ww] (weightSrcs ns 0 ww (fun _ => true) k n)
            [(List.range mm).flatMap (fun t => (List.range chans).flatMap (fun ch => (List.range taps).map (src t ch))), []])
          (coreAdd .skipGroups (diagSkips mm n g taps v)
            (coreAdd .arrayStreamCycles (passes * (mm + runs * (taps - 1))) (coreAdd .arrayPassCount passes
              (swapTiles (cells.foldl (fun y e => accPut y e.1 e.2.1) x) tile passes))))
          (completion false ((cells.map (fun e => e.2.2)).sum) 0 false))) ∧
    (∀ o : WinoOps, goes s c h (.winoOut o) = true →
      let x := atIssue s c h (.winoOut o)
      let tiles := slotCount x o.tilesFixed.toNat o.tilesPerSlot.toNat
      let form := o.winoForm.toNat
      let per := if form = 0 then 4 else 16
      form ≤ 1 → sResOk x = true → o.accBase.toNat % 64 = 0 → o.accBase.toNat + tiles * per ≤ 32768 - x.sRes →
      let at' (i j : Nat) : Nat := o.accBase.toNat + j * tiles + i
      let r := (List.range tiles).foldl (fun (r : Core × Nat) i =>
        let t := winoTile form ((List.range per).map (fun j => accGet x (at' i j)))
        let kept := (t.1.mapIdx (fun j v => (j, v))).filter (fun e => !winoSurplus x.wino form i e.1)
        (kept.foldl (fun y e => accPut y (at' i e.1) e.2) r.1, r.2 + t.2)) (x, 0)
      (tiles = 0 → Issues (.winoOut c h o) c h (.winoOut o) s s x emptyDone) ∧
      (1 ≤ tiles → Issues (.winoOut c h o) c h (.winoOut o) s s r.1 (completion false r.2 0 false))) ∧
    (∀ o : CarryOps, goes s c h (.carry o) = true → o.carryFlags.toNat < 2 → carryLimits (coreOf s c) o = true →
      (coreOf s c).carryA = [] →
      Issues (.carry c h o) c h (.carry o) s s { atIssue s c h (.carry o) with carryRun := some { ops := o, done := 0 } }
        (completion false 0 0 false)) := by
  refine ⟨?matmul, ?diag, ?wino, fun o hg hf hl hA => carry_issues_of_sorted hg hf hl hA hs⟩
  case matmul =>
    intro o wa ww hg x ns k n mode m mm scales used per src hflags hlim hpos hform hwb hwa hwaok hmode hww hwwok
    have hrun : ∀ t e, doMatmul (atUnit s c h (.matmul o)) c 0 o = .ok (t, e) →
        runOp (atUnit s c h (.matmul o)) c (inUnit s c h (.matmul o)) = .ok (t, some e) :=
      fun t e hdo => by simp only [runOp, inUnit, hdo]
    obtain ⟨hempty, hsome⟩ := doMatmul_plain (slot := 0) (coreOf_atUnit_leaving hg) hflags hpos hform hwb hwa hwaok hww hwwok hmode hlim
    refine ⟨fun hn => issues_arrayEmpty rfl nofun rfl hg (hrun _ _ (hempty hn)), fun ops ws hm hw hops hws => ?_⟩
    have hfetch : matmulFetched (atUnit s c h (.matmul o)) (leaving s c h (.matmul o) x) 0 o wa ww = _ :=
      matmulFetched_setCore ..
    have harr : arrRun (leaving s c h (.matmul o) x) (matmulIn x o wa ops ws) 0 = _ := arrRun_units ..
    have hdo := hsome ops ws hm hw ((matmulReads_setCore ..).trans hops) ((readWeights_setCore ..).trans hws)
    rw [hfetch] at hdo
    refine issues_array rfl nofun rfl hg (arrRun_sameSeq ..) (cores_walkFetch ..) (hrun _ _ (hdo.trans ?_))
    exact congrArg (fun r : Core × Completion => Except.ok (setCore _ c r.1, r.2)) harr
  case diag =>
    intro o wa ww hg x ns k n m taps g mm chans sN kts passes runs src hflags hlim hpos hform hcell hsc hwb hwa hwaok hmode hdiv hone
      hww hwwok
    have hrun : ∀ t e, doDiag (atUnit s c h (.diag o)) c 0 o = .ok (t, e) →
        runOp (atUnit s c h (.diag o)) c (inUnit s c h (.diag o)) = .ok (t, some e) :=
      fun t e hdo => by simp only [runOp, inUnit, hdo]
    obtain ⟨hempty, hsome⟩ := doDiag_of (slot := 0) (coreOf_atUnit_leaving hg) hflags hpos hform hwb hwa hwaok hww hwwok hmode hcell hsc
      hdiv hone hlim
    refine ⟨fun hn => issues_arrayEmpty rfl nofun rfl hg (hrun _ _ (hempty hn)), fun ins ws hm hw hins hws => ?_⟩
    have hfetch : diagFetched (atUnit s c h (.diag o)) (leaving s c h (.diag o) x) 0 o wa ww = _ := diagFetched_setCore ..
    have hleft : diagLeft (leaving s c h (.diag o) x) o wa ins ws = _ := arrayLeft_units ..
    have hdo := hsome ins ws hm hw ((diagReads_setCore ..).trans hins) ((readWeights_setCore ..).trans hws)
    rw [hfetch, hleft] at hdo
    exact issues_array (y := diagLeft x o wa ins ws) rfl nofun rfl hg (arrayLeft_sameSeq ..) (cores_walkFetch ..) (hrun _ _ hdo)
  case wino =>
    intro o hg x tiles form per hform hres hbase hfit acc r
    have hrun : ∀ t e, doWinoOut (atUnit s c h (.winoOut o)) c o = .ok (t, e) →
        runOp (atUnit s c h (.winoOut o)) c (inUnit s c h (.winoOut o)) = .ok (t, some e) :=
      fun t e hdo => by simp only [runOp, inUnit, hdo]
    obtain ⟨hempty, hsome⟩ := doWinoOut_of (coreOf_atUnit_leaving hg) rfl hform hres hbase hfit
    refine ⟨fun hn => issues_arrayEmpty rfl nofun rfl hg (hrun _ _ (hempty hn)), fun hn => ?_⟩
    have hleft : winoLeft (leaving s c h (.winoOut o) x) o tiles = _ := winoLeft_units ..
    refine issues_array (y := (winoLeft x o tiles).1) rfl nofun rfl hg (winoLeft_sameSeq ..) rfl (hrun _ _ ((hsome hn).trans ?_))
    exact congrArg (fun r : Core × Nat => Except.ok (setCore _ c r.1, completion false r.2 0 false)) hleft

/-! ### A core that lists the array twice -/

/-- Core 0 runs a step with the smallest state region, and its table of units lists the array twice: idle, and executing a NOP. -/
def arrayTwice : State :=
  { State.reset with cores := [(0, { coreD with
      sRes := 1024, units := [(1, unitQD), (1, nopBusy)], ctx := some { bay := 0, group := 0, idx := 0, yealm := 0, nSlots := 1 } })] }

/-- One stream of 64 elements at the end of the accumulators. -/
def smallCarry : CarryOps := { start := 32704, len := 64, streams := 1, carryFlags := 0, streamStep := 0, samples := 1 }

/-- Refutes O39, in its clause about CARRY alone: that lets the units' table be unsorted where it says that a unit other than the
state-carry path keeps what it executes. In `arrayTwice` the CARRY takes the array's first entry out of the table as it leaves the
array's queue, and the array reads as the second one, busy. With every unit listed once, O39 holds (`arrayCommandsRun_of_sorted`). -/
theorem not_arrayCommandsRun : ¬ Obligations.ArrayCommandsRun := by
  unfold Obligations.ArrayCommandsRun
  intro h
  obtain ⟨-, -, -, hcarry⟩ := h arrayTwice 0 plainNop.hdr
  obtain ⟨t, ht, -, -, -, -, hbusy, -⟩ := hcarry smallCarry rfl (by decide) rfl rfl
  obtain ⟨n, hn⟩ := carry_starts (s := arrayTwice) (c := 0) (h := plainNop.hdr) (o := smallCarry) rfl (by decide) rfl rfl
  cases hn.symm.trans (Host.Outcome.next.inj ht)
  have hidle : (unitQ (carrying arrayTwice 0 plainNop.hdr smallCarry) 1).busy = none :=
    (congrArg (fun x => (unitQ x 1).busy) (coreOf_setCore _ _ _ (core_ne rfl))).symm.trans (hbusy 1 (by decide))
  rw [unitQ_carrying_other (by decide)] at hidle
  exact absurd hidle (by decide)

end Sys2Proof.Machine
end

section
/-!
PROOFS. What a message in hand reads and leaves: the state in which firmware runs a host message differs from the one before it in
the transport alone.
-/
namespace Sys2Proof.Machine

open Sys2Proof

/-! ### A message in hand -/

/-- `u` while firmware has in hand a message that it took in `s`: out of its mailbox, and unanswered. -/
def held (s : State) (typ : Nat) (m : HostMsg) (u : State) : State :=
  { u with mail := (outOfBox s typ m).mail, mailLast := m.conn % 64, unanswered := s.unanswered ++ [respTo s typ m] }

theorem inHand_eq_held (s : State) (typ : Nat) (m : HostMsg) : inHand s typ m = held s typ m s := by
  unfold inHand
  rw [outOfBox_eq]
  rfl

section
variable {i : Instr} {typ : Nat} {m : HostMsg} {status : Nat} {body : List Byte} {s u : State} {fields : List Byte → Bool}
  {run : RespTo → State → State} (he : exec i s = .next (accept typ fields m run s)) (h : passes s typ m = true)
  (f : fields m.body = true) (ht : typ < 32768)

include he h f ht in
/-- A message that ends in one response, having done what leads from `s` to `u`. -/
theorem answers_held (hk : u.conns = s.conns ∧ u.keeps = s.keeps ∧ u.wire = s.wire)
    (hr : run (respTo s typ m) (held s typ m s) = respond (held s typ m u) (respTo s typ m) status body) :
    Answers i typ m status body s u := by
  obtain ⟨hconns, hkeeps, hwire⟩ := hk
  exact answers_of (s1 := held s typ m u) he h f ht (by rw [inHand_eq_held]; exact hr) rfl ⟨⟨rfl, rfl⟩, hconns, rfl, hkeeps, hwire⟩

include he h f ht in
/-- A message that ends in a failure. -/
theorem declines_held (hst : tookEffect status = false)
    (hr : run (respTo s typ m) (held s typ m s) = answer (held s typ m s) (respTo s typ m) status) :
    Declines i typ m status s :=
  declines_of he h f ht hst (by rw [inHand_eq_held]; exact hr)

include he h f ht in
/-- A message that waits for its response, having done what leads from `s` to `u`. -/
theorem owes_held (hk : u.conns = s.conns ∧ u.keeps = s.keeps ∧ u.wire = s.wire)
    (hr : run (respTo s typ m) (held s typ m s) = held s typ m u) : Owes i typ m s u := by
  obtain ⟨hconns, hkeeps, hwire⟩ := hk
  refine owes_of he h f ht ?_ ?_
  · rw [inHand_eq_held, hr]; rfl
  · rw [inHand_eq_held, hr]; exact ⟨⟨rfl, rfl⟩, hconns, rfl, hkeeps, hwire⟩

end

/-- The handle of an open session that is not lost passes R356. -/
theorem withSess_open {s : State} {body : List Byte} {x : Session} (hx : sessOf s (fld body 0 4 % 65536) = some x)
    (hg : x.gen = fld body 0 4 / 65536) (hl : x.st ≠ .lost) (rt : RespTo) (lostOk : Bool) (f : Nat → Session → State) :
    withSess body rt lostOk s f = f (fld body 0 4 % 65536) x := by
  unfold withSess
  simp [hx, hg, hl]

end Sys2Proof.Machine
end

section
/-!
PROOFS. SESSION_OPEN and SESSION_CLOSE (O17, R152, R355, R357).
-/
namespace Sys2Proof.Machine

open Sys2Proof

/-! ### A new session's place -/

theorem areaPlaced_held (s : State) (typ : Nat) (m : HostMsg) (u : State) (a : Area) (o n : Nat) :
    areaPlaced (held s typ m u) a o n = held s typ m (areaPlaced u a o n) := rfl

theorem foldl_areaPlaced_held (s : State) (typ : Nat) (m : HostMsg) (i : Nat) (l : List (Nat → Area × Nat)) (u : State) :
    l.foldl (fun v a => areaPlaced v (a i).1 0 (a i).2) (held s typ m u) =
      held s typ m (l.foldl (fun v a => areaPlaced v (a i).1 0 (a i).2) u) :=
  List.foldl_hom (held s typ m) (fun v a => areaPlaced_held s typ m v (a i).1 0 (a i).2)

theorem putSession_held (s : State) (typ : Nat) (m : HostMsg) (u : State) (i : Nat) (x : Session) :
    putSession (held s typ m u) i x = held s typ m (putSession u i x) := by
  unfold putSession
  exact foldl_areaPlaced_held s typ m i _ { u with
    sessions := tins u.sessions i (placed u x), gens := tput 0 u.gens i x.gen, fresh := u.fresh + 19 }

theorem foldl_areaPlaced_rest (i : Nat) (l : List (Nat → Area × Nat)) (s : State) :
    l.foldl (fun v a => areaPlaced v (a i).1 0 (a i).2) s = { s with
      channels := (l.foldl (fun v a => areaPlaced v (a i).1 0 (a i).2) s).channels
      slices := (l.foldl (fun v a => areaPlaced v (a i).1 0 (a i).2) s).slices } := by
  have h := foldl_keep (fun t : State => { t with channels := [], slices := [] }) (fun t a => areaPlaced t (a i).1 0 (a i).2)
    (fun _ _ => rfl) l s
  generalize l.foldl (fun v a => areaPlaced v (a i).1 0 (a i).2) s = t at h ⊢
  exact congrArg (fun z : State => { z with channels := t.channels, slices := t.slices }) h

/-- A new session takes its index, its generation and its places in the store group. -/
theorem putSession_rest (s : State) (i : Nat) (x : Session) :
    putSession s i x = { s with
      sessions := tins s.sessions i (placed s x), gens := tput 0 s.gens i x.gen, fresh := s.fresh + 19
      channels := (putSession s i x).channels, slices := (putSession s i x).slices } := by
  unfold putSession
  exact foldl_areaPlaced_rest i _ _

theorem putSession_holds (s : State) (i : Nat) {x : Session} (hg : x.gen ≠ 0) :
    Holds s (putSession s i x) i (placed s x) := by
  rw [putSession_rest]
  exact ⟨tfind_tins_same _ _ _, fun j hj => tfind_tins_other _ _ (Ne.symm hj), tget_tput_ne _ _ _ _ hg,
    fun j hj => tget_tput_other _ _ _ (Ne.symm hj), rfl⟩

theorem nextGen_ne_zero (g : Nat) : nextGen g ≠ 0 := by
  unfold nextGen
  split <;> omega

theorem freeSession_spec {s : State} (h : (freeSession s).isSome = true) :
    let i := (freeSession s).getD 0
    sessOf s i = none ∧ ∀ j, j < i → sessOf s j ≠ none := by
  obtain ⟨i, hi⟩ := Option.isSome_iff_exists.mp h
  rw [hi]
  unfold freeSession at hi
  obtain ⟨hfree, -, hbelow⟩ := List.find?_range_eq_some.mp hi
  exact ⟨Option.isNone_iff_eq_none.mp hfree, fun j hj hnone => by simpa [hnone] using hbelow j hj⟩

theorem sessFits_free {s : State} {x : Session} (h : sessFits s x = true) : (freeSession s).isSome = true := by
  unfold sessFits at h
  exact (Bool.and_eq_true _ _ ▸ h).1

theorem freeSession_held (s : State) (typ : Nat) (m : HostMsg) (u : State) : freeSession (held s typ m u) = freeSession u := by
  unfold freeSession
  rfl

theorem sessFits_held (s : State) (typ : Nat) (m : HostMsg) (u : State) (x : Session) :
    sessFits (held s typ m u) x = sessFits u x := by
  unfold sessFits
  rw [freeSession_held]
  rfl

/-! ### SESSION_OPEN -/

/-- Where a SESSION_OPEN binds its session's output (Table 15.3). -/
def openBinding (body : List Byte) : Binding :=
  { flags := fld body 26 1, encoding := fld body 27 1, port := fld body 28 1, slot := fld body 29 1 }

/-- What a SESSION_OPEN that does not ask for compatibility mode starts its session from. -/
def openOrigin (body : List Byte) (b : Build) : Origin :=
  let seed := BitVec.ofNat 64 (fld body 16 8)
  { build := b, adapter := BitVec.ofNat 64 (fld body 8 8), seed := seed, compat := false, half := openHalf b seed false }

/-- The session that such a SESSION_OPEN makes. -/
def openedSession (s : State) (tag : W64) (body : List Byte) (b : Build) : Session :=
  newSession s tag (nextGen (tget 0 s.gens ((freeSession s).getD 0))) (openOrigin body b) (openBinding body)
    (decide (fld body 25 1 = 1))

theorem openedSession_held (s : State) (typ : Nat) (m : HostMsg) (u : State) (tag : W64) (body : List Byte) (b : Build) :
    openedSession (held s typ m u) tag body b = openedSession u tag body b := by
  unfold openedSession
  rw [freeSession_held]
  rfl

theorem enrolmentBit {body : List Byte} (h : openFields body = true) : bit (fld body 25 1) 0 = decide (fld body 25 1 = 1) := by
  unfold openFields within at h
  simp only [Bool.and_eq_true, decide_eq_true_eq] at h
  have hle : fld body 25 1 ≤ 1 := by omega
  interval_cases fld body 25 1 <;> rfl

/-- SESSION_OPEN outside compatibility mode, with a build and an adapter that are there: the checks of Table 15.4 that are left. -/
theorem sessionOpen_native {s : State} {body : List Byte} {b : Build} (hf : openFields body = true)
    (hb : buildOf s (BitVec.ofNat 64 (fld body 0 8)) = some b)
    (hu : adapterUsable s b (BitVec.ofNat 64 (fld body 8 8)) = true) (hc : fld body 24 1 = 0) (rt : RespTo) :
    sessionOpen body rt s =
      let x := openedSession s rt.tag body b
      let i := (freeSession s).getD 0
      if bindBad (openBinding body) = true then answer s rt stBadMessage
      else if sessFits s x = false then answer s rt stNoResource
      else if bindBusy s (openBinding body) = true then answer s rt stBusy
      else respond (putSession s i x) rt stOk (le 4 (handleOf i x)) := by
  unfold sessionOpen openedSession openOrigin openBinding
  simp only [hb, hu, hc, enrolmentBit hf, not_true_eq_false, false_and, or_false, if_false, Nat.zero_ne_one, decide_false,
    Bool.not_eq_true, Bool.false_eq_true]

/-- SESSION_CLOSE of a session that is not lost. -/
theorem sessionClose_open {s : State} {body : List Byte} {x : Session} (hx : sessOf s (fld body 0 4 % 65536) = some x)
    (hg : x.gen = fld body 0 4 / 65536) (hl : x.st ≠ .lost) (rt : RespTo) :
    sessionClose body rt s = if x.attach.isSome = true then answer s rt stBusy
      else answer { s with sessions := tdel s.sessions (fld body 0 4 % 65536) } rt stOk := by
  unfold sessionClose
  rw [withSess_open hx hg hl]
  by_cases ha : x.attach.isSome = true
  · simp [ha, hl]
  · have hnone : x.attach = none := Option.not_isSome_iff_eq_none.mp ha
    simp [emptySlot, effAttach, hnone]

theorem openedSession_holds (s : State) (i : Nat) (tag : W64) (body : List Byte) (b : Build) :
    Holds s (putSession s i (openedSession s tag body b)) i (placed s (openedSession s tag body b)) :=
  putSession_holds s i (nextGen_ne_zero _)

/-- Settles O17: the checks that are left by `sessionOpen_native` and `sessionClose_open`, the new session by `putSession_holds`. -/
theorem sessionOpenAndClose : Obligations.SessionOpenAndClose := by
  unfold Obligations.SessionOpenAndClose
  intro s m
  constructor
  · intro hp hf bind adapter seed b hb hu hc
    have hrun := sessionOpen_native (s := held s 0x0201 m s) hf hb hu hc (respTo s 0x0201 m)
    simp only [openedSession_held, freeSession_held, sessFits_held, putSession_held] at hrun
    by_cases hbad : bindBad bind = true
    · rw [if_pos hbad]
      exact declines_held rfl hp hf (by decide) rfl (hrun.trans (if_pos hbad))
    rw [if_neg hbad]
    replace hrun := hrun.trans (if_neg hbad)
    intro o i x
    by_cases hfit : sessFits s x = false
    · rw [if_pos hfit]
      exact declines_held rfl hp hf (by decide) rfl (hrun.trans (if_pos hfit))
    rw [if_neg hfit]
    replace hrun := hrun.trans (if_neg hfit)
    by_cases hbusy : bindBusy s bind = true
    · rw [if_pos hbusy]
      exact declines_held rfl hp hf (by decide) rfl (hrun.trans (if_pos hbusy))
    rw [if_neg hbusy]
    replace hrun := hrun.trans (if_neg hbusy)
    obtain ⟨hfree, hlowest⟩ := freeSession_spec (sessFits_free (Bool.not_eq_false _ ▸ hfit))
    refine ⟨hfree, hlowest, rfl, rfl, rfl, rfl, nextGen_ne_zero _, openedSession_holds .., ?_⟩
    refine answers_held rfl hp hf (by decide) ?_ hrun
    rw [putSession_rest]
    exact ⟨rfl, rfl, rfl⟩
  · intro hp hf i x hx hg hl
    have hrun := sessionClose_open (s := held s 0x0202 m s) hx hg hl (respTo s 0x0202 m)
    by_cases ha : x.attach.isSome = true
    · rw [if_pos ha]
      exact declines_held rfl hp hf (by decide) rfl (hrun.trans (if_pos ha))
    · rw [if_neg ha]
      exact answers_held rfl hp hf (by decide) ⟨rfl, rfl, rfl⟩ ((hrun.trans (if_neg ha)).trans (answer_ok rfl))

end Sys2Proof.Machine
end

section
/-!
PROOFS. STOP and DETACH (O19, R154, R363).
-/
namespace Sys2Proof.Machine

open Sys2Proof

/-- The state with a session stored. -/
def setSess (s : State) (i : Nat) (x : Session) : State := { s with sessions := tins s.sessions i x }

@[simp] theorem sessOf_setSess_same (s : State) (i : Nat) (x : Session) : sessOf (setSess s i x) i = some x :=
  tfind_tins_same _ _ _

theorem sessOf_setSess_other (s : State) {i j : Nat} (x : Session) (h : j ≠ i) : sessOf (setSess s i x) j = sessOf s j :=
  tfind_tins_other _ _ (Ne.symm h)

theorem setSess_setSess (s : State) (i : Nat) (x y : Session) : setSess (setSess s i x) i y = setSess s i y := by
  unfold setSess
  rw [tins_tins]

theorem modSess_of {s : State} {i : Nat} {x : Session} (hx : sessOf s i = some x) (f : Session → Session) :
    modSess s i f = setSess s i (f x) := by
  unfold sessOf at hx
  simp only [modSess, tmod, hx, setSess]

/-- A session after a STOP of its text (R363): what was queued or unspoken is dropped now, and the rest of the STOP waits. -/
def stopQueued (x : Session) (rt : RespTo) : Session :=
  { x with queuedTokens := none, unspoken := 0, stopWait := x.stopWait ++
    [{ resp := some rt, barge := false, drop := x.queuedTokens.getD 0 + x.unspoken }] }

/-- A session whose DETACH waits for the boundary, with no chunk dropped (R154). -/
def detachOwed (x : Session) (rt : RespTo) : Session := { x with detachWait := some rt, detachDrop := false }

section
variable {s : State} {body : List Byte} {x : Session} (hx : sessOf s (fld body 0 4 % 65536) = some x)
  (hg : x.gen = fld body 0 4 / 65536) (hl : x.st ≠ .lost) (hjob : x.job = none) (rt : RespTo)

include hx hg hl hjob in
theorem stopMsg_noJob : stopMsg body rt s = stopSession s (fld body 0 4 % 65536) (some rt) false := by
  unfold stopMsg
  rw [withSess_open hx hg hl]
  simp only [hjob]

include hx hg hl hjob in
/-- STOP of a session with nothing to drop. -/
theorem stopMsg_nothing (hstop : x.stopWait = []) (hutt : x.uttTokens = 0) (hdrop : x.queuedTokens.getD 0 + x.unspoken = 0) :
    stopMsg body rt s = respond s rt stOk (le 8 (sessSamples s x)) := by
  rw [stopMsg_noJob hx hg hl hjob]
  simp only [stopSession, hx, hstop, hutt, hdrop, and_self, if_true]

include hx hg hl hjob in
/-- STOP of a session whose stop point is still to come. -/
theorem stopMsg_waits (hwait : x.stopWait ≠ [] ∨
    ((x.uttTokens ≠ 0 ∨ x.queuedTokens.getD 0 + x.unspoken ≠ 0) ∧ sliceBegun s x = true)) :
    stopMsg body rt s = setSess s (fld body 0 4 % 65536) (stopQueued x rt) := by
  have hsome : ¬ (x.stopWait = [] ∧ x.uttTokens = 0 ∧ x.queuedTokens.getD 0 + x.unspoken = 0) := by tauto
  have hlater : x.stopWait ≠ [] ∨ sliceBegun (modSess s (fld body 0 4 % 65536) (fun y => { y with
      queuedTokens := none, unspoken := 0, stopWait := y.stopWait ++
        [{ resp := some rt, barge := false, drop := x.queuedTokens.getD 0 + x.unspoken }] })) x = true :=
    hwait.imp_right And.right
  rw [stopMsg_noJob hx hg hl hjob]
  simp only [stopSession, hx]
  rw [if_neg hsome, if_pos hlater, modSess_of hx]
  rfl

include hx hg hl in
theorem detach_busy (hbusy : x.detachWait.isSome = true) : detach body rt s = answer s rt stBusy := by
  unfold detach
  rw [withSess_open hx hg hl]
  simp [hbusy]

include hx hg hl hjob in
theorem detach_unattached (hidle : x.detachWait.isSome = false) (ha : x.attach = none) : detach body rt s = answer s rt stOk := by
  unfold detach
  rw [withSess_open hx hg hl]
  simp [hjob, hidle, ha]

include hx hg hl hjob in
/-- DETACH of an attached session, of which no admitted chunk is dropped. -/
theorem detach_waits (hidle : x.detachWait.isSome = false) {a : Attachment} (ha : x.attach = some a) (he : a.effective = true)
    (hkeep : fld body 4 1 = 0 ∨ x.admitted = none) :
    detach body rt s = setSess s (fld body 0 4 % 65536) (detachOwed x rt) := by
  have hdrops : (bit (fld body 4 1) 0 && x.admitted.isSome && !sliceBegun s x) = false := by
    rcases hkeep with h | h
    · rw [h]; rfl
    · rw [h, Option.isSome_none, Bool.and_false, Bool.false_and]
  unfold detach
  rw [withSess_open hx hg hl]
  simp only [hjob, hidle, ha, he, hdrops, Option.isSome_none, Bool.false_eq_true, or_self, not_true_eq_false, if_false]
  exact modSess_of hx (fun y => { y with detachWait := some rt, detachDrop := false })

end

/-- Settles O19, with one lemma for each answer of STOP and DETACH. -/
theorem stopAndDetachWait : Obligations.StopAndDetachWait := by
  unfold Obligations.StopAndDetachWait
  intro s m x i hx hg hl hjob
  refine ⟨fun hp hf => ?_, fun hp hmode hzero => ?_⟩
  · intro drop
    refine ⟨fun hstop hutt hdrop => ?_, fun hwait => ?_⟩
    · exact answers_held rfl hp hf (by decide) ⟨rfl, rfl, rfl⟩
        (stopMsg_nothing (s := held s 0x0205 m s) hx hg hl hjob _ hstop hutt hdrop)
    · exact owes_held rfl hp hf (by decide) ⟨rfl, rfl, rfl⟩ (stopMsg_waits (s := held s 0x0205 m s) hx hg hl hjob _ hwait)
  · have hf : (within (fld m.body 4 1) 0 1 && isZero m.body 5 3) = true := by
      simp only [within, hzero, hmode, Bool.and_true, Nat.zero_le, decide_true]
    by_cases hbusy : x.detachWait.isSome = true
    · rw [if_pos hbusy]
      exact declines_held rfl hp hf (by decide) rfl (detach_busy (s := held s 0x0207 m s) hx hg hl _ hbusy)
    rw [if_neg hbusy]
    have hidle := Bool.not_eq_true _ ▸ hbusy
    refine ⟨fun ha => ?_, fun a ha he hkeep => ?_⟩
    · exact answers_held rfl hp hf (by decide) ⟨rfl, rfl, rfl⟩
        ((detach_unattached (s := held s 0x0207 m s) hx hg hl hjob _ hidle ha).trans (answer_ok rfl))
    · exact owes_held rfl hp hf (by decide) ⟨rfl, rfl, rfl⟩ (detach_waits (s := held s 0x0207 m s) hx hg hl hjob _ hidle ha he hkeep)

end Sys2Proof.Machine
end

section
/-!
PROOFS. ATTACH (O20, R152, R156, R157, R212, R376).
-/
namespace Sys2Proof.Machine

open Sys2Proof

/-- The state with a bay stored. -/
def setBay (s : State) (i : Nat) (b : Bay) : State := { s with bays := tins s.bays i b }

theorem modBay_of {s : State} {i : Nat} {b : Bay} (hb : bayOf s i = some b) (f : Bay → Bay) :
    modBay s i f = setBay s i (f b) := by
  unfold bayOf at hb
  simp only [modBay, tmod, hb, setBay]

theorem acceptAttach_of {s : State} {i : Nat} {x : Session} {a : Attachment} (hx : sessOf s i = some x) (ha : x.attach = some a)
    (rt : RespTo) :
    acceptAttach s i (some rt) =
      respond (setSess s i { x with attach := some { a with ready := true } }) rt stOk (le 8 (s.chunk + 1)) := by
  unfold acceptAttach
  rw [modSess_of hx]
  simp only [ha]
  rfl

/-- A session that claims a slot of a yealm, its moves done or not, before the claim takes effect (R152, R156). -/
def claiming (x : Session) (k slot : Nat) (ready : Bool) : Session :=
  { x with attach := some { yealm := k, slot := slot, ready := ready, effective := false } }

/-- Some session claims a slot of a yealm. -/
def slotClaimed (s : State) (k slot : Nat) : Bool :=
  (claimants s k).any (fun e => ((e.2.attach).map (fun a => decide (a.slot = slot))).getD false)

section
variable {s : State} {body : List Byte} {x : Session} (hx : sessOf s (fld body 0 4 % 65536) = some x)
  (hg : x.gen = fld body 0 4 / 65536) (hl : x.st ≠ .lost) {y : Yealm} (hy : yealmOf s (fld body 4 2) = some y) (rt : RespTo)

include hx hg hl hy in
theorem attach_beyond (h : y.slots ≤ fld body 6 1) : attach body rt s = answer s rt stBadMessage := by
  unfold attach
  rw [withSess_open hx hg hl]
  simp only [hy, h, if_true]

include hx hg hl hy in
theorem attach_busy (hslot : ¬ y.slots ≤ fld body 6 1)
    (h : x.attach.isSome = true ∨ slotClaimed s (fld body 4 2) (fld body 6 1) = true) :
    attach body rt s = answer s rt stBusy := by
  unfold slotClaimed at h
  have hbusy : x.attach.isSome = true ∨ y.releasing.isSome = true ∨ (claimants s (fld body 4 2)).any
      (fun e => ((e.2.attach).map (fun a => decide (a.slot = fld body 6 1))).getD false) = true := by tauto
  unfold attach
  rw [withSess_open hx hg hl]
  simp only [hy, if_neg hslot]
  exact if_pos hbusy

include hx hg hl hy in
/-- ATTACH to a free slot of a yealm whose plan serves the session, over channels that are in service. -/
theorem attach_free (hslot : ¬ y.slots ≤ fld body 6 1)
    (hfree : ¬ (x.attach.isSome = true ∨ slotClaimed s (fld body 4 2) (fld body 6 1) = true)) (hrel : y.releasing = none)
    (hserves : planServes s y x = true) (hch : (attachChannels s x y.bay).all (fun ch => !fenced s (uChannel ch)) = true) :
    attach body rt s =
      let i := fld body 0 4 % 65536
      let bytes := attachBytes s x y.bay
      let z := setSess s i (claiming x (fld body 4 2) (fld body 6 1) false)
      if freeIn s (groupOf s (some y.bay)) < bytes then answer s rt stNoResource
      else if bytes ≠ 0 ∧ (hasSlices s y.bay || (x.home.map (hasSlices s)).getD false) = true then
        modBay z y.bay (fun b => { b with bulk := b.bulk ++
          [{ kind := .attachMove i x.home, left := bytes, running := false, resp := some rt }] })
      else acceptAttach (if decide (x.home ≠ some y.bay) = true then moveArea z i y.bay else z) i (some rt) := by
  have hbusy : ¬ (x.attach.isSome = true ∨ y.releasing.isSome = true ∨ (claimants s (fld body 4 2)).any
      (fun e => ((e.2.attach).map (fun a => decide (a.slot = fld body 6 1))).getD false) = true) := by
    rw [hrel]
    simpa only [slotClaimed, Option.isSome_none, Bool.false_eq_true, false_or] using hfree
  have hfence : (attachChannels s x y.bay).any (fun ch => fenced s (uChannel ch)) = false := by
    rw [List.any_eq_false]
    intro ch hm
    simpa using List.all_eq_true.mp hch ch hm
  unfold attach
  rw [withSess_open hx hg hl]
  simp only [hy, if_neg hslot, if_neg hbusy, hserves, hfence, not_true_eq_false, Bool.false_eq_true, if_false]
  rw [modSess_of hx]
  rfl

end

/-- Settles O20: the claim by `attach_free`, accepted at once (`acceptAttach_of`) or behind a bulk transfer. -/
theorem attachClaimsItsSlot : Obligations.AttachClaimsItsSlot := by
  unfold Obligations.AttachClaimsItsSlot
  intro s m x y b i k slot hp hf hx hg hl hy hb hrel hserves hch
  by_cases hslot : y.slots ≤ slot
  · rw [if_pos hslot]
    exact declines_held rfl hp hf (by decide) rfl (attach_beyond (s := held s 0x0206 m s) hx hg hl hy _ hslot)
  rw [if_neg hslot]
  by_cases hbusy : x.attach.isSome = true ∨ slotClaimed s k slot = true
  · refine (if_pos hbusy).mpr ?_
    exact declines_held rfl hp hf (by decide) rfl (attach_busy (s := held s 0x0206 m s) hx hg hl hy _ hslot hbusy)
  refine (if_neg hbusy).mpr ?_
  have hrun := attach_free (s := held s 0x0206 m s) hx hg hl hy (respTo s 0x0206 m) hslot hbusy hrel hserves hch
  by_cases hroom : freeIn s (groupOf s (some y.bay)) < attachBytes s x y.bay
  · rw [if_pos hroom]
    exact declines_held rfl hp hf (by decide) rfl (hrun.trans (if_pos hroom))
  rw [if_neg hroom]
  replace hrun := hrun.trans (if_neg hroom)
  refine ⟨fun hhome hbytes => ?_, fun hbytes hslices => ?_⟩
  · replace hrun := hrun.trans (if_neg (fun h => h.1 hbytes))
    rw [if_neg (by simp [hhome])] at hrun
    rw [acceptAttach_of (sessOf_setSess_same _ _ _) rfl, setSess_setSess] at hrun
    exact answers_held rfl hp hf (by decide) ⟨rfl, rfl, rfl⟩ hrun
  · have hslow : (hasSlices s y.bay || (x.home.map (hasSlices s)).getD false) = true := by rw [hslices, Bool.true_or]
    replace hrun := hrun.trans (if_pos ⟨hbytes, hslow⟩)
    rw [modBay_of (s := setSess (held s 0x0206 m s) i (claiming x k slot false)) hb] at hrun
    exact owes_held rfl hp hf (by decide) ⟨rfl, rfl, rfl⟩ hrun

end Sys2Proof.Machine
end

section
/-!
PROOFS. SESSION_EXPORT and SESSION_IMPORT (O21, R158, R160 to R163, R211, R374).
-/
namespace Sys2Proof.Machine

open Sys2Proof

/-! ### SESSION_EXPORT -/

theorem exportDone_of {s : State} {i : Nat} {x : Session} (hx : sessOf s i = some x) (ha : x.attach = none) (rt : RespTo) :
    exportDone s i (some rt) =
      respond (areaRead s (.half i (sessActive s x)) 0 x.halfA.length) rt stOk (exportBody s x) := by
  unfold exportDone
  simp only [hx, ha, Option.isSome_none, Bool.false_eq_true, if_false]

section
variable {s : State} {body : List Byte} {x : Session} (hx : sessOf s (fld body 0 4 % 65536) = some x)
  (hg : x.gen = fld body 0 4 / 65536) (hl : x.st ≠ .lost) (rt : RespTo)

include hx hg hl in
theorem sessionExport_busy (ha : x.attach.isSome = true) : sessionExport body rt s = answer s rt stBusy := by
  unfold sessionExport
  rw [withSess_open hx hg hl]
  exact if_pos ha

include hx hg hl in
/-- SESSION_EXPORT of a detached session whose areas lie in no group of a bay with slices. -/
theorem sessionExport_now (ha : x.attach = none) (hhome : ∀ i, x.home = some i → hasSlices s i = false) :
    sessionExport body rt s = respond (areaRead s (.half (fld body 0 4 % 65536) (sessActive s x)) 0 x.halfA.length) rt stOk
      (exportBody s x) := by
  unfold sessionExport
  rw [withSess_open hx hg hl, ← exportDone_of hx ha]
  cases hh : x.home with
  | none => simp [ha]
  | some b => simp [ha, hhome b hh]

include hx hg hl in
/-- SESSION_EXPORT of a detached session whose areas lie in the group of a bay with slices. -/
theorem sessionExport_waits (ha : x.attach = none) {b : Nat} (hhome : x.home = some b) (hslices : hasSlices s b = true) :
    sessionExport body rt s = modBay s b (fun y => { y with bulk := y.bulk ++
      [{ kind := .sessionExport (fld body 0 4 % 65536), left := (exportBody s x).length, running := false, resp := some rt }] }) := by
  unfold sessionExport
  rw [withSess_open hx hg hl]
  simp [ha, hhome, hslices]

end

/-! ### SESSION_IMPORT -/

/-- Where a SESSION_IMPORT binds its session's output. -/
def importBinding (body : List Byte) : Binding :=
  { flags := fld body 1 1, encoding := fld body 2 1, port := fld body 3 1, slot := fld body 4 1 }

/-- The session that a SESSION_IMPORT makes of what its image holds, before its text. -/
def importedSession (s : State) (tag : W64) (body : List Byte) (o : Origin) : Session :=
  newSession s tag (nextGen (tget 0 s.gens ((freeSession s).getD 0))) o (importBinding body) false

theorem importedSession_held (s : State) (typ : Nat) (m : HostMsg) (u : State) (tag : W64) (body : List Byte) (o : Origin) :
    importedSession (held s typ m u) tag body o = importedSession u tag body o := by
  unfold importedSession
  rw [freeSession_held]
  rfl

theorem withText_gen (s : State) (body : List Byte) (x : Session) : (withText s body x).gen = x.gen := by
  unfold withText pushControl putRing
  dsimp only
  split <;> rfl

theorem importedSession_holds (s : State) (i : Nat) (tag : W64) (body : List Byte) (o : Origin) :
    let z := withText s body (importedSession s tag body o)
    Holds s (putSession s i z) i (placed s z) :=
  putSession_holds s i (by rw [withText_gen]; exact nextGen_ne_zero _)

section
variable {s : State} {body : List Byte} (rt : RespTo)

theorem sessionImport_error {st : Nat} (h : takeImage s (cut body 24 (fld body 8 4)) (bit (fld body 0 1) 0) = .error st) :
    sessionImport body rt s = answer s rt st := by
  unfold sessionImport
  simp only [h]

/-- SESSION_IMPORT of an image that passes its checks, for a session outside compatibility mode: the check of its text is left. -/
theorem sessionImport_native {o : Origin} (h : takeImage s (cut body 24 (fld body 8 4)) (bit (fld body 0 1) 0) = .ok o)
    (hfit : sessFits s (importedSession s rt.tag body o) = true) (hcompat : o.compat = false)
    (hbad : bindBad (importBinding body) = false) (hbusy : bindBusy s (importBinding body) = false) :
    sessionImport body rt s =
      let x := importedSession s rt.tag body o
      let i := (freeSession s).getD 0
      if importTextOk s body o = false then answer s rt stBadMessage
      else respond (putSession s i (withText s body x)) rt stOk (le 4 (handleOf i x)) := by
  unfold importedSession importBinding at *
  unfold sessionImport
  simp only [h, hfit, hcompat, hbad, hbusy, not_true_eq_false, Bool.false_eq_true, false_and, or_self, if_false, Bool.not_eq_true]

end

/-- Settles O21: an image leaves by `sessionExport_now` or behind a bulk transfer, and returns by `sessionImport_native`. -/
theorem stateImagesLeaveAndReturn : Obligations.StateImagesLeaveAndReturn := by
  unfold Obligations.StateImagesLeaveAndReturn
  intro s m
  constructor
  · intro hp hf x hx hg hl
    by_cases ha : x.attach.isSome = true
    · rw [if_pos ha]
      exact declines_held rfl hp hf (by decide) rfl (sessionExport_busy (s := held s 0x0208 m s) hx hg hl _ ha)
    rw [if_neg ha]
    intro b hb image out
    have hnone : x.attach = none := Option.not_isSome_iff_eq_none.mp ha
    have hout : exportBody s x = out := by
      unfold exportBody
      rw [hb]
      rfl
    refine ⟨fun hhome => ?_, fun i hhome hslices => ?_⟩ <;> rw [← hout]
    · exact answers_held rfl hp hf (by decide) ⟨rfl, rfl, rfl⟩ (sessionExport_now (s := held s 0x0208 m s) hx hg hl _ hnone hhome)
    · exact owes_held rfl hp hf (by decide) ⟨rfl, rfl, rfl⟩
        (sessionExport_waits (s := held s 0x0208 m s) hx hg hl _ hnone hhome hslices)
  · intro hp hf bind
    cases htake : takeImage s (cut m.body 24 (fld m.body 8 4)) (bit (fld m.body 0 1) 0) with
    | error status =>
      intro hst
      exact declines_held rfl hp hf (by decide) hst (sessionImport_error (s := held s 0x0209 m s) _ htake)
    | ok o =>
      intro hfit hcompat hbad hbusy
      have hrun := sessionImport_native (s := held s 0x0209 m s) (respTo s 0x0209 m) htake
        (by rw [sessFits_held, importedSession_held]; exact hfit) hcompat hbad hbusy
      simp only [importedSession_held, freeSession_held, putSession_held] at hrun
      by_cases htext : importTextOk s m.body o = false
      · rw [if_pos htext]
        exact declines_held rfl hp hf (by decide) rfl (hrun.trans (if_pos htext))
      rw [if_neg htext]
      refine ⟨importedSession_holds .., answers_held rfl hp hf (by decide) ?_ (hrun.trans (if_neg htext))⟩
      rw [putSession_rest]
      exact ⟨rfl, rfl, rfl⟩

end Sys2Proof.Machine
end

section
/-!
PROOFS. RESTORE, SAVE, SPILL and UNSPILL (O43, R146, R288, R289): what the save/restore engine does of each, and that the command
leaves just that.
-/
namespace Sys2Proof.Machine

open Sys2Proof

/-! ### RESTORE and SAVE -/

/-- Elements of a component as a RESTORE reads them from the bytes of a half. -/
def restoredElems (o : SrOps) (src : List Byte) (off eb total : Nat) : List (List Byte) :=
  (srElems o total).map (fun i => cut src (off + i * eb) eb)

/-- The bytes that a RESTORE reads: a slot's position block stands in its working state, and an anchored component starts anew (R144). -/
def restoreSource (b : Build) (o : SrOps) (w : SlotWork) (half : List Byte) : List Byte :=
  if o.component.toNat = 0xFFFF then posBytes w.pos
  else if w.anchored = true ∧ b.anchors.comps.contains o.component.toNat = true then b.initHalf
  else half

/-- A core whose accumulators from `acc_base` on hold the elements. -/
def restoredAcc (x : Core) (o : SrOps) (vals : List (List Byte)) : Core :=
  (vals.mapIdx (fun i v => (i, v))).foldl (fun y e => accPut y (o.accBase.toNat + e.1) (BitVec.ofNat 40 (leNat e.2))) x

theorem restoredAcc_eq (x : Core) (o : SrOps) (vals : List (List Byte)) :
    restoredAcc x o vals = { x with acc := (restoredAcc x o vals).acc } := by
  unfold restoredAcc
  rw [foldl_accPut_acc]

theorem restoredAcc_units (x : Core) (o : SrOps) (vals : List (List Byte)) (U : Tab UnitQ) :
    restoredAcc { x with units := U } o vals = { restoredAcc x o vals with units := U } := by
  unfold restoredAcc
  rw [foldl_accPut_acc, foldl_accPut_acc]

/-- The elements that a SAVE takes from the accumulators or the scratchpad. -/
def Saves (x : Core) (o : SrOps) (eb n : Nat) (vals : List (List Byte)) : Prop :=
  if bit o.srFlags.toNat 0 = true then
    vals = (List.range n).map (fun i => le 8 ((accGet x (o.accBase.toNat + i)).signExtend 64).toNat)
  else spadIn (o.spad.toNat : Int) (eb * n) = true ∧ vals = chop eb n (mread 0 x.spad o.spad.toNat (eb * n))

section
variable {s : State} {c slot : Nat} {o : SrOps} {x : Core} {b : Build} {off eb total : Nat} {w : SlotWork} {ss : Session}
  (hx : coreOf s c = x) (hb : coreBuild s x = some b) (hp : srPlace b o.component.toNat = some (off, eb, total))
  (hcheck : srCheck x o eb total = .ok ()) (he : srElems o total ≠ []) (hw : slotWork s x slot = some w)
  (hss : sessOf s w.session = some ss)

include hx hb hp hcheck he hw hss in
/-- What RESTORE comes to once its checks and its lines are good. -/
theorem doRestore_eq (hclean : needClean s (.half w.session (sessActive s ss)) off (eb * total) = .ok ()) :
    let u := areaRead s (.half w.session (sessActive s ss)) off (eb * total)
    let vals := restoredElems o (restoreSource b o w (halfOf ss (sessActive s ss))) off eb total
    doRestore s c slot o = if bit o.srFlags.toNat 0 = true then .ok (setCore u c (restoredAcc x o vals), completion false 0 0 false)
      else spadWrite x (o.spad.toNat : Int) vals.flatten >>= fun y => .ok (setCore u c y, completion false 0 0 false) := by
  unfold doRestore
  rw [hx]
  simp only [hb, hp, hw, hss]
  rw [bind_of hcheck, if_neg he, bind_of hclean]
  rfl

/-- A session after a SAVE of a component other than the position block into half `h`. -/
def elemsSaved (h : Bool) (off eb : Nat) (es : List Nat) (vals : List (List Byte)) (ss q : Session) : Session :=
  putHalf q h ((es.zip vals).foldl (fun bs e => splice bs (off + e.1 * eb) e.2) (halfOf ss h))

include hx hb hp hcheck he hw hss in
/-- What SAVE comes to once its checks are good. -/
theorem doSave_eq {vals : List (List Byte)} (hv : Saves x o eb (srElems o total).length vals) :
    let h := !sessActive s ss
    let u := areaWrote s (.half w.session h) off (eb * total)
    let pos := { w.pos with yPrev := BitVec.ofNat 32 (fld vals.flatten 20 4) }
    doSave s c slot o = .ok (if o.component.toNat = 0xFFFF then
        modSess (setSlotWork u x slot { w with pos := pos }) w.session (fun q => putHalf q h (splice (halfOf q h) 0 (posBytes pos)))
      else modSess u w.session (elemsSaved h off eb (srElems o total) vals ss), completion false 0 0 false) := by
  intro h u pos
  unfold doSave
  rw [hx]
  simp only [hb, hp]
  rw [bind_of hcheck, if_neg he]
  refine (bind_of (a := vals) ?_).trans ?_
  · unfold Saves at hv
    split at hv
    case isTrue hacc => rw [if_pos hacc, hv]
    case isFalse hacc => rw [if_neg hacc, spadRead, if_pos (.inr hv.1), hv.2]; rfl
  · simp only [hw, hss]
    split <;> rfl

end

end Sys2Proof.Machine
end

section
/-!
PROOFS. RESTORE, SAVE, SPILL and UNSPILL as commands that meet nothing (O43, R64, R288, R289).
-/
namespace Sys2Proof.Machine

open Sys2Proof

/-! ### SPILL and UNSPILL -/

/-- A live set is read from its core's scratchpad and accumulators alone. -/
theorem copyLive_src {x z y : Core} {o : SrOps} (hspad : z.spad = x.spad) (hacc : z.acc = x.acc) :
    copyLive z y o = copyLive x y o := by
  unfold copyLive spadRead accGet
  rw [hspad, hacc]

/-- A live set changes its receiver's scratchpad and accumulators alone. -/
theorem copyLive_ok {x y z : Core} {o : SrOps} (h : copyLive x y o = .ok z) :
    ∃ spad acc, z = { y with spad := spad, acc := acc } ∧
      ∀ U, copyLive x { y with units := U } o = .ok { y with spad := spad, acc := acc, units := U } := by
  unfold copyLive at h ⊢
  split at h
  case isTrue hacc =>
    rw [foldl_accPut_acc] at h
    cases h
    refine ⟨_, _, rfl, fun U => ?_⟩
    rw [if_pos hacc, foldl_accPut_acc]
  case isFalse hacc =>
    split at h
    · cases h
    next bs hread =>
      unfold spadWrite at h
      split at h
      case isTrue hin =>
        cases h
        refine ⟨_, _, rfl, fun U => ?_⟩
        rw [if_neg hacc]
        exact if_pos hin
      case isFalse => cases h

section
variable {s : State} {c : Nat} {o : SrOps} {x y : Core} {k : CoreCtx} (hx : coreOf s c = x) (hk : x.ctx = some k)
  (hcheck : spillCheck x o = .ok ())
include hx hk hcheck

theorem doSpill_eq (hy : copyLive x (tget coreD s.spills (spillKey k)) o = .ok y) :
    doSpill s c o = .ok (areaWrote { s with spills := tput coreD s.spills (spillKey k) y } (.spill (spillKey k)) o.spad.toNat
      o.elements.toNat, completion (decide (o.elements = 0)) 0 0 false) := by
  unfold doSpill
  rw [hx, bind_of hcheck]
  simp only [hk]
  exact bind_of hy

theorem doUnspill_eq (hy : copyLive (tget coreD s.spills (spillKey k)) x o = .ok y) :
    doUnspill s c o = .ok (setCore (areaRead s (.spill (spillKey k)) o.spad.toNat o.elements.toNat) c y,
      completion (decide (o.elements = 0)) 0 0 false) := by
  unfold doUnspill
  rw [hx, bind_of hcheck]
  simp only [hk]
  exact bind_of hy

end

/-! ### A command of the save/restore engine that meets nothing -/

section
variable {i : Instr} {s : State} {c : Nat} {h : CmdHdr} {op : CoreOp}

/-- What the save/restore engine leaves of the device and of the core is what the command leaves. -/
theorem issues_saveRestore {u : State} {y : Core} {d : Completion} (hu : opUnit op = 7) (hd : ∀ o, op ≠ .arm o)
    (hi : exec i s = .next (submit s c h op))
    (hg : goes s c h op = true) (hy : SameSeq (atIssue s c h op) y) (hcores : u.cores = s.cores)
    (hr : runOp (atUnit s c h op) c (inUnit s c h op) = .ok (setCore u c (leaving s c h op y), some d)) : Issues i c h op s u y d := by
  obtain ⟨hunits, hctx, hwin, -, -⟩ := hy
  obtain ⟨-, hw, -⟩ := goes_parts hg
  refine issues_of hi hg hd ?_ hr (fun e _ => coreOf_congr hcores e) (hwin.trans hw) (hctx ▸ atIssue_ctx hg) hunits
  rintro o rfl
  exact absurd hu (by decide : (1 : Nat) ≠ 7)

/-- The engine leaves the core as it found it. -/
theorem issues_saveRestore_same {u : State} {d : Completion} (hu : opUnit op = 7) (hd : ∀ o, op ≠ .arm o)
    (hi : exec i s = .next (submit s c h op))
    (hg : goes s c h op = true) (hcores : u.cores = s.cores)
    (hr : runOp (atUnit s c h op) c (inUnit s c h op) = .ok (setCore u c (leaving s c h op (atIssue s c h op)), some d)) :
    Issues i c h op s u (atIssue s c h op) d :=
  issues_saveRestore hu hd hi hg (.refl _) hcores hr

/-- The engine writes the core after it has moved its lines. -/
theorem issues_saveRestore_moved {u : State} {y : Core} {d : Completion} (hu : opUnit op = 7) (hd : ∀ o, op ≠ .arm o)
    (hi : exec i s = .next (submit s c h op)) (hg : goes s c h op = true) (hy : SameSeq (atIssue s c h op) y)
    (hcores : u.cores = s.cores)
    (hr : runOp (atUnit s c h op) c (inUnit s c h op) =
      .ok (setCore (setCore u c (leaving s c h op (atIssue s c h op))) c (leaving s c h op y), some d)) : Issues i c h op s u y d := by
  rw [setCore_setCore u c (leaving_ne (atIssue_ctx hg)) (leaving_ne (hy.2.1 ▸ atIssue_ctx hg))] at hr
  exact issues_saveRestore hu hd hi hg hy hcores hr

end

/-! ### O43 -/

theorem cores_setSlotWork (s : State) (x : Core) (slot : Nat) (w : SlotWork) : (setSlotWork s x slot w).cores = s.cores := by
  unfold setSlotWork
  split <;> rfl

/-- A slot's working state lies apart from the cores, and is found by the core's step. -/
theorem setSlotWork_setCore (s : State) (c : Nat) {x z : Core} (y : Core) (slot : Nat) (w : SlotWork) (hz : z.ctx = x.ctx) :
    setSlotWork (setCore s c y) z slot w = setCore (setSlotWork s x slot w) c y := by
  unfold setSlotWork
  rw [hz]
  split <;> rfl

theorem restore_issues {s : State} {c : Fin 64} {h : CmdHdr} {o : SrOps} {b : Build} {off eb total : Nat} {w : SlotWork} {ss : Session}
    (hb : coreBuild s (coreOf s c) = some b) (hp : srPlace b o.component.toNat = some (off, eb, total))
    (hcheck : srCheck (coreOf s c) o eb total = .ok ()) (he : srElems o total ≠ [])
    (hw : slotWork s (coreOf s c) 0 = some w) (hss : sessOf s w.session = some ss) (hg : goes s c h (.restore o) = true)
    (hclean : needClean s (.half w.session (sessActive s ss)) off (eb * total) = .ok ()) :
    let x := atIssue s c h (.restore o)
    let u := areaRead s (.half w.session (sessActive s ss)) off (eb * total)
    let vals := restoredElems o (restoreSource b o w (halfOf ss (sessActive s ss))) off eb total
    (bit o.srFlags.toNat 0 = true →
      Issues (.restore c h o) c h (.restore o) s u (restoredAcc x o vals) (completion false 0 0 false)) ∧
    (bit o.srFlags.toNat 0 = false → spadIn (o.spad.toNat : Int) vals.flatten.length = true →
      Issues (.restore c h o) c h (.restore o) s u (wrote x (o.spad.toNat : Int) vals.flatten) (completion false 0 0 false)) := by
  intro x u vals
  have hdo := doRestore_eq (s := atUnit s c h (.restore o)) (slot := 0) (coreOf_atUnit_leaving hg) hb hp hcheck he hw hss hclean
  refine ⟨fun hacc => ?_, fun hacc hin => ?_⟩
  · have hrun := hdo.trans (if_pos hacc)
    refine issues_saveRestore_moved rfl nofun rfl hg ?_ rfl ?_
    · rw [restoredAcc_eq]; exact .refl _
    · simp only [runOp, inUnit, hrun]
      rw [leaving, restoredAcc_units]
      rfl
  · have hrun := hdo.trans ((if_neg (by rw [hacc]; decide)).trans (bind_of (spadWrite_of_in hin)))
    refine issues_saveRestore_moved rfl nofun rfl hg (.refl _) rfl ?_
    simp only [runOp, inUnit, hrun]
    rfl

theorem save_issues {s : State} {c : Fin 64} {h : CmdHdr} {o : SrOps} {b : Build} {off eb total : Nat} {w : SlotWork} {ss : Session}
    {vals : List (List Byte)}
    (hb : coreBuild s (coreOf s c) = some b) (hp : srPlace b o.component.toNat = some (off, eb, total))
    (hcheck : srCheck (coreOf s c) o eb total = .ok ()) (he : srElems o total ≠ [])
    (hw : slotWork s (coreOf s c) 0 = some w) (hss : sessOf s w.session = some ss) (hg : goes s c h (.save o) = true)
    (hv : Saves (atIssue s c h (.save o)) o eb (srElems o total).length vals) :
    let x := atIssue s c h (.save o)
    let hf := !sessActive s ss
    let u := areaWrote s (.half w.session hf) off (eb * total)
    let pos := { w.pos with yPrev := BitVec.ofNat 32 (fld vals.flatten 20 4) }
    (o.component.toNat ≠ 0xFFFF → Issues (.save c h o) c h (.save o) s
      (modSess u w.session (elemsSaved hf off eb (srElems o total) vals ss)) x (completion false 0 0 false)) ∧
    (o.component.toNat = 0xFFFF → Issues (.save c h o) c h (.save o) s
      (modSess (setSlotWork u x 0 { w with pos := pos }) w.session (fun q =>
        putHalf q hf (splice (halfOf q hf) 0 (posBytes pos)))) x (completion false 0 0 false)) := by
  intro x hf u pos
  have hdo := doSave_eq (s := atUnit s c h (.save o)) (slot := 0) (coreOf_atUnit_leaving hg) hb hp hcheck he hw hss hv
  refine ⟨fun hcomp => ?_, fun hcomp => ?_⟩
  · have hrun := hdo.trans (congrArg (fun t => Except.ok (t, _)) (if_neg hcomp))
    refine issues_saveRestore_same rfl nofun rfl hg rfl ?_
    simp only [runOp, inUnit, hrun]
    rfl
  · have hrun := hdo.trans (congrArg (fun t => Except.ok (t, _)) (if_pos hcomp))
    refine issues_saveRestore_same rfl nofun rfl hg (cores_setSlotWork ..) ?_
    have hset := setSlotWork_setCore u c (leaving s c h (.save o) x) 0 { w with pos := pos }
      (rfl : (leaving s c h (.save o) x).ctx = x.ctx)
    simp only [runOp, inUnit, hrun]
    exact congrArg (fun t => Except.ok (modSess t w.session _, _)) hset

theorem spill_issues {s : State} {c : Fin 64} {h : CmdHdr} {o : SrOps} {k : CoreCtx} {y : Core} (hk : (coreOf s c).ctx = some k)
    (hcheck : spillCheck (coreOf s c) o = .ok ()) (hg : goes s c h (.spill o) = true)
    (hy : copyLive (coreOf s c) (tget coreD s.spills (spillKey k)) o = .ok y) :
    Issues (.spill c h o) c h (.spill o) s
      (areaWrote { s with spills := tput coreD s.spills (spillKey k) y } (.spill (spillKey k)) o.spad.toNat o.elements.toNat)
      (atIssue s c h (.spill o)) (completion (decide (o.elements = 0)) 0 0 false) := by
  have hrun := doSpill_eq (s := atUnit s c h (.spill o)) (k := k) (coreOf_atUnit_leaving hg) hk hcheck
    ((copyLive_src (x := coreOf s c) rfl rfl).trans hy)
  refine issues_saveRestore_same rfl nofun rfl hg rfl ?_
  simp only [runOp, inUnit, hrun]
  rfl

theorem unspill_issues {s : State} {c : Fin 64} {h : CmdHdr} {o : SrOps} {k : CoreCtx} {y : Core} (hk : (coreOf s c).ctx = some k)
    (hcheck : spillCheck (coreOf s c) o = .ok ()) (hg : goes s c h (.unspill o) = true)
    (hy : copyLive (tget coreD s.spills (spillKey k)) (atIssue s c h (.unspill o)) o = .ok y) :
    Issues (.unspill c h o) c h (.unspill o) s (areaRead s (.spill (spillKey k)) o.spad.toNat o.elements.toNat) y
      (completion (decide (o.elements = 0)) 0 0 false) := by
  obtain ⟨spad, acc, rfl, hU⟩ := copyLive_ok hy
  have hrun := doUnspill_eq (s := atUnit s c h (.unspill o)) (k := k) (coreOf_atUnit_leaving hg) hk hcheck (hU _)
  refine issues_saveRestore_moved rfl nofun rfl hg (.refl _) rfl ?_
  simp only [runOp, inUnit, hrun]
  rfl

/-- Settles O43: each command meets nothing, so it leaves just what the save/restore engine makes of it. -/
theorem saveAndRestoreRun : Obligations.SaveAndRestoreRun := by
  unfold Obligations.SaveAndRestoreRun
  intro s c h o
  refine ⟨fun b off eb total w ss hb hp hcheck he hw hss => ⟨fun hg hclean => ?_, fun hg vals hv => ?_⟩,
    fun k y hk hcheck => ⟨fun hg hy => ?_, fun hg hy => ?_⟩⟩
  · exact restore_issues hb hp hcheck he hw hss hg hclean
  · exact save_issues hb hp hcheck he hw hss hg hv
  · exact spill_issues hk hcheck hg hy
  · exact unspill_issues hk hcheck hg hy

end Sys2Proof.Machine
end

section
/-!
PROOFS. A bay's bulk transfers (O50, R156, R158, R211, R212, R253, R256, R272).
-/
namespace Sys2Proof.Machine

open Sys2Proof

/-! ### A stored bay -/

@[simp] theorem bayOf_setBay_same (s : State) (i : Nat) (b : Bay) : bayOf (setBay s i b) i = some b := tfind_tins_same _ _ _

theorem bayOf_setBay_other (s : State) {i j : Nat} (b : Bay) (h : j ≠ i) : bayOf (setBay s i b) j = bayOf s j :=
  tfind_tins_other _ _ (Ne.symm h)

theorem setBay_setBay (s : State) (i : Nat) (a b : Bay) : setBay (setBay s i a) i b = setBay s i b := by
  unfold setBay
  rw [tins_tins]

/-! ### A response owed since before other work -/

/-- `u` has the same messages, connections and responses in hand as `s`, and nothing is lost of what has left the device. -/
def SameHost (s u : State) : Prop :=
  u.unanswered = s.unanswered ∧ u.conns = s.conns ∧ s.wire <+: u.wire ∧ u.mail = s.mail ∧ u.mailLast = s.mailLast ∧
    u.keeps = s.keeps

/-- A response that `s` owes, sent once other work has led to `u`. -/
theorem respond_after {s u : State} {rt : RespTo} (hu : SameHost s u) (h : awaits s rt = true) (status : Nat) (body : List Byte) :
    Responded rt status body s (respond u rt status body) ∧ (respond u rt status body).bare = u.bare := by
  obtain ⟨hun, hconns, hwire, hmail, hlast, hkeeps⟩ := hu
  have hconn : ∀ c, connOf u c = connOf s c := fun c => by unfold connOf; rw [hconns]
  have hawaits : awaits u rt = true := by
    unfold awaits at h ⊢
    rw [hun, hconn]
    exact h
  obtain ⟨⟨r1, r2, r3, r4, r5, r6, r7⟩, hbare, -⟩ := respond_one status body hawaits
  rw [hun] at r1
  rw [stream_congr (hconn rt.conn)] at r2
  rw [hkeeps] at r7
  exact ⟨⟨r1, r2, fun c hc => (r3 c hc).trans (hconn c), hwire.trans r4, r5.trans hmail, r6.trans hlast, r7⟩, hbare⟩

/-! ### Pieces -/

section
variable {s : State} {i : Nat} {b : Bay} {k : Bulk} {rest : List Bulk} (hb : bayOf s i = some b) (hq : b.bulk = k :: rest)
include hb hq

theorem startPiece_idle (h : k.running = true ∨ bulkOpen s i k = false ∨ s.fault.isSome = true) : startPiece s i = s := by
  unfold startPiece
  simp only [hb, hq]
  exact if_pos (by simpa using h)

theorem startPiece_runs (hr : k.running = false) (ho : bulkOpen s i k = true) (hf : s.fault = none) :
    startPiece s i = setBay s i { b with bulk := { k with running := true } :: rest } := by
  unfold startPiece
  simp only [hb, hq]
  rw [if_neg (by simp [hr, ho, hf]), modBay_of hb]

theorem pieceDone_idle (hr : k.running = false) : pieceDone s i = s := by
  unfold pieceDone
  simp only [hb, hq]
  exact if_pos (by simp [hr])

theorem pieceDone_left (hr : k.running = true) (hl : 262144 < k.left) :
    pieceDone s i = setBay s i { b with bulk := { k with running := false, left := k.left - 262144 } :: rest } := by
  unfold pieceDone
  simp only [hb, hq]
  rw [if_neg (by simp [hr])]
  exact (if_pos hl).trans (modBay_of hb _)

theorem pieceDone_last (hr : k.running = true) (hl : k.left ≤ 262144) :
    pieceDone s i = bulkDone (setBay s i { b with bulk := rest }) i k := by
  unfold pieceDone
  simp only [hb, hq]
  rw [if_neg (by simp [hr])]
  exact (if_neg (Nat.not_lt.mpr hl)).trans (congrArg (bulkDone · i k) (modBay_of hb _))

end

/-! ### What a finished job does -/

section
variable {s : State} {i j r : Nat} {x : Session} (resp : Option RespTo)

theorem carryEntries_none (h : carryTarget s j r = none) : carryEntries s i j r resp = s := by
  unfold carryEntries
  rw [h]
  split
  case h_1 heq => cases heq
  case h_2 => rfl

/-- How many entries a carried ring has to bring, and how many its consumer has room for (R253). -/
def carryCounts (s : State) (x y : Session) (r : Nat) : Nat × Nat :=
  let g := sringOf x r
  let h := { sringOf y r with dir := 0 }
  let n := cnt32 (planPtr (sessActive s x) g) g.io
  (n, min n (h.entries - cnt32 h.io (planPtr (sessActive s y) h)))

/-- The carried ring of the producer after `m` entries have left. -/
def carryGiven (x : Session) (r m : Nat) : Session :=
  putRing x r { sringOf x r with io := ((sringOf x r).io + m) % 4294967296 }

/-- The carried ring of the consumer after `m` entries have come. -/
def carryTaken (x y : Session) (r m : Nat) : Session :=
  putRing y r (ringPush { sringOf y r with dir := 0 } ((List.range m).map (fun q => entryGet (sringOf x r) ((sringOf x r).io + q))))

/-- The entries of a carried ring move from producer to consumer, and what does not fit waits in a new job. -/
theorem carryEntries_eq {bay e : Nat} {y : Session} (hx : sessOf s j = some x)
    (ht : carryTarget s j r = some (bay, e)) (hne : e ≠ j) (hy : sessOf s e = some y) :
    carryEntries s i j r resp =
      if (carryCounts s x y r).2 < (carryCounts s x y r).1 then
        modBay (setSess (setSess s j (carryGiven x r (carryCounts s x y r).2)) e (carryTaken x y r (carryCounts s x y r).2)) i
          (fun b => { b with bulk := b.bulk ++ [{
            kind := .ringCarry j r, left := ((carryCounts s x y r).1 - (carryCounts s x y r).2) * (sringOf x r).entryBytes
            running := false, resp := resp }] })
      else setSess (setSess s j (carryGiven x r (carryCounts s x y r).2)) e (carryTaken x y r (carryCounts s x y r).2) := by
  unfold carryEntries
  simp only [hx, ht, hy]
  rw [modSess_of hx, modSess_of ((sessOf_setSess_other _ _ hne).trans hy)]
  rfl

end

/-- The builds once bay `i` has its copy of build `d`, where it needs one of its own. -/
def copyPlaced (s : State) (i : Nat) (id : W64) (b : Bay) (d : Build) : List Build :=
  s.builds.map (fun x => if x.id = id ∧ needsCopy d i b.attr.channelMask = true then
    { x with copies := x.copies ++ [{ kind := 2 + i, channels := b.attr.channelMask, written := [], badPages := []
                                      base := placeAt (maskBits 48 b.attr.channelMask) s.fresh d.image.length }] } else x)

/-- A bay's copy changes the build and the channels' records alone. -/
theorem placeCopy_of {s : State} {i : Nat} {id : W64} {b : Bay} {d : Build} (hb : bayOf s i = some b) (hd : buildOf s id = some d) :
    ∃ channels slices fresh, placeCopy s i id =
      { s with builds := copyPlaced s i id b d, channels := channels, slices := slices, fresh := fresh } := by
  unfold placeCopy copyPlaced
  simp only [hb, hd]
  by_cases hn : needsCopy d i b.attr.channelMask = true
  · simp only [hn, and_true, if_true]
    exact ⟨_, _, _, rfl⟩
  · simp only [hn, and_false, if_false, List.map_id', Bool.false_eq_true]
    exact ⟨_, _, _, rfl⟩

theorem pageMended_eq (s : State) (id : W64) (c page : Nat) : ∃ builds channels slices,
    pageMended s id c page = fixPaused { s with builds := builds, channels := channels, slices := slices } := ⟨_, _, _, rfl⟩

theorem sameHost_pageMended (s : State) (id : W64) (c page : Nat) : SameHost s (pageMended s id c page) := by
  obtain ⟨builds, channels, slices, h⟩ := pageMended_eq s id c page
  rw [h]
  exact ⟨rfl, rfl, List.prefix_refl _, rfl, rfl, rfl⟩

/-- A mended page may let bays go on, and changes nothing of their queues. -/
theorem bulk_pageMended {s : State} {id : W64} {c page : Nat} {e : Nat × Bay} (h : e ∈ (pageMended s id c page).bays) :
    ∃ d, d ∈ s.bays ∧ e.2.bulk = d.2.bulk := by
  obtain ⟨builds, channels, slices, heq⟩ := pageMended_eq s id c page
  rw [heq] at h
  obtain ⟨d, hd, rfl⟩ := List.mem_map.mp h
  exact ⟨d, hd, rfl⟩

/-- A bay after the plan's copy is in place: the plan is ready. -/
def plansReady (b : Bay) (build : W64) (plan : Nat) : Bay :=
  { b with plans := b.plans.map (fun p => { p with ready := p.ready || decide (p.build = build ∧ p.plan = plan) }) }

section
variable {s : State} {i : Nat} {k : Bulk} {rt : RespTo} (hr : k.resp = some rt)
include hr

theorem bulkDone_planCopy {build : W64} {plan : Nat} {b : Bay} (hk : k.kind = .planCopy build plan)
    (hb : bayOf (placeCopy s i build) i = some b) :
    bulkDone s i k = respond (setBay (placeCopy s i build) i (plansReady b build plan)) rt stOk [] := by
  have hready : ∀ p : Bound, (if p.build = build ∧ p.plan = plan then { p with ready := true } else p) =
      { p with ready := p.ready || decide (p.build = build ∧ p.plan = plan) } := by
    intro p
    by_cases hp : p.build = build ∧ p.plan = plan <;> simp [hp]
  unfold bulkDone
  simp only [hk, hr, hready]
  rw [answer_ok rfl, modBay_of hb]
  rfl

theorem bulkDone_attachMove {j : Nat} {x : Session} {a : Attachment} (hk : k.kind = .attachMove j (some i))
    (hx : sessOf s j = some x) (ha : x.attach = some a) :
    bulkDone s i k =
      respond (setSess s j { x with attach := some { a with ready := true } }) rt stOk (le 8 (s.chunk + 1)) := by
  rw [← acceptAttach_of hx ha]
  unfold bulkDone
  simp only [hk, hr]
  rw [if_pos (by rw [hx]; exact congrArg Option.isSome ha), if_pos trivial]

theorem bulkDone_pageReload {id : W64} {c page : Nat} (hk : k.kind = .pageReload id c page)
    (hlast : ∀ e, e ∈ s.bays → ∀ q, q ∈ e.2.bulk → q.resp ≠ some rt) :
    bulkDone s i k = respond (pageMended s id c page) rt stOk (le 8 65536) := by
  unfold bulkDone
  simp only [hk, hr]
  refine if_neg ?_
  simp only [List.any_eq_true, decide_eq_true_eq]
  rintro ⟨e, he, q, hq, heq⟩
  obtain ⟨d, hd, hbulk⟩ := bulk_pageMended he
  exact hlast d hd q (hbulk ▸ hq) heq

theorem bulkDone_sessionExport {j : Nat} {x : Session} (hk : k.kind = .sessionExport j) (hx : sessOf s j = some x)
    (ha : x.attach = none) :
    bulkDone s i k = respond (areaRead s (.half j (sessActive s x)) 0 x.halfA.length) rt stOk (exportBody s x) := by
  rw [← exportDone_of hx ha]
  unfold bulkDone
  simp only [hk, hr]

end

/-! ### O50 -/

/-- A bay's queue after a piece, all other bays as they were. -/
theorem bayOf_queue (s : State) (i : Nat) (b : Bay) (l : List Bulk) :
    bayOf (setBay s i { b with bulk := l }) i = some { b with bulk := l } ∧
      ∀ j, j ≠ i → bayOf (setBay s i { b with bulk := l }) j = bayOf s j :=
  ⟨bayOf_setBay_same .., fun _ hj => bayOf_setBay_other _ _ hj⟩

theorem setSess_setBay (s : State) (i j : Nat) (b : Bay) (x : Session) :
    setSess (setBay s i b) j x = setBay (setSess s j x) i b := by
  simp only [setBay, setSess]

theorem setBay_setSess_rest (s : State) (i j e : Nat) (b : Bay) (x y : Session) :
    { setBay (setSess (setSess s j x) e y) i b with bays := [], sessions := [] } = { s with bays := [], sessions := [] } := by
  simp only [setBay, setSess]

theorem carryCounts_setBay (s : State) (i : Nat) (b : Bay) (x y : Session) (r : Nat) :
    carryCounts (setBay s i b) x y r = carryCounts s x y r := by
  simp only [carryCounts, sessActive, yealmOf, setBay]

section
variable {s : State} {i : Nat} {b : Bay} {k : Bulk} {rest : List Bulk} (hb : bayOf s i = some b) (hq : b.bulk = k :: rest)
  (hrun : k.running = true) (hl : k.left ≤ 262144)
include hb hq hrun hl

theorem ringCarry_done {j r bay e : Nat} {x y : Session} (hk : k.kind = .ringCarry j r) (hx : sessOf s j = some x)
    (ht : carryTarget s j r = some (bay, e)) (hne : e ≠ j) (hy : sessOf s e = some y) :
    let n := (carryCounts s x y r).1
    let m := (carryCounts s x y r).2
    exec (.bulkTransferPieceDone i) s = .next (setBay (setSess (setSess s j (carryGiven x r m)) e (carryTaken x y r m)) i
      { b with bulk := rest ++ (if m < n then
        [{ kind := .ringCarry j r, left := (n - m) * (sringOf x r).entryBytes, running := false, resp := k.resp }] else []) }) := by
  intro n m
  refine congrArg Host.Outcome.next ((pieceDone_last hb hq hrun hl).trans ?_)
  have hcarry := carryEntries_eq (s := setBay s i { b with bulk := rest }) (i := i) k.resp hx ht hne hy
  rw [carryCounts_setBay, setSess_setBay, setSess_setBay, modBay_of (bayOf_setBay_same ..), setBay_setBay] at hcarry
  unfold bulkDone
  simp only [hk]
  rw [hcarry]
  by_cases hmn : m < n
  · rw [if_pos hmn, if_pos hmn]
  · rw [if_neg hmn, if_neg hmn, List.append_nil]

theorem planCopy_done {build : W64} {plan : Nat} {rt : RespTo} {d : Build} (hk : k.kind = .planCopy build plan)
    (hresp : k.resp = some rt) (hrt : awaits s rt = true) (hd : buildOf s build = some d) :
    ∃ t, exec (.bulkTransferPieceDone i) s = .next t ∧
      bayOf t i = some (plansReady { b with bulk := rest } build plan) ∧ (∀ j, j ≠ i → bayOf t j = bayOf s j) ∧
      t.builds = copyPlaced s i build b d ∧
      { t.bare with bays := [], builds := [], channels := [], slices := [] } =
        { s.bare with bays := [], builds := [], channels := [], slices := [] } ∧ Responded rt stOk [] s t := by
  obtain ⟨channels, slices, fresh, hcopy⟩ := placeCopy_of (id := build) (bayOf_setBay_same s i { b with bulk := rest }) hd
  have hdone := bulkDone_planCopy (s := setBay s i { b with bulk := rest }) (i := i) (plan := plan)
    (b := { b with bulk := rest }) hresp hk (by rw [hcopy]; exact bayOf_setBay_same ..)
  rw [hcopy] at hdone
  generalize hu : setBay { setBay s i { b with bulk := rest } with
    builds := copyPlaced (setBay s i { b with bulk := rest }) i build { b with bulk := rest } d
    channels := channels, slices := slices, fresh := fresh } i (plansReady { b with bulk := rest } build plan) = u at hdone
  obtain ⟨hresponded, hbare⟩ := respond_after (u := u) (s := s)
    (by rw [← hu]; exact ⟨rfl, rfl, List.prefix_refl _, rfl, rfl, rfl⟩) hrt stOk []
  have hbays := bayOf_congr (congrArg State.bays hbare)
  refine ⟨_, congrArg Host.Outcome.next ((pieceDone_last hb hq hrun hl).trans hdone), (hbays i).trans ?_, fun j hj => (hbays j).trans ?_,
    (congrArg State.builds hbare).trans ?_, ?_, hresponded⟩
  · rw [← hu]
    exact bayOf_setBay_same ..
  · rw [← hu]
    exact (bayOf_setBay_other _ _ hj).trans (bayOf_setBay_other _ _ hj)
  · rw [← hu]
    rfl
  · rw [hbare, ← hu]
    rfl

theorem attachMove_done {j : Nat} {rt : RespTo} {x : Session} {a : Attachment} (hk : k.kind = .attachMove j (some i))
    (hresp : k.resp = some rt) (hrt : awaits s rt = true) (hx : sessOf s j = some x) (ha : x.attach = some a) :
    ∃ t, exec (.bulkTransferPieceDone i) s = .next t ∧
      (bayOf t i = some { b with bulk := rest } ∧ ∀ q, q ≠ i → bayOf t q = bayOf s q) ∧
      sessOf t j = some { x with attach := some { a with ready := true } } ∧ (∀ e, e ≠ j → sessOf t e = sessOf s e) ∧
      { t.bare with bays := [], sessions := [] } = { s.bare with bays := [], sessions := [] } ∧
      Responded rt stOk (le 8 (s.chunk + 1)) s t := by
  obtain ⟨hresponded, hbare⟩ := respond_after (u := setSess (setBay s i { b with bulk := rest }) j
    { x with attach := some { a with ready := true } }) ⟨rfl, rfl, List.prefix_refl _, rfl, rfl, rfl⟩ hrt stOk (le 8 (s.chunk + 1))
  have hbay := bayOf_congr (congrArg State.bays hbare)
  have hsess := sessOf_congr (congrArg State.sessions hbare)
  obtain ⟨hsame, hother⟩ := bayOf_queue s i b rest
  refine ⟨_, congrArg Host.Outcome.next ((pieceDone_last hb hq hrun hl).trans (bulkDone_attachMove hresp hk hx ha)),
    ⟨(hbay i).trans hsame, fun q hq => (hbay q).trans (hother q hq)⟩, (hsess j).trans (sessOf_setSess_same ..),
    fun e he => (hsess e).trans (sessOf_setSess_other _ _ he), ?_, hresponded⟩
  exact congrArg (fun v : State => { v with bays := [], sessions := [] }) hbare

theorem sessionExport_done {j : Nat} {rt : RespTo} {x : Session} (hk : k.kind = .sessionExport j)
    (hresp : k.resp = some rt) (hrt : awaits s rt = true) (hx : sessOf s j = some x) (ha : x.attach = none) :
    ∃ t, exec (.bulkTransferPieceDone i) s = .next t ∧
      (bayOf t i = some { b with bulk := rest } ∧ ∀ q, q ≠ i → bayOf t q = bayOf s q) ∧
      { t.bare with bays := [], channels := [] } = { s.bare with bays := [], channels := [] } ∧
      Responded rt stOk (exportBody s x) s t := by
  obtain ⟨hresponded, hbare⟩ := respond_after (u := areaRead (setBay s i { b with bulk := rest }) (.half j (sessActive s x)) 0
    x.halfA.length) ⟨rfl, rfl, List.prefix_refl _, rfl, rfl, rfl⟩ hrt stOk (exportBody s x)
  have hbay := bayOf_congr (congrArg State.bays hbare)
  obtain ⟨hsame, hother⟩ := bayOf_queue s i b rest
  refine ⟨_, congrArg Host.Outcome.next ((pieceDone_last hb hq hrun hl).trans (bulkDone_sessionExport hresp hk hx ha)),
    ⟨(hbay i).trans hsame, fun q hq => (hbay q).trans (hother q hq)⟩, ?_, hresponded⟩
  exact congrArg (fun v : State => { v with bays := [], channels := [] }) hbare

end

/-- Settles O50: each piece by what it leaves (`startPiece_runs`, `pieceDone_left`), the last by what its job does. -/
theorem bulkTransfersMoveInPieces : Obligations.BulkTransfersMoveInPieces := by
  unfold Obligations.BulkTransfersMoveInPieces
  intro s i b k rest hb hq Queue
  have hstart : ∀ {t}, startPiece s i = t → exec (.reserveWindowPiece i) s = .next t := congrArg Host.Outcome.next
  have hend : ∀ {t}, pieceDone s i = t → exec (.bulkTransferPieceDone i) s = .next t := congrArg Host.Outcome.next
  refine ⟨fun h => hstart (startPiece_idle hb hq h), fun hr ho hf => ?_, fun hr => hend (pieceDone_idle hb hq hr),
    fun hr hl => ?_, fun hr hl => ⟨fun j r hk ht => ?_, fun j r x bay e y hk hx ht hne hy => ?_,
      fun build plan rt d hk hresp hrt hd => ?_, fun j rt x a hk hresp hrt hx ha => ?_, fun id c page rt hk hresp hrt => ?_,
      fun j rt x hk hresp hrt hx ha => ?_⟩⟩
  · exact ⟨_, hstart (startPiece_runs hb hq hr ho hf), bayOf_queue s i b _, rfl⟩
  · exact ⟨_, hend (pieceDone_left hb hq hr hl), bayOf_queue s i b _, rfl⟩
  · refine ⟨_, hend ((pieceDone_last hb hq hr hl).trans ?_), bayOf_queue s i b rest, rfl⟩
    unfold bulkDone
    simp only [hk]
    exact carryEntries_none _ ht
  · refine ⟨_, ringCarry_done hb hq hr hl hk hx ht hne hy, bayOf_queue .., ?_, ?_, fun q hqj hqe => ?_, setBay_setSess_rest ..⟩
    · exact (sessOf_setSess_other _ _ (Ne.symm hne)).trans (sessOf_setSess_same ..)
    · exact sessOf_setSess_same ..
    · exact (sessOf_setSess_other _ _ hqe).trans (sessOf_setSess_other _ _ hqj)
  · exact planCopy_done hb hq hr hl hk hresp hrt hd
  · exact attachMove_done hb hq hr hl hk hresp hrt hx ha
  · intro u hother
    have hu : u = setBay s i { b with bulk := rest } := modBay_of hb _
    rw [hu] at hother ⊢
    obtain ⟨hresponded, hbare⟩ := respond_after (s := s) (sameHost_pageMended (setBay s i { b with bulk := rest }) id c page) hrt
      stOk (le 8 65536)
    exact ⟨_, hend ((pieceDone_last hb hq hr hl).trans (bulkDone_pageReload hresp hk hother)), hbare, hresponded⟩
  · exact sessionExport_done hb hq hr hl hk hresp hrt hx ha

end Sys2Proof.Machine
end

section
/-!
PROOFS. Tables changed entry by entry (for O46).
-/
namespace Sys2Proof.Machine

open Sys2Proof

/-! ### Every entry of a table changed -/

/-- A table with each value changed at its key. -/
def mapTab {α : Type} (g : Nat → α → α) (t : Tab α) : Tab α := t.map (fun e => (e.1, g e.1 e.2))

section
variable {α : Type} {t : Tab α}

theorem mapTab_keys (g : Nat → α → α) (t : Tab α) : (mapTab g t).map Prod.fst = t.map Prod.fst := by
  simp [mapTab, Function.comp_def]

theorem mapTab_mapTab (g f : Nat → α → α) (t : Tab α) : mapTab g (mapTab f t) = mapTab (fun k v => g k (f k v)) t := by
  simp [mapTab, Function.comp_def]

theorem mapTab_congr {g f : Nat → α → α} (h : ∀ e, e ∈ t → g e.1 e.2 = f e.1 e.2) : mapTab g t = mapTab f t :=
  List.map_congr_left fun e he => by rw [h e he]

theorem mapTab_same {g : Nat → α → α} (h : ∀ e, e ∈ t → g e.1 e.2 = e.2) : mapTab g t = t :=
  (mapTab_congr (f := fun _ v => v) h).trans (List.map_id t)

theorem tfind_mapTab (g : Nat → α → α) (t : Tab α) (k : Nat) : tfind (mapTab g t) k = (tfind t k).map (g k) := by
  induction t with
  | nil => rfl
  | cons e rest ih =>
    obtain ⟨j, v⟩ := e
    refine (tfind_cons ..).trans ?_
    rw [tfind_cons]
    by_cases h : j = k
    · rw [if_pos h, if_pos h, h]; rfl
    · rw [if_neg h, if_neg h]; exact ih

theorem tsorted_mapTab {lo : Option Nat} {g : Nat → α → α} (h : tsorted lo t = true) : tsorted lo (mapTab g t) = true := by
  induction t generalizing lo with
  | nil => rfl
  | cons e rest ih =>
    obtain ⟨j, v⟩ := e
    simp only [tsorted, Bool.and_eq_true] at h
    simp only [mapTab, List.map_cons, tsorted, Bool.and_eq_true]
    exact ⟨h.1, ih h.2⟩

/-- A write to a listed key of a sorted table changes that entry in its place. -/
theorem tins_eq_mapTab {lo : Option Nat} {k : Nat} {v w : α} (hs : tsorted lo t = true) (h : tfind t k = some v) :
    tins t k w = mapTab (fun j x => if j = k then w else x) t := by
  induction t generalizing lo with
  | nil => cases h
  | cons e rest ih =>
    obtain ⟨j, u⟩ := e
    simp only [tsorted, Bool.and_eq_true] at hs
    have hrest := tsorted_above hs.2
    rw [tfind_cons] at h
    rw [tins_cons]
    by_cases hjk : j = k
    · have hsame : mapTab (fun i x => if i = k then w else x) rest = rest :=
        mapTab_same fun e he => if_neg (by have := hrest e he; omega)
      rw [if_neg (by omega), if_pos hjk]
      simp only [mapTab, List.map_cons, if_pos hjk] at hsame ⊢
      rw [hsame, hjk]
    · rw [if_neg hjk] at h
      have hlt : j < k := hrest _ (mem_of_tfind h)
      rw [if_pos hlt, ih hs.2 h]
      simp only [mapTab, List.map_cons, if_neg hjk]

theorem tmod_eq_mapTab {lo : Option Nat} (k : Nat) (f : α → α) (hs : tsorted lo t = true) :
    tmod t k f = mapTab (fun j x => if j = k then f x else x) t := by
  unfold tmod
  cases h : tfind t k with
  | none =>
    refine (mapTab_same (g := fun j x => if j = k then f x else x) fun e he => if_neg fun hk => ?_).symm
    rw [← hk, tfind_of_mem hs he] at h
    cases h
  | some v =>
    refine (tins_eq_mapTab hs h).trans (mapTab_congr fun e he => ?_)
    by_cases hk : e.1 = k
    · rw [← hk, tfind_of_mem hs he] at h
      cases h
      rw [if_pos hk]
    · rw [if_neg hk, if_neg hk]

/-- Entries changed one after the other, each once. -/
theorem foldl_tmod_eq_mapTab {lo : Option Nat} (f : α → α) (l : List Nat) (hd : l.Nodup) (hs : tsorted lo t = true) :
    l.foldl (fun r k => tmod r k f) t = mapTab (fun j x => if j ∈ l then f x else x) t := by
  induction l generalizing t with
  | nil => exact (mapTab_same fun _ _ => by simp).symm
  | cons k rest ih =>
    obtain ⟨hk, hd⟩ := List.nodup_cons.mp hd
    rw [List.foldl_cons, tmod_eq_mapTab k f hs, ih hd (tsorted_mapTab hs), mapTab_mapTab]
    refine mapTab_congr fun e _ => ?_
    by_cases hek : e.1 = k
    · simp [hek, hk]
    · simp [hek]

/-- The entries that a test picks, changed one after the other. -/
theorem foldl_tmod_filter {lo : Option Nat} (p : Nat × α → Bool) (f : α → α) (hs : tsorted lo t = true) :
    (t.filter p).foldl (fun r e => tmod r e.1 f) t = mapTab (fun k v => if p (k, v) = true then f v else v) t := by
  have hfold := foldl_tmod_eq_mapTab f ((t.filter p).map Prod.fst)
    ((tsorted_nodup hs).sublist (List.filter_sublist.map Prod.fst)) hs
  rw [List.foldl_map] at hfold
  refine hfold.trans (mapTab_congr fun e he => ?_)
  have hmem : e.1 ∈ (t.filter p).map Prod.fst ↔ p e = true := by
    refine ⟨fun h => ?_, fun h => List.mem_map_of_mem (List.mem_filter.mpr ⟨he, h⟩)⟩
    obtain ⟨d, hd, hkey⟩ := List.mem_map.mp h
    obtain ⟨hdt, hpd⟩ := List.mem_filter.mp hd
    have hval := tfind_of_mem hs (show (d.1, d.2) ∈ t from hdt)
    rw [hkey, tfind_of_mem hs (show (e.1, e.2) ∈ t from he)] at hval
    rwa [show e = d from Prod.ext hkey.symm (Option.some.inj hval)]
  simp only [hmem]

end

/-- Sessions that a test picks, changed one after the other. -/
theorem foldl_modSess_filter {s : State} (p : Nat × Session → Bool) (f : Session → Session) (hs : tsorted none s.sessions = true) :
    (s.sessions.filter p).foldl (fun v e => modSess v e.1 f) s =
      { s with sessions := mapTab (fun k x => if p (k, x) = true then f x else x) s.sessions } := by
  rw [← foldl_tmod_filter p f hs]
  exact List.foldl_hom (g₁ := fun r (e : Nat × Session) => tmod r e.1 f) (g₂ := fun v e => modSess v e.1 f)
    (fun r : Tab Session => { s with sessions := r }) (fun _ _ => rfl)

/-- A fold that every entry leaves alone. -/
theorem foldl_fixed_of_mem {α β : Type} {g : α → β → α} {a : α} {l : List β} (h : ∀ e, e ∈ l → g a e = a) :
    l.foldl g a = a := by
  induction l with
  | nil => rfl
  | cons e rest ih =>
    rw [List.foldl_cons, h e List.mem_cons_self]
    exact ih fun d hd => h d (List.mem_cons_of_mem _ hd)

theorem iter_fixed {α : Type} {g : Nat → α → α} {a : α} (h : ∀ k, g k a = a) (n : Nat) : iter g n a = a := by
  induction n with
  | zero => rfl
  | succ n ih => rw [iter, ih, h]

end Sys2Proof.Machine
end

section
/-!
PROOFS. A chunk boundary at which nothing but the next chunk waits, stage by stage (O46): what each stage leaves as it is.
-/
namespace Sys2Proof.Machine

open Sys2Proof

section
variable {s : State}

theorem boundaryIo_quiet (hs : tsorted none s.sessions = true) (h : ∀ e, e ∈ s.sessions → e.2.tdmOwed = []) :
    boundaryIo s = { s with sessions := mapTab (fun _ x => { x with ioBytes := 0 }) s.sessions } := by
  have hcleared : ∀ e, e ∈ mapTab (fun _ x => { x with ioBytes := 0 }) s.sessions → e.2.tdmOwed = [] := by
    intro e he
    obtain ⟨d, hd, rfl⟩ := List.mem_map.mp he
    exact h d hd
  have hsorted := tsorted_mapTab (g := fun _ (x : Session) => { x with ioBytes := 0 }) hs
  generalize hm : mapTab (fun _ (x : Session) => { x with ioBytes := 0 }) s.sessions = m at hcleared hsorted
  have hfold := foldl_modSess_filter (s := { s with sessions := m }) (fun _ => true) (fun x => { x with tdmOwed := [] }) hsorted
  rw [List.filter_true] at hfold
  have hsame : mapTab (fun _ (x : Session) => { x with tdmOwed := [] }) m = m :=
    mapTab_same fun e he => by rw [← hcleared e he]
  simp only [if_true, hsame] at hfold
  refine Eq.trans ?_ hfold
  unfold boundaryIo
  rw [show s.sessions.map (fun e => (e.1, { e.2 with ioBytes := 0 })) = m from hm]
  refine List.foldl_ext _ _ _ fun v e he => ?_
  rw [hcleared e he]
  rfl

theorem applyCommit_none {id inst : Nat} (h : ∀ e, e ∈ s.recs → e.2.commit = none) : applyCommit s id inst = s := by
  have hrec : (recOf s id inst).commit = none := by
    unfold recOf tget
    cases hf : tfind s.recs (recKey id inst) with
    | none => rfl
    | some r => exact h _ (mem_of_tfind hf)
  unfold applyCommit
  simp only [hrec]

theorem boundaryRecs_quiet (h : ∀ e, e ∈ s.recs → e.2.commit = none) : boundaryRecs s = s := by
  have hbays : iter (fun i v => if (bayOf v i).isSome then applyCommit v 0x20 i else v) 64 s = s := by
    refine iter_fixed (fun i => ?_) 64
    rw [applyCommit_none h, ite_self]
  unfold boundaryRecs
  rw [hbays, applyCommit_none h]

theorem boundaryScrub_quiet (h : s.scrubFound = []) : boundaryScrub s = s := by
  unfold boundaryScrub
  rw [h]
  show { s with scrubFound := [] } = s
  rw [← h]

theorem emptySlots_quiet (h : ∀ e, e ∈ s.sessions → e.2.st ≠ .lost) : emptySlots s = s := by
  refine foldl_fixed_of_mem fun e he => ?_
  unfold emptySlot
  split
  case h_1 => rfl
  case h_2 => rw [if_pos (h e he)]

theorem boundaryEnds_quiet (hy : ∀ e, e ∈ s.yealms → e.2.releasing = none) (hb : ∀ e, e ∈ s.bays → e.2.destroying = none) :
    boundaryEnds s = s := by
  have hyealm : ∀ k, endYealm s k = s := by
    intro k
    unfold endYealm
    split
    case h_1 => rfl
    case h_2 y hk => rw [hy _ (mem_of_tfind hk)]
  have hbay : ∀ i, endBay s i = s := by
    intro i
    unfold endBay
    split
    case h_1 => rfl
    case h_2 b hi => rw [hb _ (mem_of_tfind hi)]
  have hyealms : s.yealms.foldl (fun v e => endYealm v e.1) s = s := foldl_fixed_of_mem fun e _ => hyealm e.1
  unfold boundaryEnds
  rw [hyealms]
  exact foldl_fixed_of_mem fun e _ => hbay e.1

theorem boundaryDetach_quiet (h : ∀ e, e ∈ s.sessions → e.2.detachWait = none) : boundaryDetach s = s :=
  foldl_fixed_of_mem fun e he => if_neg (by simp [h e he])

theorem boundaryAttach_quiet (h : ∀ e a, e ∈ s.sessions → e.2.attach = some a → a.ready = false ∨ a.effective = true) :
    boundaryAttach s = s := by
  refine foldl_fixed_of_mem fun e he => ?_
  unfold attachNow
  split
  case h_1 => rfl
  case h_2 a ha => exact if_pos (by simpa using h e a he ha)

theorem boundaryCaptures_quiet (h : ∀ e, e ∈ s.sessions → e.2.job = none) : boundaryCaptures s = s :=
  foldl_fixed_of_mem fun e he => by rw [h e he]

theorem takeSnapshots_none (h : s.snapshots = []) : takeSnapshots s = s := by
  unfold takeSnapshots
  rw [h]
  show { s with snapshots := [] } = s
  rw [← h]

theorem bayOf_one {i : Nat} {b : Bay} (h : s.bays = [(i, b)]) : bayOf s i = some b := by
  unfold bayOf
  rw [h, tfind_cons, if_pos rfl]

theorem modBay_one {i : Nat} {b : Bay} (h : s.bays = [(i, b)]) (f : Bay → Bay) : modBay s i f = { s with bays := [(i, f b)] } := by
  rw [modBay_of (bayOf_one h), setBay, h, tins_cons, if_neg (Nat.lt_irrefl i), if_pos rfl]

/-- Admission where no variant changes, no yealm waits and no plan is fenced for good: the bay's window closes, and that is all. -/
theorem boundaryAdmit_quiet {i : Nat} {b : Bay} {v : Nat} (hbays : s.bays = [(i, b)]) (hlast : b.lastVariant = some v)
    (hnow : variantNow s b = some v) (hrun : bayBlocked s b = false)
    (hy : ∀ e, e ∈ s.yealms → e.2.susp = .no ∧ planFenced s i e.2.build e.2.plan true = false) :
    boundaryAdmit s = { s with bays := [(i, { b with variant := some v, lastVariant := some v, window := false })] } := by
  have hbay := bayOf_one hbays
  have hmem : ∀ e, e ∈ bayYealms s b → e.2.susp = .no ∧ planFenced s i e.2.build e.2.plan true = false := by
    intro e he
    obtain ⟨k, -, hk⟩ := List.mem_filterMap.mp he
    obtain ⟨y, hy', rfl⟩ := Option.map_eq_some_iff.mp hk
    exact hy _ (mem_of_tfind hy')
  have hfenced : (bayYealms s b).any (fun e => e.2.admitted && planFenced s i e.2.build e.2.plan true) = false := by
    rw [List.any_eq_false]
    intro e he
    simp [(hmem e he).2]
  have hwaits : (bayYealms s b).any (fun e => decide (e.2.susp = .capacity)) = false := by
    rw [List.any_eq_false]
    intro e he
    simp [(hmem e he).1]
  have hadmit : admitBay s i = { s with bays := [(i, { b with variant := some v, lastVariant := some v })] } := by
    unfold admitBay
    simp only [hbay, hnow, hrun, hfenced, hwaits, hlast, ne_eq, not_true_eq_false, decide_false, Bool.or_self, Bool.false_eq_true,
      not_false_eq_true, if_true]
    exact modBay_one hbays _
  unfold boundaryAdmit
  rw [hbays, List.foldl_cons, List.foldl_nil, hadmit]
  rfl

end

end Sys2Proof.Machine
end

section
/-!
PROOFS. The steps that a chunk boundary admits, and the meters' levels (O46, R148, R153, R279, R398).
-/
namespace Sys2Proof.Machine

open Sys2Proof

/-! ### Who takes part -/

/-- Session `y` is `x` but for the traffic of the chunk and the chunk that is admitted. -/
def SameWork (x y : Session) : Prop := ∃ io adm, y = { x with ioBytes := io, admitted := adm }

/-- Who takes part does not depend on the bays, the traffic or the chunks admitted. -/
theorem takingPart_sameWork (s : State) (bays : Tab Bay) {g : Nat → Session → Session} (hg : ∀ k x, SameWork x (g k x)) (y k : Nat) :
    takingPart { s with bays := bays, sessions := mapTab g s.sessions } y k = takingPart s y k := by
  have hattach : ∀ j x, (g j x).attach = x.attach := fun j x => by
    obtain ⟨io, adm, h⟩ := hg j x
    rw [h]
  have heligible : ∀ j x, eligible { s with bays := bays, sessions := mapTab g s.sessions } (g j x) k = eligible s x k := fun j x => by
    obtain ⟨io, adm, h⟩ := hg j x
    rw [h]
    rfl
  unfold takingPart claimants
  simp only [mapTab] at heligible ⊢
  rw [List.filter_map, List.filterMap_map]
  simp only [Function.comp_def, effAttach, hattach, heligible]

/-! ### One step -/

/-- A session takes part in a step: its attachment is in effect and its slot is in the step's mask. -/
def joins (p : Step) (x : Session) : Bool :=
  ((effAttach x).map (fun a => decide (a.yealm = p.yealm) && bit p.mask a.slot)).getD false

/-- A session once a step of chunk `k` is admitted: its chunk, where it takes part and has none. -/
def joined (k : Nat) (x : Session) (p : Step) : Session :=
  if (joins p x && x.admitted.isNone) = true then { x with admitted := some k } else x

theorem joined_sameWork (k : Nat) {x y : Session} (p : Step) (h : SameWork x y) : SameWork x (joined k y p) := by
  obtain ⟨io, adm, rfl⟩ := h
  unfold joined
  split
  · exact ⟨io, some k, rfl⟩
  · exact ⟨io, adm, rfl⟩

theorem foldl_joined_sameWork (k : Nat) (steps : List Step) {x y : Session} (h : SameWork x y) :
    SameWork x (steps.foldl (joined k) y) := by
  induction steps generalizing y with
  | nil => exact h
  | cons p rest ih => exact ih (joined_sameWork k p h)

/-- A session, of those that claim a slot of a step's yealm, is in the step's mask and has no chunk admitted. -/
def masked (p : Step) (x : Session) : Bool :=
  ((effAttach x).map (fun a => bit p.mask a.slot)).getD false && x.admitted.isNone

/-- What `admitStep` does with one claimant. -/
def admitOne (p : Step) (s : State) (e : Nat × Session) : State :=
  match effAttach e.2 with
  | some a => if bit p.mask a.slot ∧ e.2.admitted.isNone then modSess s e.1 (fun x => { x with admitted := some s.chunk }) else s
  | none => s

theorem admitOne_eq (p : Step) (s : State) (e : Nat × Session) :
    admitOne p s e = if masked p e.2 = true then modSess s e.1 (fun x => { x with admitted := some s.chunk }) else s := by
  unfold admitOne masked
  cases effAttach e.2 with
  | none => simp
  | some a => simp

theorem foldl_admitOne (p : Step) (l : List (Nat × Session)) (s : State) :
    l.foldl (admitOne p) s =
      (l.filter (fun e => masked p e.2)).foldl (fun v e => modSess v e.1 (fun x => { x with admitted := some s.chunk })) s := by
  induction l generalizing s with
  | nil => rfl
  | cons e rest ih =>
    rw [List.foldl_cons, admitOne_eq, List.filter_cons]
    by_cases h : masked p e.2 = true
    · rw [if_pos h, if_pos h, ih]; rfl
    · rw [if_neg h, if_neg h, ih]

theorem joins_iff {p : Step} {x : Session} : joins p x = true ↔
    ∃ a, effAttach x = some a ∧ a.yealm = p.yealm ∧ bit p.mask a.slot = true := by
  unfold joins
  cases effAttach x with
  | none => simp
  | some a => simp

/-- A session claims a slot of a yealm. -/
def claims (y : Nat) (x : Session) : Bool := (x.attach.map (fun a => decide (a.yealm = y))).getD false

theorem claimants_eq (s : State) (y : Nat) : claimants s y = s.sessions.filter (fun e => claims y e.2) := by
  unfold claimants
  refine List.filter_congr fun e _ => ?_
  unfold claims
  cases e.2.attach <;> rfl

theorem claims_masked (p : Step) (x : Session) : (claims p.yealm x && masked p x) = (joins p x && x.admitted.isNone) := by
  unfold claims masked joins effAttach
  cases x.attach with
  | none => rfl
  | some a => cases he : a.effective <;> simp [Option.filter, he, Bool.and_assoc]

/-- The sessions that take part in a step have its chunk admitted. -/
theorem foldl_claimants {s : State} (hs : tsorted none s.sessions = true) (p : Step) :
    (claimants s p.yealm).foldl (admitOne p) s = { s with sessions := mapTab (fun _ x => joined s.chunk x p) s.sessions } := by
  rw [foldl_admitOne, claimants_eq, List.filter_filter]
  refine (foldl_modSess_filter _ _ hs).trans ?_
  simp only [Bool.and_comm (masked p _), claims_masked]
  rfl

/-! ### The steps of a boundary -/

section
variable {w : State} {i v : Nat}

/-- `w` once bay `i` is `b` and the sessions are `ss`. -/
def admitting (w : State) (i : Nat) (b : Bay) (ss : Tab Session) : State := { w with bays := [(i, b)], sessions := ss }

/-- One step, of a yealm that is formed. -/
theorem admitStep_of {b : Bay} {g : Nat → Session → Session} (hv : b.variant = some v) (hg : ∀ k x, SameWork x (g k x))
    (hs : tsorted none w.sessions = true) {e : Nat × Yealm} (he : yealmOf w e.1 = some e.2) :
    let p := admittedStep w b v e
    admitStep (admitting w i b (mapTab g w.sessions)) i e.1 =
      admitting w i { b with todo := b.todo ++ [p] } (mapTab (fun k x => joined w.chunk (g k x) p) w.sessions) := by
  intro p
  generalize hW : admitting w i b (mapTab g w.sessions) = W
  have hchunk : W.chunk = w.chunk := by rw [← hW]; rfl
  have hmask : takingPart W e.1 w.chunk = takingPart w e.1 w.chunk := by rw [← hW]; exact takingPart_sameWork w _ hg e.1 w.chunk
  have hbays : W.bays = [(i, b)] := by rw [← hW]; rfl
  have hyealm : yealmOf W e.1 = some e.2 := by rw [← hW]; exact he
  have hoffset : sliceOffset W b v e.1 = sliceOffset w b v e.1 := by rw [← hW]; rfl
  have hw : yealmW W e.2 v = yealmW w e.2 v := by rw [← hW]; rfl
  have ht0 : W.t0 = w.t0 := by rw [← hW]; rfl
  have hadded : { W with bays := [(i, { b with todo := b.todo ++ [p] })] } =
    admitting w i { b with todo := b.todo ++ [p] } (mapTab g w.sessions) := by rw [← hW]; rfl
  have hrun : admitStep W i e.1 = (claimants (modBay W i (fun z => { z with todo := z.todo ++ [p] })) p.yealm).foldl (admitOne p)
      (modBay W i (fun z => { z with todo := z.todo ++ [p] })) := by
    unfold admitStep
    simp only [bayOf_one hbays, hyealm, hchunk, hmask, hv, hoffset, hw, ht0, Option.bind_some, Option.map_some, Option.getD_some]
    rfl
  rw [hrun, modBay_one hbays, hadded, foldl_claimants (tsorted_mapTab hs)]
  exact congrArg (admitting w i _) (mapTab_mapTab ..)

/-- The steps of a list of yealms that are formed. -/
theorem foldl_admitStep {b : Bay} {g : Nat → Session → Session} (hv : b.variant = some v) (hg : ∀ k x, SameWork x (g k x))
    (hs : tsorted none w.sessions = true) (l : List (Nat × Yealm)) (hl : ∀ e, e ∈ l → yealmOf w e.1 = some e.2) :
    l.foldl (fun s e => admitStep s i e.1) (admitting w i b (mapTab g w.sessions)) =
      admitting w i { b with todo := b.todo ++ l.map (admittedStep w b v) }
        (mapTab (fun k x => (l.map (admittedStep w b v)).foldl (joined w.chunk) (g k x)) w.sessions) := by
  induction l generalizing b g with
  | nil => simp
  | cons e rest ih =>
    rw [List.foldl_cons, admitStep_of hv hg hs (hl e List.mem_cons_self)]
    have hrest := ih (b := { b with todo := b.todo ++ [admittedStep w b v e] }) hv
      (fun k x => joined_sameWork w.chunk (admittedStep w b v e) (hg k x)) fun d hd => hl d (List.mem_cons_of_mem _ hd)
    refine hrest.trans ?_
    rw [List.append_assoc]
    rfl

theorem yealmOf_admitted {s : State} {b : Bay} {e : Nat × Yealm} (h : e ∈ admittedYealms s b) : yealmOf s e.1 = some e.2 := by
  obtain ⟨k, -, hk⟩ := List.mem_filterMap.mp (List.mem_filter.mp h).1
  obtain ⟨y, hy, rfl⟩ := Option.map_eq_some_iff.mp hk
  exact hy

/-- The steps that a boundary admits in a bay. -/
def chunkSteps (w : State) (b : Bay) (v : Nat) : List Step :=
  if b.attr.cls = 0 then
    ((admittedYealms w b).filter (fun e => decide (e.2.readyAt ≤ w.t0 + w.chunk * Config.chunkCycles))).map (admittedStep w b v)
  else []

theorem boundarySteps_one {b : Bay} {g : Nat → Session → Session} (hv : b.variant = some v) (hblock : bayBlocked w b = false)
    (hg : ∀ k x, SameWork x (g k x)) (hs : tsorted none w.sessions = true) :
    boundarySteps (admitting w i b (mapTab g w.sessions)) = admitting w i { b with todo := b.todo ++ chunkSteps w b v }
      (mapTab (fun k x => (chunkSteps w b v).foldl (joined w.chunk) (g k x)) w.sessions) := by
  have hbay : bayOf (admitting w i b (mapTab g w.sessions)) i = some b := bayOf_one rfl
  have hblock' : bayBlocked (admitting w i b (mapTab g w.sessions)) b = false := hblock
  unfold boundarySteps
  rw [show (admitting w i b (mapTab g w.sessions)).bays = [(i, b)] from rfl, List.foldl_cons, List.foldl_nil]
  simp only [hbay, hblock', Bool.false_eq_true, or_false]
  unfold chunkSteps
  by_cases hcls : b.attr.cls = 0
  · rw [if_neg (not_not.mpr hcls), if_pos hcls]
    exact foldl_admitStep hv hg hs _ fun e he => yealmOf_admitted (List.mem_filter.mp he).1
  · rw [if_pos hcls, if_neg hcls]
    simp

end

/-! ### What the steps admit -/

theorem foldl_joined_has (k : Nat) (steps : List Step) {x : Session} (h : x.admitted.isSome = true) :
    steps.foldl (joined k) x = x :=
  foldl_fixed_of_mem fun p _ => by
    unfold joined
    rw [Option.isNone_eq_false_iff.mpr h, Bool.and_false]
    rfl

theorem foldl_joined_none (k : Nat) (steps : List Step) {x : Session} (h : ∀ p, p ∈ steps → joins p x = false) :
    steps.foldl (joined k) x = x :=
  foldl_fixed_of_mem fun p hp => by
    unfold joined
    rw [h p hp]
    rfl

theorem foldl_joined_some (k : Nat) (steps : List Step) {x : Session} (hx : x.admitted = none)
    (h : ∃ p, p ∈ steps ∧ joins p x = true) : steps.foldl (joined k) x = { x with admitted := some k } := by
  induction steps with
  | nil => obtain ⟨p, hp, -⟩ := h; cases hp
  | cons q rest ih =>
    rw [List.foldl_cons]
    cases hq : joins q x with
    | true =>
      have hfirst : joined k x q = { x with admitted := some k } := by
        unfold joined
        rw [hq, hx]
        rfl
      rw [hfirst]
      exact foldl_joined_has k rest rfl
    | false =>
      have hfirst : joined k x q = x := by
        unfold joined
        rw [hq]
        rfl
      rw [hfirst]
      obtain ⟨p, hp, hjoin⟩ := h
      rcases List.mem_cons.mp hp with rfl | hp
      · rw [hq] at hjoin; cases hjoin
      · exact ih ⟨p, hp, hjoin⟩

end Sys2Proof.Machine
end

section
/-!
PROOFS. CHUNK_BOUNDARY (O46, R148, R153, R212, R213, R278 to R280, R292, R336, R398, R418).
-/
namespace Sys2Proof.Machine

open Sys2Proof

/-! ### The meters (R398) -/

/-- Meter `n` forms levels. -/
def meterOn (s : State) (n : Nat) : Bool := meterLive (act s 0x18 0) n && !fenced s (uAudio 4)

/-- A meter's levels once its chunk has ended. -/
def levelsAfter (s : State) (p : Pdm) (n : Nat) : List Int :=
  (max (-1920) (Config.meterLevel (tget [] p.chunk n)) :: tget [] p.levels n).take (50 * fld (act s 0x18 0) 28 1)

/-- The meters' store once meter `n` has formed its level. -/
def levelFormed (s : State) (n : Nat) (p : Pdm) : Pdm :=
  { p with
    chunk := tput [] p.chunk n [], levels := tput [] p.levels n (levelsAfter s p n)
    ambient := tput 0 p.ambient n ((levelsAfter s p n).foldl min (max (-1920) (Config.meterLevel (tget [] p.chunk n)))) }

/-- The meters' store once the chunk of meter `n` has ended. -/
def metered (s : State) (n : Nat) (p : Pdm) : Pdm := if meterOn s n = true then levelFormed s n p else p

theorem metered_congr {s t : State} (hr : t.recs = s.recs) (hu : t.units = s.units) : metered t = metered s := by
  unfold metered levelFormed levelsAfter meterOn act recOf fenced unitOf
  rw [hr, hu]

theorem meterChunk_eq (n : Nat) (s : State) (p : Pdm) : meterChunk n { s with pdm := p } = { s with pdm := metered s n p } := by
  have hon : (¬ meterLive (act s 0x18 0) n = true ∨ fenced s (uAudio 4) = true) ↔ ¬ meterOn s n = true := by
    unfold meterOn
    cases meterLive (act s 0x18 0) n <;> cases fenced s (uAudio 4) <;> decide
  unfold metered
  by_cases h : meterOn s n = true
  · rw [if_pos h]
    exact if_neg (mt hon.mp (not_not.mpr h))
  · rw [if_neg h]
    exact if_pos (hon.mpr h)

theorem iter_meterChunk (s : State) (m : Nat) : iter meterChunk m s = { s with pdm := iter (metered s) m s.pdm } := by
  induction m with
  | zero => rfl
  | succ m ih => rw [iter, ih, meterChunk_eq]; rfl

theorem metered_off {s : State} {n : Nat} (h : meterOn s n = false) (p : Pdm) : metered s n p = p := by
  unfold metered
  rw [h]
  rfl

theorem metered_other {s : State} {n k : Nat} (h : n ≠ k) (p : Pdm) :
    tget [] (metered s n p).chunk k = tget [] p.chunk k ∧ tget [] (metered s n p).levels k = tget [] p.levels k := by
  unfold metered
  split
  · unfold levelFormed
    exact ⟨tget_tput_other [] p.chunk [] h, tget_tput_other [] p.levels (levelsAfter s p n) h⟩
  · exact ⟨rfl, rfl⟩

theorem metered_sorted {s : State} {n : Nat} {p : Pdm} (hc : tsorted none p.chunk = true) (hl : tsorted none p.levels = true) :
    tsorted none (metered s n p).chunk = true ∧ tsorted none (metered s n p).levels = true := by
  unfold metered
  split
  · unfold levelFormed
    exact ⟨tsorted_tput [] p.chunk none n [] hc nofun, tsorted_tput [] p.levels none n _ hl nofun⟩
  · exact ⟨hc, hl⟩

/-- Meters from `m` on, and those that form no level, keep what they hold. -/
theorem iter_metered_keeps {s : State} {n : Nat} (m : Nat) (h : m ≤ n ∨ meterOn s n = false) (p : Pdm) :
    tget [] (iter (metered s) m p).chunk n = tget [] p.chunk n ∧ tget [] (iter (metered s) m p).levels n = tget [] p.levels n := by
  induction m with
  | zero => exact ⟨rfl, rfl⟩
  | succ m ih =>
    obtain ⟨ihc, ihl⟩ := ih (h.imp_left Nat.le_of_succ_le)
    by_cases hmn : m = n
    · have hoff : meterOn s m = false := by
        rw [hmn]
        exact h.resolve_left (by omega)
      rw [iter, metered_off hoff]
      exact ⟨ihc, ihl⟩
    · obtain ⟨hc, hl⟩ := metered_other (s := s) hmn (iter (metered s) m p)
      exact ⟨hc.trans ihc, hl.trans ihl⟩

theorem iter_metered_sorted (s : State) (m : Nat) {p : Pdm} (hc : tsorted none p.chunk = true) (hl : tsorted none p.levels = true) :
    tsorted none (iter (metered s) m p).chunk = true ∧ tsorted none (iter (metered s) m p).levels = true := by
  induction m with
  | zero => exact ⟨hc, hl⟩
  | succ m ih => exact metered_sorted ih.1 ih.2

/-- A running meter below `m` has its level, and its samples are spent. -/
theorem iter_metered_forms {s : State} {n m : Nat} (hn : n < m) (hon : meterOn s n = true) {p : Pdm}
    (hc : tsorted none p.chunk = true) (hl : tsorted none p.levels = true) :
    tget [] (iter (metered s) m p).chunk n = [] ∧ tget [] (iter (metered s) m p).levels n = levelsAfter s p n := by
  induction m with
  | zero => omega
  | succ m ih =>
    by_cases hmn : m = n
    · subst hmn
      obtain ⟨hsc, hsl⟩ := iter_metered_sorted s m hc hl
      obtain ⟨hkc, hkl⟩ := iter_metered_keeps (s := s) m (.inl (Nat.le_refl m)) p
      have hlevels : levelsAfter s (iter (metered s) m p) m = levelsAfter s p m := by
        unfold levelsAfter
        rw [hkc, hkl]
      rw [iter, show metered s m _ = levelFormed s m _ from if_pos hon]
      exact ⟨tget_tput_sorted [] _ m [] hsc, (tget_tput_sorted [] _ m _ hsl).trans hlevels⟩
    · obtain ⟨hoc, hol⟩ := metered_other (s := s) hmn (iter (metered s) m p)
      obtain ⟨ihc, ihl⟩ := ih (by omega)
      exact ⟨hoc.trans ihc, hol.trans ihl⟩

/-! ### A quiet boundary -/

/-- A session for which nothing waits for the boundary. -/
structure QuietSession (x : Session) : Prop where
  present : x.st ≠ .lost
  detach : x.detachWait = none
  job : x.job = none
  owed : x.tdmOwed = []
  attach : ∀ a, x.attach = some a → a.ready = false ∨ a.effective = true

theorem QuietSession.sameWork {x y : Session} (hx : QuietSession x) (h : SameWork x y) : QuietSession y := by
  obtain ⟨io, adm, rfl⟩ := h
  exact ⟨hx.present, hx.detach, hx.job, hx.owed, hx.attach⟩

theorem chunkRuns_of {s : State} (hc : s.boot.complete = true) (hf : s.fault = none) (hw : s.boot.warmPending = false)
    (hp : s.power.state = .run ∨ s.power.state = .trim) (ht : s.power.trans = none) : chunkRuns s = true := by
  unfold chunkRuns stepsRun
  rw [hc, hf, hw, ht]
  simpa using hp

/-- What `quietBoundary` says, part by part. -/
structure Quiet (s : State) (i : Nat) (b : Bay) (v : Nat) : Prop where
  complete : s.boot.complete = true
  fault : s.fault = none
  warm : s.boot.warmPending = false
  power : s.power.state = .run ∨ s.power.state = .trim
  trans : s.power.trans = none
  snapshots : s.snapshots = []
  scrub : s.scrubFound = []
  bays : s.bays = [(i, b)]
  destroying : b.destroying = none
  last : b.lastVariant = some v
  variant : variantNow s b = some v
  runs : bayBlocked s b = false
  recs : ∀ e, e ∈ s.recs → e.2.commit = none
  yealms : ∀ e, e ∈ s.yealms → e.2.releasing = none ∧ e.2.susp = .no ∧ planFenced s i e.2.build e.2.plan true = false
  sessions : ∀ e, e ∈ s.sessions → QuietSession e.2

theorem quiet_of {s : State} {i : Nat} {b : Bay} {v : Nat} (h : quietBoundary s i b v = true) : Quiet s i b v := by
  unfold quietBoundary at h
  simp only [Bool.and_eq_true, decide_eq_true_eq, Option.isNone_iff_eq_none, Bool.not_eq_true', List.all_eq_true,
    List.isEmpty_iff] at h
  obtain ⟨⟨⟨⟨⟨⟨⟨⟨⟨⟨⟨⟨⟨⟨complete, fault⟩, warm⟩, power⟩, trans⟩, snapshots⟩, scrub⟩, bays⟩, destroying⟩, last⟩, variant⟩, runs⟩,
    recs⟩, yealms⟩, sessions⟩ := h
  refine ⟨complete, fault, warm, power, trans, snapshots, scrub, bays, destroying, last, variant, runs, recs,
    fun e he => and_assoc.mp (yealms e he), fun e he => ?_⟩
  obtain ⟨⟨⟨⟨st, detach⟩, job⟩, owed⟩, attach⟩ := sessions e he
  refine ⟨st, detach, job, owed, fun a ha => ?_⟩
  rw [ha] at attach
  simpa [or_comm] using attach

/-- The time and the frames held back do not matter. -/
theorem Quiet.later {s : State} {i : Nat} {b : Bay} {v : Nat} (h : Quiet s i b v) (chunk now : Nat) (ports : Tab Port)
    (wire : List Emit) : Quiet { s with chunk := chunk, now := now, ports := ports, wire := wire } i b v :=
  ⟨h.complete, h.fault, h.warm, h.power, h.trans, h.snapshots, h.scrub, h.bays, h.destroying, h.last, h.variant, h.runs, h.recs,
    h.yealms, h.sessions⟩

/-- Sessions changed in their traffic and admitted chunk alone are as quiet as they were. -/
theorem quiet_mapTab {t : Tab Session} {g : Nat → Session → Session} (hg : ∀ k x, SameWork x (g k x))
    (h : ∀ e, e ∈ t → QuietSession e.2) : ∀ e, e ∈ mapTab g t → QuietSession e.2 := by
  intro e he
  obtain ⟨d, hd, rfl⟩ := List.mem_map.mp he
  exact (h d hd).sameWork (hg d.1 d.2)

/-- A session at the start of a chunk's traffic (R213). -/
def chunkStarted (x : Session) : Session := { x with ioBytes := 0 }

/-- The bay once admission is over and its window is closed (R212, R282). -/
def bayAdmitted (b : Bay) (v : Nat) : Bay := { b with variant := some v, lastVariant := some v, window := false }

/-- All that a quiet boundary does. -/
theorem boundaryEffects_quiet {s : State} {i : Nat} {b : Bay} {v : Nat} (h : Quiet s i b v) (hs : tsorted none s.sessions = true) :
    boundaryEffects s =
      { admitting s i { bayAdmitted b v with todo := b.todo ++ chunkSteps s b v }
          (mapTab (fun _ x => (chunkSteps s b v).foldl (joined s.chunk) (chunkStarted x)) s.sessions) with
        pdm := iter (metered s) 4 s.pdm } := by
  have hg : ∀ (k : Nat) x, SameWork x (chunkStarted x) := fun _ x => ⟨0, x.admitted, rfl⟩
  have hq := quiet_mapTab (g := fun _ x => chunkStarted x) hg h.sessions
  have hio : boundaryIo s = admitting s i b (mapTab (fun _ x => chunkStarted x) s.sessions) := by
    rw [boundaryIo_quiet hs fun e he => (h.sessions e he).owed]
    unfold admitting
    rw [← h.bays]
    rfl
  generalize hm : mapTab (fun _ x => chunkStarted x) s.sessions = m at hq hio
  have hrecs : boundaryRecs (admitting s i b m) = admitting s i b m := boundaryRecs_quiet h.recs
  have hscrub : boundaryScrub (admitting s i b m) = admitting s i b m := boundaryScrub_quiet h.scrub
  have hempty : emptySlots (admitting s i b m) = admitting s i b m := emptySlots_quiet fun e he => (hq e he).present
  have hends : boundaryEnds (admitting s i b m) = admitting s i b m :=
    boundaryEnds_quiet (fun e he => (h.yealms e he).1) fun e he => by
      rw [List.mem_singleton.mp he]
      exact h.destroying
  have hdetach : boundaryDetach (admitting s i b m) = admitting s i b m := boundaryDetach_quiet fun e he => (hq e he).detach
  have hadmit : boundaryAdmit (admitting s i b m) = admitting s i (bayAdmitted b v) m :=
    boundaryAdmit_quiet rfl h.last h.variant h.runs fun e he => (h.yealms e he).2
  have hruns : chunkRuns (admitting s i (bayAdmitted b v) m) = true :=
    chunkRuns_of h.complete h.fault h.warm h.power h.trans
  have hattach : boundaryAttach (admitting s i (bayAdmitted b v) m) = admitting s i (bayAdmitted b v) m :=
    boundaryAttach_quiet fun e a he => (hq e he).attach a
  have hsteps : boundarySteps (admitting s i (bayAdmitted b v) m) =
      admitting s i { bayAdmitted b v with todo := b.todo ++ chunkSteps s b v }
        (mapTab (fun _ x => (chunkSteps s b v).foldl (joined s.chunk) (chunkStarted x)) s.sessions) := by
    rw [← hm]
    exact boundarySteps_one (b := bayAdmitted b v) rfl h.runs hg hs
  have hjobs := quiet_mapTab (g := fun _ x => (chunkSteps s b v).foldl (joined s.chunk) (chunkStarted x))
    (fun k x => foldl_joined_sameWork _ _ (hg k x)) h.sessions
  generalize mapTab (fun _ x => (chunkSteps s b v).foldl (joined s.chunk) (chunkStarted x)) s.sessions = n at hjobs hsteps ⊢
  generalize { bayAdmitted b v with todo := b.todo ++ chunkSteps s b v } = c at hsteps ⊢
  have hcaptures : boundaryCaptures (admitting s i c n) = admitting s i c n := boundaryCaptures_quiet fun e he => (hjobs e he).job
  unfold boundaryEffects
  simp only [hio, hrecs, hscrub, hempty, hends, hdetach, hadmit, hruns, if_true, hattach, hsteps, hcaptures]
  rw [iter_meterChunk, metered_congr (t := admitting s i c n) (s := s) rfl rfl]
  rfl

/-! ### The boundary -/

/-- The state at the next grid instant (R278). -/
def nextChunk (s : State) : State :=
  timeTo { s with chunk := s.chunk + 1 } (max s.now (s.t0 + (s.chunk + 1) * Config.chunkCycles))

theorem nextChunk_rest (s : State) : nextChunk s = { s with
    chunk := s.chunk + 1, now := (nextChunk s).now, ports := (nextChunk s).ports, wire := (nextChunk s).wire } := by
  have h := timeTo_rest { s with chunk := s.chunk + 1 } (max s.now (s.t0 + (s.chunk + 1) * Config.chunkCycles))
  have hnow := congrArg State.now h
  unfold nextChunk
  rw [hnow]
  exact h

theorem wire_timeTo (s : State) (n : Nat) : s.wire <+: (timeTo s n).wire := by
  unfold timeTo
  exact (iter_moves 0 (fun p v => releasePort v p) (fun p v => releasePort_moves 0 v p) 8 { s with now := n }).wire

theorem wire_nextChunk (s : State) : s.wire <+: (nextChunk s).wire := wire_timeTo { s with chunk := s.chunk + 1 } _

theorem chunkBoundary_eq {s : State} (h : s.boot.complete = true) :
    chunkBoundary s =
      takeSnapshots (if (nextChunk s).fault.isSome then nextChunk s else boundaryEffects (nextChunk s)) := by
  unfold chunkBoundary
  rw [if_neg (not_not.mpr h)]
  rfl

/-- The one summary that is owed leaves at the grid instant (R336). -/
theorem takeSnapshots_one {s : State} {rt : RespTo} (h : s.snapshots = [(rt, false)]) :
    takeSnapshots s = respond { s with snapshots := [] } rt stOk (summaryBody s) := by
  unfold takeSnapshots
  generalize summaryBody s = body
  simp only [h, List.filter_cons, List.filter_nil, Bool.not_false, Bool.true_or, if_true, Bool.false_and, Bool.false_eq_true, if_false,
    List.foldl_cons, List.foldl_nil]

theorem boundary_fault_summary {s : State} {rt : RespTo} (hc : s.boot.complete = true) (hf : s.fault.isSome = true)
    (hsnap : s.snapshots = [(rt, false)]) (hrt : awaits s rt = true) :
    ∃ t, exec .chunkBoundary s = .next t ∧ t.bare = ({ nextChunk s with snapshots := [] } : State).bare ∧
      Responded rt stOk (summaryBody (nextChunk s)) s t := by
  have hwire := wire_nextChunk s
  have hrest := nextChunk_rest s
  generalize hu : nextChunk s = u at hwire hrest ⊢
  have hfault : u.fault = s.fault := by rw [hrest]
  have hsnapshots : u.snapshots = [(rt, false)] := by rw [hrest]; exact hsnap
  have hsame : SameHost s { u with snapshots := [] } := by
    refine ⟨?_, ?_, hwire, ?_, ?_, ?_⟩ <;> rw [hrest]
  obtain ⟨hresponded, hbare⟩ := respond_after hsame hrt stOk (summaryBody u)
  refine ⟨_, congrArg Host.Outcome.next ((chunkBoundary_eq hc).trans ?_), hbare, hresponded⟩
  rw [hu, if_pos (by rw [hfault]; exact hf)]
  exact takeSnapshots_one hsnapshots

/-- The bay once the boundary has given it the steps of the chunk. -/
def bayStepped (w : State) (b : Bay) (v : Nat) : Bay := { bayAdmitted b v with todo := b.todo ++ chunkSteps w b v }

/-- A session once the boundary has admitted its chunk. -/
def sessStepped (w : State) (b : Bay) (v : Nat) (x : Session) : Session :=
  (chunkSteps w b v).foldl (joined w.chunk) (chunkStarted x)

theorem boundary_quiet {s : State} {i : Nat} {b : Bay} {v : Nat} (h : Quiet s i b v) (hs : tsorted none s.sessions = true) :
    exec .chunkBoundary s = .next { admitting (nextChunk s) i (bayStepped (nextChunk s) b v)
      (mapTab (fun _ x => sessStepped (nextChunk s) b v x) s.sessions) with pdm := iter (metered s) 4 s.pdm } := by
  have hrest := nextChunk_rest s
  refine congrArg Host.Outcome.next ((chunkBoundary_eq h.complete).trans ?_)
  generalize nextChunk s = u at hrest ⊢
  have hquiet : Quiet u i b v := by
    rw [hrest]
    exact h.later _ _ _ _
  have hsess : u.sessions = s.sessions := by rw [hrest]
  have hpdm : u.pdm = s.pdm := by rw [hrest]
  have hmeters : metered u = metered s := metered_congr (by rw [hrest]) (by rw [hrest])
  rw [if_neg (by rw [hquiet.fault]; decide), boundaryEffects_quiet hquiet (by rw [hsess]; exact hs), hsess, hpdm, hmeters]
  exact takeSnapshots_none hquiet.snapshots

theorem sessStepped_joins {w : State} {b : Bay} {v : Nat} {x : Session} (hx : x.admitted = none)
    (h : ∃ p, p ∈ chunkSteps w b v ∧ joins p x = true) :
    sessStepped w b v x = { x with ioBytes := 0, admitted := some w.chunk } := foldl_joined_some w.chunk _ (x := chunkStarted x) hx h

theorem sessStepped_stays {w : State} {b : Bay} {v : Nat} {x : Session}
    (h : x.admitted.isSome = true ∨ ¬ ∃ p, p ∈ chunkSteps w b v ∧ joins p x = true) :
    sessStepped w b v x = { x with ioBytes := 0 } := by
  rcases h with h | h
  · exact foldl_joined_has w.chunk _ (x := chunkStarted x) h
  · exact foldl_joined_none w.chunk _ (x := chunkStarted x) fun p hp => by
      have hno : joins p x = false := (Bool.not_eq_true _).mp (not_and.mp (not_exists.mp h p) hp)
      exact hno

theorem admitting_rest {w : State} {q : Pdm} (h : w.pdm = q) (i : Nat) (b : Bay) (ss : Tab Session) (p : Pdm) :
    { { admitting w i b ss with pdm := p } with bays := [], sessions := [], pdm := q } = { w with bays := [], sessions := [] } := by
  rw [← h]
  unfold admitting
  rfl

/-- Settles O46: a boundary outside FAULT goes through the stages of `boundaryEffects_quiet`. -/
theorem chunkBoundaryMovesTheGrid : Obligations.ChunkBoundaryMovesTheGrid := by
  unfold Obligations.ChunkBoundaryMovesTheGrid
  intro s at0 u
  have hnext : ∀ {t}, chunkBoundary s = t → exec .chunkBoundary s = .next t := congrArg Host.Outcome.next
  refine ⟨fun hc => hnext ?_, fun hc hf => ⟨fun hsnap => hnext ?_, fun rt hsnap hrt => boundary_fault_summary hc hf hsnap hrt⟩,
    fun i b v hquiet hs => ?_⟩
  · unfold chunkBoundary
    exact if_pos (by rw [hc]; decide)
  · have hrest := nextChunk_rest s
    rw [chunkBoundary_eq hc, if_pos (by rw [hrest]; exact hf)]
    exact takeSnapshots_none (by rw [hrest]; exact hsnap)
  intro steps Joins mic
  have hrun := boundary_quiet (quiet_of hquiet) hs
  have hrest := nextChunk_rest s
  change u = _ at hrest
  change _ = Host.Outcome.next { admitting u i (bayStepped u b v) (mapTab (fun _ x => sessStepped u b v x) s.sessions) with
    pdm := iter (metered s) 4 s.pdm } at hrun
  have ht0 : u.t0 = s.t0 := by rw [hrest]
  have hchunk : u.chunk = s.chunk + 1 := by rw [hrest]
  have hpdm : u.pdm = s.pdm := by rw [hrest]
  have hsteps : chunkSteps u b v = steps := by
    unfold chunkSteps
    rw [ht0, hchunk]
  have hjoins : ∀ x, Joins x ↔ ∃ p, p ∈ chunkSteps u b v ∧ joins p x = true := by
    intro x
    simp only [hsteps, joins_iff, ← exists_and_left]
    rfl
  have hfind : ∀ j x, sessOf s j = some x → tfind (mapTab (fun _ x => sessStepped u b v x) s.sessions) j = some (sessStepped u b v x) :=
    fun j x hx => (tfind_mapTab _ _ j).trans (congrArg (Option.map _) hx)
  refine ⟨_, hrun, ?_, fun j x hx => ⟨fun hnone hj => ?_, fun hstay => ?_⟩, mapTab_keys (fun _ x => sessStepped u b v x) s.sessions,
    fun n hn hlive hf hc hl => ?_, fun n hoff => ?_, ?_⟩
  · rw [← hsteps]
    rfl
  · rw [← hchunk]
    exact (hfind j x hx).trans (congrArg some (sessStepped_joins hnone ((hjoins x).mp hj)))
  · exact (hfind j x hx).trans (congrArg some (sessStepped_stays (hstay.imp_right (mt (hjoins x).mpr))))
  · exact iter_metered_forms hn (by unfold meterOn; rw [hf]; exact (Bool.and_true _).trans hlive) hc hl
  · refine iter_metered_keeps 4 (.inr ?_) s.pdm
    unfold meterOn
    rcases hoff with h | h
    · exact (congrArg (· && _) h).trans (Bool.false_and _)
    · rw [h]; exact Bool.and_false _
  · exact admitting_rest hpdm ..

end Sys2Proof.Machine
end

section
/-!
PROOFS. The sampler, the mark decoder and the random-number generator as commands that meet nothing (O42, R165 to R179, R189, R192,
R196, R197).
-/
namespace Sys2Proof.Machine

open Sys2Proof

/-! ### A command of any unit but the array's path and the DMA engines -/

section
variable {i : Instr} {s : State} {c : Nat} {h : CmdHdr} {op : CoreOp}

/-- What a command's unit leaves of the device and of the core is what the command leaves. -/
theorem issues_leaving {u : State} {y : Core} {d : Completion} (harm : ∀ o, op ≠ .arm o) (hcar : ∀ o, op ≠ .carry o)
    (hi : exec i s = .next (submit s c h op)) (hg : goes s c h op = true) (hy : SameSeq (atIssue s c h op) y)
    (hcores : u.cores = s.cores)
    (hr : runOp (atUnit s c h op) c (inUnit s c h op) = .ok (setCore u c (leaving s c h op y), some d)) : Issues i c h op s u y d := by
  obtain ⟨hunits, hctx, hwin, -, -⟩ := hy
  obtain ⟨-, hw, -⟩ := goes_parts hg
  exact issues_of hi hg harm hcar hr (fun e _ => coreOf_congr hcores e) (hwin.trans hw) (hctx ▸ atIssue_ctx hg) hunits

/-- A command that writes its own core alone. -/
theorem issues_ownCore {y : Core} {d : Completion} (harm : ∀ o, op ≠ .arm o) (hcar : ∀ o, op ≠ .carry o)
    (hi : exec i s = .next (submit s c h op)) (hg : goes s c h op = true) (hy : SameSeq (atIssue s c h op) y)
    (hr : runOp (atUnit s c h op) c (inUnit s c h op) = .ok (setCore (atUnit s c h op) c (leaving s c h op y), some d)) :
    Issues i c h op s s y d := by
  rw [atUnit_set hg (leaving s c h op y) (hy.2.1 ▸ atIssue_ctx hg)] at hr
  exact issues_leaving harm hcar hi hg hy rfl hr

end

/-! ### SAMPLE -/

section
variable {s : State} {c : Nat} {x w : Core} {o : SampleOps} {cb : Codebook} {tensor : W16}

/-- A sampler's row depends neither on the cores that the device holds nor on the core's unit queues. -/
theorem sampleRow_units {y : Core} {r : Nat} {d : DrawOut} (U : Tab UnitQ) (h : sampleRow s x o cb tensor r = .ok (d, y)) :
    sampleRow (setCore s c w) { x with units := U } o cb tensor r = .ok (d, { y with units := U }) ∧ SameSeq x y := by
  unfold sampleRow at h ⊢
  change (spadFp x _ _ >>= _) = _ at h
  change (spadFp x _ _ >>= _) = _ ∧ _
  cases hl : spadFp x ((o.logits.toNat + o.rowStride.toNat * r : Nat) : Int) o.vocab.toNat with
  | error e => rw [hl] at h; cases h
  | ok l =>
    rw [bind_of hl] at h
    change (if (sampleCode cb l 0).used = true then _ else _) = _ ∧ _
    by_cases hu : (sampleCode cb l 0).used = true
    · rw [if_pos hu] at h ⊢
      cases hd : drawWords s x r 0 tensor o.codebook.toNat 1 with
      | error e => rw [hd] at h; cases h
      | ok q =>
        obtain ⟨ws, v, b⟩ := q
        obtain ⟨hd', hv⟩ := drawWords_units (c := c) (w := w) U hd
        rw [bind_of hd] at h
        rw [bind_of hd']
        cases h
        exact ⟨rfl, hv⟩
    · rw [if_neg hu] at h ⊢
      cases h
      exact ⟨rfl, .refl x⟩

theorem sampleRows_units {n r : Nat} {ds : List DrawOut} {z : Core} (U : Tab UnitQ)
    (h : sampleRows s o cb tensor n r x = .ok (ds, z)) :
    sampleRows (setCore s c w) o cb tensor n r { x with units := U } = .ok (ds, { z with units := U }) ∧ SameSeq x z := by
  induction n generalizing r x ds z with
  | zero => cases h; exact ⟨rfl, .refl x⟩
  | succ n ih =>
    unfold sampleRows at h ⊢
    cases hd : sampleRow s x o cb tensor r with
    | error e => rw [hd] at h; cases h
    | ok q =>
      obtain ⟨d, y⟩ := q
      obtain ⟨hd', hy⟩ := sampleRow_units (c := c) (w := w) U hd
      rw [bind_of hd] at h
      dsimp only at h
      cases hr : sampleRows s o cb tensor n (r + 1) y with
      | error e => rw [hr] at h; cases h
      | ok q =>
        obtain ⟨rest, z'⟩ := q
        obtain ⟨hr', hz⟩ := ih hr
        rw [bind_of hr] at h
        rw [bind_of hd']
        dsimp only
        rw [bind_of hr']
        cases h
        exact ⟨rfl, hy.trans hz⟩

theorem doSample_of {b : Build} {ds : List DrawOut} {z : Core} (hx : coreOf s c = x)
    (hv1 : 1 ≤ o.vocab.toNat) (hv2 : o.vocab.toNat ≤ 16384) (hr1 : 1 ≤ slotCount x o.sFixed.toNat o.sPerSlot.toNat)
    (hr2 : slotCount x o.sFixed.toNat o.sPerSlot.toNat ≤ 32) (hs : o.sPerSlot.toNat ≤ 1) (hb : coreBuild s x = some b)
    (hcb : b.desc.codebooks[o.codebook.toNat]? = some cb)
    (hrows : sampleRows s o cb b.desc.sampleTensor (slotCount x o.sFixed.toNat o.sPerSlot.toNat) 0 x = .ok (ds, z))
    (hin : spadIn (o.dst.toNat : Int) (wordBytes 2 (ds.map (fun d => d.code))).length = true) :
    doSample s c o = .ok (setCore s c (wrote (coreAdd .toppCuts ((ds.filter (fun d => d.cut)).length) z) (o.dst.toNat : Int)
      (wordBytes 2 (ds.map (fun d => d.code)))), completion false ((ds.map (fun d => d.sat)).sum) 0 false) := by
  unfold doSample
  simp only [hx]
  refine (bind_of (need_of (by simp [hv1, hv2, hr2, hs]))).trans ?_
  simp only [hb, hcb]
  refine (if_neg (by omega)).trans ?_
  refine (bind_of hrows).trans ?_
  exact bind_of (spadWrite_of_in hin)

end

/-! ### MARK -/

section
variable {s : State} {c : Nat} {x y w : Core} {o : MarkOps} {b : Build}

/-- Rows of staged records go to the scratchpad in turn. -/
def stageRows (o : MarkOps) (rows : List (Nat × List (List Byte))) (t : Try Core) : Try Core :=
  rows.foldl (fun t e =>
    match t with
    | .error f => .error f
    | .ok y => spadWrite y ((o.dst.toNat + 32 * e.1 : Nat) : Int) e.2.flatten) t

/-- The records that a command formed wait in their slots' working state. -/
def marksKept (y : Core) (rows : List (Nat × List (List Byte))) (s : State) : State :=
  rows.foldl (fun u e =>
    match slotWork u y e.1 with
    | none => u
    | some w => if e.2 = [] then u else setSlotWork u y e.1 { w with marks := w.marks ++ e.2 }) s

theorem spadWrite_ok {a : Int} {bs : List Byte} (h : spadWrite x a bs = .ok y) :
    ∃ spad, y = { x with spad := spad } ∧ ∀ U, spadWrite { x with units := U } a bs = .ok { y with units := U } := by
  unfold spadWrite at h ⊢
  split at h
  next hin =>
    cases h
    exact ⟨_, rfl, fun U => if_pos hin⟩
  next => cases h

theorem stageRows_error (rows : List (Nat × List (List Byte))) (f : Nat) : stageRows o rows (.error f) = .error f := by
  induction rows with
  | nil => rfl
  | cons e rest ih => exact ih

theorem stageRows_ok {rows : List (Nat × List (List Byte))} (h : stageRows o rows (.ok x) = .ok y) :
    ∃ spad, y = { x with spad := spad } ∧ ∀ U, stageRows o rows (.ok { x with units := U }) = .ok { y with units := U } := by
  induction rows generalizing x with
  | nil => cases h; exact ⟨_, rfl, fun _ => rfl⟩
  | cons e rest ih =>
    change stageRows o rest (spadWrite x _ _) = _ at h
    cases hw : spadWrite x ((o.dst.toNat + 32 * e.1 : Nat) : Int) e.2.flatten with
    | error f => rw [hw, stageRows_error] at h; cases h
    | ok z =>
      rw [hw] at h
      obtain ⟨spad, hy, hU⟩ := ih h
      obtain ⟨spad', rfl, hwU⟩ := spadWrite_ok hw
      refine ⟨spad, hy, fun U => ?_⟩
      change stageRows o rest (spadWrite { x with units := U } _ _) = _
      rw [hwU]
      exact hU U

theorem marksKept_setCore {z : Core} (hz : z.ctx = y.ctx) (rows : List (Nat × List (List Byte))) (s : State) :
    marksKept z rows (setCore s c w) = setCore (marksKept y rows s) c w ∧ (marksKept y rows s).cores = s.cores := by
  induction rows generalizing s with
  | nil => exact ⟨rfl, rfl⟩
  | cons e rest ih =>
    have hslot : slotWork (setCore s c w) z e.1 = slotWork s y e.1 := by unfold slotWork; rw [hz]; rfl
    unfold marksKept at ih ⊢
    rw [List.foldl_cons, List.foldl_cons, hslot]
    cases slotWork s y e.1 with
    | none => exact ih s
    | some v =>
      by_cases he : e.2 = []
      · simp only [if_pos he]; exact ih s
      · simp only [if_neg he]
        rw [setSlotWork_setCore s c w e.1 _ hz]
        obtain ⟨hset, hcores⟩ := ih (setSlotWork s y e.1 { v with marks := v.marks ++ e.2 })
        exact ⟨hset, hcores.trans (cores_setSlotWork ..)⟩

/-- The marks of a slot's frame depend neither on the cores that the device holds nor on the core's unit queues. -/
theorem slotMarks_setCore (U : Tab UnitQ) (r : Nat) : slotMarks (setCore s c w) { x with units := U } o b r = slotMarks s x o b r := by
  have hslot : slotWork (setCore s c w) { x with units := U } r = slotWork s x r := rfl
  have hact : slotActive (setCore s c w) { x with units := U } r = slotActive s x r := rfl
  have hsess : (setCore s c w).sessions = s.sessions := rfl
  have hfp : spadFp { x with units := U } = spadFp x := rfl
  have hwords : spadWords { x with units := U } = spadWords x := rfl
  unfold slotMarks
  rw [hslot, hact, hsess, hfp, hwords]

theorem doMark_of {ms : List (List (List Byte) × Nat × Nat)} (hx : coreOf s c = x)
    (hr1 : 1 ≤ slotCount x o.sFixed.toNat o.sPerSlot.toNat) (hr2 : slotCount x o.sFixed.toNat o.sPerSlot.toNat ≤ 32)
    (hs : o.sPerSlot.toNat ≤ 1) (hb : coreBuild s x = some b)
    (hin : (List.range (slotCount x o.sFixed.toNat o.sPerSlot.toNat)).all (fun r =>
      spadIn ((o.scores.toNat + o.rowStride.toNat * r : Nat) : Int) (if b.desc.marks.h = 0 then 0 else 8 * b.desc.marks.p)) = true)
    (hms : tryMap (slotMarks s x o b) (List.range (slotCount x o.sFixed.toNat o.sPerSlot.toNat)) = .ok ms)
    (hst : stageRows o (ms.mapIdx (fun r m => (r, m.1))) (.ok x) = .ok y) :
    let z := coreAdd .marksMade ((ms.map (fun m => m.1.length)).sum) (coreAdd .markFallbacks ((ms.map (fun m => m.2.1)).sum) y)
    doMark s c o = .ok (marksKept z (ms.mapIdx (fun r m => (r, m.1))) (setCore s c z),
      completion false ((ms.map (fun m => m.2.2)).sum) 0 false) := by
  intro z
  unfold doMark
  simp only [hx, hb]
  refine (bind_of (need_of (by rw [hin]; simp [hr2, hs]))).trans ?_
  refine (if_neg (by omega)).trans ?_
  refine (bind_of hms).trans ?_
  exact bind_of hst

end

/-! ### COMPAT_LOAD, COMPAT_SAVE and DRAW -/

section
variable {s : State} {c slot : Nat} {x : Core}

theorem spadRead_of_in {a n : Nat} (h : spadIn (a : Int) n = true) : spadRead x (a : Int) n = .ok (mread 0 x.spad a n) := by
  unfold spadRead
  rw [if_pos (.inr h), Int.toNat_natCast]

/-- The lane tables of a compatibility segment, loaded for a slot (R159, R192); in coarse mode none is read (R197). -/
def lanesLoaded (x : Core) (slot : Nat) (bs : List Byte) : Core :=
  if x.rng.coarse = true then x else
    { x with rng := { x.rng with
      lanes := tins x.rng.lanes slot ((List.range 32).map (fun l => laneOf (cut bs (8 + 224 * l) 224)))
      cursor := tdel x.rng.cursor slot } }

theorem lanesLoaded_sameSeq (x : Core) (slot : Nat) (bs : List Byte) : SameSeq x (lanesLoaded x slot bs) := by
  unfold lanesLoaded
  split
  · exact .refl x
  · exact ⟨rfl, rfl, rfl, rfl, rfl⟩

theorem lanesLoaded_units (x : Core) (slot : Nat) (bs : List Byte) (U : Tab UnitQ) :
    lanesLoaded { x with units := U } slot bs = { lanesLoaded x slot bs with units := U } := by
  unfold lanesLoaded
  split <;> rfl

theorem doCompatLoad_of {a : W32} {bs : List Byte} (hx : coreOf s c = x) (hr : spadRead x (a.toNat : Int) compatBytes = .ok bs) :
    doCompatLoad s c slot a =
      .ok (if x.rng.coarse = true then s else setCore s c (lanesLoaded x slot bs), completion false 0 0 false) := by
  unfold doCompatLoad lanesLoaded
  simp only [hx]
  refine (bind_of hr).trans ?_
  split <;> rfl

/-- The unit runs COMPAT_LOAD. The segment's bytes, thousands, are kept from being evaluated: `f` stands for the command. -/
theorem runOp_compatLoad {q : QCmd} {a : W32} {f : W32 → Try (State × Completion)} {t : State} {d : Completion}
    (hq : q.op = .compatLoad a) (hf : doCompatLoad s c q.slot = f) (h : f a = .ok (t, d)) : runOp s c q = .ok (t, some d) := by
  unfold runOp
  rw [hf, hq]
  dsimp only
  rw [h]

theorem doCompatSave_coarse {a : W32} (hx : coreOf s c = x) (hc : x.rng.coarse = true)
    (hin : spadIn (a.toNat : Int) compatBytes = true) : doCompatSave s c slot a = .ok (s, completion false 0 0 false) := by
  unfold doCompatSave
  simp only [hx]
  exact (if_pos hc).trans (if_pos hin)

theorem doCompatSave_lanes {a : W32} {ls : List LaneTab} (hx : coreOf s c = x) (hc : x.rng.coarse = false)
    (hl : tfind x.rng.lanes slot = some ls) (hin : spadIn (a.toNat : Int) (compatSegment ls).length = true) :
    doCompatSave s c slot a = .ok (setCore s c (wrote x (a.toNat : Int) (compatSegment ls)), completion false 0 0 false) := by
  unfold doCompatSave
  simp only [hx, hl]
  refine (if_neg (by simp [hc])).trans ?_
  exact bind_of (spadWrite_of_in hin)

theorem doDraw_of {o : DrawOps} {ws : List W32} {y : Core} {coarse : Bool} (hx : coreOf s c = x) (hp1 : 2 ≤ o.purpose.toNat)
    (hp2 : o.purpose.toNat ≤ 4) (hn1 : 1 ≤ o.count.toNat) (hn2 : o.count.toNat ≤ 1048576)
    (hparam : o.purpose.toNat = 3 ∨ o.drawParam = 0)
    (hd : drawWords s x slot o.purpose.toNat o.tensorId o.elemBase.toNat o.count.toNat = .ok (ws, y, coarse))
    (hin : spadIn (o.dst.toNat : Int) (wordBytes 4 (ws.map (fun w =>
      (drawValue o.purpose.toNat (slotDrop s x slot) o.drawParam w).toNat))).length = true) :
    doDraw s c slot o = .ok (setCore s c (wrote y (o.dst.toNat : Int) (wordBytes 4 (ws.map (fun w =>
      (drawValue o.purpose.toNat (slotDrop s x slot) o.drawParam w).toNat)))), completion false 0 0 coarse) := by
  unfold doDraw
  simp only [hx]
  refine (bind_of (need_of (by simp [hp2]))).trans ?_
  refine (bind_of (need_of ?_)).trans ?_
  · simpa [hp1, hn1, hn2] using hparam
  refine (bind_of hd).trans ?_
  exact bind_of (spadWrite_of_in hin)

end

/-! ### O42 -/

/-- Settles O42: each command meets nothing, and leaves what its unit makes of it (`doSample_of` to `doDraw_of`). -/
theorem samplerMarksAndDrawsRun : Obligations.SamplerMarksAndDrawsRun := by
  unfold Obligations.SamplerMarksAndDrawsRun
  intro s c h
  refine ⟨?sample, ?mark, ?load, ?saveCoarse, ?save, ?draw⟩
  case sample =>
    intro o b cb ds z hg x rows hv1 hv2 hr1 hr2 hs hb hcb hrows bs hin
    obtain ⟨hrun, hz⟩ := sampleRows_units (c := c) (w := leaving s c h (.sample o) x) (unitsAt (coreOf s c) 3 (inUnit s c h (.sample o))) hrows
    have hdo := doSample_of (coreOf_atUnit_leaving hg) hv1 hv2 hr1 hr2 hs hb hcb hrun hin
    refine issues_ownCore nofun nofun rfl hg (y := wrote (coreAdd _ _ z) _ bs) hz ?_
    simp only [runOp, inUnit, hdo]
    rfl
  case mark =>
    intro o b ms z hg x rows len hr1 hr2 hs hb hin hms hst y
    obtain ⟨spad, hz, hU⟩ := stageRows_ok (o := o) hst
    have hmarks : tryMap (slotMarks (atUnit s c h (.mark o)) (leaving s c h (.mark o) x) o b) (List.range rows) = .ok ms :=
      (congrArg (tryMap · _) (funext fun r => slotMarks_setCore _ r)).trans hms
    have hdo := doMark_of (coreOf_atUnit_leaving hg) hr1 hr2 hs hb hin hmarks (hU (unitsAt (coreOf s c) 4 (inUnit s c h (.mark o))))
    have hy : SameSeq x y := by
      change SameSeq x (coreAdd _ _ (coreAdd _ _ z))
      rw [hz]
      exact ⟨rfl, rfl, rfl, rfl, rfl⟩
    obtain ⟨hkept, hcores⟩ := marksKept_setCore (c := c) (w := leaving s c h (.mark o) y) (z := leaving s c h (.mark o) y) (y := y) rfl
      (ms.mapIdx (fun r m => (r, m.1))) s
    refine issues_leaving nofun nofun rfl hg hy hcores ?_
    rw [← atUnit_set hg (leaving s c h (.mark o) y) (hy.2.1 ▸ atIssue_ctx hg)] at hkept
    simp only [runOp, inUnit, hdo]
    exact congrArg (fun t => Except.ok (t, _)) hkept
  case load =>
    intro a hg hin x bs
    have hread : spadRead (leaving s c h (.compatLoad a) x) (a.toNat : Int) compatBytes = .ok bs := spadRead_of_in hin
    clear_value bs
    have hdo := doCompatLoad_of (slot := 0) (coreOf_atUnit_leaving hg) hread
    refine issues_ownCore nofun nofun rfl hg (y := lanesLoaded x 0 bs) (lanesLoaded_sameSeq ..) ?_
    refine (runOp_compatLoad rfl rfl hdo).trans ?_
    have hown : (if (leaving s c h (.compatLoad a) x).rng.coarse = true then atUnit s c h (.compatLoad a)
        else setCore (atUnit s c h (.compatLoad a)) c (lanesLoaded (leaving s c h (.compatLoad a) x) 0 bs)) =
        setCore (atUnit s c h (.compatLoad a)) c (leaving s c h (.compatLoad a) (lanesLoaded x 0 bs)) := by
      have hunits : lanesLoaded (leaving s c h (.compatLoad a) x) 0 bs = leaving s c h (.compatLoad a) (lanesLoaded x 0 bs) :=
        lanesLoaded_units ..
      rw [← hunits]
      split
      next hc =>
        rw [lanesLoaded, if_pos hc, atUnit_set hg (leaving s c h (.compatLoad a) x) (atIssue_ctx hg)]
        rfl
      next => rfl
    rw [hown]
  case saveCoarse =>
    intro a hg hc hin
    have hdo := doCompatSave_coarse (slot := 0) (coreOf_atUnit_leaving hg) hc hin
    refine issues_leaving nofun nofun rfl hg (.refl _) rfl ?_
    simp only [runOp, inUnit, hdo]
    rfl
  case save =>
    intro a ls hg hc hl hin
    have hdo := doCompatSave_lanes (slot := 0) (coreOf_atUnit_leaving hg) hc hl hin
    refine issues_ownCore nofun nofun rfl hg (y := wrote _ _ _) (.refl _) ?_
    simp only [runOp, inUnit, hdo]
    rfl
  case draw =>
    intro o ws y coarse hg x p hp1 hp2 hn1 hn2 hparam hd bs hin
    obtain ⟨hrun, hy⟩ := drawWords_units (c := c) (w := leaving s c h (.draw o) x) (unitsAt (coreOf s c) 8 (inUnit s c h (.draw o))) hd
    have hdo := doDraw_of (coreOf_atUnit_leaving hg) hp1 hp2 hn1 hn2 hparam hrun hin
    refine issues_ownCore nofun nofun rfl hg (y := wrote y _ bs) hy ?_
    simp only [runOp, inUnit, hdo]
    rfl

end Sys2Proof.Machine
end

section
/-!
PROOFS. What arrives at a core: a row copied inside its scratchpad, a signal from another core, a block table (O45, R190, R241, R247).
-/
namespace Sys2Proof.Machine

open Sys2Proof

/-- A core that is stored with nothing to issue goes no further. -/
theorem advanceCore_setCore_idle {s : State} {c : Nat} {y : Core} (hc : y.ctx.isSome = true) (hw : y.window = [])
    (hq : y.units.all (fun q => decide (q.2.queue = [])) = true) : advanceCore (setCore s c y) c = setCore s c y := by
  refine advanceCore_idle ?_ ?_ <;> rw [coreOf_setCore s c y (core_ne hc)]
  · exact hw
  · exact hq

/-! ### DMA_TRANSFER_COMPLETE -/

section
variable {s : State} {c desc : Nat} {x : Core} {tr : Transfer} (hx : coreOf s c = x)
include hx

theorem completeXfer_unowned (h : (dmaOf x desc).active = none) : completeXfer s c desc = s := by
  unfold completeXfer
  rw [hx, h]
  exact ite_self s

section
variable {a b : Nat} (hsrc : tr.src = .spad (a : Int)) (hdst : tr.dst = .spad (b : Int)) (hin : spadIn (a : Int) tr.rowBytes = true)
  (hout : spadIn (b : Int) tr.rowBytes = true)
include hsrc hin

theorem readRow_spad : readRow s c tr 0 = .ok (mread 0 x.spad a tr.rowBytes, s) := by
  unfold readRow
  simp only [hsrc, hx]
  rw [show (a : Int) + ((0 : Nat) : Int) * tr.srcStride = (a : Int) by simp, spadRead_of_in hin]

include hdst hout in
/-- A row inside the scratchpad lands whole. -/
theorem copyRows_spad : copyRows c tr 1 0 s = .ok (setCore s c (wrote x (b : Int) (mread 0 x.spad a tr.rowBytes))) := by
  have hlen : (mread 0 x.spad a tr.rowBytes).length = tr.rowBytes := by simp [mread]
  unfold copyRows
  rw [readRow_spad hx hsrc hin]
  dsimp only
  unfold writeRow
  simp only [hdst, hx]
  rw [show (b : Int) + ((0 : Nat) : Int) * tr.dstStride = (b : Int) by simp, spadWrite_of_in (by rw [hlen]; exact hout)]
  rfl

include hdst hout in
/-- The transfer's one row is written and counted; neither end is a ring (R247). -/
theorem runXfer_spad (hc : x.ctx.isSome = true) (hrows : tr.rows = 1) (hring : tr.ring = 0xFF#8) :
    runXfer s c tr = .ok (setCore { s with fresh := s.fresh + tr.rowBytes } c
      (coreAdd .dmaBytes tr.rowBytes (wrote x (b : Int) (mread 0 x.spad a tr.rowBytes)))) := by
  have hw : wrote x (b : Int) (mread 0 x.spad a tr.rowBytes) ≠ coreD := core_ne hc
  unfold runXfer
  rw [hrows, copyRows_spad hx hsrc hdst hin hout]
  simp only [hsrc, hdst, moveRingPtr, hring, if_true, Nat.one_mul, coreOf_setCore s c _ hw]
  exact congrArg Except.ok (setCore_setCore { s with fresh := s.fresh + tr.rowBytes } c hw (core_ne hc))

end

/-- A transfer that ends with nothing pending on its descriptor frees it. -/
theorem completeXfer_frees {y : Core} {u : State} (hrun : coreRuns s c = true) (hact : (dmaOf x desc).active = some tr)
    (hw : (dmaOf x desc).waiting = none) (hcol : (dmaOf x desc).collided = none) (hpost : tr.arm.post.count = 0)
    (hr : runXfer s c tr = .ok (setCore u c y)) (hdma : y.dma = x.dma) (hc : y.ctx.isSome = true) (hwin : y.window = [])
    (hq : y.units.all (fun q => decide (q.2.queue = [])) = true) :
    completeXfer s c desc = setCore u c (setDma y desc dmaD) := by
  have hown : dmaOf y desc = dmaOf x desc := by unfold dmaOf; rw [hdma]
  have hfreed : ({ dmaOf y desc with active := none, waiting := none } : DmaSlot) = dmaD := by
    change DmaSlot.mk none none (dmaOf y desc).collided = dmaD
    rw [hown, hcol]
    rfl
  have hcore : coreOf (setCore u c y) c = y := coreOf_setCore _ _ _ (core_ne hc)
  have hput : setCore (setCore u c y) c (setDma y desc dmaD) = setCore u c (setDma y desc dmaD) :=
    setCore_setCore u c (core_ne hc) (core_ne hc)
  unfold completeXfer
  rw [if_neg (not_not_intro hrun), hx, hact]
  dsimp only
  rw [hr]
  dsimp only
  unfold modCore
  rw [hcore, hfreed, hput, postSignal_none hpost, hown, hw, hcol]
  exact advanceCore_setCore_idle (y := setDma y desc dmaD) hc hwin hq

end

/-! ### REMOTE_SEMAPHORE_SIGNAL -/

/-- A signal that fits raises the core's semaphore (R239). -/
theorem addSem_fits {s : State} {c : Nat} {y : Core} {sem : Byte} {n : Nat} (hy : coreOf s c = y)
    (h : (semOf y sem).toNat + n ≤ 65535) :
    addSem s c sem n = setCore s c { y with sems := tput 0 y.sems sem.toNat (BitVec.ofNat 16 ((semOf y sem).toNat + n)) } := by
  unfold addSem
  rw [hy]
  exact if_neg (by omega)

theorem meshArrive_none {s : State} {c e : Nat} (h : s.mesh.find? (fun m => decide (m.src = c ∧ m.dst = e)) = none) :
    meshArrive s c e = s := by
  unfold meshArrive
  rw [h]

theorem meshArrive_some {s : State} {c e : Nat} {m : MeshSignal} {y : Core} (hm : m.sem < 256)
    (h : s.mesh.find? (fun m => decide (m.src = c ∧ m.dst = e)) = some m) (hy : coreOf s e = y) (hc : y.ctx.isSome = true)
    (hw : y.window = []) (hq : y.units.all (fun q => decide (q.2.queue = [])) = true)
    (hfit : (tget 0 y.sems m.sem).toNat + m.count ≤ 65535) :
    meshArrive s c e = setCore { s with mesh := s.mesh.erase m } e
      { y with sems := tput 0 y.sems m.sem (BitVec.ofNat 16 ((tget 0 y.sems m.sem).toNat + m.count)) } := by
  have hsem : (BitVec.ofNat 8 m.sem).toNat = m.sem := by rw [BitVec.toNat_ofNat]; omega
  have hat : semOf y (BitVec.ofNat 8 m.sem) = tget 0 y.sems m.sem := by unfold semOf; rw [hsem]
  unfold meshArrive
  rw [h]
  dsimp only
  have hadd := addSem_fits (s := { s with mesh := s.mesh.erase m }) (c := e) (n := m.count) hy (hat ▸ hfit)
  rw [hat, hsem] at hadd
  rw [hadd]
  exact advanceCore_setCore_idle (y := { y with sems := _ }) hc hw hq

/-! ### O45 -/

/-- Settles O45: a transfer whose one row stays in the scratchpad, the oldest signal between two cores, and the mixer's next table. -/
theorem transfersSignalsAndTablesArrive : Obligations.TransfersSignalsAndTablesArrive := by
  unfold Obligations.TransfersSignalsAndTablesArrive
  intro s c e desc x
  have hnext : ∀ {i : Instr} {t u : State}, exec i s = .next t → t = u → exec i s = .next u := fun h k => k ▸ h
  refine ⟨fun hact => hnext rfl (completeXfer_unowned rfl hact), ?transfer, fun h => hnext rfl (meshArrive_none h), ?signal, ?table⟩
  case transfer =>
    intro tr a b hrun hwin hq hact hwait hcol hsrc hdst hrows hring hpost hin hout
    have hc : x.ctx.isSome = true := coreRuns_ctx hrun
    have hmoved := runXfer_spad (s := s) (c := c) (x := x) rfl hsrc hdst hin hout hc hrows hring
    have hdone := completeXfer_frees (desc := desc) rfl hrun hact hwait hcol hpost hmoved rfl hc hwin hq
    refine ⟨_, hnext rfl hdone, ?_, fun d hd => ?_, rfl⟩
    · exact coreOf_setCore _ _ _ (core_ne hc)
    · exact coreOf_setCore_other _ _ (Ne.symm hd)
  case signal =>
    intro m h hm y hc hwin hq hfit
    exact hnext rfl (meshArrive_some hm h rfl hc hwin hq hfit)
  case table =>
    intro b more h ts
    have hfill : tableFilled x = coreAdd .rngBlockFills 1
        { x with rng := { x.rng with tables := ts.drop (ts.length - 64), fills := more } } := by
      unfold tableFilled
      rw [h]
    exact hnext rfl (congrArg (setCore s c) hfill)

end Sys2Proof.Machine
end

section
/-!
PROOFS. The step of a work group fails (R289, R413, R415): its cores stop, what it left between them is dropped, and it waits for its
replay or is given up.
-/
namespace Sys2Proof.Machine

open Sys2Proof

/-! ### Cores of a table that lists each once -/

theorem coreOf_setCore_sorted {s : State} (hs : tsorted none s.cores = true) (c : Nat) (x : Core) : coreOf (setCore s c x) c = x :=
  tget_tput_sorted coreD s.cores c x hs

theorem sorted_setCore {s : State} (hs : tsorted none s.cores = true) (c : Nat) (x : Core) :
    tsorted none (setCore s c x).cores = true := tsorted_tput coreD s.cores none c x hs nofun

/-- Cores changed one after the other, each once. -/
theorem coreOf_foldl_modCore_sorted (f : Core → Core) {l : List Nat} (hd : l.Nodup) {s : State} (hs : tsorted none s.cores = true)
    (c : Nat) : coreOf (l.foldl (fun s c => modCore s c f) s) c = if c ∈ l then f (coreOf s c) else coreOf s c := by
  induction l generalizing s with
  | nil => rfl
  | cons a rest ih =>
    rw [List.nodup_cons] at hd
    refine (ih hd.2 (sorted_setCore hs a _)).trans ?_
    by_cases hc : c = a
    · subst hc
      rw [if_neg hd.1, if_pos List.mem_cons_self]
      exact coreOf_setCore_sorted hs c _
    · rw [coreOf_setCore_other s _ (Ne.symm hc)]
      simp only [List.mem_cons, hc, false_or]

/-! ### What is stopped -/

section
variable {s : State} {b gid y : Nat}

theorem stopWork_rest (hs : tsorted none s.cores = true) : stopWork s b gid = { s with
    cores := (stopWork s b gid).cores, mesh := s.mesh.filter (fun m => !worksFor s b gid m.src && !worksFor s b gid m.dst) } := by
  have hrest := foldl_modCore_rest id (fun _ _ x => stopCore x) (workCores s b gid) s
  have hmesh : (fun m : MeshSignal => !(workCores s b gid).contains m.src && !(workCores s b gid).contains m.dst) =
      fun m => !worksFor s b gid m.src && !worksFor s b gid m.dst :=
    funext fun m => by rw [workCores_contains hs, workCores_contains hs]
  unfold stopWork
  dsimp only
  rw [hmesh]
  exact congrArg (fun t : State => { t with
    mesh := t.mesh.filter (fun m => !worksFor s b gid m.src && !worksFor s b gid m.dst) }) hrest

theorem coreOf_stopWork (hs : tsorted none s.cores = true) (c : Nat) :
    coreOf (stopWork s b gid) c = if worksFor s b gid c = true then stopCore (coreOf s c) else coreOf s c := by
  refine (coreOf_foldl_modCore_sorted stopCore (workCores_nodup hs b gid) hs c).trans ?_
  simp only [mem_workCores hs]

/-- A bay whose work group has stopped its step. -/
def bayHalted (gid : Nat) (x : Bay) : Bay :=
  { x with
    running := if gid = 0 then false else x.running
    groups := x.groups.map (fun g => if g.gid = gid then { g with stepping := false } else g) }

theorem bayHalted_running (gid : Nat) (x : Bay) : (bayHalted gid x).running = (x.running && decide (gid ≠ 0)) := by
  unfold bayHalted
  by_cases h : gid = 0 <;> simp [h]

/-- The step has stopped, and its attempt is counted. -/
def workStopped (s : State) (b gid y : Nat) : State :=
  modBay (modYealm (dropSpills (stopWork s b gid) y) y (fun v => { v with attempts := v.attempts + 1 })) b (bayHalted gid)

/-- A yealm whose attempt at a step has failed. -/
def attemptFailed (v : Yealm) : Yealm := { v with attempts := v.attempts + 1, spilled := none }

theorem workStopped_rest (hs : tsorted none s.cores = true) : workStopped s b gid y = { s with
    cores := (stopWork s b gid).cores, mesh := s.mesh.filter (fun m => !worksFor s b gid m.src && !worksFor s b gid m.dst)
    spills := s.spills.filter (fun e => decide (e.1 / 64 ≠ y)), yealms := (workStopped s b gid y).yealms
    bays := tmod s.bays b (bayHalted gid) } := by
  have hrest := stopWork_rest (b := b) (gid := gid) hs
  unfold workStopped dropSpills
  generalize (stopWork s b gid).cores = C at hrest ⊢
  rw [hrest]
  rfl

theorem yealmOf_workStopped (hs : tsorted none s.cores = true) (j : Nat) :
    yealmOf (workStopped s b gid y) j = if y = j then (yealmOf s j).map attemptFailed else yealmOf s j := by
  have hyealms : (stopWork s b gid).yealms = s.yealms := by rw [stopWork_rest hs]
  unfold workStopped dropSpills
  generalize stopWork s b gid = w at hyealms ⊢
  change yealmOf (modYealm (modYealm w y _) y _) j = _
  rw [yealmOf_modYealm, yealmOf_modYealm, yealmOf_congr hyealms]
  split
  · rw [Option.map_map]; rfl
  · rfl

theorem failWork_eq (s : State) (b gid y : Nat) : failWork s b gid y =
    if 4 ≤ ((yealmOf (workStopped s b gid y) y).map (fun v => v.attempts)).getD 0 then giveUp (workStopped s b gid y) b y
    else workStopped s b gid y := rfl

/-- A yealm given up after its last attempt (R415). -/
def yealmGivenUp (v : Yealm) : Yealm := { v with admitted := false, susp := .givenUp, attempts := 0, beStep := none }

/-- The steps of a yealm that is given up leave its bay, which counts the suspension (R415). -/
def stepsDropped (s : State) (b y : Nat) : State :=
  gpCnt (bayCnt (modBay (modYealm s y yealmGivenUp) b (fun v => { v with todo := v.todo.filter (fun t => t.yealm ≠ y) })) b 3 1) 3

/-- A bay that drops the steps of a yealm. -/
def stepsGone (y : Nat) (x : Bay) : Bay :=
  { x with todo := x.todo.filter (fun t => t.yealm ≠ y), counters := cntAdd x.counters 3 32 1 }

theorem stepsDropped_rest (s : State) (b y : Nat) : stepsDropped s b y = { s with
    yealms := tmod s.yealms y yealmGivenUp, gpCounters := cntAdd s.gpCounters 3 32 1
    bays := tmod (tmod s.bays b (fun v => { v with todo := v.todo.filter (fun t => t.yealm ≠ y) })) b
      (fun v => { v with counters := cntAdd v.counters 3 32 1 }) } := by
  unfold stepsDropped gpCnt bayCnt modBay modYealm
  rfl

theorem bayOf_stepsDropped (s : State) (b y j : Nat) :
    bayOf (stepsDropped s b y) j = if b = j then (bayOf s j).map (stepsGone y) else bayOf s j := by
  rw [stepsDropped_rest]
  unfold bayOf
  dsimp only
  rw [tfind_tmod, tfind_tmod]
  split
  · exact Option.map_map ..
  · rfl

theorem claimants_congr {s t : State} (h : t.sessions = s.sessions) (y : Nat) : claimants t y = claimants s y := by
  unfold claimants
  rw [h]

/-- A step of a yealm that no session claims is given up without a message (R415). -/
theorem giveUp_unclaimed (h : claimants s y = []) : giveUp s b y = stepsDropped s b y := by
  have hclaim : claimants (stepsDropped s b y) y = [] := (claimants_congr (by rw [stepsDropped_rest]) y).trans h
  change yealmEvents ((claimants (stepsDropped s b y) y).foldl _ (stepsDropped s b y)) y 0x0005 = _
  rw [hclaim, List.foldl_nil, yealmEvents, hclaim, List.foldl_nil]

/-! ### The step fails -/

variable {v : Yealm} {x : Bay} (hs : tsorted none s.cores = true) (hv : yealmOf s y = some v) (hx : bayOf s b = some x)
include hs hv

theorem failWork_replays (h : v.attempts < 3) : failWork s b gid y = workStopped s b gid y := by
  rw [failWork_eq, yealmOf_workStopped hs, if_pos rfl, hv]
  exact if_neg (by simp only [Option.map_some, Option.getD_some, attemptFailed]; omega)

theorem failWork_givesUp (h : 3 ≤ v.attempts) (hc : claimants s y = []) :
    failWork s b gid y = stepsDropped (workStopped s b gid y) b y := by
  have hclaim : claimants (workStopped s b gid y) y = [] := (claimants_congr (by rw [workStopped_rest hs]) y).trans hc
  rw [failWork_eq, yealmOf_workStopped hs, if_pos rfl, hv, ← giveUp_unclaimed hclaim]
  exact if_pos (by simp only [Option.map_some, Option.getD_some, attemptFailed]; omega)

include hx

/-- The running step of a work group fails (R413, R415), and nothing else changes. -/
theorem failWork_fails (h : v.attempts < 3 ∨ claimants s y = []) : WorkFails s (failWork s b gid y) b gid y v x ∧
    { failWork s b gid y with cores := [], spills := [], mesh := [], bays := [], yealms := [], gpCounters := [] } =
      { s with cores := [], spills := [], mesh := [], bays := [], yealms := [], gpCounters := [] } := by
  have hrest := workStopped_rest (b := b) (gid := gid) (y := y) hs
  have hyealm := yealmOf_workStopped (b := b) (gid := gid) (y := y) hs
  have hcore := coreOf_stopWork (b := b) (gid := gid) hs
  have hhalt : bayHalted gid x = { x with
      running := x.running && decide (gid ≠ 0), groups := x.groups.map (fun g => if g.gid = gid then { g with stepping := false } else g) } := by
    rw [← bayHalted_running]; rfl
  have hstop : ∀ c, worksFor s b gid c = true → Stopped (coreOf s c) (coreOf (stopWork s b gid) c) := fun c hc => by
    rw [hcore, if_pos hc]; exact stopCore_stopped _
  have hkeep : ∀ c, worksFor s b gid c = false → coreOf (stopWork s b gid) c = coreOf s c := fun c hc => by
    rw [hcore, if_neg (by rw [hc]; decide)]
  by_cases ha : v.attempts < 3
  · rw [failWork_replays hs hv ha]
    generalize workStopped s b gid y = u at hrest hyealm ⊢
    generalize stopWork s b gid = w at hrest hstop hkeep
    generalize u.yealms = Y at hrest
    subst hrest
    refine ⟨⟨hstop, hkeep, rfl, rfl, fun j hj => ?_, fun j hj => ?_, fun _ => ⟨?_, ?_, rfl⟩, fun h3 => absurd ha (by omega)⟩, rfl⟩
    · exact (tfind_tmod ..).trans (if_neg (Ne.symm hj))
    · rw [hyealm, if_neg (Ne.symm hj)]
    · rw [hyealm, if_pos rfl, hv]; rfl
    · exact (tfind_tmod ..).trans ((if_pos rfl).trans ((congrArg _ hx).trans (congrArg some hhalt)))
  · rw [failWork_givesUp hs hv (by omega) (h.resolve_left ha)]
    have hgone := bayOf_stepsDropped (workStopped s b gid y) b y
    generalize workStopped s b gid y = u at hrest hyealm hgone ⊢
    generalize stopWork s b gid = w at hrest hstop hkeep
    generalize u.yealms = Y at hrest
    subst hrest
    rw [stepsDropped_rest] at hgone ⊢
    refine ⟨⟨hstop, hkeep, rfl, rfl, fun j hj => ?_, fun j hj => ?_, fun h3 => absurd h3 ha, fun _ => ⟨?_, ?_, rfl⟩⟩, rfl⟩
    · exact (hgone j).trans ((if_neg (Ne.symm hj)).trans ((tfind_tmod ..).trans (if_neg (Ne.symm hj))))
    · exact (tfind_tmod ..).trans ((if_neg (Ne.symm hj)).trans ((hyealm j).trans (if_neg (Ne.symm hj))))
    · exact (tfind_tmod ..).trans ((if_pos rfl).trans (congrArg _ ((hyealm y).trans ((if_pos rfl).trans (congrArg _ hv)))))
    · refine (hgone b).trans ((if_pos rfl).trans (congrArg _ ((tfind_tmod ..).trans ((if_pos rfl).trans (congrArg _ hx))))) |>.trans ?_
      rw [← hhalt]
      rfl

end

end Sys2Proof.Machine
end

section
/-!
PROOFS. CONTAINED_FAULT (O51): a fault of a core, which logs and fences it and fails its step (R197, R403, R413, R415), and a corrected
fault, which is counted (R215, R220, R403).
-/
namespace Sys2Proof.Machine

open Sys2Proof

/-! ### The log and the fence of a unit (R348, R407, R409) -/

theorem unitIdx_uCore (c : Fin 64) : unitIdx (uCore c) = c.val := by
  unfold unitIdx uCore unitId
  rw [BitVec.toNat_ofNat]
  omega

theorem logFault_logged {s : State} {f : FaultEvent} (h : faultClass f.source = .contained) :
    Logged s (logFault s f) f.source 1 f.unit f.syndrome := by
  have hlen : ∀ (l : List LogEntry) e, (l ++ [e]).length = l.length + 1 := fun l e => by simp
  unfold logFault
  rw [h]
  dsimp only
  refine ⟨rfl, ?_, fun hl => ?_, ?_⟩
  · rw [hlen, List.drop_append_of_le_length (by omega), List.getLast?_concat]
    rfl
  · rw [hlen, show s.log.length + 1 - 4096 = 0 by omega, List.drop_zero, List.dropLast_concat]
  · cases s.latch <;> rfl

theorem logFault_rest (s : State) (f : FaultEvent) :
    ∃ L A, logFault s f = { s with log := L, logNext := s.logNext + 1, latch := A } := by
  unfold logFault
  exact ⟨_, _, rfl⟩

/-- What a flash makes of a unit in service (R409, R410). -/
def flashedUnit (s : State) (u : W32) : UnitH :=
  if recovLimit s ≤ recentReturns s u ∧ recovLimit s ≠ 0 then { unitOf s u with fence := .permanent }
  else { unitOf s u with fence := .quiet, tries := 0 }

theorem flash_inService {s : State} {u : W32} (h : (unitOf s u).fence = .inService) : flash s u = setUnit s u (flashedUnit s u) := by
  unfold flash flashedUnit
  dsimp only
  rw [h]
  dsimp only
  split <;> rfl

theorem flashedUnit_congr {s t : State} (hu : t.units = s.units) (hr : t.recs = s.recs) (hn : t.now = s.now) (u : W32) :
    flashedUnit t u = flashedUnit s u := by
  unfold flashedUnit recovLimit recentReturns unitOf recovWindow act recOf
  rw [hu, hr, hn]

theorem flashedUnit_ne (s : State) (u : W32) : flashedUnit s u ≠ unitD := by
  unfold flashedUnit
  split <;> exact fun h => nomatch congrArg UnitH.fence h

theorem unitOf_setUnit {s : State} {u : W32} {h : UnitH} (hne : h ≠ unitD) : unitOf (setUnit s u h) u = h := tget_tput_ne _ _ _ _ hne

theorem unitOf_setUnit_other (s : State) {u w : W32} (h : UnitH) (hne : w ≠ u) : unitOf (setUnit s u h) w = unitOf s w :=
  tget_tput_other _ _ _ (fun e => hne (BitVec.eq_of_toNat_eq e.symm))

/-! ### A fault of a core -/

/-- A core after a fault of its own, before its step fails: a parity error is counted, and a fault of the generator makes it coarse
(R197, Table 9.7). -/
def faultedCore (src : W16) (x : Core) : Core :=
  coarseOn src.toNat (if src = 0x010B#16 then coreAdd .rngParityErrors 1 x else x)

theorem coarseOn_ctx (n : Nat) (x : Core) : (coarseOn n x).ctx = x.ctx := by
  unfold coarseOn
  split <;> rfl

theorem faultedCore_ctx (src : W16) (x : Core) : (faultedCore src x).ctx = x.ctx := by
  unfold faultedCore coarseOn
  split <;> split <;> rfl

theorem faultedCore_eq (src : W16) (x : Core) : faultedCore src x =
    let n := src.toNat
    let y := if n = 0x010B then coreAdd .rngParityErrors 1 x else x
    if 0x010A ≤ n ∧ n ≤ 0x010C then { y with rng := { y.rng with coarse := true, tables := [], fills := [] } } else y := by
  have hsrc : src = 0x010B#16 ↔ src.toNat = 0x010B := ⟨fun h => by rw [h]; rfl, fun h => BitVec.eq_of_toNat_eq h⟩
  have hgen : (src.toNat = 0x010A ∨ src.toNat = 0x010B ∨ src.toNat = 0x010C) ↔ 0x010A ≤ src.toNat ∧ src.toNat ≤ 0x010C := by omega
  unfold faultedCore coarseOn
  simp only [hsrc, hgen]

section
variable {s : State} {c : Nat} {f : FaultEvent} {k : CoreCtx}

theorem modCore_modCore {g h : Core → Core} (hg : g (coreOf s c) ≠ coreD) (hh : h (g (coreOf s c)) ≠ coreD) :
    modCore (modCore s c g) c h = setCore s c (h (g (coreOf s c))) := by
  unfold modCore
  rw [coreOf_setCore s c _ hg, setCore_setCore s c hg hh]

theorem setUnit_setCore (s : State) (c : Nat) (z : Core) (u : W32) (h : UnitH) :
    setUnit (setCore s c z) u h = setCore (setUnit s u h) c z := rfl

theorem logFault_setCore (s : State) (c : Nat) (z : Core) (f : FaultEvent) :
    logFault (setCore s c z) f = setCore (logFault s f) c z := by
  unfold logFault setCore unitOf
  dsimp only

/-- A core's unit after a logged fault. -/
def fencedFor (s : State) (f : FaultEvent) (c : Nat) : State := setUnit (logFault s f) (uCore c) (flashedUnit s (uCore c))

theorem flash_logFault (hu : (unitOf s (uCore c)).fence = .inService) : flash (logFault s f) (uCore c) = fencedFor s f c := by
  obtain ⟨L, A, hrest⟩ := logFault_rest s f
  have hflash : flashedUnit (logFault s f) (uCore c) = flashedUnit s (uCore c) :=
    flashedUnit_congr (by rw [hrest]) (by rw [hrest]) (by rw [hrest]) _
  unfold fencedFor
  rw [flash_inService (by rw [hrest]; exact hu), hflash]

theorem fencedFor_rest (s : State) (f : FaultEvent) (c : Nat) : fencedFor s f c = { s with
    log := (logFault s f).log, logNext := (logFault s f).logNext, latch := (logFault s f).latch
    units := (setUnit s (uCore c) (flashedUnit s (uCore c))).units } := by
  obtain ⟨L, A, hrest⟩ := logFault_rest s f
  unfold fencedFor
  rw [hrest]
  rfl

theorem fencedFor_setCore (s : State) (c : Nat) (z : Core) (f : FaultEvent) (e : Nat) :
    fencedFor (setCore s c z) f e = setCore (fencedFor s f e) c z := by
  have hflash := flashedUnit_congr (s := s) (t := setCore s c z) rfl rfl rfl (uCore e)
  unfold fencedFor
  rw [logFault_setCore, hflash, setUnit_setCore]

/-- A fault of a core that runs a step fails the step of its work group. -/
theorem coreFault_eq (hctx : (coreOf s c).ctx = some k) (hu : (unitOf s (uCore c)).fence = .inService) :
    coreFault s c f = failWork (fencedFor (setCore s c (faultedCore f.source (coreOf s c))) f c) k.bay k.group k.yealm := by
  have hne : ∀ {x : Core}, x.ctx = some k → x ≠ coreD := fun h => core_ne (by rw [h]; rfl)
  have hz : (faultedCore f.source (coreOf s c)).ctx = some k := (faultedCore_ctx ..).trans hctx
  have hcore : coreOf (fencedFor s f c) c = coreOf s c := by
    unfold coreOf
    rw [fencedFor_rest]
  have hset : modCore (if f.source = 0x010B#16 then modCore (fencedFor s f c) c (coreAdd .rngParityErrors 1) else fencedFor s f c) c
      (coarseOn f.source.toNat) = setCore (fencedFor s f c) c (faultedCore f.source (coreOf s c)) := by
    by_cases hsrc : f.source = 0x010B#16
    · rw [if_pos hsrc, modCore_modCore (by rw [hcore]; exact core_ne (by rw [show (coreAdd _ _ _).ctx = _ from hctx]; rfl))
        (by rw [hcore]; exact core_ne (by rw [coarseOn_ctx]; rw [show (coreAdd _ _ _).ctx = _ from hctx]; rfl)), hcore, faultedCore,
        if_pos hsrc]
    · rw [if_neg hsrc, modCore, hcore, faultedCore, if_neg hsrc]
  unfold coreFault
  dsimp only
  rw [flash_logFault hu, hset, failCore, coreOf_setCore _ c _ (hne hz), hz, fencedFor_setCore]

theorem workFails_congr {s t u : State} {b gid y : Nat} {v : Yealm} {x : Bay} (hcores : s.cores = u.cores)
    (hspills : s.spills = u.spills) (hmesh : s.mesh = u.mesh) (hbays : s.bays = u.bays) (hyealms : s.yealms = u.yealms)
    (hcnt : s.gpCounters = u.gpCounters) (h : WorkFails s t b gid y v x) : WorkFails u t b gid y v x := by
  unfold WorkFails worksFor coreOf bayOf yealmOf at h ⊢
  rw [hcores, hspills, hmesh, hbays, hyealms, hcnt] at h
  exact h

/-- The step of a core that is logged and fenced fails (R413). -/
theorem failWork_contained {b gid y : Nat} {v : Yealm} {x : Bay} (hf : faultClass f.source = .contained) (hunit : f.unit = uCore c)
    (hs : tsorted none s.cores = true) (hv : yealmOf s y = some v) (hx : bayOf s b = some x)
    (h : v.attempts < 3 ∨ claimants s y = []) :
    Contained s (failWork (fencedFor s f c) b gid y) f.source (uCore c) f.syndrome b gid y v x := by
  have hlog := hunit ▸ logFault_logged (s := s) hf
  obtain ⟨hnum, hlast, hdrop, hlatch⟩ := hlog
  have hrest := fencedFor_rest s f c
  generalize logFault s f = w at hnum hlast hdrop hlatch hrest
  generalize hU : (setUnit s (uCore c) (flashedUnit s (uCore c))).units = U at hrest
  generalize fencedFor s f c = u at hrest ⊢
  obtain ⟨hfails, hframe⟩ := failWork_fails (s := u) (b := b) (gid := gid) (y := y) (by rw [hrest]; exact hs)
    ((yealmOf_congr (by rw [hrest]) y).trans hv) ((bayOf_congr (by rw [hrest]) b).trans hx)
    (h.imp_right ((claimants_congr (by rw [hrest]) y).trans ·))
  generalize failWork _ b gid y = t at hfails hframe ⊢
  have hunits : ∀ j, unitOf t j = unitOf (setUnit s (uCore c) (flashedUnit s (uCore c))) j := fun j => by
    unfold unitOf
    rw [hU, show t.units = U from (congrArg State.units hframe :).trans (by rw [hrest])]
  have hlogt : t.log = w.log := (congrArg State.log hframe :).trans (by rw [hrest])
  have hnumt : t.logNext = w.logNext := (congrArg State.logNext hframe :).trans (by rw [hrest])
  have hlatcht : t.latch = w.latch := (congrArg State.latch hframe :).trans (by rw [hrest])
  refine ⟨⟨hnumt.trans hnum, by rw [hlogt]; exact hlast, by rw [hlogt]; exact hdrop, hlatcht.trans hlatch⟩, ?_, fun j hj => ?_,
    workFails_congr (by rw [hrest]) (by rw [hrest]) (by rw [hrest]) (by rw [hrest]) (by rw [hrest]) (by rw [hrest]) hfails, ?_⟩
  · rw [hunits, unitOf_setUnit (flashedUnit_ne s _)]
    rfl
  · rw [hunits, unitOf_setUnit_other s _ hj]
  · have hblank := congrArg (fun u : State => { u with units := [], log := [], logNext := 0, latch := none, fresh := 0 }) hframe
    exact hblank.trans (by rw [hrest])

/-- The sources of a core's own faults (Table 17.1). -/
def coreSource (n : Nat) : Prop :=
  (0x0100 ≤ n ∧ n ≤ 0x010C) ∨ n = 0x0111 ∨ n = 0x0112 ∨ n = 0x0113 ∨ n = 0x0116 ∨ n = 0x0117 ∨ n = 0x0118

theorem faultEvent_coreSource (hb : s.boot.complete = true) (hn : coreSource f.source.toNat) (hi : unitIdx f.unit = c) :
    faultEvent s f = coreFault s c f ∧ faultClass f.source = .contained := by
  have hclass : faultClass f.source = .contained := by
    unfold coreSource at hn
    unfold faultClass
    dsimp only
    rw [if_neg (by omega), if_neg (by omega)]
  have hknown : faultKnown f.source = true := decide_eq_true (by unfold coreSource at hn; omega)
  have hcontained : contained s f = coreFault s c f := by
    unfold coreSource at hn
    unfold contained
    dsimp only
    rw [hi]
    split
    any_goals omega
    all_goals rfl
  refine ⟨?_, hclass⟩
  unfold faultEvent
  rw [if_neg (by simp only [hknown, hb, not_true_eq_false, or_self, not_false_eq_true]), hclass]
  exact hcontained

theorem faultEvent_nothing (h : s.boot.complete = false ∨ faultKnown f.source = false ∨ faultClass f.source = .fatal) :
    faultEvent s f = s := by
  unfold faultEvent
  split
  next => rfl
  next hc =>
    rw [not_or, not_not, not_not] at hc
    rcases h with hb | hk | hf
    · exact absurd hc.2 (by rw [hb]; decide)
    · exact absurd hc.1 (by rw [hk]; decide)
    · rw [hf]

end

/-! ### A corrected fault (R403) -/

/-- A write that leaves a part of an entry leaves that part of every entry. -/
theorem tget_tput_keep [DecidableEq α] (g : α → β) {d : α} {t : Tab α} (hs : tsorted none t = true) {k : Nat} {v : α}
    (hv : g v = g (tget d t k)) (j : Nat) : g (tget d (tput d t k v) j) = g (tget d t j) := by
  by_cases h : k = j
  · rw [← h, tget_tput_sorted d t k v hs, hv]
  · rw [tget_tput_other d t v h]

/-- Nothing but counters, and the free values taken, differs. -/
def CountsOnly (s t : State) : Prop :=
  (∀ c, { coreOf t c with counters := [] } = { coreOf s c with counters := [] }) ∧
    (∀ c, { channelOf t c with counters := [] } = { channelOf s c with counters := [] }) ∧
    (∀ p, { portOf t p with counters := [] } = { portOf s p with counters := [] }) ∧
    (∀ m, { tdmOf t m with counters := [] } = { tdmOf s m with counters := [] }) ∧
    { t with cores := [], channels := [], ports := [], tdm := [], gpCounters := [], fresh := 0 } =
      { s with cores := [], channels := [], ports := [], tdm := [], gpCounters := [], fresh := 0 }

section
variable {s : State}

theorem countsOnly_coreAdd (hs : tsorted none s.cores = true) (c : Nat) (k : CoreCnt) (n : Nat) :
    CountsOnly s (modCore s c (coreAdd k n)) :=
  ⟨tget_tput_keep (d := coreD) (v := coreAdd k n (coreOf s c)) (fun x => { x with counters := [] }) hs rfl, fun _ => rfl, fun _ => rfl, fun _ => rfl, rfl⟩

theorem countsOnly_channelCnt (hs : tsorted none s.channels = true) (i k w n : Nat) : CountsOnly s (channelCnt s i k w n) :=
  ⟨fun _ => rfl, tget_tput_keep (d := channelD)
    (v := { channelOf s i with counters := cntAdd (channelOf s i).counters k w n }) (fun x => { x with counters := [] }) hs rfl,
     fun _ => rfl, fun _ => rfl, rfl⟩

theorem countsOnly_portCnt (hs : tsorted none s.ports = true) (p k w : Nat) : CountsOnly s (portCnt s p k w) :=
  ⟨fun _ => rfl, fun _ => rfl, tget_tput_keep (d := portD)
    (v := { portOf s p with counters := cntAdd (portOf s p).counters k w 1 }) (fun x => { x with counters := [] }) hs rfl,
     fun _ => rfl, rfl⟩

theorem countsOnly_tdmCnt (hs : tsorted none s.tdm = true) (m k n : Nat) : CountsOnly s (tdmCnt s m k n) :=
  ⟨fun _ => rfl, fun _ => rfl, fun _ => rfl, tget_tput_keep (d := tdmD)
    (v := { tdmOf s m with counters := cntAdd (tdmOf s m).counters k (tdmCntWidth k) n }) (fun x => { x with counters := [] }) hs rfl,
     rfl⟩

theorem countsOnly_gpCnt (s : State) (k : Nat) : CountsOnly s (gpCnt s k) :=
  ⟨fun _ => rfl, fun _ => rfl, fun _ => rfl, fun _ => rfl, rfl⟩

theorem countsOnly_refl (s : State) : CountsOnly s s := ⟨fun _ => rfl, fun _ => rfl, fun _ => rfl, fun _ => rfl, rfl⟩

/-- A write accepted after retries: its channel counts them and has one credit less (R215, R220). -/
theorem channelOf_retried (hs : tsorted none s.channels = true) (i n r c : Nat) :
    channelOf (spendCredits (channelCnt { s with fresh := n } i 3 32 r) i) c =
      if i = c then { channelOf s i with credits := (channelOf s i).credits - 1, counters := cntAdd (channelOf s i).counters 3 32 r }
      else channelOf s c := by
  have hcnt := tget_tput_sorted channelD s.channels i { channelOf s i with counters := cntAdd (channelOf s i).counters 3 32 r } hs
  by_cases h : i = c
  · subst h
    refine (tget_tput_sorted channelD _ i _ (tsorted_tput channelD s.channels none i _ hs nofun)).trans ?_
    rw [if_pos rfl]
    exact congrArg (fun x : Channel => { x with credits := x.credits - 1 }) hcnt
  · rw [if_neg h]
    exact (tget_tput_other channelD _ _ h).trans (tget_tput_other channelD _ _ h)

theorem faultEvent_corrected {f : FaultEvent} (hb : s.boot.complete = true) (hf : faultClass f.source = .corrected) :
    faultEvent s f = corrected s f := by
  have hknown : faultKnown f.source = true := decide_eq_true (by
    unfold faultClass at hf
    dsimp only at hf
    split at hf
    next h => omega
    next => split at hf <;> cases hf)
  unfold faultEvent
  rw [if_neg (by simp only [hknown, hb, not_true_eq_false, or_self, not_false_eq_true]), hf]

/-- A corrected fault but of a write's retries changes counters alone (R403). -/
theorem countsOnly_corrected {f : FaultEvent} (hcores : tsorted none s.cores = true) (hchannels : tsorted none s.channels = true)
    (hports : tsorted none s.ports = true) (htdm : tsorted none s.tdm = true) (h205 : f.source.toNat ≠ 0x0205)
    (h210 : f.source.toNat ≠ 0x0210) : CountsOnly s (corrected s f) := by
  unfold corrected
  dsimp only
  split
  case h_1 => exact countsOnly_coreAdd hcores ..
  case h_2 => exact countsOnly_channelCnt hchannels ..
  case h_3 | h_4 => omega
  case h_5 | h_6 | h_7 => exact countsOnly_portCnt hports ..
  case h_8 => exact countsOnly_tdmCnt htdm ..
  case h_9 | h_10 | h_11 => exact countsOnly_gpCnt ..
  case h_12 => exact countsOnly_refl s

theorem corrected_of {f : FaultEvent} (hn : f.source.toNat = 0x0205) : corrected s f =
    spendCredits (channelCnt { s with fresh := s.fresh + 1 } (unitIdx f.unit) 3 32 (1 + (Config.freeByte s.fresh).toNat % 3))
      (unitIdx f.unit) := by
  unfold corrected
  split
  any_goals omega
  · rfl
  · contradiction

end

/-- Settles O51: CONTAINED_FAULT. -/
theorem containedFaultsStopTheStep : Obligations.ContainedFaultsStopTheStep := by
  unfold Obligations.ContainedFaultsStopTheStep
  intro s f
  refine ⟨fun h => congrArg Host.Outcome.next (faultEvent_nothing h), ?_, ?_⟩
  · intro c k v x hb hn hunit hctx hv hx hu hs hatt
    obtain ⟨heq, hclass⟩ := faultEvent_coreSource hb hn (by rw [hunit, unitIdx_uCore])
    have hz := faultedCore_eq f.source (coreOf s c)
    refine ⟨_, congrArg Host.Outcome.next heq, ?_⟩
    dsimp only at hz ⊢
    rw [coreFault_eq hctx hu, ← hz]
    exact failWork_contained hclass hunit (sorted_setCore hs _ _) hv hx hatt
  · intro hb hclass h210 hcores hchannels hports htdm
    refine ⟨_, congrArg Host.Outcome.next (faultEvent_corrected hb hclass), ?_⟩
    by_cases h205 : f.source.toNat = 0x0205
    · have hchan := fun n r => channelOf_retried hchannels (unitIdx f.unit) n r
      rw [corrected_of h205]
      refine ⟨fun _ => rfl, fun c hc => ?_, fun _ => ⟨_, ?_, ?_, (hchan ..).trans (if_pos rfl)⟩, fun _ => rfl, fun _ => rfl,
        fun h => by omega, fun h => by omega, rfl⟩
      · rw [hchan, if_neg (Ne.symm (hc.resolve_left (not_not.mpr h205)))]
      · omega
      · omega
    · obtain ⟨hcore, hchan, hport, htdms, hframe⟩ := countsOnly_corrected (f := f) hcores hchannels hports htdm h205 h210
      refine ⟨hcore, fun c _ => hchan c, fun h => absurd h h205, hport, htdms, fun h => ?_, fun h => ?_, hframe⟩
      · unfold corrected
        rw [h]
        exact congrArg Core.counters (coreOf_setCore_sorted hcores _ _)
      · unfold corrected
        rw [h]
        rfl

end Sys2Proof.Machine
end

section
/-!
PROOFS. WARM_REINIT_COMPLETE (O56): the completion tests the cores that the state lists, and a core it does not list stays in coarse
mode.
-/
namespace Sys2Proof.Machine

open Sys2Proof

/-- The fault of a device at the end of its re-initialisation. -/
def reinitFault : FaultSt :=
  { source := 0x0501#16, unit := uDevice, fwReady := true, since := 0, reinit := true, lostChannels := [] }

/-- A device whose core 0 failed the self-test of the reset, so that it is fenced and its generator still in coarse mode (R197, R201), at
the end of the re-initialisation that a fatal fault asked for. Core 0 is as a reset leaves it, and so not listed. -/
def reinitUntested : State :=
  { State.reset with
    boot := { State.reset.boot with pwrok := true, resetN := true, complete := true, faultN := true }
    units := [((uCore 0).toNat, { unitD with fence := .quiet })], fault := some reinitFault }

theorem coreOf_reinitUntested_coarse : (coreOf (reinitDone reinitUntested) 0).rng.coarse = true := by decide

/-- Refutes O56: WARM_REINIT_COMPLETE tests only the cores that the state lists. Core 0 of `reinitUntested`, at its reset value, is not
listed; its generator is in coarse mode before and after, where the statement has every core end coarse mode. -/
theorem not_unitsAndDeviceRecover : ¬ Obligations.UnitsAndDeviceRecover := by
  unfold Obligations.UnitsAndDeviceRecover
  intro h
  obtain ⟨-, hfault, -⟩ := h reinitUntested
  obtain ⟨-, -, -, -, -, hdone⟩ := hfault reinitFault rfl
  obtain ⟨t, hexec, -, -, -, -, -, -, hcores, -⟩ := hdone rfl rfl rfl rfl
  obtain rfl : reinitDone reinitUntested = t := Host.Outcome.next.inj hexec
  obtain ⟨-, -, htested⟩ := hcores 0
  have hcoarse : (coreOf (reinitDone reinitUntested) 0).rng.coarse = false := congrArg (fun x : Core => x.rng.coarse) htested
  exact absurd (coreOf_reinitUntested_coarse.symm.trans hcoarse) (by decide)

end Sys2Proof.Machine
end

section
/-!
PROOFS. The start of a boot (O57): the boot records lie apart from the firmware slots, so a record write changes neither what the slots
hold nor whether they verify (R456, R460).
-/
namespace Sys2Proof.Machine

open Sys2Proof

/-! ### Boot records and firmware slots -/

theorem le_length (k n : Nat) : (le k n).length = k := by
  induction k generalizing n with
  | zero => rfl
  | succ k ih => rw [le, List.length_cons, ih]

theorem bootRecBytes_length (r : BootRec) : (bootRecBytes r).length = 32 := by
  unfold bootRecBytes
  dsimp only
  simp only [List.length_append, le_length, zeros, List.length_replicate]

section
variable (s : State) (slot : Nat) (trial : Bool) (boots : Nat)

theorem writeRec_rest : ∃ F, writeRec s slot trial boots = { s with flash := F } ∧
    ∀ a, 0x2000 ≤ a → tget (0xFF : Byte) F a = tget (0xFF : Byte) s.flash a := by
  unfold writeRec
  dsimp only
  refine ⟨_, rfl, fun a ha => mwrite_other _ _ _ _ _ (Or.inr ?_)⟩
  rw [bootRecBytes_length]
  have hcopy : ((currentRec s).map (fun e => 1 - e.1)).getD 0 ≤ 1 := by
    cases currentRec s with
    | none => exact Nat.zero_le _
    | some e => exact Nat.sub_le ..
  omega

theorem flashRead_writeRec {a : Nat} (n : Nat) (ha : 0x2000 ≤ a) : flashRead (writeRec s slot trial boots) a n = flashRead s a n := by
  obtain ⟨F, hrest, hsame⟩ := writeRec_rest s slot trial boots
  rw [hrest]
  unfold flashRead mread
  exact List.map_congr_left fun i _ => hsame _ (by omega)

theorem slotBase_ge (k : Nat) : 0x2000 ≤ slotBase k := by unfold slotBase; omega

theorem fwVerify_writeRec (k : Nat) : fwVerify (writeRec s slot trial boots) k = fwVerify s k := by
  have hfuses : (writeRec s slot trial boots).fuses = s.fuses := rfl
  unfold fwVerify
  dsimp only
  rw [hfuses, flashRead_writeRec _ _ _ _ _ (slotBase_ge k), flashRead_writeRec _ _ _ _ _ (by have := slotBase_ge k; omega)]

theorem fwOfSlot_writeRec (k : Nat) (b : Bool) : fwOfSlot (writeRec s slot trial boots) k b = fwOfSlot s k b := by
  unfold fwOfSlot
  rw [flashRead_writeRec _ _ _ _ _ (slotBase_ge k)]

end

theorem bootRecAt_slot_le {s : State} {k : Nat} {r : BootRec} (h : bootRecAt s k = some r) : r.slot ≤ 1 := by
  unfold bootRecAt at h
  dsimp only at h
  split at h
  · rw [← Option.some.inj h]
    exact Nat.le_of_lt_succ (Nat.mod_lt _ (by decide))
  · cases h

theorem currentRec_slot_le {s : State} {k : Nat} {r : BootRec} (h : currentRec s = some (k, r)) : r.slot ≤ 1 := by
  unfold currentRec at h
  split at h
  next hr hq =>
    split at h <;> obtain ⟨-, rfl⟩ := Prod.mk.inj (Option.some.inj h)
    · exact bootRecAt_slot_le hq
    · exact bootRecAt_slot_le hr
  next hr _ => obtain ⟨-, rfl⟩ := Prod.mk.inj (Option.some.inj h); exact bootRecAt_slot_le hr
  next _ hr => obtain ⟨-, rfl⟩ := Prod.mk.inj (Option.some.inj h); exact bootRecAt_slot_le hr
  next => cases h

/-- A boot record names slot 0 or slot 1 (Table 19.2). -/
theorem recNow_slot_le (s : State) : (recNow s).slot ≤ 1 := by
  unfold recNow
  cases h : currentRec s with
  | none => exact Nat.zero_le _
  | some e => exact currentRec_slot_le h

/-! ### The choice of the boot ROM (R460) -/

/-- The slot tried first, after the record writes of a boot on trial. -/
def firstSlot (s : State) : State × Nat :=
  if (recNow s).trial then
    (if 2 ≤ (recNow s).trialBoots then (writeRec s (1 - (recNow s).slot) false 0, 1 - (recNow s).slot)
     else (writeRec s (recNow s).slot true ((recNow s).trialBoots + 1), (recNow s).slot))
  else (s, (recNow s).slot)

theorem firstSlot_slot_le (s : State) : (firstSlot s).2 ≤ 1 := by
  have := recNow_slot_le s
  unfold firstSlot
  split
  · split
    · exact Nat.sub_le ..
    · exact this
  · exact this

theorem fwVerify_firstSlot (s : State) (k : Nat) : fwVerify (firstSlot s).1 k = fwVerify s k := by
  unfold firstSlot
  split
  · split <;> exact fwVerify_writeRec ..
  · rfl

theorem firstSlot_rest (s : State) : ∃ F, (firstSlot s).1 = { s with flash := F } := by
  unfold firstSlot
  split
  · split
    · exact ⟨_, rfl⟩
    · exact ⟨_, rfl⟩
  · exact ⟨_, rfl⟩

theorem selectFw_eq (s : State) : selectFw s =
    let u := (firstSlot s).1
    let k := (firstSlot s).2
    if fwVerify u k = stOk then { u with boot := { u.boot with fw := some (fwOfSlot u k (recNow u).trial) } }
    else if fwVerify u (1 - k) = stOk then
      let w := writeRec u (1 - k) false 0
      { w with boot := { w.boot with fw := some (fwOfSlot w (1 - k) false) } }
    else { u with boot := { u.boot with fw := none } } := rfl

theorem selectFw_rest (s : State) : ∃ F o, selectFw s = { s with flash := F, boot := { s.boot with fw := o } } := by
  obtain ⟨F, hrest⟩ := firstSlot_rest s
  rw [selectFw_eq]
  dsimp only
  generalize (firstSlot s).1 = u at hrest ⊢
  subst hrest
  split
  · exact ⟨_, _, rfl⟩
  · split
    · obtain ⟨G, hw, -⟩ := writeRec_rest { s with flash := F } (1 - (firstSlot s).2) false 0
      rw [hw]
      exact ⟨_, _, rfl⟩
    · exact ⟨_, _, rfl⟩

/-- Firmware that runs was verified (R460). -/
theorem selectFw_verified {s : State} {f : Firmware} (h : (selectFw s).boot.fw = some f) : fwVerify s f.slot = stOk := by
  rw [selectFw_eq] at h
  dsimp only at h
  split at h
  next hk => rw [← Option.some.inj h, ← fwVerify_firstSlot]; exact hk
  next =>
    split at h
    next hk => rw [← Option.some.inj h, ← fwVerify_firstSlot]; exact hk
    next => cases h

theorem selectFw_none {s : State} (h0 : fwVerify s 0 ≠ stOk) (h1 : fwVerify s 1 ≠ stOk) : (selectFw s).boot.fw = none := by
  have hno : ∀ k, k ≤ 1 → ¬ fwVerify (firstSlot s).1 k = stOk := fun k hk => by
    rw [fwVerify_firstSlot]
    rcases Nat.le_one_iff_eq_zero_or_eq_one.mp hk with rfl | rfl
    · exact h0
    · exact h1
  rw [selectFw_eq]
  dsimp only
  rw [if_neg (hno _ (firstSlot_slot_le s)), if_neg (hno _ (Nat.sub_le ..))]

/-- Off trial the record's slot runs where it verifies, else the other, which the record then names (R460). -/
theorem selectFw_settled {s : State} (h : (recNow s).trial = false) :
    let k := (recNow s).slot
    (selectFw s).boot.fw = (if fwVerify s k = stOk then some (fwOfSlot s k false)
      else if fwVerify s (1 - k) = stOk then some (fwOfSlot s (1 - k) false) else none) ∧
    (selectFw s).flash = (if fwVerify s k = stOk ∨ fwVerify s (1 - k) ≠ stOk then s.flash else (writeRec s (1 - k) false 0).flash) := by
  have hfirst : firstSlot s = (s, (recNow s).slot) := if_neg (by rw [h]; decide)
  rw [selectFw_eq, hfirst]
  dsimp only
  rw [h]
  by_cases hk : fwVerify s (recNow s).slot = stOk
  · rw [if_pos hk, if_pos hk, if_pos (Or.inl hk)]
    exact ⟨rfl, rfl⟩
  · rw [if_neg hk, if_neg hk]
    by_cases hj : fwVerify s (1 - (recNow s).slot) = stOk
    · rw [if_pos hj, if_pos hj, if_neg (by rw [not_or, not_not]; exact ⟨hk, hj⟩), fwOfSlot_writeRec]
      exact ⟨rfl, rfl⟩
    · rw [if_neg hj, if_neg hj, if_pos (Or.inr hj)]
      exact ⟨rfl, rfl⟩

end Sys2Proof.Machine
end

section
/-!
PROOFS. The start of a boot and power-on reset (O57): RESET_N_RISE, PWROK and BOOT_STOP (R435 to R438, R460, R461, R484, R495).
-/
namespace Sys2Proof.Machine

open Sys2Proof

/-- `t` is the device of `s` at the start of a boot (R436, R438, R460, R461, R484). -/
def BootStarts (s t : State) (warm : Bool) (p : Fin 4) : Prop :=
  t.boot.resetN = true ∧ t.boot.coldWindow = false ∧ t.boot.warm = warm ∧ t.boot.complete = false ∧ t.boot.faultN = true ∧
    t.boot.update = none ∧ t.boot.attest = none ∧ t.boot.profsel = p ∧ t.boot.profileChoice = none ∧
    t.boot.warmPending = false ∧ t.boot.xspi = .octal ∧ t.boot.xspiOps = [.softReset, .readSfdp, .toOctal] ∧
    t.boot.profileActive = (profileFor s (if warm = true then s.boot.profileChoice else none) p).getD s.boot.profileActive ∧
    t.fuses = s.fuses ∧
    (s.fuses.ok = false → t.boot.stage = 0x02#8 ∧ t.boot.fw = none ∧ t.flash = s.flash) ∧
    (s.fuses.ok = true →
      (∀ f, t.boot.fw = some f → fwVerify s f.slot = stOk ∧ t.boot.stage = 0x05#8) ∧
      (fwVerify s 0 ≠ stOk → fwVerify s 1 ≠ stOk → t.boot.fw = none ∧ t.boot.stage = 0x04#8) ∧
      ((recNow s).trial = false →
        let k := (recNow s).slot
        t.boot.fw = (if fwVerify s k = stOk then some (fwOfSlot s k false)
          else if fwVerify s (1 - k) = stOk then some (fwOfSlot s (1 - k) false) else none) ∧
        t.flash = (if fwVerify s k = stOk ∨ fwVerify s (1 - k) ≠ stOk then s.flash else (writeRec s (1 - k) false 0).flash)))

/-! ### What a boot reads is the flash and the fuses -/

section
variable {s u : State} (hflash : u.flash = s.flash)
include hflash

theorem flashRead_congr (a n : Nat) : flashRead u a n = flashRead s a n := by unfold flashRead; rw [hflash]

theorem currentRec_congr : currentRec u = currentRec s := by
  unfold currentRec bootRecAt
  simp only [flashRead_congr hflash]

theorem recNow_congr : recNow u = recNow s := by unfold recNow; rw [currentRec_congr hflash]

theorem writeRec_flash_congr (k : Nat) (b : Bool) (n : Nat) : (writeRec u k b n).flash = (writeRec s k b n).flash := by
  unfold writeRec
  dsimp only
  rw [currentRec_congr hflash, recNow_congr hflash, hflash]

theorem fwOfSlot_congr (k : Nat) (b : Bool) : fwOfSlot u k b = fwOfSlot s k b := by unfold fwOfSlot; rw [flashRead_congr hflash]

theorem fwVerify_congr (hfuses : u.fuses = s.fuses) (k : Nat) : fwVerify u k = fwVerify s k := by
  unfold fwVerify
  simp only [flashRead_congr hflash, hfuses]

theorem profileFor_congr (choice : Option Nat) (p : Nat) : profileFor u choice p = profileFor s choice p := by
  have hvalid : profileValid u = profileValid s := funext fun q => by
    unfold profileValid profileOf
    simp only [flashRead_congr hflash]
  unfold profileFor
  rw [hvalid]

theorem bootStarts_congr (hfuses : u.fuses = s.fuses) (hboot : u.boot = s.boot) {t : State} {warm : Bool} {p : Fin 4}
    (h : BootStarts u t warm p) : BootStarts s t warm p := by
  unfold BootStarts at h ⊢
  simp only [hfuses, hboot, profileFor_congr hflash, recNow_congr hflash, fwVerify_congr hflash hfuses, fwOfSlot_congr hflash,
    writeRec_flash_congr hflash, hflash] at h
  exact h

end

/-! ### The start of a boot -/

section
variable (s : State) (p : Fin 4) (warm : Bool)

theorem startBoot_frame : { startBoot s p warm with boot := s.boot, flash := [] } = { s with flash := [] } := by
  obtain ⟨F, o, hrest⟩ := selectFw_rest s
  unfold startBoot
  dsimp only
  split
  · rw [hrest]
  · rfl

theorem startBoot_starts : BootStarts s (startBoot s p warm) warm p := by
  cases hok : s.fuses.ok with
  | false =>
    unfold startBoot BootStarts
    dsimp only
    rw [hok, if_neg (by decide : ¬ false = true)]
    exact ⟨rfl, rfl, rfl, rfl, rfl, rfl, rfl, rfl, rfl, rfl, rfl, rfl, rfl, rfl, fun _ => ⟨by rw [hok]; rfl, rfl, rfl⟩, nofun⟩
  | true =>
    obtain ⟨F, o, hrest⟩ := selectFw_rest s
    have hverified := fun f => selectFw_verified (s := s) (f := f)
    have hnone := selectFw_none (s := s)
    have hsettled := selectFw_settled (s := s)
    unfold startBoot BootStarts
    dsimp only
    rw [hok, if_pos rfl]
    rw [hrest] at hverified hnone hsettled ⊢
    dsimp only at hverified hnone hsettled ⊢
    refine ⟨rfl, rfl, rfl, rfl, rfl, rfl, rfl, rfl, rfl, rfl, rfl, rfl, rfl, rfl, nofun,
      fun _ => ⟨fun f hf => ⟨hverified f hf, ?_⟩, fun h0 h1 => ⟨hnone h0 h1, ?_⟩, hsettled⟩⟩
    · rw [hok, hf]
      rfl
    · rw [hok, hnone h0 h1]
      rfl

/-- RESET_N_RISE that starts a boot keeps everything but the boot state, the flash's boot records and the test registers (R435, R496). -/
theorem resetUp_starts (hp : s.boot.pwrok = true) (hr : s.boot.resetN = false) : BootStarts s (resetUp s p) false p ∧
    (resetUp s p).tap = tapTestsOff s.tap ∧ { resetUp s p with boot := s.boot, tap := s.tap, flash := [] } = { s with flash := [] } := by
  have hup : resetUp s p = startBoot { s with tap := tapTestsOff s.tap } p false :=
    if_neg (by simp only [hp, hr, not_true_eq_false, false_or, Bool.false_eq_true, not_false_eq_true])
  have hframe := startBoot_frame { s with tap := tapTestsOff s.tap } p false
  have hstarts := startBoot_starts { s with tap := tapTestsOff s.tap } p false
  rw [hup]
  generalize startBoot _ _ _ = t at hframe hstarts
  refine ⟨bootStarts_congr (s := s) (u := { s with tap := tapTestsOff s.tap }) rfl rfl rfl hstarts, (congrArg State.tap hframe :), ?_⟩
  have hblank := congrArg (fun u : State => { u with tap := s.tap }) hframe
  exact hblank

theorem resetUp_nothing (h : s.boot.pwrok = false ∨ s.boot.resetN = true) : resetUp s p = s :=
  if_pos (h.imp_left (fun hp => by rw [hp]; decide))

end

end Sys2Proof.Machine
end

section
/-!
PROOFS. Warm reset (O57): what it keeps of each block and what it drops (R197, R435, R440, R503, Table 18.5).
-/
namespace Sys2Proof.Machine

open Sys2Proof

/-! ### Operations that change one table -/

/-- Operations in turn that each change the bays alone change the bays alone. -/
theorem foldl_bays {α : Type} {g : State → α → State} (h : ∀ u e, ∃ B, g u e = { u with bays := B }) (l : List α) (s : State) :
    ∃ B, l.foldl g s = { s with bays := B } := by
  induction l generalizing s with
  | nil => exact ⟨s.bays, rfl⟩
  | cons a rest ih =>
    obtain ⟨B, hB⟩ := h s a
    obtain ⟨C, hC⟩ := ih (g s a)
    exact ⟨C, by rw [List.foldl_cons, hC, hB]⟩

theorem countLoan_rest (s : State) (b : Nat) (g : Group) : ∃ B, countLoan s b g = { s with bays := B } := by
  unfold countLoan
  cases g.lender with
  | none => exact ⟨s.bays, rfl⟩
  | some l => exact ⟨_, rfl⟩

theorem haltWork_rest (s : State) : ∃ B Y, haltWork s = { s with
    cores := s.cores.map (fun e => (e.1, stopCore e.2)), mesh := [], spills := [], yealms := Y, bays := B } := by
  obtain ⟨B, hB⟩ := foldl_bays (fun u (e : Nat × Bay) => foldl_bays (fun v g => countLoan_rest v e.1 g) e.2.groups u) s.bays s
  unfold haltWork
  dsimp only
  rw [hB]
  exact ⟨_, _, rfl⟩

/-- A table changed entry by entry, each key below `n` once. -/
theorem tget_iter [DecidableEq α] {d : α} {G : Nat → Tab α → Tab α} {f : Nat → α → α}
    (hsorted : ∀ k t, tsorted none t = true → tsorted none (G k t) = true)
    (hG : ∀ k t j, tsorted none t = true → tget d (G k t) j = if k = j then f j (tget d t j) else tget d t j)
    {t : Tab α} (ht : tsorted none t = true) (n : Nat) :
    tsorted none (iter G n t) = true ∧ ∀ j, tget d (iter G n t) j = if j < n then f j (tget d t j) else tget d t j := by
  induction n with
  | zero => exact ⟨ht, fun j => (if_neg (Nat.not_lt_zero j)).symm⟩
  | succ n ih =>
    obtain ⟨hs, hget⟩ := ih
    refine ⟨hsorted n _ hs, fun j => ?_⟩
    rw [iter, hG _ _ _ hs, hget]
    by_cases hj : n = j
    · subst hj
      rw [if_pos rfl, if_neg (Nat.lt_irrefl n), if_pos (Nat.lt_succ_self n)]
    · rw [if_neg hj]
      exact if_congr (by omega) rfl rfl

/-- An entry written for each key. -/
theorem tget_iter_tput [DecidableEq α] {d : α} (f : Nat → α → α) {t : Tab α} (ht : tsorted none t = true) (n : Nat) :
    let u := iter (fun k t => tput d t k (f k (tget d t k))) n t
    tsorted none u = true ∧ ∀ j, tget d u j = if j < n then f j (tget d t j) else tget d t j := by
  refine tget_iter (fun k t h => tsorted_tput d t none k _ h nofun) (fun k t j h => ?_) ht n
  by_cases hj : k = j
  · subst hj
    rw [if_pos rfl, tget_tput_sorted d t k _ h]
  · rw [if_neg hj, tget_tput_other d t _ hj]

/-- A core after a warm reset (R77, R197). -/
def resetCore (x : Core) : Core := { testedCore x with rng := { (testedCore x).rng with coarse := true } }

theorem iter_modCore (f : Nat → Core → Core) (n : Nat) (s : State) : iter (fun c s => modCore s c (f c)) n s =
    { s with cores := iter (fun c C => tput coreD C c (f c (tget coreD C c))) n s.cores } := by
  induction n with
  | zero => rfl
  | succ n ih => rw [iter, ih]; rfl

theorem coreOf_iter_modCore (f : Nat → Core → Core) (n : Nat) {s : State} (hs : tsorted none s.cores = true) (c : Nat) :
    coreOf (iter (fun c s => modCore s c (f c)) n s) c = if c < n then f c (coreOf s c) else coreOf s c := by
  obtain ⟨-, hget⟩ := tget_iter_tput (d := coreD) f hs n
  rw [iter_modCore]
  exact hget c

/-- Cores after a warm reset. -/
def resetCores (s : State) : State := iter (fun c s => modCore s c resetCore) 64 (haltWork s)

/-- Ridge slices after a warm reset: no line, no error, the counters kept (R503). -/
def resetSlices (s : State) : State := iter (fun i s => setSlice s i { sliceOf s i with lines := [], errors := [] }) 48 s

/-- Ports after a warm reset: down, the counters kept (R503). -/
def resetPorts (s : State) : State := iter (fun p s => setPort s p { portD with counters := (portOf s p).counters }) 8 s

/-- TDM ports after a warm reset: stopped, the counters kept (R503). -/
def resetTdm (s : State) : State := iter (fun n s => setTdm s n { tdmD with counters := (tdmOf s n).counters }) 4 s

theorem resetCores_rest (s : State) : ∃ C B Y, resetCores s =
    { s with cores := C, mesh := [], spills := [], yealms := Y, bays := B } := by
  obtain ⟨B, Y, hhalt⟩ := haltWork_rest s
  unfold resetCores
  rw [iter_modCore (fun _ => resetCore), hhalt]
  exact ⟨_, B, Y, rfl⟩

theorem resetSlices_rest (s : State) : ∃ S, resetSlices s = { s with slices := S } := by
  unfold resetSlices
  induction 48 with
  | zero => exact ⟨_, rfl⟩
  | succ n ih => obtain ⟨S, h⟩ := ih; rw [iter, h]; exact ⟨_, rfl⟩

theorem resetPorts_rest (s : State) : ∃ P, resetPorts s = { s with ports := P } := by
  unfold resetPorts
  induction 8 with
  | zero => exact ⟨_, rfl⟩
  | succ n ih => obtain ⟨P, h⟩ := ih; rw [iter, h]; exact ⟨_, rfl⟩

theorem resetTdm_rest (s : State) : ∃ T, resetTdm s = { s with tdm := T } := by
  unfold resetTdm
  induction 4 with
  | zero => exact ⟨_, rfl⟩
  | succ n ih => obtain ⟨T, h⟩ := ih; rw [iter, h]; exact ⟨_, rfl⟩

theorem resetBlocks_eq (s : State) : resetBlocks s =
    let u := resetTdm (resetPorts (resetSlices (resetCores s)))
    { u with
      conns := [], mail := [], mailLast := 63, unanswered := [], snapshots := [], loads := [], stores := [], units := []
      scrubFound := [], resets := [], fault := none, fatalRun := 0, lastReinit := none
      pdm := { outs := [], chunk := [], levels := [], ambient := [], clips := u.pdm.clips, clockLost := u.pdm.clockLost }
      power := { u.power with
        state := .run, bias := biasOf .run, trans := none, wakeArm := 0, alarm := false, alarmTicks := 0, coolSince := none } } := rfl

theorem resetBlocks_rest (s : State) : ∃ B Y S P T D, resetBlocks s = { s with
    cores := (resetCores s).cores, mesh := [], spills := [], yealms := Y, bays := B, slices := S, ports := P, tdm := T
    conns := [], mail := [], mailLast := 63, unanswered := [], snapshots := [], loads := [], stores := [], units := []
    scrubFound := [], resets := [], fault := none, fatalRun := 0, lastReinit := none, pdm := D
    power := { s.power with
      state := .run, bias := biasOf .run, trans := none, wakeArm := 0, alarm := false, alarmTicks := 0, coolSince := none } } := by
  rw [resetBlocks_eq]
  obtain ⟨C, B, Y, hcores⟩ := resetCores_rest s
  generalize resetCores s = u at hcores ⊢
  obtain ⟨S, hslices⟩ := resetSlices_rest u
  generalize resetSlices u = v at hslices ⊢
  obtain ⟨P, hports⟩ := resetPorts_rest v
  generalize resetPorts v = w at hports ⊢
  obtain ⟨T, htdm⟩ := resetTdm_rest w
  generalize resetTdm w = x at htdm ⊢
  subst htdm hports hslices hcores
  exact ⟨B, Y, S, P, T, _, rfl⟩

theorem haltWork_cores (s : State) : (haltWork s).cores = mapTab (fun _ => stopCore) s.cores := by
  obtain ⟨B, Y, hhalt⟩ := haltWork_rest s
  rw [hhalt]
  rfl

theorem coreOf_resetCores {s : State} (hs : tsorted none s.cores = true) {c : Nat} (hc : c < 64) :
    ∃ x, coreOf (resetCores s) c = resetCore x := by
  have hsorted : tsorted none (haltWork s).cores = true := by rw [haltWork_cores]; exact tsorted_mapTab hs
  have hcore := coreOf_iter_modCore (fun _ => resetCore) 64 hsorted c
  rw [if_pos hc] at hcore
  exact ⟨_, hcore⟩

/-! ### The warm reset -/

/-- `t` is the device of `s` after a warm reset (R197, R435, R440, Table 18.5). -/
def WarmStarts (s t : State) (p : Fin 4) : Prop :=
  BootStarts s t true p ∧ t.conns = [] ∧ t.mail = [] ∧ t.unanswered = [] ∧ t.snapshots = [] ∧
    t.loads = [] ∧ t.stores = [] ∧ t.units = [] ∧ t.fault = none ∧ t.mesh = [] ∧ t.spills = [] ∧
    t.power.state = .run ∧ t.power.bias = biasOf .run ∧ t.power.trans = none ∧ t.power.alarm = false ∧
    (tsorted none s.cores = true → ∀ c, c < 64 →
      (coreOf t c).rng.coarse = true ∧ (coreOf t c).spad = [] ∧ (coreOf t c).acc = [] ∧ (coreOf t c).ctx = none) ∧
    t.power.counters = cntAdd s.power.counters 4 32 1 ∧ t.sessions = s.sessions ∧ t.builds = s.builds ∧
    t.adapters = s.adapters ∧ t.thatch = s.thatch ∧ t.channels = s.channels ∧ t.log = s.log ∧ t.latch = s.latch ∧
    t.keeps = s.keeps ∧ t.gpCounters = s.gpCounters ∧ t.tap = s.tap ∧ t.wire = s.wire

theorem warmReset_starts (s : State) (p : Fin 4) : WarmStarts s (warmReset s p) p := by
  obtain ⟨B, Y, S, P, T, D, hrest⟩ := resetBlocks_rest s
  have hcore : tsorted none s.cores = true → ∀ c, c < 64 → ∃ x, tget coreD (resetCores s).cores c = resetCore x :=
    fun hs c hc => coreOf_resetCores hs hc
  generalize (resetCores s).cores = C at hrest hcore
  have hframe := startBoot_frame (resetBlocks s) p true
  have hstarts := bootStarts_congr (s := s) (by rw [hrest]) (by rw [hrest]) (by rw [hrest]) (startBoot_starts (resetBlocks s) p true)
  have hwarm : warmReset s p = powCnt (startBoot (resetBlocks s) p true) 4 := rfl
  rw [hwarm]
  generalize startBoot (resetBlocks s) p true = t at hframe hstarts ⊢
  rw [hrest] at hframe
  have ht : t = _ := congrArg (fun u : State => { u with boot := t.boot, flash := t.flash }) hframe
  generalize t.boot = b at ht
  generalize t.flash = F at ht
  subst ht
  refine ⟨hstarts, rfl, rfl, rfl, rfl, rfl, rfl, rfl, rfl, rfl, rfl, rfl, rfl, rfl, rfl, fun hs c hc => ?_, rfl, rfl, rfl, rfl, rfl, rfl, rfl,
    rfl, rfl, rfl, rfl, rfl⟩
  obtain ⟨x, hx⟩ := hcore hs c hc
  change (tget coreD C c).rng.coarse = true ∧ (tget coreD C c).spad = [] ∧ (tget coreD C c).acc = [] ∧ (tget coreD C c).ctx = none
  rw [hx]
  exact ⟨rfl, rfl, rfl, rfl⟩

end Sys2Proof.Machine
end

section
/-!
PROOFS. BOOT_COMPLETE (O57): the records and bays of the profile, the cores and channels, and the firmware that is confirmed (R197, R218,
R436, R441, R453, R462).
-/
namespace Sys2Proof.Machine

open Sys2Proof

theorem recoverAll_empty {s : State} (h : s.sessions = []) : recoverAll s = { s with
    sessLost := 0, yealms := [], bays := []
    builds := s.builds.map (fun b => { b with copies := b.copies.filter (fun c => c.kind < 2) }) } := by
  unfold recoverAll
  dsimp only
  rw [h]
  rfl

theorem profRecs_rest (es : List (Nat × Nat × List Byte)) (s : State) : ∃ R, profRecs es s = { s with recs := R } := by
  unfold profRecs
  generalize fixedRecs = l
  suffices h : ∀ (g : Nat × Nat → CfgRec) (T : Tab CfgRec),
      ∃ R, l.foldl (fun s r => setRec s r.1 r.2 (g r)) { s with recs := T } = { s with recs := R } from h _ _
  intro g
  induction l with
  | nil => exact fun T => ⟨T, rfl⟩
  | cons r rest ih => exact fun T => ih _

/-! ### Cores and channels -/

/-- Cores in service leave coarse mode (R197). -/
def bootCores (s : State) : State := iter (fun c s => if fenced s (uCore c) then s
  else modCore s c (fun x => { x with rng := { x.rng with coarse := false } })) 64 s

/-- A core out of coarse mode where it is in service. -/
def coarseEnded (s : State) (c : Nat) (x : Core) : Core :=
  if fenced s (uCore c) then x else { x with rng := { x.rng with coarse := false } }

theorem fenced_congr {s t : State} (h : t.units = s.units) (u : W32) : fenced t u = fenced s u := by
  unfold fenced unitOf
  rw [h]

/-- The table of cores after one core's turn. -/
def coarseStep (s : State) (c : Nat) (T : Tab Core) : Tab Core :=
  if fenced s (uCore c) then T else tput coreD T c (coarseEnded s c (tget coreD T c))

theorem coarseStep_spec (s : State) (k : Nat) (T : Tab Core) (j : Nat) (hT : tsorted none T = true) :
    tget coreD (coarseStep s k T) j = if k = j then coarseEnded s j (tget coreD T j) else tget coreD T j := by
  unfold coarseStep
  by_cases hj : k = j
  · subst hj
    rw [if_pos rfl]
    cases hf : fenced s (uCore k) with
    | true => rw [if_pos rfl, coarseEnded, hf, if_pos rfl]
    | false => rw [if_neg (by decide), tget_tput_sorted coreD T k _ hT]
  · rw [if_neg hj]
    split
    · rfl
    · exact tget_tput_other coreD T _ hj

theorem coarseStep_sorted (s : State) (k : Nat) (T : Tab Core) (hT : tsorted none T = true) : tsorted none (coarseStep s k T) = true := by
  unfold coarseStep
  split
  · exact hT
  · exact tsorted_tput coreD T none k _ hT nofun

theorem iter_coarseStep (s : State) (n : Nat) : iter (fun c s => if fenced s (uCore c) then s
    else modCore s c (fun x => { x with rng := { x.rng with coarse := false } })) n s =
      { s with cores := iter (coarseStep s) n s.cores } := by
  induction n with
  | zero => rfl
  | succ n ih =>
    rw [iter, ih, iter, coarseStep]
    generalize iter (coarseStep s) n s.cores = T
    have hf : fenced { s with cores := T } (uCore n) = fenced s (uCore n) := fenced_congr rfl _
    cases hn : fenced s (uCore n) with
    | true => rw [hf, hn, if_pos rfl, if_pos rfl]
    | false =>
      rw [hf, hn, if_neg (by decide), if_neg (by decide), coarseEnded, hn, if_neg (by decide)]
      rfl

theorem bootCores_rest (s : State) : ∃ C, bootCores s = { s with cores := C } ∧ (tsorted none s.cores = true →
    ∀ c, tget coreD C c = if c < 64 then coarseEnded s c (coreOf s c) else coreOf s c) := by
  unfold bootCores
  generalize 64 = n
  exact ⟨_, iter_coarseStep s n, fun hs => (tget_iter (coarseStep_sorted s) (coarseStep_spec s) hs n).2⟩

/-- A channel after its forced recalibration (R218). -/
def recalibrated (now : Nat) (x : Channel) : Channel := { x with recalAt := now, counters := cntAdd x.counters 5 32 1 }

/-- The table of channels after one channel's recalibration. -/
def recalStep (now k : Nat) (T : Tab Channel) : Tab Channel :=
  let U := tput channelD T k { tget channelD T k with recalAt := now }
  tput channelD U k { tget channelD U k with counters := cntAdd (tget channelD U k).counters 5 32 1 }

theorem recalStep_spec (now k : Nat) (T : Tab Channel) (j : Nat) (hT : tsorted none T = true) :
    tget channelD (recalStep now k T) j = if k = j then recalibrated now (tget channelD T j) else tget channelD T j := by
  unfold recalStep
  dsimp only
  by_cases hj : k = j
  · subst hj
    rw [if_pos rfl, tget_tput_sorted channelD _ k _ (tsorted_tput channelD T none k _ hT nofun), tget_tput_sorted channelD T k _ hT]
    rfl
  · rw [if_neg hj, tget_tput_other channelD _ _ hj, tget_tput_other channelD _ _ hj]

theorem recalStep_sorted (now k : Nat) (T : Tab Channel) (hT : tsorted none T = true) : tsorted none (recalStep now k T) = true :=
  tsorted_tput channelD _ none k _ (tsorted_tput channelD T none k _ hT nofun) nofun

theorem iter_recalStep (s : State) (n : Nat) :
    iter (fun ch s => channelCnt (setChannel s ch { channelOf s ch with recalAt := s.now }) ch 5 32 1) n s =
      { s with channels := iter (recalStep s.now) n s.channels } := by
  induction n with
  | zero => rfl
  | succ n ih =>
    rw [iter, ih, iter]
    generalize iter (recalStep s.now) n s.channels = T
    rfl

theorem exitChannels_rest (s : State) : ∃ T, exitChannels s = { s with channels := T } ∧ (tsorted none s.channels = true →
    ∀ ch, tget channelD T ch = if ch < 48 then recalibrated s.now (channelOf s ch) else channelOf s ch) := by
  unfold exitChannels
  generalize 48 = n
  exact ⟨_, iter_recalStep s n, fun hs => (tget_iter (recalStep_sorted s.now) (recalStep_spec s.now) hs n).2⟩

end Sys2Proof.Machine
end

section
/-!
PROOFS. BOOT_COMPLETE (O57): the bays of the profile and the whole of the boot's last step (R271, R436, R453, R462).
-/
namespace Sys2Proof.Machine

open Sys2Proof

/-! ### Bays of the profile -/

/-- A bay with nothing bound and nothing to do. -/
def EmptyBay (x : Bay) : Prop := x.order = [] ∧ x.plans = [] ∧ x.todo = []

theorem gateCores_run (s : State) (m : Nat) (h : s.power.state = .run) : gateCores s 0 m = s := by
  have hnone : maskBits 64 (0 - (0 &&& m)) = [] := by rw [Nat.zero_sub]; rfl
  unfold gateCores
  dsimp only
  rw [hnone, List.foldl_nil, if_neg (by rw [h]; decide)]

theorem makeBay_rest {s : State} (h : s.power.state = .run) (bs : List Byte) :
    ∃ B R, makeBay s bs = { s with bays := B, recs := R } ∧ (tfind B (fld bs 0 1)).isSome = true ∧
      (∀ j, fld bs 0 1 ≠ j → tfind B j = bayOf s j) ∧ ∀ x, tfind B (fld bs 0 1) = some x → EmptyBay x := by
  unfold makeBay modBay setRec
  dsimp only
  rw [gateCores_run]
  case h => exact h
  refine ⟨_, _, rfl, ?_, fun j hj => ?_, fun x hx => ?_⟩
  · rw [tfind_tmod, if_pos rfl, tfind_tins_same]
    rfl
  · rw [tfind_tmod, if_neg hj]
    exact tfind_tins_other _ _ hj
  · rw [tfind_tmod, if_pos rfl, tfind_tins_same] at hx
    rw [← Option.some.inj hx]
    exact ⟨rfl, rfl, rfl⟩

/-- The bay of an index exists, or the boot reports it skipped (R271). -/
def BayGiven (s : State) (i : Nat) : Prop := (bayOf s i).isSome = true ∨ bit s.boot.baysSkipped i = true

/-- `u` is `s` but for bays, all of them empty, their records and which were skipped. -/
def BaysMade (s u : State) : Prop :=
  (∃ B R k, u = { s with bays := B, recs := R, boot := { s.boot with baysSkipped := k } }) ∧ ∀ j x, bayOf u j = some x → EmptyBay x

theorem profileBay_made {s u : State} (hrun : s.power.state = .run) (h : BaysMade s u) (inst : Nat) (bs : List Byte) :
    BaysMade s (profileBay u inst bs) ∧ BayGiven (profileBay u inst bs) inst ∧ ∀ i, BayGiven u i → BayGiven (profileBay u inst bs) i := by
  obtain ⟨⟨B, R, k, hu⟩, hempty⟩ := h
  unfold profileBay
  split
  next hc =>
    obtain ⟨C, Q, hmake, hnew, hold, hbay⟩ := makeBay_rest (s := u) (by rw [hu]; exact hrun) bs
    rw [hmake]
    rw [hc.1] at hnew hold hbay
    refine ⟨⟨⟨C, Q, k, by rw [hu]⟩, fun j x hx => ?_⟩, Or.inl hnew, fun i hi => ?_⟩
    · by_cases hj : inst = j
      · subst hj; exact hbay x hx
      · exact hempty j x ((hold j hj).symm.trans hx)
    · by_cases hj : inst = i
      · subst hj; exact Or.inl hnew
      · exact hi.imp_left fun h => (congrArg Option.isSome (hold i hj)).trans h
  next =>
    have hbit : ∀ i, bit (u.boot.baysSkipped ||| 2 ^ inst) i = (bit u.boot.baysSkipped i || decide (inst = i)) := fun i => by
      unfold bit
      rw [Nat.testBit_or, Nat.testBit_two_pow]
    refine ⟨⟨⟨B, R, _, by rw [hu]⟩, hempty⟩, Or.inr ((hbit inst).trans ?_), fun i hi => hi.imp_right fun h => (hbit i).trans ?_⟩
    · rw [decide_eq_true rfl, Bool.or_true]
    · rw [h, Bool.true_or]

theorem profileBays_made {s : State} (hrun : s.power.state = .run) (l : List (Nat × Nat × List Byte)) {u : State} (h : BaysMade s u) :
    let t := l.foldl (fun s e => profileBay s e.2.1 e.2.2) u
    BaysMade s t ∧ (∀ e, e ∈ l → BayGiven t e.2.1) ∧ ∀ i, BayGiven u i → BayGiven t i := by
  induction l generalizing u with
  | nil => exact ⟨h, nofun, fun _ => id⟩
  | cons a rest ih =>
    obtain ⟨hmade, hnew, hold⟩ := profileBay_made hrun h a.2.1 a.2.2
    obtain ⟨hall, hserved, hkeep⟩ := ih hmade
    refine ⟨hall, fun e he => ?_, fun i hi => hkeep i (hold i hi)⟩
    rcases List.mem_cons.mp he with rfl | he
    · exact hkeep _ hnew
    · exact hserved e he

theorem mem_insertKey {key : α → Nat} {x y : α} {l : List α} : y ∈ insertKey key x l ↔ y = x ∨ y ∈ l := by
  induction l with
  | nil => rw [insertKey, List.mem_singleton]; exact (or_iff_left List.not_mem_nil).symm
  | cons a rest ih =>
    rw [insertKey]
    split
    · exact List.mem_cons
    · rw [List.mem_cons, ih, List.mem_cons, or_left_comm]

theorem mem_sortKey {key : α → Nat} {y : α} {l : List α} : y ∈ sortKey key l ↔ y ∈ l := by
  unfold sortKey
  induction l with
  | nil => rfl
  | cons a rest ih => rw [List.foldr_cons, mem_insertKey, ih, List.mem_cons]

/-! ### BOOT_COMPLETE -/

theorem confirmFw_rest {s : State} {f : Firmware} (hf : s.boot.fw = some f) : ∃ F Z, confirmFw s = { s with
    flash := F, fuses := Z, boot := { s.boot with fw := some { f with trial := false } } } ∧
      Z.counter = max s.fuses.counter f.secVersion := by
  unfold confirmFw
  rw [hf]
  dsimp only
  split
  · exact ⟨_, _, rfl, rfl⟩
  · exact ⟨_, _, rfl, rfl⟩

/-- Enabled ports train. -/
def bootPorts (s : State) : State :=
  iter (fun p s => if portEnabled s p then setPort s p { portOf s p with training := true } else s) 8 s

theorem bootPorts_rest (s : State) : ∃ P, bootPorts s = { s with ports := P } := by
  unfold bootPorts
  induction 8 with
  | zero => exact ⟨_, rfl⟩
  | succ n ih =>
    obtain ⟨P, h⟩ := ih
    rw [iter, h]
    split <;> exact ⟨_, rfl⟩

/-- Every channel is recalibrated by the boot of a warm reset (R218). -/
def bootChannels (s : State) : State := if s.boot.warm then exitChannels s else s

theorem bootChannels_rest (s : State) : ∃ T, bootChannels s = { s with channels := T } ∧ (tsorted none s.channels = true →
    ∀ ch, ch < 48 → tget channelD T ch = if s.boot.warm = true then recalibrated s.now (channelOf s ch) else channelOf s ch) := by
  unfold bootChannels
  split
  next h =>
    obtain ⟨T, hT, hget⟩ := exitChannels_rest s
    exact ⟨T, hT, fun hs ch hch => (hget hs ch).trans (if_pos hch)⟩
  next => exact ⟨_, rfl, fun _ _ _ => rfl⟩

/-- The device at the end of a boot, before the bays of its profile. -/
def bootBase (s : State) (es : List (Nat × Nat × List Byte)) : State :=
  let s := bootPorts (bootChannels (bootCores (profRecs es (recoverAll s))))
  { s with
    chunk := 0, t0 := s.now
    power := { s.power with state := .run, bias := biasOf .run, trans := none, capMw := fld (act s 0x40 0) 0 4 }
    boot := { s.boot with complete := true, stage := 0x08, faultN := false, baysSkipped := 0 } }

theorem bootDone_eq {s : State} {es : List (Nat × Nat × List Byte)} (hready : bootReady s = true)
    (hprof : profileOf s s.boot.profileActive = some es) : bootDone s =
      confirmFw ((sortKey (fun e => e.2.1) (es.filter (fun e => e.1 = 0x20))).foldl (fun s e => profileBay s e.2.1 e.2.2)
        (bootBase s es)) := by
  unfold bootDone
  rw [hready, hprof]
  unfold bootBase bootPorts bootChannels bootCores
  rfl

theorem bootDone_nothing {s : State} (h : bootReady s = false) : bootDone s = s := by
  unfold bootDone
  rw [h]

theorem bootBase_rest {s : State} (hsess : s.sessions = []) (es : List (Nat × Nat × List Byte)) :
    ∃ C R T P m, bootBase s es = { s with
      sessLost := 0, yealms := [], bays := [], recs := R, cores := C, channels := T, ports := P, chunk := 0, t0 := s.now
      builds := s.builds.map (fun b => { b with copies := b.copies.filter (fun c => c.kind < 2) })
      power := { s.power with state := .run, bias := biasOf .run, trans := none, capMw := m }
      boot := { s.boot with complete := true, stage := 0x08, faultN := false, baysSkipped := 0 } } ∧
      (tsorted none s.cores = true → ∀ c, c < 64 → tget coreD C c = coarseEnded s c (coreOf s c)) ∧
      (tsorted none s.channels = true → ∀ ch, ch < 48 →
        tget channelD T ch = if s.boot.warm = true then recalibrated s.now (channelOf s ch) else channelOf s ch) := by
  obtain ⟨R, hrecs⟩ := profRecs_rest es (recoverAll s)
  rw [recoverAll_empty hsess] at hrecs
  unfold bootBase
  rw [recoverAll_empty hsess]
  generalize profRecs es _ = u at hrecs ⊢
  obtain ⟨C, hcores, hcore⟩ := bootCores_rest u
  generalize bootCores u = v at hcores ⊢
  obtain ⟨T, hchannels, hchannel⟩ := bootChannels_rest v
  generalize bootChannels v = w at hchannels ⊢
  obtain ⟨P, hports⟩ := bootPorts_rest w
  generalize bootPorts w = x at hports ⊢
  have hended : ∀ c y, coarseEnded u c y = coarseEnded s c y := fun c y => by
    unfold coarseEnded
    rw [fenced_congr (s := s) (by rw [hrecs])]
  subst hports hchannels hcores hrecs
  refine ⟨C, R, T, P, _, rfl, fun hs c hc => ?_, hchannel⟩
  rw [hcore hs, if_pos hc, hended]
  rfl

end Sys2Proof.Machine
end

section
/-!
PROOFS. Resets and boots (O57), put together.
-/
namespace Sys2Proof.Machine

open Sys2Proof

/-- `t` is the device of `s` at the end of a boot with profile entries `es` and firmware `f` (R197, R218, R271, R436, R441, R453, R462). -/
def BootEnds (s t : State) (es : List (Nat × Nat × List Byte)) (f : Firmware) : Prop :=
  t.boot.complete = true ∧ t.boot.stage = 0x08#8 ∧ t.boot.faultN = false ∧
    t.boot.fw = some { f with trial := false } ∧ t.fuses.counter = max s.fuses.counter f.secVersion ∧ t.chunk = 0 ∧
    t.t0 = s.now ∧ t.power.state = .run ∧ t.power.bias = biasOf .run ∧ t.power.trans = none ∧
    (tsorted none s.cores = true → ∀ c, c < 64 → fenced s (uCore c) = false → (coreOf t c).rng.coarse = false) ∧
    (tsorted none s.channels = true → ∀ ch, ch < 48 → channelOf t ch = if s.boot.warm = true then
      { channelOf s ch with recalAt := s.now, counters := cntAdd (channelOf s ch).counters 5 32 1 } else channelOf s ch) ∧
    t.yealms = [] ∧ t.sessions = [] ∧
    (∀ e, e ∈ es → e.1 = 0x20 → (bayOf t e.2.1).isSome = true ∨ bit t.boot.baysSkipped e.2.1 = true) ∧
    (∀ j x, bayOf t j = some x → x.order = [] ∧ x.plans = [] ∧ x.todo = []) ∧
    (∀ b, b ∈ t.builds → b.copies.all (fun c => decide (c.kind < 2)) = true) ∧ t.thatch = s.thatch ∧ t.log = s.log ∧
    t.wire = s.wire

theorem bootDone_ends {s : State} {es : List (Nat × Nat × List Byte)} {f : Firmware} (hready : bootReady s = true)
    (hprof : profileOf s s.boot.profileActive = some es) (hfw : s.boot.fw = some f) (hsess : s.sessions = []) :
    BootEnds s (bootDone s) es f := by
  obtain ⟨C, R, T, P, m, hbase, hcore, hchannel⟩ := bootBase_rest hsess es
  rw [bootDone_eq hready hprof]
  generalize bootBase s es = u at hbase ⊢
  have hmade : BaysMade u u := ⟨⟨_, _, _, rfl⟩, fun j x hx => by rw [hbase] at hx; exact nomatch hx⟩
  obtain ⟨⟨⟨B, Q, k, hbays⟩, hempty⟩, hgiven, -⟩ :=
    profileBays_made (by rw [hbase]) (sortKey (fun e => e.2.1) (es.filter (fun e => e.1 = 0x20))) hmade
  generalize List.foldl _ u _ = v at hbays hempty hgiven ⊢
  obtain ⟨F, Z, hconfirm, hcount⟩ := confirmFw_rest (s := v) (f := f) (by rw [hbays, hbase]; exact hfw)
  rw [hconfirm]
  have hserved : ∀ e, e ∈ es → e.1 = 0x20 → BayGiven v e.2.1 := fun e he hid =>
    hgiven e (mem_sortKey.mpr (List.mem_filter.mpr ⟨he, decide_eq_true hid⟩))
  subst hbays hbase
  refine ⟨rfl, rfl, rfl, rfl, hcount, rfl, rfl, rfl, rfl, rfl, fun hs c hc hf => ?_, hchannel, rfl, hsess, hserved, hempty,
    fun b hb => ?_, rfl, rfl, rfl⟩
  · change (tget coreD C c).rng.coarse = false
    rw [hcore hs c hc, coarseEnded, hf, if_neg (by decide)]
  · obtain ⟨d, -, rfl⟩ := List.mem_map.mp hb
    exact List.all_eq_true.mpr fun c hc => (List.mem_filter.mp hc).2

section
variable {s : State} {p : Nat}

theorem trialTimeout_nothing (h : s.boot.fw = none ∨ s.boot.complete = true) : trialTimeout s p = s := by
  unfold trialTimeout
  rcases h with hfw | hc
  · rw [hfw]
  · split
    · exact if_neg fun ⟨_, _, _, hn⟩ => hn hc
    · rfl

variable {f : Firmware} (hf : s.boot.fw = some f)
include hf

theorem trialTimeout_settled (ht : f.trial = false) : trialTimeout s p = s := by
  unfold trialTimeout
  rw [hf]
  exact if_neg fun ⟨hn, _⟩ => Bool.false_ne_true (ht.symm.trans hn)

theorem trialTimeout_trial (ht : f.trial = true) (hp : s.boot.pwrok = true) (hr : s.boot.resetN = true)
    (hc : s.boot.complete = false) : trialTimeout s p = warmReset s p := by
  unfold trialTimeout
  rw [hf]
  exact if_pos ⟨ht, hp, hr, by rw [hc]; exact Bool.false_ne_true⟩

end

/-! ### The causes of a warm reset (R435, R439) -/

section
variable {s : State} {p : Fin 4} {ns : Nat}

theorem execWarmReset_short (h : ns < 1000) : execWarmReset (.resetN ns) p s = .next s := by
  unfold execWarmReset
  exact if_pos (.inr (.inr h))

section
variable (hp : s.boot.pwrok = true) (hr : s.boot.resetN = true) (h : 1000 ≤ ns)
include hp hr h

theorem resetPulse_counts : ¬ (¬ s.boot.pwrok = true ∨ ¬ s.boot.resetN = true ∨ ns < 1000) := by
  simp only [hp, hr, not_true_eq_false, false_or]
  omega

theorem execWarmReset_forbidden (h' : ns < 10000) : execWarmReset (.resetN ns) p s = .fault .resetPulseForbidden := by
  unfold execWarmReset
  exact (if_neg (resetPulse_counts hp hr h)).trans (if_pos h')

theorem execWarmReset_long (h' : 10000 ≤ ns) : execWarmReset (.resetN ns) p s = .next (warmReset s p) := by
  unfold execWarmReset
  exact (if_neg (resetPulse_counts hp hr h)).trans (if_neg (Nat.not_lt.mpr h'))

end

end

theorem bootStop_eq (s : State) (stage : Byte) : bootStop s stage =
    if s.boot.pwrok = true ∧ s.boot.resetN = true ∧ s.boot.complete = false ∧ s.boot.stage.toNat < 0x80 ∧ stopCause s stage.toNat = true then
      { s with boot := { s.boot with stage := stage, fw := if stage = 0x87#8 then s.boot.fw else none } }
    else s := by
  unfold bootStop
  simp only [Bool.not_eq_true]
  rfl

/-- Settles O57: PWROK, RESET_N, warm resets, BOOT_COMPLETE and BOOT_STOP. -/
theorem resetsStartABoot : Obligations.ResetsStartABoot := by
  unfold Obligations.ResetsStartABoot
  intro s
  have hwarm : ∀ (p : Fin 4) {i : Instr}, exec i s = .next (warmReset s p) → ∃ t, exec i s = .next t ∧ WarmStarts s t p :=
    fun p _ hexec => ⟨_, hexec, warmReset_starts s p⟩
  refine ⟨rfl, rfl, fun p => ⟨?_, ?_, ?_, ?_, ?_, ?_⟩, ?_, ?_, ?_⟩
  · exact fun h => congrArg Host.Outcome.next (resetUp_nothing s p h)
  · intro hp hr
    obtain ⟨hstarts, htap, hframe⟩ := resetUp_starts s p hp hr
    exact ⟨_, rfl, hstarts, htap, hframe⟩
  · exact fun hp hr => ⟨fun ns h => execWarmReset_short h, fun ns h h' => execWarmReset_forbidden hp hr h h',
      fun ns h => hwarm p (execWarmReset_long hp hr (by omega) h)⟩
  · split
    next h => exact hwarm p (congrArg Host.Outcome.next (if_pos ⟨h.1, h.2.1, by rw [h.2.2]; decide⟩))
    next h => exact congrArg Host.Outcome.next (if_neg fun ⟨hc, hw, hn⟩ => h ⟨hc, hw, Bool.eq_false_iff.mpr hn⟩)
  · exact fun h => congrArg Host.Outcome.next (trialTimeout_nothing h)
  · exact fun f hf hp hr hc => ⟨fun ht => congrArg Host.Outcome.next (trialTimeout_settled hf ht),
      fun ht => hwarm p (congrArg Host.Outcome.next (trialTimeout_trial hf ht hp hr hc))⟩
  · exact fun h => congrArg Host.Outcome.next (bootDone_nothing h)
  · exact fun es f hready hprof hfw hsess => ⟨_, rfl, bootDone_ends hready hprof hfw hsess⟩
  · exact fun stage => congrArg Host.Outcome.next (bootStop_eq s stage)

end Sys2Proof.Machine
end

section
/-!
PROOFS. What a host message meets on its way to firmware (O24, R213, R326 to R329).
-/
namespace Sys2Proof.Machine

open Sys2Proof

/-- Every host message comes to its mailbox in the same way, and is of a type of this manual. -/
theorem hostMsg_accept {i : Instr} {typ : Nat} {m : HostMsg} (h : hostMsg i = some (typ, m)) :
    (msgShape (BitVec.ofNat 16 typ).toNat).isSome = true ∧ ∃ fields run, ∀ s, exec i s = .next (accept typ fields m run s) := by
  cases i <;> cases h
  all_goals exact ⟨rfl, _, _, fun _ => rfl⟩

/-- The state in which a message stands at the end of its mailbox. -/
def arrivedMsg (s : State) (typ : Nat) (m : HostMsg) : State :=
  setMailbox s (m.conn % 64) (mailbox s (m.conn % 64) ++ [mailOf s typ m])

theorem mailbox_arrivedMsg (s : State) (typ : Nat) (m : HostMsg) :
    mailbox (arrivedMsg s typ m) (m.conn % 64) = mailbox s (m.conn % 64) ++ [mailOf s typ m] :=
  tget_tput_ne _ _ _ _ (by simp)

/-- A message of a type of this manual brings no message of an undefined type into a mailbox. -/
theorem unknownCount_arrivedMsg {s : State} {typ : Nat} (m : HostMsg) (h : unknownCount s = 0)
    (hk : (msgShape (BitVec.ofNat 16 typ).toNat).isSome = true) : unknownCount (arrivedMsg s typ m) = 0 := by
  rw [unknownCount_zero] at h ⊢
  have hnew : unknownMsg (mailOf s typ m) = false := by
    unfold unknownMsg mailOf
    rw [Option.isNone_eq_false_iff, hk]
  have hold : (mailbox s (m.conn % 64)).filter unknownMsg = [] := by
    unfold mailbox tget
    cases hf : tfind s.mail (m.conn % 64) with
    | none => rfl
    | some l => exact h _ (mem_of_tfind hf)
  intro e he
  rcases mem_tput [] _ _ _ _ he with rfl | he
  · rw [List.filter_append, hold]
    simp [hnew]
  · exact h e he

section
variable {s : State} {typ : Nat} {m : HostMsg} (fields : List Byte → Bool) (run : RespTo → State → State)

theorem accept_unbooted (h : s.boot.complete = false) : accept typ fields m run s = s := by
  unfold accept
  simp only [h, Bool.false_eq_true, not_false_eq_true, if_true]

variable (hc : s.boot.complete = true) (hx : (connOf s m.conn).isSome = true) (hu : unknownCount s = 0)
  (hk : (msgShape (BitVec.ofNat 16 typ).toNat).isSome = true)

include hx in
theorem enqueue_new (hnew : (mailbox s (m.conn % 64)).any (isMsg typ m) = false) : enqueue s typ m = arrivedMsg s typ m := by
  unfold enqueue
  simp only [hnew, Option.isNone_eq_false_iff.mpr hx, Bool.false_eq_true, or_self, if_false]
  rfl

include hc hx hu hk in
/-- A message that does not wait already goes to the end of its mailbox; what happens then rests on the mailbox's head. -/
theorem accept_arrives (hnew : (mailbox s (m.conn % 64)).any (isMsg typ m) = false) {x : MailMsg} {rest : List MailMsg}
    (hbox : mailbox s (m.conn % 64) ++ [mailOf s typ m] = x :: rest) :
    accept typ fields m run s =
      let q := arrivedMsg s typ m
      if ¬ isMsg typ m x = true ∨ ¬ accepting q = true then q
      else if ioWait q x = true then ioHold q x
      else if nextServed q = some (m.conn % 64) then
        drainAll (process (respOf x) fields m run { setMailbox q (m.conn % 64) rest with mailLast := m.conn % 64 })
      else q := by
  unfold accept
  dsimp only
  rw [enqueue_new hx hnew, drainAll_none (unknownCount_arrivedMsg m hu hk), mailbox_arrivedMsg, hbox, if_neg (not_not_intro hc)]

include hc hx hu hk in
theorem accept_behind {x : MailMsg} {rest : List MailMsg} (hbox : mailbox s (m.conn % 64) = x :: rest)
    (hnew : (x :: rest).any (isMsg typ m) = false) : accept typ fields m run s = arrivedMsg s typ m := by
  have hother : isMsg typ m x = false := (Bool.or_eq_false_iff.mp (List.any_cons ▸ hnew)).1
  rw [accept_arrives fields run hc hx hu hk (hbox ▸ hnew) (by rw [hbox]; rfl)]
  exact if_pos (.inl (by rw [hother]; exact Bool.false_ne_true))

include hc hx hu hk in
/-- A message that comes to an empty mailbox stands at its head, and waits there where firmware does not take it. -/
theorem accept_first (hbox : mailbox s (m.conn % 64) = []) :
    accept typ fields m run s =
      if accepting s = false then arrivedMsg s typ m
      else if ioWait s (mailOf s typ m) = true then ioHold (arrivedMsg s typ m) (mailOf s typ m)
      else if nextServed (arrivedMsg s typ m) = some (m.conn % 64) then
        drainAll (process (respTo s typ m) fields m run (outOfBox s typ m))
      else arrivedMsg s typ m := by
  have hnew : (mailbox s (m.conn % 64)).any (isMsg typ m) = false := by rw [hbox]; rfl
  have hself : isMsg typ m (mailOf s typ m) = true := by simp [isMsg, mailOf]
  rw [accept_arrives fields run hc hx hu hk hnew (by rw [hbox]; rfl)]
  simp only [hself, not_true_eq_false, false_or, Bool.not_eq_true]
  unfold outOfBox
  rw [enqueue_new hx hnew]
  rfl

end

/-- Settles O24: behind another message by `accept_behind`, at the head of an empty mailbox by `accept_first`. -/
theorem mailboxesKeepArrivalOrder : Obligations.MailboxesKeepArrivalOrder := by
  unfold Obligations.MailboxesKeepArrivalOrder
  intro s i typ m hmsg
  obtain ⟨hk, fields, run, hexec⟩ := hostMsg_accept hmsg
  rw [hexec]
  refine ⟨fun h => by rw [accept_unbooted fields run h], ?_⟩
  intro hc hx hu b
  refine ⟨fun x rest hbox hnew => ?_, fun hbox => ?_⟩
  · rw [accept_behind fields run hc hx hu hk hbox hnew, arrivedMsg, hbox]
  have harr : arrivedMsg s typ m = setMailbox s b [mailOf s typ m] := by rw [arrivedMsg, hbox, List.nil_append]
  rw [accept_first fields run hc hx hu hk hbox, harr]
  by_cases ha : accepting s = false
  · rw [if_pos ha, if_pos ha]
  rw [if_neg ha, if_neg ha]
  by_cases hw : ioWait s (mailOf s typ m) = true
  · rw [if_pos hw, if_pos hw]
  rw [if_neg hw, if_neg hw]
  refine ⟨fun hturn => by rw [if_neg hturn], fun hfull hturn => ?_⟩
  have hfree := servable_free hturn
  simp only [servable, Bool.and_eq_true, decide_eq_true_eq] at hfree
  exact absurd hfree.2 (Nat.not_lt.mpr hfull)

end Sys2Proof.Machine
end

section
/-!
PROOFS. TEXT_PUSH and SPEAK (O18, R213, R253, R360, R361).
-/
namespace Sys2Proof.Machine

open Sys2Proof

/-! ### Traffic of a session's rings -/

section
variable {f : State → Area → Nat → Nat → State}

/-- Moving the entries of a ring, piece by piece, changes the channels alone where each piece does. -/
theorem ringSpan_rest (hf : ∀ s a o n, ∃ C, f s a o n = { s with channels := C }) (s : State) (i r e n : Nat) :
    ∃ C, ringSpan f s i r e n = { s with channels := C } := by
  unfold ringSpan
  cases sessOf s i with
  | none => exact ⟨_, rfl⟩
  | some x =>
    dsimp only
    split
    · exact hf ..
    · obtain ⟨C, hC⟩ := hf s (.entries i r) (e % max 1 (sringOf x r).entries * (sringOf x r).entryBytes)
        (min n ((sringOf x r).entries - e % max 1 (sringOf x r).entries) * (sringOf x r).entryBytes)
      obtain ⟨D, hD⟩ := hf { s with channels := C } (.entries i r) 0
        ((n - min n ((sringOf x r).entries - e % max 1 (sringOf x r).entries)) * (sringOf x r).entryBytes)
      exact ⟨D, by rw [hC, hD]⟩

theorem ringSpan_held {s : State} {typ : Nat} {m : HostMsg}
    (hf : ∀ u a o n, f (held s typ m u) a o n = held s typ m (f u a o n)) (u : State) (i r e n : Nat) :
    ringSpan f (held s typ m u) i r e n = held s typ m (ringSpan f u i r e n) := by
  unfold ringSpan
  rw [show sessOf (held s typ m u) i = sessOf u i from rfl]
  cases sessOf u i with
  | none => rfl
  | some x =>
    dsimp only
    split
    · exact hf ..
    · rw [hf, hf]

end

theorem ioUse_rest (s : State) (i n : Nat) : ∃ S, ioUse s i n = { s with sessions := S } := by
  unfold ioUse
  cases sessOf s i with
  | none => exact ⟨_, rfl⟩
  | some x => dsimp only; split <;> exact ⟨_, rfl⟩

theorem ioUse_held (s : State) (typ : Nat) (m : HostMsg) (u : State) (i n : Nat) :
    ioUse (held s typ m u) i n = held s typ m (ioUse u i n) := by
  unfold ioUse
  rw [show sessOf (held s typ m u) i = sessOf u i from rfl]
  cases sessOf u i with
  | none => rfl
  | some x => dsimp only; split <;> rfl

/-- Writing a ring's entries moves the session's traffic and the channels' counters, and nothing else. -/
theorem ringWritten_rest (s : State) (i r n : Nat) :
    ∃ S C, ringWritten s i r n = { s with sessions := S, channels := C } := by
  unfold ringWritten
  cases sessOf s i with
  | none => exact ⟨_, _, rfl⟩
  | some x =>
    dsimp only
    obtain ⟨C, hC⟩ := ringSpan_rest (f := areaWrote) (fun _ _ _ _ => ⟨_, rfl⟩) s i r ((sringOf x r).io + 4294967296 - n) n
    obtain ⟨S, hS⟩ := ioUse_rest { s with channels := C } i (n * (sringOf x r).entryBytes)
    exact ⟨S, C, by rw [hC, hS]⟩

theorem ringWritten_transport (s : State) (i r n : Nat) :
    (ringWritten s i r n).conns = s.conns ∧ (ringWritten s i r n).keeps = s.keeps ∧ (ringWritten s i r n).wire = s.wire := by
  obtain ⟨S, C, hrest⟩ := ringWritten_rest s i r n
  rw [hrest]
  exact ⟨rfl, rfl, rfl⟩

theorem ringWritten_held (s : State) (typ : Nat) (m : HostMsg) (u : State) (i r n : Nat) :
    ringWritten (held s typ m u) i r n = held s typ m (ringWritten u i r n) := by
  unfold ringWritten
  rw [show sessOf (held s typ m u) i = sessOf u i from rfl]
  cases sessOf u i with
  | none => rfl
  | some x =>
    dsimp only
    rw [ringSpan_held (fun _ _ _ _ => rfl), ioUse_held]

/-! ### TEXT_PUSH and SPEAK -/

theorem entriesOf_length (bs : List Byte) (size n : Nat) : (entriesOf bs size n).length = n := by
  rw [entriesOf, List.length_map, List.length_range]

/-- A session with tokens appended to ring 0 and not yet spoken. -/
def tokensPushed (x : Session) (tokens : List (List Byte)) : Session :=
  { putRing x 0 (ringPush (sringOf x 0) tokens) with unspoken := x.unspoken + tokens.length }

/-- A session whose unspoken tokens have become the utterance queued in `chunk`, with its control entry in ring 1. -/
def utteranceQueued (x : Session) (chunk : Nat) : Session :=
  { pushControl x 1 [] with queuedTokens := some x.unspoken, queuedChunk := chunk, unspoken := 0 }

section
variable {s : State} {body : List Byte} {x : Session} (hx : sessOf s (fld body 0 4 % 65536) = some x)
  (hg : x.gen = fld body 0 4 / 65536) (hl : x.st ≠ .lost) (rt : RespTo)

include hx hg hl in
/-- The answers of a TEXT_PUSH to an open session. -/
theorem textPush_open :
    textPush body rt s =
      let i := fld body 0 4 % 65536
      let tokens := entriesOf (body.drop 8) 8 (fld body 4 2)
      if tokensOk s x.build (body.drop 8) = false then answer s rt stBadMessage
      else if 16384 < textHeld s x + fld body 4 2 then answer s rt stNoResource
      else respond (ringWritten (setSess s i (tokensPushed x tokens)) i 0 tokens.length) rt stOk
        (le 4 (textHeld s x + fld body 4 2)) := by
  unfold textPush
  rw [withSess_open hx hg hl]
  simp only [entriesOf_length, Bool.not_eq_true]
  rw [modSess_of hx]
  simp only [tokensPushed, entriesOf_length]

include hx hg hl in
/-- The answers of a SPEAK to an open session. -/
theorem speak_open :
    speak body rt s =
      let i := fld body 0 4 % 65536
      if x.unspoken = 0 ∨ 16384 < x.unspoken then answer s rt stBadMessage
      else if x.queuedTokens.isSome = true ∨ x.job.isSome = true then answer s rt stBusy
      else if chunkLimit ≤ (sessPos s x).chunkCount ∨ controlRoom s x = false then answer s rt stNoResource
      else respond (fixState (ringWritten (setSess s i (utteranceQueued x s.chunk)) i 1 1) i) rt stOk (le 4 x.unspoken) := by
  unfold speak
  rw [withSess_open hx hg hl]
  simp only [Bool.not_eq_true]
  rw [modSess_of hx]
  rfl

end

/-- Settles O18: the answers by `textPush_open` and `speak_open`, what the ring's traffic leaves alone by `ringWritten_rest`. -/
theorem textBecomesAnUtterance : Obligations.TextBecomesAnUtterance := by
  unfold Obligations.TextBecomesAnUtterance
  intro s m x i hx hg hl
  refine ⟨fun hp hf => ?_, fun hp hf => ?_⟩
  · intro n tokens
    have hrun := textPush_open (s := held s 0x0203 m s) hx hg hl (respTo s 0x0203 m)
    by_cases hbad : tokensOk s x.build (m.body.drop 8) = false
    · rw [if_pos hbad]
      exact declines_held rfl hp hf (by decide) rfl (hrun.trans (if_pos hbad))
    rw [if_neg hbad]
    replace hrun := hrun.trans (if_neg hbad)
    by_cases hfull : 16384 < textHeld s x + n
    · rw [if_pos hfull]
      exact declines_held rfl hp hf (by decide) rfl (hrun.trans (if_pos hfull))
    rw [if_neg hfull]
    replace hrun := hrun.trans (if_neg hfull)
    have hy : tokensPushed x tokens = { putRing x 0 (ringPush (sringOf x 0) tokens) with unspoken := x.unspoken + n } := by
      rw [tokensPushed, entriesOf_length]
    intro y
    refine answers_held rfl hp hf (by decide) ?_ (hrun.trans (congrArg (fun t => respond t _ _ _) ?_))
    · exact ringWritten_transport (setSess s i y) i 0 tokens.length
    · rw [hy]
      exact ringWritten_held s 0x0203 m (setSess s i y) i 0 tokens.length
  · have hrun := speak_open (s := held s 0x0204 m s) hx hg hl (respTo s 0x0204 m)
    by_cases hbad : x.unspoken = 0 ∨ 16384 < x.unspoken
    · rw [if_pos hbad]
      exact declines_held rfl hp hf (by decide) rfl (hrun.trans (if_pos hbad))
    rw [if_neg hbad]
    replace hrun := hrun.trans (if_neg hbad)
    by_cases hbusy : x.queuedTokens.isSome = true ∨ x.job.isSome = true
    · rw [if_pos hbusy]
      exact declines_held rfl hp hf (by decide) rfl (hrun.trans (if_pos hbusy))
    rw [if_neg hbusy]
    replace hrun := hrun.trans (if_neg hbusy)
    by_cases hfull : chunkLimit ≤ (sessPos s x).chunkCount ∨ controlRoom s x = false
    · rw [if_pos hfull]
      exact declines_held rfl hp hf (by decide) rfl (hrun.trans (if_pos hfull))
    rw [if_neg hfull]
    replace hrun := hrun.trans (if_neg hfull)
    intro y
    refine answers_held rfl hp hf (by decide) ?_ (hrun.trans (congrArg (fun t => respond t _ _ _) ?_))
    · exact ringWritten_transport (setSess s i y) i 1 1
    · exact congrArg (fixState · i) (ringWritten_held s 0x0204 m (setSess s i y) i 1 1)

end Sys2Proof.Machine
end

section
/-!
PROOFS. PLAN_BIND and PLAN_UNBIND (O14, R211, R256, R257, R272, R273).
-/
namespace Sys2Proof.Machine

open Sys2Proof

/-! ### Pauses brought up to date -/

theorem bayOf_fixPaused (s : State) (i : Nat) :
    bayOf (fixPaused s) i = (bayOf s i).map (fun b => { b with paused := readsBad s i b }) :=
  tfind_mapTab (fun i (b : Bay) => { b with paused := readsBad s i b }) s.bays i

/-! ### PLAN_BIND -/

/-- A bay with a plan bound whose copy is in place. -/
def planBound (id : W64) (p : Nat) (x : Bay) : Bay := { x with plans := x.plans ++ [{ build := id, plan := p, ready := true }] }

theorem waitCycle_held (s : State) (typ : Nat) (m : HostMsg) (v : Nat × W64 × Nat) :
    waitCycle (held s typ m s) v = waitCycle s v := by
  have hedge : waitEdge (held s typ m s) = waitEdge s := rfl
  have hprune : ∀ n l, pruneGraph (held s typ m s) n l = pruneGraph s n l := by
    intro n
    induction n with
    | zero => exact fun _ => rfl
    | succ n ih => exact fun l => by rw [pruneGraph, pruneGraph, hedge, ih]
  unfold waitCycle
  simp only [hprune]
  rfl

/-- The bay's copy is placed by what firmware has placed already, and not by the message that asks. -/
theorem placeCopy_held (s : State) (typ : Nat) (m : HostMsg) (u : State) (i : Nat) (id : W64) :
    placeCopy (held s typ m u) i id = held s typ m (placeCopy u i id) := by
  unfold placeCopy
  rw [show bayOf (held s typ m u) i = bayOf u i from rfl, show buildOf (held s typ m u) id = buildOf u id from rfl]
  cases bayOf u i with
  | none => rfl
  | some b =>
    cases buildOf u id with
    | none => rfl
    | some d =>
      dsimp only
      split <;> rfl

theorem placeCopy_transport (s : State) (i : Nat) (id : W64) :
    (placeCopy s i id).conns = s.conns ∧ (placeCopy s i id).keeps = s.keeps ∧ (placeCopy s i id).wire = s.wire := by
  unfold placeCopy
  split
  · dsimp only
    split <;> exact ⟨rfl, rfl, rfl⟩
  · exact ⟨rfl, rfl, rfl⟩

section
variable {s : State} {body : List Byte}

theorem planBind_noBay (h : bayOf s (fld body 0 1) = none) (rt : RespTo) : planBind body rt s = answer s rt stBadMessage := by
  unfold planBind
  simp only [h]

theorem planUnbind_noBay (h : bayOf s (fld body 0 1) = none) (rt : RespTo) : planUnbind body rt s = answer s rt stBadMessage := by
  unfold planUnbind
  simp only [h]

variable {bay : Bay} (hbay : bayOf s (fld body 0 1) = some bay) (hlive : bay.destroying = none) (rt : RespTo)

section
variable {b : Build} {pl : Plan} (hb : buildOf s (BitVec.ofNat 64 (fld body 4 8)) = some b) (hpl : planOf b (fld body 1 1) = some pl)
  (hcores : pl.coreCount = (bayCores bay).length)
  (hnew : bay.plans.all (fun x => decide (x.build ≠ BitVec.ofNat 64 (fld body 4 8) ∨ x.plan ≠ fld body 1 1)) = true)
  (hroom : bay.plans.length < 16) (hfit : copyFits s (fld body 0 1) bay b = true)
  (hres : reserveFits s bay pl (copyNeeds (fld body 0 1) bay b) = true)
include hbay hlive hb hpl hcores hnew hroom hfit hres

/-- PLAN_BIND past the checks of R272: the waits come before the copy. -/
theorem planBind_checked (hfast : needsCopy b (fld body 0 1) bay.attr.channelMask = false ∨ admittedYealms s bay = [] ∨
      waitCycle s (fld body 0 1, BitVec.ofNat 64 (fld body 4 8), fld body 1 1) = true) :
    planBind body rt s =
      let i := fld body 0 1
      let id := BitVec.ofNat 64 (fld body 4 8)
      if waitCycle s (i, id, fld body 1 1) = true then answer s rt stRingCycle
      else answer (fixPaused (placeCopy (modBay s i (planBound id (fld body 1 1))) i id)) rt stOk := by
  have hbound : bay.plans.any (fun x => decide (x.build = BitVec.ofNat 64 (fld body 4 8) ∧ x.plan = fld body 1 1)) = false := by
    rw [List.any_eq_false]
    intro x hx
    have := List.all_eq_true.mp hnew x hx
    simp only [decide_eq_true_eq] at this ⊢
    tauto
  unfold planBind
  simp only [hbay, hlive, hb, hpl, hcores, hbound, hfit, hres, Nat.not_le.mpr hroom, Option.isSome_none, Option.map_some,
    Option.getD_some, decide_true, Bool.true_eq_false, Bool.false_eq_true, not_true_eq_false, or_self, if_false]
  split
  · rfl
  · next hcycle =>
    have hslow : (needsCopy b (fld body 0 1) bay.attr.channelMask && decide (admittedYealms s bay ≠ [])) = false := by
      rcases hfast with h | h | h
      · rw [h, Bool.false_and]
      · simp [h]
      · exact absurd h hcycle
    simp only [hslow, Bool.false_eq_true, if_false, Bool.not_false]
    rfl

end

/-! ### PLAN_UNBIND -/

/-- The state once a bay has lost a binding: with the last plan of a build goes the bay's copy of it (R273). -/
def planUnbound (s : State) (i : Nat) (id : W64) (p : Nat) : State :=
  let t := modBay s i (fun b => { b with plans := b.plans.filter (fun x => decide (x.build ≠ id ∨ x.plan ≠ p)) })
  fixPaused (if (((bayOf t i).map (fun b => b.plans.any (fun x => decide (x.build = id)))).getD false) = false then
    modBuild t id (fun d => { d with copies := d.copies.filter (fun c => decide (c.kind ≠ 2 + i)) }) else t)

include hbay hlive in
theorem planUnbind_ready {x : Bound} (hx : bay.plans.find? (fun x => decide (x.build = BitVec.ofNat 64 (fld body 4 8) ∧
      x.plan = fld body 1 1)) = some x) (hready : x.ready = true) :
    planUnbind body rt s =
      let i := fld body 0 1
      let id := BitVec.ofNat 64 (fld body 4 8)
      if (bayYealms s bay).any (fun e => decide (e.2.build = id ∧ e.2.plan = fld body 1 1)) = true then answer s rt stBusy
      else answer (planUnbound s i id (fld body 1 1)) rt stOk := by
  unfold planUnbind planUnbound
  simp only [hbay, hlive, hx, hready, Option.isSome_none, Bool.false_eq_true, not_true_eq_false, false_or, if_false,
    Bool.not_eq_true']

end

theorem planUnbound_rest (s : State) (i : Nat) (id : W64) (p : Nat) :
    ∃ bays builds, planUnbound s i id p = { s with bays := bays, builds := builds } := by
  unfold planUnbound
  dsimp only
  split <;> exact ⟨_, _, rfl⟩

theorem planUnbound_held (s : State) (typ : Nat) (m : HostMsg) (u : State) (i : Nat) (id : W64) (p : Nat) :
    planUnbound (held s typ m u) i id p = held s typ m (planUnbound u i id p) := by
  unfold planUnbound
  rw [show ∀ f, modBay (held s typ m u) i f = held s typ m (modBay u i f) from fun _ => rfl]
  dsimp only
  generalize modBay u i _ = t
  rw [show bayOf (held s typ m t) i = bayOf t i from rfl]
  split <;> rfl

/-- The bay loses the plan, and every other bay keeps its own. -/
theorem plans_planUnbound (s : State) (i : Nat) (id : W64) (p j : Nat) :
    (bayOf (planUnbound s i id p) j).map (fun b => b.plans) = (bayOf s j).map (fun b =>
      if j = i then b.plans.filter (fun x => decide (x.build ≠ id ∨ x.plan ≠ p)) else b.plans) := by
  have hplans : ∀ u : State, (bayOf (fixPaused u) j).map (fun b => b.plans) = (bayOf u j).map (fun b => b.plans) := by
    intro u
    rw [bayOf_fixPaused, Option.map_map]
    rfl
  have hbays : ∀ (t : State) (c : Bool) f, bayOf (if c = false then modBuild t id f else t) j = bayOf t j := by
    intro t c f
    cases c <;> rfl
  unfold planUnbound
  dsimp only
  rw [hplans, hbays, bayOf_modBay]
  by_cases hj : j = i
  · subst hj
    simp [Function.comp_def]
  · simp [hj, Ne.symm hj]

/-- Settles O14: the checks by `planBind_checked` and `planUnbind_ready`, the copy and the pauses by the lemmas on the states after. -/
theorem planBindAndUnbind : Obligations.PlanBindAndUnbind := by
  unfold Obligations.PlanBindAndUnbind
  intro s m hzero i p id
  refine ⟨fun hp hnone => ?_, fun hp hnone => ?_, fun bay hbay hlive => ⟨fun hp b hb pl hpl hcores hnew hroom hfit hres => ?_,
    fun hp x hx hready => ?_⟩⟩
  · exact declines_held rfl hp hzero (by decide) rfl (planBind_noBay (s := held s 0x0122 m s) hnone _)
  · exact declines_held rfl hp hzero (by decide) rfl (planUnbind_noBay (s := held s 0x0123 m s) hnone _)
  · have hrun := planBind_checked (s := held s 0x0122 m s) hbay hlive (respTo s 0x0122 m) hb hpl hcores hnew hroom hfit hres
    simp only [waitCycle_held] at hrun
    by_cases hcycle : waitCycle s (i, id, p) = true
    · rw [if_pos hcycle]
      exact declines_held rfl hp hzero (by decide) rfl ((hrun (.inr (.inr hcycle))).trans (if_pos hcycle))
    rw [if_neg hcycle]
    intro hfast
    replace hrun := (hrun (hfast.imp_right .inl)).trans (if_neg hcycle)
    refine answers_held rfl hp hzero (by decide) (placeCopy_transport (modBay s i (planBound id p)) i id) (hrun.trans ?_)
    rw [answer_ok rfl]
    exact congrArg (fun t => respond (fixPaused t) _ _ _) (placeCopy_held s 0x0122 m (modBay s i (planBound id p)) i id)
  · have hrun := planUnbind_ready (s := held s 0x0123 m s) hbay hlive (respTo s 0x0123 m) hx hready
    by_cases hused : (bayYealms s bay).any (fun e => decide (e.2.build = id ∧ e.2.plan = p)) = true
    · rw [if_pos hused]
      exact declines_held rfl hp hzero (by decide) rfl (hrun.trans (if_pos hused))
    rw [if_neg hused]
    replace hrun := ((hrun.trans (if_neg hused)).trans (answer_ok rfl)).trans
      (congrArg (fun t => respond t _ _ _) (planUnbound_held s 0x0123 m s i id p))
    obtain ⟨bays, builds, hrest⟩ := planUnbound_rest s i id p
    obtain ⟨t, hexec, hanswered, hbare⟩ := answers_held (i := .planUnbind m) (u := planUnbound s i id p) (fields := fun b => isZero b 2 2) rfl hp hzero (by decide)
      (by rw [hrest]; exact ⟨rfl, rfl, rfl⟩) hrun
    have hplans : ∀ j, (bayOf t j).map (fun b => b.plans) = (bayOf (planUnbound s i id p) j).map (fun b => b.plans) :=
      fun j => congrArg (Option.map _) (bayOf_congr (congrArg State.bays hbare) j)
    refine ⟨t, hexec, hanswered, ?_, fun j hj => ?_, ?_⟩
    · rw [hplans, plans_planUnbound, hbay]
      simp
    · rw [hplans, plans_planUnbound]
      simp [hj]
    · rw [hbare, hrest]
      rfl

end Sys2Proof.Machine
end

section
/-!
PROOFS. What a page written intact into a copy of a build leaves (R224, R422), and LOAD_BUILD's range reload (O8, R211, R341).
-/
namespace Sys2Proof.Machine

open Sys2Proof

/-! ### A page mended in one copy -/

/-- A copy after a page of the copies of one kind has been written intact. -/
def copyMended (kind page : Nat) (c : BuildCopy) : BuildCopy :=
  if c.kind = kind then { c with badPages := c.badPages.filter (fun p => decide (p ≠ page))
                                 written := c.written.filter (fun e => decide (e.1 / 65536 ≠ page)) } else c

/-- A build after a page of one of its copies has been written intact. -/
def buildMended (kind page : Nat) (b : Build) : Build :=
  let d := { b with copies := b.copies.map (copyMended kind page) }
  { d with requested := if pageIntact d page then d.requested.filter (fun p => decide (p ≠ page)) else d.requested
           allRequested := d.allRequested && d.copies.any (fun c => decide (c.badPages ≠ [])) }

theorem buildOf_modBuild (s : State) (id : W64) {f : Build → Build} (hf : ∀ b, (f b).id = b.id) (j : W64) :
    buildOf (modBuild s id f) j = (buildOf s j).map (fun b => if j = id then f b else b) := by
  have hkey : ∀ b : Build, (if b.id = id then f b else b).id = b.id := fun b => by split <;> simp [hf]
  have hmap : ∀ l : List Build, (l.map (fun b => if b.id = id then f b else b)).find? (fun b => decide (b.id = j)) =
      (l.find? (fun b => decide (b.id = j))).map (fun b => if j = id then f b else b) := by
    intro l
    induction l with
    | nil => rfl
    | cons b rest ih =>
      rw [List.map_cons, List.find?_cons, List.find?_cons, hkey]
      by_cases hb : b.id = j
      · simp [hb]
      · simp only [hb, decide_false, ih]
  exact hmap s.builds

/-- Mending a page changes the builds and the channels' records, and brings the pauses up to date. -/
theorem pageMended_modBuild (s : State) (id : W64) (kind page : Nat) : ∃ channels slices,
    pageMended s id kind page =
      fixPaused { modBuild s id (buildMended kind page) with channels := channels, slices := slices } := ⟨_, _, rfl⟩

theorem buildOf_pageMended (s : State) (id : W64) (kind page : Nat) (j : W64) :
    buildOf (pageMended s id kind page) j = (buildOf s j).map (fun b => if j = id then buildMended kind page b else b) := by
  obtain ⟨channels, slices, h⟩ := pageMended_modBuild s id kind page
  rw [h]
  exact buildOf_modBuild s id (f := buildMended kind page) (fun _ => rfl) j

theorem pageMended_frame (s : State) (id : W64) (kind page : Nat) :
    { pageMended s id kind page with builds := [], bays := [], channels := [], slices := [] } =
      { s with builds := [], bays := [], channels := [], slices := [] } := by
  obtain ⟨channels, slices, h⟩ := pageMended_modBuild s id kind page
  rw [h]
  rfl

theorem bays_pageMended (s : State) (id : W64) (kind page : Nat) :
    (pageMended s id kind page).bays =
      s.bays.map (fun e => (e.1, { e.2 with paused := readsBad (pageMended s id kind page) e.1 e.2 })) := by
  obtain ⟨channels, slices, h⟩ := pageMended_modBuild s id kind page
  rw [h]
  rfl

section
variable (kind page : Nat)

theorem copyMended_kind (c : BuildCopy) : (copyMended kind page c).kind = c.kind := by
  unfold copyMended
  split <;> rfl

theorem copyMended_intact (c : BuildCopy) :
    copyIntact (copyMended kind page c) page = (copyIntact c page || decide (c.kind = kind)) := by
  unfold copyMended
  by_cases h : c.kind = kind
  · simp [h, copyIntact]
  · simp [h]

theorem buildMended_rest (b : Build) : { buildMended kind page b with copies := [], requested := [], allRequested := false } =
    { b with copies := [], requested := [], allRequested := false } := rfl

/-- A copy that holds the page, or comes to hold it, takes it off the list of what is requested of the host. -/
theorem requested_buildMended {b : Build} {c : BuildCopy} (hc : c ∈ b.copies) (h : copyIntact c page = true ∨ c.kind = kind) :
    (buildMended kind page b).requested = b.requested.filter (fun p => decide (p ≠ page)) := by
  refine if_pos (List.any_eq_true.mpr ⟨_, List.mem_map_of_mem hc, ?_⟩)
  rw [copyMended_intact, Bool.or_eq_true, decide_eq_true_eq]
  exact h

theorem buildMended_unrequested {b : Build} (h : b.requested.contains page = false) :
    (buildMended kind page b).requested.contains page = false := by
  unfold buildMended
  dsimp only
  split
  · simp
  · exact h

end

/-! ### A page mended in every copy that lacks it -/

/-- A page mended in copy after copy. -/
def mendedAll (s : State) (id : W64) (page : Nat) (l : List BuildCopy) : State := l.foldl (fun s c => pageMended s id c.kind page) s

/-- The build after that. -/
def buildMendedAll (page : Nat) (l : List BuildCopy) (b : Build) : Build := l.foldl (fun b c => buildMended c.kind page b) b

section
variable (id : W64) (page : Nat) (l : List BuildCopy)

theorem mendedAll_cons (s : State) (c : BuildCopy) :
    mendedAll s id page (c :: l) = mendedAll (pageMended s id c.kind page) id page l := List.foldl_cons ..

theorem buildMendedAll_cons (c : BuildCopy) (b : Build) :
    buildMendedAll page (c :: l) b = buildMendedAll page l (buildMended c.kind page b) := List.foldl_cons ..

theorem buildOf_mendedAll (s : State) (j : W64) :
    buildOf (mendedAll s id page l) j = (buildOf s j).map (fun b => if j = id then buildMendedAll page l b else b) := by
  induction l generalizing s with
  | nil => simp [mendedAll, buildMendedAll]
  | cons c rest ih =>
    rw [mendedAll_cons, ih, buildOf_pageMended, Option.map_map]
    by_cases hj : j = id
    · simp only [hj, if_true, Function.comp_def, buildMendedAll_cons]
    · simp [hj, Function.comp_def]

theorem mendedAll_frame (s : State) :
    { mendedAll s id page l with builds := [], bays := [], channels := [], slices := [] } =
      { s with builds := [], bays := [], channels := [], slices := [] } :=
  foldl_keep (fun s : State => { s with builds := [], bays := [], channels := [], slices := [] })
    (fun s c => pageMended s id c.kind page) (fun s c => pageMended_frame s id c.kind page) l s

/-- No bay changes but for its pause. -/
theorem bays_mendedAll (s : State) :
    (mendedAll s id page l).bays.map (fun e => (e.1, { e.2 with paused := false })) =
      s.bays.map (fun e => (e.1, { e.2 with paused := false })) :=
  foldl_keep (fun s : State => s.bays.map (fun e => (e.1, { e.2 with paused := false })))
    (fun s c => pageMended s id c.kind page) (fun s c => by dsimp only; rw [bays_pageMended, List.map_map]; rfl) l s

theorem mendedAll_held (s : State) (typ : Nat) (m : HostMsg) (u : State) :
    mendedAll (held s typ m u) id page l = held s typ m (mendedAll u id page l) :=
  List.foldl_hom (held s typ m) (fun _ _ => rfl)

theorem mendedAll_transport (s : State) :
    (mendedAll s id page l).conns = s.conns ∧ (mendedAll s id page l).keeps = s.keeps ∧ (mendedAll s id page l).wire = s.wire :=
  have h := mendedAll_frame id page l s
  ⟨(congrArg State.conns h :), (congrArg State.keeps h :), (congrArg State.wire h :)⟩

/-- The page is intact in every copy that had it, and in every copy of a kind that was mended. -/
theorem buildMendedAll_intact {b : Build} (h : ∀ c, c ∈ b.copies → copyIntact c page = true ∨ c.kind ∈ l.map (fun c => c.kind)) :
    ∀ c, c ∈ (buildMendedAll page l b).copies → copyIntact c page = true := by
  induction l generalizing b with
  | nil => exact fun c hc => (h c hc).resolve_right List.not_mem_nil
  | cons k rest ih =>
    rw [buildMendedAll_cons]
    refine ih fun d hd => ?_
    obtain ⟨c, hc, rfl⟩ := List.mem_map.mp hd
    rw [copyMended_intact, copyMended_kind, Bool.or_eq_true, decide_eq_true_eq]
    have := h c hc
    rw [List.map_cons, List.mem_cons] at this
    tauto

theorem buildMendedAll_rest (b : Build) :
    { buildMendedAll page l b with copies := [], requested := [], allRequested := false } =
      { b with copies := [], requested := [], allRequested := false } := by
  induction l generalizing b with
  | nil => rfl
  | cons k rest ih => rw [buildMendedAll_cons, ih, buildMended_rest]

theorem buildMendedAll_unrequested {b : Build} (h : b.requested.contains page = false) :
    (buildMendedAll page l b).requested.contains page = false := by
  induction l generalizing b with
  | nil => exact h
  | cons k rest ih => rw [buildMendedAll_cons]; exact ih (buildMended_unrequested k.kind page h)

end

theorem buildMendedAll_requested {page : Nat} {k : BuildCopy} {l : List BuildCopy} {b : Build} (hk : k ∈ b.copies) :
    (buildMendedAll page (k :: l) b).requested.contains page = false := by
  rw [buildMendedAll_cons]
  exact buildMendedAll_unrequested page l (by rw [requested_buildMended k.kind page hk (.inr rfl)]; simp)

/-! ### Reserve windows over a copy -/

theorem slicedOver_fixPaused (s : State) (c : BuildCopy) : slicedOver (fixPaused s) c = slicedOver s c := by
  have hover : bayOver (fixPaused s) c.channels = bayOver s c.channels := by
    unfold bayOver fixPaused
    dsimp only
    rw [List.find?_map, Option.map_map]
    rfl
  have hslices : hasSlices (fixPaused s) = hasSlices s := by
    funext i
    unfold hasSlices
    rw [bayOf_fixPaused, Option.map_map]
    rfl
  unfold slicedOver
  rw [hover, hslices]

theorem slicedOver_pageMended (s : State) (id : W64) (kind page : Nat) (c : BuildCopy) :
    slicedOver (pageMended s id kind page) c = slicedOver s c := by
  obtain ⟨channels, slices, h⟩ := pageMended_modBuild s id kind page
  rw [h, slicedOver_fixPaused]
  rfl

theorem slicedOver_mendedAll (id : W64) (page : Nat) (l : List BuildCopy) (c : BuildCopy) (s : State) :
    slicedOver (mendedAll s id page l) c = slicedOver s c := by
  induction l generalizing s with
  | nil => rfl
  | cons k rest ih => rw [mendedAll_cons, ih, slicedOver_pageMended]

/-! ### The reload -/

section
variable {s : State} {id : W64} {page : Nat} (rt : RespTo)

/-- A page that no reserve window has to carry is in place at once (R341). -/
theorem reloadPage_now {l : List BuildCopy} (h : ∀ c, c ∈ l → slicedOver s c = none) :
    reloadPage s rt id page l = respond (mendedAll s id page l) rt stOk (le 8 65536) := by
  have hall : l.filter (fun c => (slicedOver s c).isNone) = l := List.filter_eq_self.mpr fun c hc => by rw [h c hc]; rfl
  have hslow : l.filterMap (fun c => (slicedOver (mendedAll s id page l) c).map (fun b => (b, c.kind))) = [] :=
    List.filterMap_eq_nil_iff.mpr fun c hc => by rw [slicedOver_mendedAll, h c hc]; rfl
  unfold mendedAll at hslow ⊢
  unfold reloadPage
  simp only [hall, hslow]
  rfl

/-- A page for a copy under a bay with slices goes in the bay's reserve windows (R211). -/
theorem reloadPage_waits {c : BuildCopy} {i : Nat} (h : slicedOver s c = some i) :
    reloadPage s rt id page [c] = modBay s i (fun x => { x with bulk := x.bulk ++
      [{ kind := .pageReload id c.kind page, left := 65536, running := false, resp := some rt }] }) := by
  unfold reloadPage
  simp [h]

/-- The flags of a range reload (R341). -/
theorem loadMsg_range {body : List Byte} (h : fld body 24 1 = 2 ∨ fld body 24 1 = 3) :
    loadMsg body rt s = loadRange s rt (BitVec.ofNat 64 (fld body 0 8)) (fld body 8 8) (body.drop 32) := by
  unfold loadMsg
  rcases h with h | h <;> rw [h] <;> rfl

theorem loadRange_page {b : Build} {p : Nat × W32} {offset : Nat} {data : List Byte} (hb : buildOf s id = some b)
    (hp : pageAtOffset b offset = some p) :
    loadRange s rt id offset data =
      if b.allRequested = false ∧ b.requested.contains p.1 = false then respond s rt stBusy (le 8 0)
      else if data.length ≠ 65536 ∨ crc32c data ≠ p.2 then respond s rt stBadMessage (le 8 0)
      else reloadPage s rt id p.1 (b.copies.filter (fun c => !copyIntact c p.1)) := by
  unfold loadRange
  simp only [hb, hp, Option.bind_some, Option.map_some, not_or, Bool.not_eq_true]

end

/-- Settles O8: the checks by `loadRange_page`, the page in every copy by `buildMendedAll_intact`. -/
theorem rangeReloadMendsTheRequestedPage : Obligations.RangeReloadMendsTheRequestedPage := by
  unfold Obligations.RangeReloadMendsTheRequestedPage
  intro s m hp hzero hflags id data b hb p hpage
  have hf : loadFields m.body = true := by
    unfold loadFields within
    rw [hzero, Bool.and_true, Bool.and_eq_true, decide_eq_true_eq, decide_eq_true_eq]
    omega
  have hrun := (loadMsg_range (s := held s 0x0110 m s) (respTo s 0x0110 m) hflags).trans
    (loadRange_page (s := held s 0x0110 m s) (respTo s 0x0110 m) hb hpage)
  by_cases hasked : b.allRequested = false ∧ b.requested.contains p.1 = false
  · rw [if_pos hasked]
    exact answers_held rfl hp hf (by decide) ⟨rfl, rfl, rfl⟩ (hrun.trans (if_pos hasked))
  rw [if_neg hasked]
  replace hrun := hrun.trans (if_neg hasked)
  by_cases hwrong : data.length ≠ 65536 ∨ crc32c data ≠ p.2
  · rw [if_pos hwrong]
    exact answers_held rfl hp hf (by decide) ⟨rfl, rfl, rfl⟩ (hrun.trans (if_pos hwrong))
  rw [if_neg hwrong]
  replace hrun := hrun.trans (if_neg hwrong)
  refine ⟨fun hlacks hnow => ?_, fun c i hone hover => ?_⟩
  · generalize hl : b.copies.filter (fun c => !copyIntact c p.1) = l at hrun
    have hmem : ∀ c, c ∈ l ↔ c ∈ b.copies ∧ copyIntact c p.1 = false := fun c => by
      rw [← hl, List.mem_filter, Bool.not_eq_true']
    have hreload := reloadPage_now (s := held s 0x0110 m s) (id := id) (page := p.1) (respTo s 0x0110 m) (l := l)
      fun c hc => hnow c ((hmem c).mp hc).1 ((hmem c).mp hc).2
    obtain ⟨t, hexec, hanswered, hbare⟩ := answers_held (i := .rangeReload m) (u := mendedAll s id p.1 l) (fields := loadFields)
      rfl hp hf (by decide) (mendedAll_transport id p.1 l s)
      ((hrun.trans hreload).trans (congrArg (fun t => respond t _ _ _) (mendedAll_held id p.1 l s 0x0110 m s)))
    have hbuilds : ∀ j, buildOf t j = (buildOf s j).map (fun b => if j = id then buildMendedAll p.1 l b else b) := fun j =>
      (congrArg (List.find? _) (congrArg State.builds hbare)).trans (buildOf_mendedAll id p.1 l s j)
    have hframe := congrArg State.bare (mendedAll_frame id p.1 l s)
    refine ⟨t, hexec, hanswered, ⟨buildMendedAll p.1 l b, ?_, ?_, ?_, buildMendedAll_rest p.1 l b⟩, fun j hj => ?_, ?_, ?_⟩
    · rw [hbuilds, hb, Option.map_some, if_pos rfl]
    · refine List.all_eq_true.mpr (buildMendedAll_intact p.1 l fun c hc => ?_)
      cases hi : copyIntact c p.1 with
      | true => exact .inl rfl
      | false => exact .inr (List.mem_map_of_mem ((hmem c).mpr ⟨hc, hi⟩))
    · obtain ⟨c, hc, hi⟩ := List.any_eq_true.mp hlacks
      have hcl := (hmem c).mpr ⟨hc, by rwa [Bool.not_eq_true'] at hi⟩
      cases l with
      | nil => exact absurd hcl List.not_mem_nil
      | cons k rest => exact buildMendedAll_requested ((hmem k).mp List.mem_cons_self).1
    · rw [hbuilds]
      simp [hj]
    · rw [hbare]
      exact hframe
    · rw [show t.bays = (mendedAll s id p.1 l).bays from (congrArg State.bays hbare :)]
      exact bays_mendedAll id p.1 l s
  · rw [hone] at hrun
    exact owes_held rfl hp hf (by decide) ⟨rfl, rfl, rfl⟩
      (hrun.trans (reloadPage_waits (s := held s 0x0110 m s) (respTo s 0x0110 m) hover))

end Sys2Proof.Machine
end

section
/-!
SUPPORT. What a session says: an output message of a session, sent or discarded, changes the transport and the session's own account
of its gaps (R314, Table 15.8), and nothing else.
-/
namespace Sys2Proof.Machine

open Sys2Proof

/-- `t` differs from `s` by the transport and by the account of session `i`'s gaps. -/
structure Says (i : Nat) (s t : State) : Prop where
  bare : t.bare = { s.bare with sessions := t.sessions }
  other : ∀ j, j ≠ i → sessOf t j = sessOf s j
  own : ∀ x, sessOf s i = some x → ∃ first samples msgs,
    sessOf t i = some { x with gapFirst := first, gapSamples := samples, gapMsgs := msgs }

theorem Says.refl (i : Nat) (s : State) : Says i s s := ⟨rfl, fun _ _ => rfl, fun x hx => ⟨x.gapFirst, x.gapSamples, x.gapMsgs, hx⟩⟩

theorem Says.trans {i : Nat} {a b d : State} (h : Says i a b) (k : Says i b d) : Says i a d := by
  refine ⟨?_, fun j hj => (k.other j hj).trans (h.other j hj), fun x hx => ?_⟩
  · rw [k.bare, h.bare]
  · obtain ⟨_, _, _, hy⟩ := h.own x hx
    obtain ⟨_, _, _, hz⟩ := k.own _ hy
    exact ⟨_, _, _, hz⟩

theorem Moves.says {c : Nat} {s t : State} (h : Moves c s t) (i : Nat) : Says i s t := by
  have hsess : t.sessions = s.sessions := (congrArg State.sessions h.bare :)
  have hof : ∀ j, sessOf t j = sessOf s j := fun j => by unfold sessOf; rw [hsess]
  refine ⟨?_, fun j _ => hof j, fun x hx => ⟨x.gapFirst, x.gapSamples, x.gapMsgs, (hof i).trans hx⟩⟩
  rw [h.bare, hsess]
  rfl

/-- A change of the gap account of session `i`. -/
theorem says_modSess (s : State) (i : Nat) {f : Session → Session}
    (hf : ∀ x, ∃ first samples msgs, f x = { x with gapFirst := first, gapSamples := samples, gapMsgs := msgs }) :
    Says i s (modSess s i f) := by
  refine ⟨rfl, fun j hj => ?_, fun x hx => ?_⟩
  · rw [sessOf_modSess, if_neg (Ne.symm hj)]
  · obtain ⟨first, samples, msgs, h⟩ := hf x
    exact ⟨first, samples, msgs, by rw [sessOf_modSess, if_pos rfl, hx, Option.map_some, h]⟩

section
variable (s : State) (i : Nat)

theorem streamTo_says (x : Session) (typ : Nat) (body : List Byte) (cls : MsgClass) : Says i s (streamTo s x typ body cls).1 := by
  unfold streamTo
  split
  · exact .refl i s
  · exact (sendStream_moves ..).says i

theorem sendGap_says : Says i s (sendGap s i) := by
  unfold sendGap
  split
  · exact .refl i s
  · dsimp only
    split
    · exact (streamTo_says ..).trans (says_modSess _ _ fun x => ⟨none, 0, 0, rfl⟩)
    · exact streamTo_says ..

theorem gapMsg_says : Says i s (gapMsg s i) :=
  (says_modSess s i fun x => ⟨x.gapFirst, x.gapSamples, _, rfl⟩).trans (sendGap_says ..)

/-- A message of the class of events and marks: where it does not leave, the next gap accounts for it. -/
theorem streamOrGap_says (x : Session) (typ : Nat) (body : List Byte) (cls : MsgClass) :
    Says i s (let r := streamTo s x typ body cls; if r.2 = true then r.1 else gapMsg r.1 i) := by
  dsimp only
  split
  · exact streamTo_says ..
  · exact (streamTo_says ..).trans (gapMsg_says ..)

end

theorem faultMarker_says (f : FaultEvent) (s : State) (e : Nat × Session) : Says e.1 s (faultMarker f s e) := by
  unfold faultMarker
  split
  · exact streamOrGap_says ..
  · exact .refl ..

end Sys2Proof.Machine
end

section
/-!
PROOFS. The upkeep of a thatch channel (O54, R214 to R218, R421, R422).
-/
namespace Sys2Proof.Machine

open Sys2Proof

/-! ### Channels of a sorted table -/

section
variable {s : State} (hs : tsorted none s.channels = true) (i : Nat) (x : Channel)
include hs

theorem channelOf_setChannel : channelOf (setChannel s i x) i = x := tget_tput_sorted _ _ _ _ hs

theorem sorted_setChannel : tsorted none (setChannel s i x).channels = true :=
  tsorted_tput _ _ _ _ _ hs fun _ h => nomatch h

end

theorem channelOf_setChannel_other (s : State) {i j : Nat} (x : Channel) (h : j ≠ i) :
    channelOf (setChannel s i x) j = channelOf s j := tget_tput_other _ _ _ (Ne.symm h)

theorem setChannel_frame (s : State) (i : Nat) (x : Channel) :
    { setChannel s i x with channels := [] } = { s with channels := [] } := rfl

theorem channelCnt_frame (s : State) (i k w n : Nat) : { channelCnt s i k w n with channels := [] } = { s with channels := [] } :=
  setChannel_frame ..

/-- Channel `i` is `x` in `t`, and every other one is as in `s`. -/
def ChannelBecomes (s t : State) (i : Nat) (x : Channel) : Prop :=
  channelOf t i = x ∧ ∀ j, j ≠ i → channelOf t j = channelOf s j

/-- A channel stored in a sorted table, after others left all but that one alone. -/
theorem becomes_setChannel {s u : State} (hu : tsorted none u.channels = true) {i : Nat}
    (h : ∀ j, j ≠ i → channelOf u j = channelOf s j) (x : Channel) : ChannelBecomes s (setChannel u i x) i x :=
  ⟨channelOf_setChannel hu i x, fun j hj => (channelOf_setChannel_other u x hj).trans (h j hj)⟩

/-- The same for a channel that also counts an event. -/
theorem becomes_channelCnt {s u : State} (hu : tsorted none u.channels = true) {i : Nat}
    (h : ∀ j, j ≠ i → channelOf u j = channelOf s j) (x : Channel) (k w n : Nat) :
    ChannelBecomes s (channelCnt (setChannel u i x) i k w n) i { x with counters := cntAdd x.counters k w n } := by
  unfold channelCnt
  rw [channelOf_setChannel hu]
  exact becomes_setChannel (sorted_setChannel hu _ _) (fun j hj => (channelOf_setChannel_other u x hj).trans (h j hj)) _

/-! ### A fault of the class that the log alone takes -/

theorem mkFault_contained {src : Nat} (u : W32) (syn : Nat) (h : faultClass (BitVec.ofNat 16 src) = .contained) :
    faultClass (mkFault src u syn).source = .contained := h

/-- Nothing that a contained fault's log entry rests on differs between `s` and `u`. -/
theorem logged_of_channels {s u t : State} {f : FaultEvent} (hf : faultClass f.source = .contained)
    (hu : { u with channels := [] } = { s with channels := [] })
    (ht : t.logNext = (logFault u f).logNext ∧ t.log = (logFault u f).log ∧ t.latch = (logFault u f).latch) :
    Logged s t f.source 1 f.unit f.syndrome := by
  obtain ⟨hnext, hlog, hlatch⟩ := ht
  have hlogged := logFault_logged (s := u) hf
  have hunits : unitOf u f.unit = unitOf s f.unit := by
    unfold unitOf
    rw [show u.units = s.units from (congrArg State.units hu :)]
  unfold Logged at hlogged ⊢
  rw [hnext, hlog, hlatch]
  rwa [hunits, show u.logNext = s.logNext from (congrArg State.logNext hu :), show u.log = s.log from (congrArg State.log hu :),
    show u.chunk = s.chunk from (congrArg State.chunk hu :), show u.latch = s.latch from (congrArg State.latch hu :)] at hlogged

/-! ### A refresh that is not performed -/

/-- What a fatal fault leaves of the channels and of the clock on its way into the FAULT state. -/
def SameChannels (s t : State) : Prop := t.channels = s.channels ∧ t.now = s.now

theorem SameChannels.trans {a b c : State} (h : SameChannels a b) (k : SameChannels b c) : SameChannels a c :=
  ⟨k.1.trans h.1, k.2.trans h.2⟩

theorem SameChannels.foldl {α : Type} {g : State → α → State} (h : ∀ s e, SameChannels s (g s e)) (l : List α) (s : State) :
    SameChannels s (l.foldl g s) :=
  ⟨foldl_keep State.channels g (fun s e => (h s e).1) l s, foldl_keep State.now g (fun s e => (h s e).2) l s⟩

theorem sameChannels_abandonEntry (s : State) : SameChannels s (abandonEntry s) := by
  unfold abandonEntry
  split
  · exact ⟨rfl, rfl⟩
  · dsimp only
    split <;> exact ⟨rfl, rfl⟩

theorem sameChannels_abandonFw (s : State) : SameChannels s (abandonFw s) := by
  have hqueue := SameChannels.foldl (g := fun s (p : FwPiece) => requeue s p.resp p.msg) (fun _ _ => ⟨rfl, rfl⟩)
    (((s.boot.update).map (fun u => u.queue)).getD []).reverse s
  unfold abandonFw
  dsimp only
  split <;> exact hqueue

theorem sameChannels_haltWork (s : State) : SameChannels s (haltWork s) := by
  obtain ⟨B, Y, h⟩ := haltWork_rest s
  rw [h]
  exact ⟨rfl, rfl⟩

theorem Says.sameChannels {i : Nat} {s t : State} (h : Says i s t) : SameChannels s t :=
  ⟨(congrArg State.channels h.bare :), (congrArg State.now h.bare :)⟩

theorem sameChannels_modTdm (s : State) (n : Nat) (f : Tdm → Tdm) : SameChannels s (modTdm s n f) := ⟨rfl, rfl⟩

theorem SameChannels.iter {g : Nat → State → State} (h : ∀ k s, SameChannels s (g k s)) (n : Nat) (s : State) :
    SameChannels s (iter g n s) :=
  ⟨iter_keep State.channels g (fun k s => (h k s).1) n s, iter_keep State.now g (fun k s => (h k s).2) n s⟩

theorem sameChannels_clearSlot (s : State) (n i : Nat) : SameChannels s (clearSlot s n i) :=
  (sameChannels_modTdm s n _).trans (sameChannels_modTdm _ n _)

theorem sameChannels_clearPort (s : State) (n : Nat) : SameChannels s (clearPort s n) := by
  unfold clearPort
  exact SameChannels.iter (g := fun i s => clearSlot s n i) (fun i s => sameChannels_clearSlot s n i) 64 s

/-- A fatal fault outside the FAULT state enters it, and leaves the channels as they are (R417). -/
theorem fatal_enters {s : State} (hs : s.fault = none) (f : FaultEvent) :
    (fatal s f).boot.faultN = true ∧ (fatal s f).channels = s.channels ∧
      (fatal s f).fault = some { source := f.source, unit := f.unit, fwReady := !decide (unitType f.unit = 9), since := s.now
                                 reinit := false
                                 lostChannels := if f.source = 0x0209#16 then [unitIdx f.unit] else [] } := by
  have hlogged : (gpCnt (logFault s f) 4).fault = none := by
    obtain ⟨L, A, h⟩ := logFault_rest s f
    rw [h]
    exact hs
  unfold fatal
  simp only [hlogged]
  generalize hu : haltWork (abandonFw (abandonEntry (gpCnt (logFault s f) 4))) = u
  have hsame : SameChannels s u := by
    have hlog : SameChannels s (gpCnt (logFault s f) 4) := by
      obtain ⟨L, A, h⟩ := logFault_rest s f
      rw [h]
      exact ⟨rfl, rfl⟩
    rw [← hu]
    exact ((hlog.trans (sameChannels_abandonEntry _)).trans (sameChannels_abandonFw _)).trans (sameChannels_haltWork _)
  have hmarked := SameChannels.foldl (g := faultMarker f) (fun s e => (faultMarker_says f s e).sameChannels) u.sessions u
  obtain ⟨hchannels, hnow⟩ := (hsame.trans hmarked).trans (SameChannels.iter (g := fun n s =>
    modTdm (clearPort s n) n (fun t => { t with safe := true })) (fun n s => (sameChannels_clearPort s n).trans
      (sameChannels_modTdm _ n _)) 4 _)
  exact ⟨trivial, hchannels, by rw [hnow]; rfl⟩

theorem unitIdx_uChannel (ch : Fin 48) : unitIdx (uChannel ch) = ch.val := by
  unfold unitIdx uChannel unitId
  rw [BitVec.toNat_ofNat]
  omega

theorem unitType_uChannel (ch : Fin 48) : unitType (uChannel ch) = 3 := by
  unfold unitType uChannel unitId
  rw [BitVec.toNat_ofNat]
  omega

/-! ### REFRESH -/

theorem refreshRun_off {s : State} (h : thatchActive s = false) (ch : Nat) (b : Bool) : refreshRun s ch b = s := by
  unfold refreshRun
  exact if_pos (by rw [h]; exact Bool.false_ne_true)

theorem refreshRun_active {s : State} (ha : thatchActive s = true) (ch : Nat) (b : Bool) :
    refreshRun s ch b = if b = true then setChannel s ch { channelOf s ch with refreshes := (channelOf s ch).refreshes + 1 }
      else fatal s (mkFault 0x0209 (uChannel ch) (ch * 2147483648)) := by
  unfold refreshRun
  exact if_neg (not_not_intro ha)

theorem thatchActive_fault {s : State} (ha : thatchActive s = true) : s.fault = none := by
  simp only [thatchActive, Bool.and_eq_true, Option.isNone_iff_eq_none] at ha
  exact ha.1.2

/-- A refresh that is not performed enters the FAULT state, the channel's content lost (R214, R421). -/
theorem refreshRun_missed {s : State} {ch : Fin 48} (ha : thatchActive s = true) :
    (refreshRun s ch false).boot.faultN = true ∧ (refreshRun s ch false).channels = s.channels ∧
      (refreshRun s ch false).fault = some { source := 0x0209#16, unit := uChannel ch, fwReady := true, since := s.now
                                             reinit := false, lostChannels := [ch.val] } := by
  rw [refreshRun_active ha]
  obtain ⟨hfaultN, hchannels, hfault⟩ := fatal_enters (thatchActive_fault ha) (mkFault 0x0209 (uChannel ch) (ch.val * 2147483648))
  refine ⟨hfaultN, hchannels, hfault.trans ?_⟩
  simp only [mkFault, unitType_uChannel, unitIdx_uChannel]
  rfl

/-! ### A fenced channel -/

theorem flashedUnit_fence (s : State) (u : W32) : (flashedUnit s u).fence ≠ .inService := by
  unfold flashedUnit
  split <;> exact fun h => nomatch h

/-- A fault that fences a channel, where no bay and no session lies on it. -/
theorem flashChannel_alone {s : State} {ch source : Nat} (hbays : s.bays = []) (hsess : s.sessions = [])
    (hin : (unitOf s (uChannel ch)).fence = .inService) (hsrc : source ≠ 0) :
    (∃ U, flashChannel s ch source = { s with units := U }) ∧
      (unitOf (flashChannel s ch source) (uChannel ch)).fence ≠ .inService ∧
      ∀ u, u ≠ uChannel ch → unitOf (flashChannel s ch source) u = unitOf s u := by
  generalize hv : setUnit s (uChannel ch) { unitOf s (uChannel ch) with source := source } = v
  have hne : { unitOf s (uChannel ch) with source := source } ≠ unitD := fun h => hsrc (congrArg UnitH.source h)
  have hfence : (unitOf v (uChannel ch)).fence = .inService := by
    rw [← hv, unitOf_setUnit hne]
    exact hin
  have hflash := flash_inService hfence
  have hon : baysOn (flash v (uChannel ch)) ch = [] := by
    have hnone : (flash v (uChannel ch)).bays = [] := by rw [hflash, ← hv]; exact hbays
    unfold baysOn
    rw [hnone]
    rfl
  have hlose : ∀ w : State, w.sessions = [] → loseGroup w ch source = w := fun w hw => by unfold loseGroup; rw [hw]; rfl
  have heq : flashChannel s ch source = setUnit v (uChannel ch) (flashedUnit v (uChannel ch)) := by
    unfold flashChannel
    simp only [hv, hon, List.foldl_nil]
    rw [hlose _ (by rw [hflash, ← hv]; exact hsess), ite_self, hflash]
  rw [heq]
  refine ⟨⟨(setUnit v (uChannel ch) (flashedUnit v (uChannel ch))).units, ?_⟩, ?_, fun u hu => ?_⟩
  · rw [← hv]
    rfl
  · rw [unitOf_setUnit (flashedUnit_ne v (uChannel ch))]
    exact flashedUnit_fence v (uChannel ch)
  · rw [unitOf_setUnit_other _ _ hu, ← hv, unitOf_setUnit_other _ _ hu]

/-! ### PATROL_SCRUB -/

section
variable (s : State) (ch : Nat)

/-- The state in which a scrub runs: where foreground work waits, it has cost a credit (R216). -/
def creditSpent : State := if channelBusy s ch = true then spendCredits s ch else s

/-- A channel after a scrub of its next line, with the lines then known to be bad (R217). -/
def lineScrubbed (x : Channel) (bad : List Nat) : Channel :=
  { x with scrubLine := (x.scrubLine + 1) % channelLines, poisoned := bad, counters := cntAdd x.counters 4 48 1 }

/-- The bad lines of a channel but for the one that is scrubbed. -/
def scrubWipe (x : Channel) : List Nat := x.poisoned.filter (fun l => decide (l ≠ x.scrubLine))

theorem scrub_nothing (h : thatchActive s = false ∨ channelBusy s ch = true ∧ (channelOf s ch).credits = 0) (r : LineRead) :
    scrub s ch r = s := by
  unfold scrub
  exact if_pos (h.imp_left fun hoff => by rw [hoff]; exact Bool.false_ne_true)

theorem creditSpent_frame : { creditSpent s ch with channels := [] } = { s with channels := [] } := by
  unfold creditSpent
  split <;> rfl

theorem creditSpent_other {j : Nat} (hj : j ≠ ch) : channelOf (creditSpent s ch) j = channelOf s j := by
  unfold creditSpent
  split
  · exact channelOf_setChannel_other s _ hj
  · rfl

variable {s} (hs : tsorted none s.channels = true)
include hs

theorem sorted_creditSpent : tsorted none (creditSpent s ch).channels = true := by
  unfold creditSpent
  split
  · exact sorted_setChannel hs _ _
  · exact hs

theorem channelOf_creditSpent : channelOf (creditSpent s ch) ch = { channelOf s ch with
    credits := if channelBusy s ch = true then (channelOf s ch).credits - 1 else (channelOf s ch).credits } := by
  unfold creditSpent
  split
  · exact channelOf_setChannel hs _ _
  · rfl

end

/-- The channel whose next line a scrub finds, its credit spent where foreground work waits. -/
def scrubChannel (s : State) (ch : Nat) : Channel := { channelOf s ch with
  credits := if channelBusy s ch = true then (channelOf s ch).credits - 1 else (channelOf s ch).credits }

/-- What an uncorrectable line held is noted for firmware (R217). -/
def scrubReported (s : State) (h : Option ScrubHit) : State := { s with scrubFound := s.scrubFound ++ h.toList }

/-- What a scrub that runs does with what its read gives (Table 10.4). -/
theorem scrub_runs {s : State} {ch : Nat} (hs : tsorted none s.channels = true) (ha : thatchActive s = true)
    (h : channelBusy s ch = false ∨ 0 < (channelOf s ch).credits) (r : LineRead) :
    scrub s ch r =
      let u := creditSpent s ch
      let x := scrubChannel s ch
      let phys := ch * 2147483648 + x.scrubLine * 128
      match r with
      | .clean => setChannel u ch (lineScrubbed x (scrubWipe x))
      | .corrected => channelCnt (setChannel u ch (lineScrubbed x (scrubWipe x))) ch 2 32 1
      | .uncorrectable =>
        scrubReported (logFault (setChannel u ch (lineScrubbed x (scrubWipe x ++ [x.scrubLine])))
          (mkFault 0x0207 (uChannel ch) (scrubSyn (ownerOf s phys) phys))) (ownerOf s phys) := by
  have hrun : ¬ (¬ thatchActive s = true ∨ channelBusy s ch = true ∧ (channelOf s ch).credits = 0) := by
    rintro (hoff | ⟨hbusy, hnone⟩)
    · exact hoff ha
    · rcases h with h | h
      · rw [h] at hbusy; cases hbusy
      · omega
  have howner : ownerOf (creditSpent s ch) = ownerOf s := by
    have heq : creditSpent s ch = { s with channels := (creditSpent s ch).channels } :=
      congrArg (fun z : State => { z with channels := (creditSpent s ch).channels }) (creditSpent_frame s ch)
    rw [heq]
    rfl
  have hx : channelOf (creditSpent s ch) ch = scrubChannel s ch := channelOf_creditSpent ch hs
  rw [← hx, ← howner]
  unfold scrub
  rw [if_neg hrun]
  cases r <;> rfl

section
variable {s : State} {ch : Fin 48} (hs : tsorted none s.channels = true) (ha : thatchActive s = true)
  (h : channelBusy s ch = false ∨ 0 < (channelOf s ch).credits)

include hs ha h

theorem scrub_clean :
    ChannelBecomes s (scrub s ch .clean) ch (lineScrubbed (scrubChannel s ch) (scrubWipe (channelOf s ch))) ∧
      { scrub s ch .clean with channels := [] } = { s with channels := [] } := by
  rw [scrub_runs hs ha h]
  exact ⟨becomes_setChannel (sorted_creditSpent ch hs) (fun j hj => creditSpent_other s ch hj) _,
    (setChannel_frame ..).trans (creditSpent_frame s ch)⟩

theorem scrub_corrected :
    let y := lineScrubbed (scrubChannel s ch) (scrubWipe (channelOf s ch))
    ChannelBecomes s (scrub s ch .corrected) ch { y with counters := cntAdd y.counters 2 32 1 } ∧
      { scrub s ch .corrected with channels := [] } = { s with channels := [] } := by
  rw [scrub_runs hs ha h]
  exact ⟨becomes_channelCnt (sorted_creditSpent ch hs) (fun j hj => creditSpent_other s ch hj) _ 2 32 1,
    ((channelCnt_frame ..).trans (setChannel_frame ..)).trans (creditSpent_frame s ch)⟩

/-- An uncorrectable line is kept, logged by what it holds, and reported to firmware (R217, Table 10.4). -/
theorem scrub_uncorrectable :
    let phys := ch.val * 2147483648 + (channelOf s ch).scrubLine * 128
    let t := scrub s ch .uncorrectable
    ChannelBecomes s t ch (lineScrubbed (scrubChannel s ch) (scrubWipe (channelOf s ch) ++ [(channelOf s ch).scrubLine])) ∧
      t.scrubFound = s.scrubFound ++ (ownerOf s phys).toList ∧
      Logged s t 0x0207#16 1 (uChannel ch) (BitVec.ofNat 64 (scrubSyn (ownerOf s phys) phys)) ∧
      { t with channels := [], log := [], logNext := 0, latch := none, scrubFound := [] } =
        { s with channels := [], log := [], logNext := 0, latch := none, scrubFound := [] } := by
  intro phys t
  have ht : t = scrubReported (logFault (setChannel (creditSpent s ch) ch (lineScrubbed (scrubChannel s ch)
      (scrubWipe (channelOf s ch) ++ [(channelOf s ch).scrubLine])))
      (mkFault 0x0207 (uChannel ch) (scrubSyn (ownerOf s phys) phys))) (ownerOf s phys) := scrub_runs hs ha h .uncorrectable
  clear_value t
  generalize hu : setChannel (creditSpent s ch) ch _ = u at ht
  have hbecomes : ChannelBecomes s u ch _ :=
    hu ▸ becomes_setChannel (sorted_creditSpent ch hs) (fun j hj => creditSpent_other s ch hj) _
  have hframe : { u with channels := [] } = { s with channels := [] } := by
    rw [← hu]
    exact (setChannel_frame ..).trans (creditSpent_frame s ch)
  have hfound : u.scrubFound = s.scrubFound := (congrArg State.scrubFound hframe :)
  generalize hf : mkFault 0x0207 (uChannel ch) (scrubSyn (ownerOf s phys) phys) = f at ht
  obtain ⟨L, A, hlog⟩ := logFault_rest u f
  generalize hv : logFault u f = v at ht hlog
  have hlogged := logged_of_channels (t := t) (f := f) (hf ▸ mkFault_contained _ _ (by decide)) hframe (by rw [hv, ht]; exact ⟨rfl, rfl, rfl⟩)
  rw [← hf] at hlogged
  refine ⟨?_, ?_, hlogged, ?_⟩
  all_goals rw [ht, hlog]
  · exact hbecomes
  · exact congrArg (· ++ _) hfound
  · exact (congrArg (fun z : State => { z with log := [], logNext := 0, latch := none, scrubFound := [] }) hframe :)

end

/-! ### PHY_RECALIBRATION -/

theorem recalibrate_nothing {s : State} {ch : Nat} {forced : Bool} (h : thatchActive s = false ∨
      forced = true ∧ ((channelOf s ch).credits < creditMax ∨ s.now < (channelOf s ch).recalAt + Config.cyclesPerSecond) ∨
      forced = false ∧ channelBusy s ch = true) (ok : Bool) : recalibrate s ch forced ok = s := by
  unfold recalibrate
  rcases h with h | h | h
  · simp [h]
  · simp [h]
  · simp [h]

theorem recalibrate_forced {s : State} {ch : Nat} (ha : thatchActive s = true) (hc : creditMax ≤ (channelOf s ch).credits)
    (ht : (channelOf s ch).recalAt + Config.cyclesPerSecond ≤ s.now) :
    recalibrate s ch true true = channelCnt (setChannel s ch { channelOf s ch with recalAt := s.now, credits := 0 }) ch 5 32 1 := by
  unfold recalibrate
  simp [ha, Nat.not_lt.mpr hc, Nat.not_lt.mpr ht]

theorem recalibrate_idle {s : State} {ch : Nat} (ha : thatchActive s = true) (hb : channelBusy s ch = false) (ok : Bool) :
    recalibrate s ch false ok =
      let u := setChannel s ch { channelOf s ch with recalAt := s.now }
      if ok = true then u
      else flashChannel (logFault u (mkFault 0x0208 (uChannel ch) (ch * Config.channelBytes))) ch 0x0208 := by
  unfold recalibrate
  simp [ha, hb]

/-- A recalibration that fails fences its channel, and is logged by the channel's first byte (R218). -/
theorem recalibrate_fails {s : State} {ch : Fin 48} (hs : tsorted none s.channels = true) (ha : thatchActive s = true)
    (hb : channelBusy s ch = false) (hbays : s.bays = []) (hsess : s.sessions = [])
    (hin : (unitOf s (uChannel ch)).fence = .inService) :
    let t := recalibrate s ch false false
    ChannelBecomes s t ch { channelOf s ch with recalAt := s.now } ∧
      Logged s t 0x0208#16 1 (uChannel ch) (BitVec.ofNat 64 (ch.val * 2147483648)) ∧
      (unitOf t (uChannel ch)).fence ≠ .inService ∧ (∀ u, u ≠ uChannel ch → unitOf t u = unitOf s u) ∧
      { t with channels := [], units := [], log := [], logNext := 0, latch := none } =
        { s with channels := [], units := [], log := [], logNext := 0, latch := none } := by
  intro t
  have ht : t = flashChannel (logFault (setChannel s ch { channelOf s ch with recalAt := s.now })
      (mkFault 0x0208 (uChannel ch) (ch.val * 2147483648))) ch 0x0208 := recalibrate_idle ha hb false
  clear_value t
  generalize hu : setChannel s ch _ = u at ht
  have hbecomes : ChannelBecomes s u ch _ := hu ▸ becomes_setChannel hs (fun _ _ => rfl) _
  have hframe : { u with channels := [] } = { s with channels := [] } := by rw [← hu]; exact setChannel_frame ..
  generalize hf : mkFault 0x0208 (uChannel ch) (ch.val * 2147483648) = f at ht
  obtain ⟨L, A, hlog⟩ := logFault_rest u f
  generalize hv : logFault u f = v at ht hlog
  have hunits : ∀ w, unitOf v w = unitOf s w := fun w => by
    unfold unitOf
    rw [show v.units = s.units from (congrArg State.units hlog).trans (congrArg State.units hframe :)]
  obtain ⟨⟨U, hflash⟩, hfence, hother⟩ := flashChannel_alone (s := v) (ch := ch) (source := 0x0208)
    ((congrArg State.bays hlog).trans ((congrArg State.bays hframe :).trans hbays))
    ((congrArg State.sessions hlog).trans ((congrArg State.sessions hframe :).trans hsess))
    (by rw [hunits]; exact hin) (by decide)
  rw [← ht] at hflash hfence hother
  have hlogged := logged_of_channels (t := t) (f := f) (hf ▸ mkFault_contained _ _ (by decide)) hframe
    (by rw [hv, hflash]; exact ⟨rfl, rfl, rfl⟩)
  rw [← hf] at hlogged
  refine ⟨?_, hlogged, hfence, fun w hw => (hother w hw).trans (hunits w), ?_⟩
  all_goals rw [hflash, hlog]
  · exact hbecomes
  · exact (congrArg (fun z : State => { z with units := [], log := [], logNext := 0, latch := none }) hframe :)

/-! ### PAGE_REWRITE_COMPLETE -/

theorem pageRewritten_lost {s : State} {id : W64} {kind page : Nat} {b : Build} (hb : buildOf s id = some b)
    (h : b.copies.all (fun c => c.badPages.contains page) = true) : pageRewritten s id kind page = s := by
  have hgone : ¬ pageIntact b page = true := by
    intro hintact
    obtain ⟨c, hc, hi⟩ := List.any_eq_true.mp hintact
    unfold copyIntact at hi
    rw [List.all_eq_true.mp h c hc] at hi
    cases hi
  unfold pageRewritten
  simp only [hb, if_neg hgone]

theorem pageRewritten_mends {s : State} {id : W64} {kind page : Nat} {b : Build} (hb : buildOf s id = some b)
    (h : b.copies.any (fun c => !c.badPages.contains page) = true) : pageRewritten s id kind page = pageMended s id kind page := by
  unfold pageRewritten
  simp only [hb]
  exact if_pos h

/-- Settles O54: one lemma for each outcome of a refresh, a scrub and a recalibration, and for the rewrite of a page. -/
theorem channelsAreKeptUp : Obligations.ChannelsAreKeptUp := by
  unfold Obligations.ChannelsAreKeptUp
  intro s ch hs x Becomes Only Logs wipe busy y
  have hstored : ∀ {i z}, exec i s = .next (setChannel s ch z) → Only i z := fun h =>
    ⟨_, h, becomes_setChannel hs (fun _ _ => rfl) _, setChannel_frame ..⟩
  refine ⟨hstored rfl, fun hoff => ⟨fun b => ?_, fun r => ?_, fun f ok => ?_⟩, fun ha => ⟨hstored ?_, ?_, fun hb hc r => ?_,
    fun h => ?_, fun h => ?_, fun h => ?_, fun h ok => ?_, fun hc ht => ?_, fun hb ok => ?_, fun hb => ?_,
    fun hb hbays hsess hin => ?_⟩, fun id kind page b hb => ⟨fun h => ?_, fun h => ?_⟩⟩
  · exact congrArg Host.Outcome.next (refreshRun_off hoff ch b)
  · exact congrArg Host.Outcome.next (scrub_nothing s ch (.inl hoff) r)
  · exact congrArg Host.Outcome.next (recalibrate_nothing (.inl hoff) ok)
  · exact congrArg Host.Outcome.next (refreshRun_active ha ch true)
  · obtain ⟨hfaultN, hchannels, hfault⟩ := refreshRun_missed (ch := ch) ha
    exact ⟨_, rfl, hfaultN, hchannels, hfault⟩
  · exact congrArg Host.Outcome.next (scrub_nothing s ch (.inr ⟨hb, hc⟩) r)
  · obtain ⟨hbecomes, hframe⟩ := scrub_clean hs ha h
    exact ⟨_, rfl, hbecomes, hframe⟩
  · obtain ⟨hbecomes, hframe⟩ := scrub_corrected hs ha h
    exact ⟨_, rfl, hbecomes, hframe⟩
  · obtain ⟨hbecomes, hfound, hlogged, hframe⟩ := scrub_uncorrectable hs ha h
    exact ⟨_, rfl, hbecomes, hfound, hlogged, hframe⟩
  · exact congrArg Host.Outcome.next (recalibrate_nothing (.inr (.inl ⟨rfl, h⟩)) ok)
  · exact ⟨_, congrArg Host.Outcome.next (recalibrate_forced ha hc ht), becomes_channelCnt hs (fun _ _ => rfl) _ 5 32 1,
      (channelCnt_frame ..).trans (setChannel_frame ..)⟩
  · exact congrArg Host.Outcome.next (recalibrate_nothing (.inr (.inr ⟨rfl, hb⟩)) ok)
  · exact hstored (congrArg Host.Outcome.next (recalibrate_idle ha hb true))
  · obtain ⟨hbecomes, hlogged, hfence, hother, hframe⟩ := recalibrate_fails hs ha hb hbays hsess hin
    exact ⟨_, rfl, hbecomes, hlogged, hfence, hother, hframe⟩
  · exact congrArg Host.Outcome.next (pageRewritten_lost hb h)
  · obtain ⟨c, hc, hi⟩ := List.any_eq_true.mp h
    exact ⟨_, buildMended kind page b, congrArg Host.Outcome.next (pageRewritten_mends hb h),
      by rw [buildOf_pageMended, hb, Option.map_some, if_pos rfl], rfl, requested_buildMended kind page hc (.inl hi),
      buildMended_rest kind page b, fun j hj => by rw [buildOf_pageMended]; simp [hj], bays_pageMended s id kind page,
      pageMended_frame s id kind page⟩

end Sys2Proof.Machine
end

section
/-!
PROOFS. RING_OUTPUT_TAKE where a ring's count lies beyond its 32 bits (O32, R213, R253).
-/
namespace Sys2Proof.Machine

open Sys2Proof

/-- A count that is taken modulo 2^32 (R250), held beyond that, in a ring of three places: the entry at the count as it is held, and
the one at its residue, lie in different places. The first tells of 65,535 samples, the second of none. -/
def ringBeyond : SRing :=
  { base := 0, entryBytes := 64, entries := 3, io := 4294967296, planA := 1, planB := 1, dir := 0
    data := [(1, zeros 16 ++ [0xFF, 0xFF] ++ zeros 46)] }

/-- An attached session whose audio leaves on LMX, in 24 bits, with that ring as ring 2. -/
def sessionBeyond : Session :=
  { (default : Session) with st := .idle, bindFlags := 1, encoding := 1, rings := [(2, ringBeyond)], home := some 0
                             attach := some { yealm := 0, slot := 0, ready := true, effective := true } }

/-- A device that holds that session. -/
def outputBeyond : State := { State.reset with sessions := [(0, sessionBeyond)] }

/-- A chunk for which the slot's traffic has no room stays in its ring (R213). -/
theorem takeChunk_waits {s : State} {i : Nat} {x : Session} (hx : sessOf s i = some x)
    (h : ioFits s x (chunkCost s i x (entryGet (sringOf x 2) (sringOf x 2).io)) = false) : takeChunk i s = s := by
  unfold takeChunk
  simp only [hx, h, Bool.false_eq_true, not_false_eq_true, if_true]

theorem takeOutput_outputBeyond : takeOutput outputBeyond 0 = outputBeyond := by
  have hone : published outputBeyond 0 2 = 1 := by decide
  have hstays : takeChunk 0 outputBeyond = outputBeyond := takeChunk_waits (x := sessionBeyond) rfl (by decide)
  have hiter : iter (fun _ s => takeChunk 0 s) 1 outputBeyond = outputBeyond := hstays
  unfold takeOutput
  simp only [show sessOf outputBeyond 0 = some sessionBeyond from rfl, hone, hiter]
  rfl

/-- Refutes O32: the room that it asks for is that of the entry at the count's residue, and the entry taken is the one at the count as
it is held. In `outputBeyond` the chunk taken needs 196,669 bytes, has room for 65,536 and stays in its ring. -/
theorem not_outputIsTakenFromTheRings : ¬ Obligations.OutputIsTakenFromTheRings := by
  unfold Obligations.OutputIsTakenFromTheRings
  intro h
  obtain ⟨-, -, htaken, -⟩ := h outputBeyond 0 sessionBeyond rfl
  obtain ⟨t, hexec, hnone, -⟩ := htaken rfl (by decide) (by decide) (by decide) (by decide) (by decide) (by decide)
  obtain rfl : outputBeyond = t := takeOutput_outputBeyond.symm.trans (Host.Outcome.next.inj hexec)
  exact absurd hnone (by decide)

end Sys2Proof.Machine
end

section
/-!
PROOFS. SCHEDULE_OVERRUN and LINK_STALL (O52): a link on which a step waits is logged and fenced, and the step fails (R258 to R260).
-/
namespace Sys2Proof.Machine

open Sys2Proof

/-! ### The unit of a link -/

/-- Unit identifiers are words, so every one of them is the identifier of some index counted from core 0: what is proved of
`uCore c` at any `c` holds of a link too. -/
theorem exists_uCore (u : W32) : ∃ c, u = uCore c := by
  refine ⟨u.toNat + 4278190080, BitVec.eq_of_toNat_eq ?_⟩
  unfold uCore unitId
  rw [BitVec.toNat_ofNat]
  omega

theorem linkSyn_unit (s : State) (u : W32) : (BitVec.ofNat 64 (linkSyn s u)).toNat / 2 ^ 32 = unitIdx u := by
  have hword := (Config.freeWord s.fresh).isLt
  unfold linkSyn unitIdx
  rw [BitVec.toNat_ofNat]
  omega

section
variable {s : State} {f : FaultEvent}

/-- A fault of a link in service fails the step that waits on it (R260). -/
theorem linkFault_contained {b gid y : Nat} {v : Yealm} {x : Bay} (hf : faultClass f.source = .contained)
    (hin : (unitOf s f.unit).fence = .inService) (hs : tsorted none s.cores = true) (hv : yealmOf s y = some v)
    (hx : bayOf s b = some x) (h : v.attempts < 3 ∨ claimants s y = []) :
    Contained s (linkFault s b gid y f) f.source f.unit f.syndrome b gid y v x := by
  obtain ⟨c, hc⟩ := exists_uCore f.unit
  unfold linkFault
  rw [hc] at hin ⊢
  rw [flash_logFault hin]
  exact failWork_contained hf hc hs hv hx h

/-- A fault of a link in service that no step waits on is logged, and the link fenced (R348, R409). -/
theorem linkFlashed (hf : faultClass f.source = .contained) (hin : (unitOf s f.unit).fence = .inService) :
    Logged s (flash (logFault s f) f.unit) f.source 1 f.unit f.syndrome ∧
      (unitOf (flash (logFault s f) f.unit) f.unit).fence ≠ .inService ∧
      { flash (logFault s f) f.unit with units := [], log := [], logNext := 0, latch := none } =
        { s with units := [], log := [], logNext := 0, latch := none } := by
  obtain ⟨c, hc⟩ := exists_uCore f.unit
  obtain ⟨hnum, hlast, hdrop, hlatch⟩ := logFault_logged (s := s) hf
  rw [hc] at hin hlast hlatch ⊢
  rw [flash_logFault hin]
  refine ⟨?_, ?_, ?_⟩
  · rw [fencedFor_rest]
    dsimp only [Logged]
    exact ⟨hnum, hlast, hdrop, hlatch⟩
  · exact (congrArg UnitH.fence (unitOf_setUnit (flashedUnit_ne s _))).trans_ne (flashedUnit_fence s _)
  · rw [fencedFor_rest]

end

/-! ### SCHEDULE_OVERRUN -/

section
variable {s : State} {c u : Nat}

theorem overrunAt_nothing (h : coreRuns s c = false ∨ overrunSem s (coreOf s c) u = none) : overrunAt s c u = s := by
  unfold overrunAt
  rcases h with h | h
  · exact if_pos (by rw [h]; decide)
  · split
    · rfl
    · simp only [h]
      cases (coreOf s c).ctx <;> rfl

theorem overrunAt_waits {k : CoreCtx} {sem : Byte} (hrun : coreRuns s c = true) (hctx : (coreOf s c).ctx = some k)
    (hsem : overrunSem s (coreOf s c) u = some sem) {lu : W32}
    (hlu : uLink k.bay (waitLink (coreOf s c) k sem).1 (waitLink (coreOf s c) k sem).2 = lu) :
    overrunAt s c u = linkFault { s with fresh := s.fresh + 1 } k.bay k.group k.yealm (mkFault 0x0114 lu (linkSyn s lu)) := by
  unfold overrunAt
  rw [if_neg (not_not_intro hrun)]
  simp only [hctx, hsem, hlu]

end

/-! ### LINK_STALL -/

section
variable {s : State} {b idx ring : Nat}

/-- A core of a bay that waits on a link. -/
def stalled (b idx ring : Nat) (e : Nat × Core) : Bool :=
  ((e.2.ctx.map (fun k => decide (k.bay = b))).getD false) && waitsOn e.2 idx ring

theorem stalled_iff {e : Nat × Core} :
    stalled b idx ring e = true ↔ ∃ q, e.2.ctx = some q ∧ q.bay = b ∧ waitsOn e.2 idx ring = true := by
  unfold stalled
  cases e.2.ctx <;> simp

theorem linkStalls_eq (s : State) (b idx ring : Nat) : linkStalls s b idx ring =
    match (s.cores.find? (stalled b idx ring)).bind (fun e => e.2.ctx) with
    | some k => linkFault { s with fresh := s.fresh + 1 } b k.group k.yealm
        (mkFault 0x0115 (uLink b idx ring) (linkSyn s (uLink b idx ring)))
    | none => if carrierWaits s b ring then flash (logFault { s with fresh := s.fresh + 1 }
        (mkFault 0x0115 (uLink b idx ring) (linkSyn s (uLink b idx ring)))) (uLink b idx ring) else s := rfl

theorem coreOf_of_mem (hs : tsorted none s.cores = true) {e : Nat × Core} (he : e ∈ s.cores) : coreOf s e.1 = e.2 := by
  unfold coreOf tget
  rw [tfind_of_mem hs he]
  rfl

theorem mem_cores {c : Nat} {k : CoreCtx} (hctx : (coreOf s c).ctx = some k) : (c, coreOf s c) ∈ s.cores := by
  unfold coreOf tget at hctx ⊢
  cases h : tfind s.cores c with
  | none => rw [h] at hctx; cases hctx
  | some x => exact mem_of_tfind h

variable (hs : tsorted none s.cores = true)
include hs

/-- The one core that waits on a link is the one found. -/
theorem find_stalled {c : Nat} {k : CoreCtx} (hctx : (coreOf s c).ctx = some k) (hbay : k.bay = b)
    (hwait : waitsOn (coreOf s c) idx ring = true)
    (hone : ∀ e q, (coreOf s e).ctx = some q → q.bay = b → waitsOn (coreOf s e) idx ring = true → e = c) :
    s.cores.find? (stalled b idx ring) = some (c, coreOf s c) := by
  cases h : s.cores.find? (stalled b idx ring) with
  | none => exact absurd (stalled_iff.mpr ⟨k, hctx, hbay, hwait⟩) (List.find?_eq_none.mp h _ (mem_cores hctx))
  | some e =>
    have hcore := coreOf_of_mem hs (List.mem_of_find?_eq_some h)
    obtain ⟨q, hq, hqb, hqw⟩ := stalled_iff.mp (List.find?_some h)
    rw [← hcore] at hq hqw
    rw [← hone e.1 q hq hqb hqw, hcore]

theorem find_stalled_none (hnone : ∀ e q, (coreOf s e).ctx = some q → q.bay = b → waitsOn (coreOf s e) idx ring = false) :
    s.cores.find? (stalled b idx ring) = none := by
  refine List.find?_eq_none.mpr fun e he hwaits => ?_
  have hcore := coreOf_of_mem hs he
  obtain ⟨q, hq, hqb, hqw⟩ := stalled_iff.mp hwaits
  rw [← hcore] at hq hqw
  exact absurd hqw (by rw [hnone e.1 q hq hqb]; decide)

theorem linkStalls_waited {c : Nat} {k : CoreCtx} (hctx : (coreOf s c).ctx = some k) (hbay : k.bay = b)
    (hwait : waitsOn (coreOf s c) idx ring = true)
    (hone : ∀ e q, (coreOf s e).ctx = some q → q.bay = b → waitsOn (coreOf s e) idx ring = true → e = c) :
    linkStalls s b idx ring = linkFault { s with fresh := s.fresh + 1 } k.bay k.group k.yealm
      (mkFault 0x0115 (uLink b idx ring) (linkSyn s (uLink b idx ring))) := by
  rw [linkStalls_eq, find_stalled hs hctx hbay hwait hone, Option.bind_some, hctx, hbay]

theorem linkStalls_unwaited (hnone : ∀ e q, (coreOf s e).ctx = some q → q.bay = b → waitsOn (coreOf s e) idx ring = false) :
    linkStalls s b idx ring = if carrierWaits s b ring then flash (logFault { s with fresh := s.fresh + 1 }
      (mkFault 0x0115 (uLink b idx ring) (linkSyn s (uLink b idx ring)))) (uLink b idx ring) else s := by
  rw [linkStalls_eq, find_stalled_none hs hnone]
  rfl

end

/-- Settles O52: the link's fault by `linkFault_contained` where a step waits, by `linkFlashed` where firmware alone does. -/
theorem lateStepsAndStalledLinksFail : Obligations.LateStepsAndStalledLinksFail := by
  unfold Obligations.LateStepsAndStalledLinksFail
  intro s hs Fails
  refine ⟨fun c u => ⟨fun h => congrArg Host.Outcome.next (overrunAt_nothing h), ?overrun⟩,
    fun b idx ring x hx hin => ⟨?waited, fun hnone hidle => ?idle, fun hnone hcarry => ?carried⟩⟩
  case overrun =>
    intro k sem v x hrun hctx hsem hv hx hatt l hin
    refine ⟨_, _, congrArg Host.Outcome.next (overrunAt_waits hrun hctx hsem rfl), linkSyn_unit s _, ?_⟩
    exact linkFault_contained (s := { s with fresh := s.fresh + 1 }) rfl hin hs hv hx hatt
  case waited =>
    intro c k v hctx hbay hwait hone hv hatt
    refine ⟨_, _, congrArg Host.Outcome.next (linkStalls_waited hs hctx hbay hwait hone), linkSyn_unit s _, ?_⟩
    exact linkFault_contained (s := { s with fresh := s.fresh + 1 }) rfl hin hs hv (hbay ▸ hx) hatt
  case idle =>
    exact congrArg Host.Outcome.next ((linkStalls_unwaited hs hnone).trans (if_neg (by rw [hidle]; decide)))
  case carried =>
    obtain ⟨hlogged, hfence, hframe⟩ := linkFlashed (s := { s with fresh := s.fresh + 1 })
      (f := mkFault 0x0115 (uLink b idx.toNat ring.toNat) (linkSyn s (uLink b idx.toNat ring.toNat))) rfl hin
    refine ⟨_, _, congrArg Host.Outcome.next ((linkStalls_unwaited hs hnone).trans (if_pos hcarry)), hlogged, hfence, ?_⟩
    exact congrArg (fun t : State => { t with fresh := 0 }) hframe

end Sys2Proof.Machine
end

section
/-!
PROOFS. A command that is not legal (O53): its core's stream spells another, or none, or its header breaks Table 11.7 (R233, R235, R267).
-/
namespace Sys2Proof.Machine

open Sys2Proof

theorem exec_coreCmd {i : Instr} {c : Fin 64} {h : CmdHdr} {op : CoreOp} (hi : coreCmd i = some (c, h, op)) (s : State) :
    exec i s = .next (submit s c h op) := by
  cases i <;> cases hi <;> rfl

section
variable {s : State} {c : Nat} {h : CmdHdr} {op : CoreOp}

/-! ### What a command that comes does -/

theorem submit_other (hn : nextCmd (coreOf s c) h op = .other) : submit s c h op = s := by
  unfold submit
  exact if_pos (.inr (.inr hn))

section
variable (hrun : coreRuns s c = true) (hw : (coreOf s c).window = [])
include hrun hw

theorem submit_malformed {u : Nat} (hn : nextCmd (coreOf s c) h op = .malformed u) :
    submit s c h op = cmdFault s c 0x0117 u (coreOf s c).fetchIndex := by
  unfold submit
  rw [if_neg (by simp [hrun, hw, hn])]
  simp only [hn]

/-- A command that is the next one of its stream comes into the empty window. -/
theorem submit_given (hl : (coreOf s c).loop = none) (hn : nextCmd (coreOf s c) h op = .given) :
    submit s c h op = advanceCore (setCore s c (arrived s c h op)) c := by
  unfold submit
  rw [if_neg (by simp [hrun, hw, hn])]
  simp only [hn, hl]
  cases op <;> simp only [arrived, hw, List.nil_append, atIssue, coreAdd]

end

/-! ### A header at dispatch -/

theorem worksFor_setCore {x : Core} (hs : tsorted none s.cores = true) (hctx : x.ctx = (coreOf s c).ctx) (b gid e : Nat) :
    worksFor (setCore s c x) b gid e = worksFor s b gid e := by
  unfold worksFor
  by_cases he : c = e
  · rw [← he, coreOf_setCore_sorted hs, hctx]
  · rw [coreOf_setCore_other s x he]

theorem length_workCores_setCore {x : Core} (hs : tsorted none s.cores = true) (hctx : x.ctx = (coreOf s c).ctx) (b gid : Nat) :
    (workCores (setCore s c x) b gid).length = (workCores s b gid).length := by
  have hset := sorted_setCore hs c x
  refine ((List.perm_ext_iff_of_nodup (workCores_nodup hset b gid) (workCores_nodup hs b gid)).mpr fun e => ?_).length_eq
  rw [mem_workCores hset, mem_workCores hs, worksFor_setCore hs hctx]

theorem hdrOk_setCore {x : Core} (hs : tsorted none s.cores = true) (hctx : x.ctx = (coreOf s c).ctx)
    (hprog : x.prog = (coreOf s c).prog) : hdrOk (setCore s c x) x h = hdrOk s (coreOf s c) h := by
  unfold hdrOk
  simp only [hctx, hprog, length_workCores_setCore hs hctx]

theorem dispatchOne_illegal {q : QCmd} {rest : List QCmd} (hw : (coreOf s c).window = q :: rest)
    (he : (coreOf s c).stepEnded = false) (hh : hdrOk s (coreOf s c) q.hdr = false) :
    dispatchOne s c = some (cmdFault s c 0x0117 (opUnit q.op) q.index) := by
  unfold dispatchOne
  simp only [hw, he, hh]
  rfl

/-- Where a dispatch leaves a core with nothing to do, the core goes no further. -/
theorem advance_dispatched {t : State} (hd : dispatchOne s c = some t) (hw : (coreOf t c).window = [])
    (hq : ∀ k, (unitQ (coreOf t c) k).queue = []) (n : Nat) : advance c (n + 1) s = t := by
  unfold advance cycle
  simp only [hd, issueFrom_none t c hq]
  exact advance_stop t c n hw hq

end

/-! ### The fault of a command -/

section
variable {s : State} {c : Nat} {k : CoreCtx} {v : Yealm} {x : Bay}

theorem worksFor_self {k : CoreCtx} (hctx : (coreOf s c).ctx = some k) : worksFor s k.bay k.group c = true := by
  unfold worksFor
  rw [hctx]
  exact decide_eq_true ⟨rfl, rfl⟩

/-- A core of the step that has failed holds no command. -/
theorem contained_stops {t : State} {src : W16} {w : W32} {syn : W64} {y : Nat} {k : CoreCtx} (hctx : (coreOf s c).ctx = some k)
    (h : Contained s t src w syn k.bay k.group y v x) :
    (coreOf t c).window = [] ∧ ∀ n, (unitQ (coreOf t c) n).queue = [] := by
  obtain ⟨-, -, -, ⟨hstop, -⟩, -⟩ := h
  obtain ⟨-, hunits, hrest⟩ := hstop c (worksFor_self hctx)
  exact ⟨congrArg Core.window hrest, fun n => (hunits n).1⟩

/-- What a contained fault leaves is said of a state by its cores one by one, and of a core that stops not by its window or its loop. -/
theorem contained_of_cores {u t : State} {C : Tab Core} {src : W16} {w : W32} {syn : W64} {b gid y : Nat} (hu : u = { s with cores := C })
    (hworks : ∀ e, worksFor u b gid e = worksFor s b gid e)
    (hstops : ∀ e z, worksFor s b gid e = true → Stopped (coreOf u e) z → Stopped (coreOf s e) z)
    (hkeeps : ∀ e, worksFor s b gid e = false → coreOf u e = coreOf s e) (h : Contained u t src w syn b gid y v x) :
    Contained s t src w syn b gid y v x := by
  obtain ⟨hlog, hunit, hunits, ⟨hstop, hkeep, hspills, hmesh, hwork⟩, hframe⟩ := h
  simp only [hworks] at hstop hkeep hmesh
  have hstop' := fun e he => hstops e _ he (hstop e he)
  have hkeep' := fun e he => (hkeep e he).trans (hkeeps e he)
  subst hu
  exact ⟨hlog, hunit, hunits, ⟨hstop', hkeep', hspills, hmesh, hwork⟩, hframe⟩

/-- Two versions of a core whose step fails differ in nothing that it keeps. -/
theorem contained_setCore {t : State} {src : W16} {w : W32} {syn : W64} {y : Nat} {k : CoreCtx} {a b : Core}
    (hs : tsorted none s.cores = true) (ha : a.ctx = (coreOf s c).ctx) (hb : b.ctx = (coreOf s c).ctx) (hctx : (coreOf s c).ctx = some k)
    (hstop : ∀ z, Stopped a z → Stopped b z) (h : Contained (setCore s c a) t src w syn k.bay k.group y v x) :
    Contained (setCore s c b) t src w syn k.bay k.group y v x := by
  refine contained_of_cores (u := setCore s c a) rfl (fun e => ?_) (fun e z _ hz => ?_) (fun e hf => ?_) h
  · rw [worksFor_setCore hs ha, worksFor_setCore hs hb]
  · by_cases hne : c = e
    · rw [← hne, coreOf_setCore_sorted hs] at hz ⊢
      exact hstop z hz
    · rw [coreOf_setCore_other s _ hne] at hz ⊢
      exact hz
  · rw [worksFor_setCore hs hb] at hf
    have hne : c ≠ e := fun heq => absurd (heq ▸ worksFor_self hctx) (by rw [hf]; decide)
    rw [coreOf_setCore_other s _ hne, coreOf_setCore_other s _ hne]

/-- A command that raises source 0x0117 fails the step of its core, its unit and its index in the syndrome (R267, Table 17.2). -/
theorem cmdFault_contained (hrun : coreRuns s c = true) (hctx : (coreOf s c).ctx = some k) (hs : tsorted none s.cores = true)
    (hv : yealmOf s k.yealm = some v) (hx : bayOf s k.bay = some x) (h : v.attempts < 3 ∨ claimants s k.yealm = []) (unit index : Nat) :
    Contained s (cmdFault s c 0x0117 unit index) 0x0117#16 (uCore c) (BitVec.ofNat 64 (unit * 2 ^ 40 + index % 2 ^ 32))
      k.bay k.group k.yealm v x := by
  have hin : (unitOf s (uCore c)).fence = .inService := by
    simp only [coreRuns, fenced, Bool.and_eq_true, Bool.not_eq_true', decide_eq_false_iff_not, not_not] at hrun
    exact hrun.1.2
  have hsyn : coreSyn 0 unit index = unit * 2 ^ 40 + index % 2 ^ 32 := by unfold coreSyn; omega
  have hcore : ∀ e, coreOf (setCore s c (coreOf s c)) e = coreOf s e := fun e => by
    by_cases he : c = e
    · rw [← he, coreOf_setCore_sorted hs]
    · exact coreOf_setCore_other s _ he
  have hfault : cmdFault s c 0x0117 unit index = coreFault s c (mkFault 0x0117 (uCore c) (unit * 2 ^ 40 + index % 2 ^ 32)) := by
    rw [← hsyn]
    rfl
  rw [hfault, coreFault_eq hctx hin]
  refine contained_of_cores (u := setCore s c (coreOf s c)) rfl (worksFor_setCore hs rfl _ _) (fun e z _ hz => hcore e ▸ hz)
    (fun e _ => hcore e) ?_
  exact failWork_contained rfl rfl (sorted_setCore hs _ _) hv hx h

variable {h : CmdHdr} {op : CoreOp}

/-- A command with an illegal header is fetched, and fails its step at dispatch (R235). -/
theorem submit_illegal (hrun : coreRuns s c = true) (hw : (coreOf s c).window = []) (hl : (coreOf s c).loop = none)
    (he : (coreOf s c).stepEnded = false) (hn : nextCmd (coreOf s c) h op = .given) (hh : hdrOk s (coreOf s c) h = false)
    (hctx : (coreOf s c).ctx = some k) (hs : tsorted none s.cores = true) (hv : yealmOf s k.yealm = some v)
    (hx : bayOf s k.bay = some x) (hatt : v.attempts < 3 ∨ claimants s k.yealm = []) :
    Contained (setCore s c { coreOf s c with fetchIndex := (coreOf s c).fetchIndex + 1 }) (submit s c h op) 0x0117#16 (uCore c)
      (BitVec.ofNat 64 (opUnit op * 2 ^ 40 + (coreOf s c).fetchIndex % 2 ^ 32)) k.bay k.group k.yealm v x := by
  have hcore : coreOf (setCore s c (arrived s c h op)) c = arrived s c h op := coreOf_setCore_sorted hs c _
  have hrun' : coreRuns (setCore s c (arrived s c h op)) c = true := by
    unfold coreRuns at hrun ⊢
    rw [hcore]
    exact hrun
  have hfault := cmdFault_contained hrun' (by rw [hcore]; exact hctx) (sorted_setCore hs c _) hv hx hatt (opUnit op) (coreOf s c).fetchIndex
  have hdispatch : dispatchOne (setCore s c (arrived s c h op)) c =
      some (cmdFault (setCore s c (arrived s c h op)) c 0x0117 (opUnit op) (coreOf s c).fetchIndex) :=
    dispatchOne_illegal (q := { hdr := h, op := op, slot := 0, taken := false, index := (coreOf s c).fetchIndex }) (rest := [])
      (congrArg Core.window hcore) ((congrArg Core.stepEnded hcore).trans he)
      (by rw [hcore]; exact (hdrOk_setCore (x := arrived s c h op) hs rfl rfl).trans hh)
  obtain ⟨hwindow, hqueues⟩ := contained_stops (by rw [hcore]; exact hctx) hfault
  rw [submit_given hrun hw hl hn, advanceCore, advance_dispatched hdispatch hwindow hqueues]
  exact contained_setCore (a := arrived s c h op) hs rfl rfl hctx (fun _ hz => hz) hfault

end

/-- Settles O53: the stream is asked first (`submit_other`, `submit_malformed`), the header at dispatch (`submit_illegal`). -/
theorem illegalHeadersFault : Obligations.IllegalHeadersFault := by
  unfold Obligations.IllegalHeadersFault
  intro s i c h op k v x hi hrun hw hl he hq hctx hv hx hs hatt y
  refine ⟨fun hn => ?_, fun hn hh => ⟨_, exec_coreCmd hi s, ?_⟩, fun u hn => ⟨_, exec_coreCmd hi s, ?_⟩⟩
  · rw [exec_coreCmd hi, submit_other hn]
  · exact submit_illegal hrun hw hl he hn hh hctx hs hv hx hatt
  · rw [submit_malformed hrun hw hn]
    exact cmdFault_contained hrun hctx hs hv hx hatt u _

end Sys2Proof.Machine
end

section
/-!
PROOFS. The last command of a SLOT_LOOP's body (O38, R262, R265): it comes into the command window where that has room for it.
-/
namespace Sys2Proof.Machine

open Sys2Proof

section
variable {s : State} {c : Nat} {h : CmdHdr} {op : CoreOp}

/-- A window that holds 64 commands takes no other (R262). -/
theorem submit_windowFull (hw : 64 ≤ (coreOf s c).window.length) : submit s c h op = s := by
  unfold submit
  exact if_pos (.inr (.inl hw))

/-- A core whose step has ended dispatches nothing, and with empty queues issues nothing (R235). -/
theorem advanceCore_setCore_stepEnded {y : Core} (hc : y.ctx.isSome = true) (he : y.stepEnded = true)
    (hq : y.units.all (fun e => decide (e.2.queue = [])) = true) : advanceCore (setCore s c y) c = setCore s c y := by
  have hy : coreOf (setCore s c y) c = y := coreOf_setCore s c y (core_ne hc)
  have hd : dispatchOne (setCore s c y) c = none := by
    unfold dispatchOne
    rw [hy]
    dsimp only
    split
    · rfl
    · exact if_pos he
  unfold advanceCore advance cycle
  simp only [hd, issueFrom_none _ c (by rw [hy]; exact unitQ_queue hq)]
  rfl

/-- What the clause of O38 on the end of a loop says, of a command that is the next one of its stream and finds room in the window. -/
theorem submit_nop_endsLoop {l : LoopSt} (hrun : coreRuns s c = true) (hroom : (coreOf s c).window.length < 64)
    (hn : nextCmd (coreOf s c) h .nop = .given) (hl : (coreOf s c).loop = some l) (hr : l.remaining = 1)
    (he : (coreOf s c).stepEnded = true) (hq : (coreOf s c).units.all (fun e => decide (e.2.queue = [])) = true) :
    let x := coreOf s c
    let body := l.body ++ [(h, CoreOp.nop)]
    submit s c h .nop = setCore s c { x with
      loop := none, fetchIndex := x.fetchIndex + 1
      window := x.window ++ [{ hdr := h, op := .nop, slot := 0, taken := false, index := x.fetchIndex }] ++
        loopCopies (nSlotsOf x) (x.fetchIndex + 1 - body.length) body } := by
  intro x body
  unfold submit
  rw [if_neg (by simp [hrun, hn, hroom])]
  simp only [hn, hl, hr, Nat.le_refl, if_true, Bool.false_eq_true, if_false]
  exact advanceCore_setCore_stepEnded (coreRuns_ctx hrun) he hq

end

/-- Core 0 runs a step, whose last command it has dispatched. Its command window is full, and one command of a loop's body is still to
come. -/
def loopWindowFull : State :=
  { State.reset with cores := [(0, { coreD with
      window := List.replicate 64 plainNop, loop := some { remaining := 1, body := [] }, stepEnded := true
      ctx := some { bay := 0, group := 0, idx := 0, yealm := 0, nSlots := 1 } })] }

/-- Refutes O38, in its clause about the last command of a loop's body: that asks neither for room in the command window nor for the
command to be the next one of its stream. In `loopWindowFull` the window holds 64 commands, so the command does not come (R262), and
the fetch point stays. With both the clause holds (`submit_nop_endsLoop`). -/
theorem not_sequencerCommandsRun : ¬ Obligations.SequencerCommandsRun := by
  unfold Obligations.SequencerCommandsRun
  intro h
  obtain ⟨-, -, hloop, -⟩ := h loopWindowFull 0 plainNop.hdr
  have hcomes := hloop { remaining := 1, body := [] } rfl rfl rfl rfl rfl
  have hstays : exec (.nop 0 plainNop.hdr) loopWindowFull = .next loopWindowFull :=
    congrArg Host.Outcome.next (submit_windowFull (c := 0) (by decide))
  have hfetch := congrArg (fun t => (coreOf t 0).fetchIndex) (Host.Outcome.next.inj (hstays.symm.trans hcomes))
  exact absurd (hfetch.trans (congrArg Core.fetchIndex (coreOf_setCore _ _ _ (core_ne rfl)))) (by decide)

end Sys2Proof.Machine
end

section
/-!
PROOFS. A latency-critical bay lends its cores (O49, R290, R291).
-/
namespace Sys2Proof.Machine

open Sys2Proof

/-! ### What best-effort bays are given -/

/-- A bay with new groups behind those it has. -/
def withGroups (x : Bay) (gs : List Group) : Bay := { x with groups := x.groups ++ gs, nextGroup := x.nextGroup + gs.length }

/-- A group that bay `x` forms of some of the cores `cs` of a lender: idle, and borrowed from now on (R291). -/
def NewGroup (s : State) (lender : Nat) (cs : List Nat) (x : Bay) (g : Group) : Prop :=
  g.lender = some lender ∧ (∀ c, c ∈ g.cores → c ∈ cs) ∧ g.yealm = none ∧ g.stepping = false ∧ g.reclaim = false ∧
    g.rot = x.rot ∧ g.since = s.now ∧ x.attr.cls ≠ 0 ∧ s.power.alarm = false

/-- `t` is `s` but for groups that best-effort bays have formed of cores of a lender. -/
def GroupsFormed (lender : Nat) (cs : List Nat) (s t : State) : Prop :=
  (∃ B, t = { s with bays := B }) ∧ ∀ j x, bayOf s j = some x → ∃ gs : List Group,
    bayOf t j = some (withGroups x gs) ∧ ∀ g, g ∈ gs → NewGroup s lender cs x g

theorem GroupsFormed.refl (lender : Nat) (cs : List Nat) (s : State) : GroupsFormed lender cs s s :=
  ⟨⟨s.bays, rfl⟩, fun _ x hx => ⟨[], hx.trans (by rw [withGroups, List.append_nil]; rfl), fun _ hg => absurd hg List.not_mem_nil⟩⟩

theorem GroupsFormed.trans {lender : Nat} {cs ds : List Nat} {s t u : State} (hcs : ds ⊆ cs) (h : GroupsFormed lender cs s t)
    (k : GroupsFormed lender ds t u) : GroupsFormed lender cs s u := by
  obtain ⟨⟨B, rfl⟩, hformed⟩ := h
  obtain ⟨⟨C, rfl⟩, kformed⟩ := k
  refine ⟨⟨C, rfl⟩, fun j x hx => ?_⟩
  obtain ⟨gs, hgs, hnew⟩ := hformed j x hx
  obtain ⟨ks, hks, hnewer⟩ := kformed j _ hgs
  refine ⟨gs ++ ks, hks.trans ?_, fun g hg => (List.mem_append.mp hg).elim (hnew g) fun hk => ?_⟩
  · simp only [withGroups, List.append_assoc, List.length_append, Nat.add_assoc]
  · obtain ⟨hlender, hcores, hrest⟩ := hnewer g hk
    exact ⟨hlender, fun c hc => hcs (hcores c hc), hrest⟩

theorem formGroup_formed {s t : State} {lender b : Nat} {cs ds : List Nat} (h : formGroup s lender b cs = some (t, ds)) :
    GroupsFormed lender cs s t ∧ ds ⊆ cs := by
  unfold formGroup at h
  split at h
  · cases h
  next bay hbay =>
    split at h
    · cases h
    next hmay =>
      obtain ⟨v, -, hv⟩ := List.exists_of_findSome?_eq_some h
      dsimp only at hv
      split at hv
      on_goal 2 => cases hv
      split at hv
      on_goal 2 => cases hv
      cases hv
      simp only [not_or, Bool.not_eq_true] at hmay
      obtain ⟨hcls, halarm, -⟩ := hmay
      refine ⟨⟨⟨_, rfl⟩, fun j x hx => ?_⟩, List.drop_subset _ _⟩
      rw [bayOf_modBay]
      by_cases hj : b = j
      · subst hj
        obtain rfl : bay = x := Option.some.inj (hbay.symm.trans hx)
        rw [if_pos rfl, hx]
        refine ⟨[_], rfl, fun g hg => ?_⟩
        obtain rfl := List.mem_singleton.mp hg
        exact ⟨rfl, fun c hc => List.take_subset _ _ hc, rfl, rfl, rfl, rfl, rfl, hcls, halarm⟩
      · rw [if_neg hj]
        exact (GroupsFormed.refl lender cs s).2 j x hx

theorem giveCores_formed (lender n : Nat) (bs cs : List Nat) (s : State) : GroupsFormed lender cs s (giveCores lender n bs cs s) := by
  induction n generalizing bs cs s with
  | zero => exact .refl lender cs s
  | succ n ih =>
    cases bs with
    | nil => exact .refl lender cs s
    | cons b bs =>
      unfold giveCores
      split
      next t rest hform =>
        obtain ⟨hformed, hsub⟩ := formGroup_formed hform
        exact hformed.trans hsub (ih (b :: bs) rest t)
      · exact ih bs cs s

/-! ### CORE_LEND -/

section
variable {s : State} {i : Nat} {b : Bay} (hb : bayOf s i = some b)
include hb

/-- Before the next start there is no room to lend (R290). -/
theorem lendCores_late {at1 : Nat} (hnext : nextStart s b = some at1) (hlate : at1 < b.commitAt + 705000 ∨ at1 < s.now + 235000) :
    lendCores s i = s := by
  have hroom : (decide (b.commitAt + 705000 ≤ at1) && decide (s.now + 235000 ≤ at1)) = false := by
    rw [Bool.and_eq_false_iff, decide_eq_false_iff_not, decide_eq_false_iff_not]
    omega
  unfold lendCores
  simp [hb, hnext, hroom]

theorem lendCores_room (hcls : b.attr.cls = 0) (hlend : b.attr.lend ≠ 0) (hrun : b.running = false) (hlive : b.destroying = none)
    (hsteps : stepsRun s = true)
    (hroom : ∀ at1, nextStart s b = some at1 → b.commitAt + 705000 ≤ at1 ∧ s.now + 235000 ≤ at1) :
    lendCores s i =
      giveCores i 192 (s.bays.map Prod.fst) (lendable s i b) (modBay s i (fun b => { b with lent := true })) := by
  unfold lendCores
  simp only [hb]
  refine if_neg ?_
  simp only [hcls, hlend, hrun, hlive, hsteps, ne_eq, not_true_eq_false, Bool.false_eq_true, Option.isSome_none, false_or, not_not]
  split
  · rfl
  next at1 hnext => simpa using hroom at1 hnext

end

/-- The lender is marked, and its cores go to groups of best-effort bays. -/
theorem lent_formed {s t : State} {i : Nat} {cs : List Nat}
    (h : GroupsFormed i cs (modBay s i (fun b => { b with lent := true })) t) :
    (∃ B, t = { s with bays := B }) ∧ ∀ j x, bayOf s j = some x → ∃ gs : List Group,
      bayOf t j = some { withGroups x gs with lent := x.lent || decide (j = i) } ∧ ∀ g, g ∈ gs → NewGroup s i cs x g := by
  obtain ⟨⟨B, rfl⟩, hformed⟩ := h
  refine ⟨⟨B, rfl⟩, fun j x hx => ?_⟩
  have hmark : bayOf (modBay s i (fun b => { b with lent := true })) j = some { x with lent := x.lent || decide (j = i) } := by
    rw [bayOf_modBay, hx]
    by_cases hj : i = j
    · simp [hj]
    · simp [hj, Ne.symm hj]
  exact hformed j _ hmark

/-! ### RECLAIM_START -/

theorem bayOf_reclaimStart (s : State) (i j : Nat) :
    bayOf (reclaimStart s i) j = (bayOf s j).map (fun x => { x with groups := x.groups.map (fun g =>
      { g with reclaim := g.reclaim || decide (g.lender = some i) }) }) := by
  have hmark : (fun g : Group => if g.lender = some i then { g with reclaim := true } else g) =
      fun g => { g with reclaim := g.reclaim || decide (g.lender = some i) } := by
    funext g
    split <;> simp [*]
  unfold reclaimStart
  rw [hmark]
  exact tfind_mapTab (fun _ (x : Bay) => { x with groups := x.groups.map (fun g =>
    { g with reclaim := g.reclaim || decide (g.lender = some i) }) }) s.bays j

end Sys2Proof.Machine
end

section
/-!
PROOFS. What a slice's end and a reclaim do to the cores of a borrowed group (O49, R287, R288, R292, Table 12.4).
-/
namespace Sys2Proof.Machine

open Sys2Proof

/-! ### A group's step goes to the spill areas (R288) -/

/-- What a spill area holds of a core: the sequencer's own state, over the memories that the area already holds. -/
def spillKept (old x : Core) : Core := { x with spad := old.spad, acc := old.acc }

/-- A core's part of a step of yealm `y` is spilled, and the core stops. -/
def spillCore (y : Nat) (s : State) (c : Nat) : State :=
  match (coreOf s c).ctx with
  | none => s
  | some k => modCore { s with
      spills := tput coreD s.spills (y * 64 + k.idx) (spillKept (tget coreD s.spills (y * 64 + k.idx)) (coreOf s c)) } c stopCore

theorem spillGroup_eq (s : State) (b gid y : Nat) : spillGroup s b gid y = (workCores s b gid).foldl (spillCore y) s := rfl

theorem spillCore_rest (y : Nat) (s : State) (c : Nat) : ∃ C S, spillCore y s c = { s with cores := C, spills := S } := by
  unfold spillCore
  cases (coreOf s c).ctx with
  | none => exact ⟨s.cores, s.spills, rfl⟩
  | some k => exact ⟨_, _, rfl⟩

theorem sorted_spillCore {s : State} (hs : tsorted none s.cores = true) (y c : Nat) :
    tsorted none (spillCore y s c).cores = true := by
  unfold spillCore
  cases (coreOf s c).ctx with
  | none => exact hs
  | some k => exact sorted_setCore hs c _

theorem coreOf_spillCore_other (y : Nat) (s : State) {c e : Nat} (h : c ≠ e) : coreOf (spillCore y s c) e = coreOf s e := by
  unfold spillCore
  cases (coreOf s c).ctx with
  | none => rfl
  | some k => exact coreOf_setCore_other _ _ h

theorem coreOf_spillCore {s : State} (hs : tsorted none s.cores = true) (y : Nat) {c : Nat} (hctx : (coreOf s c).ctx ≠ none) :
    coreOf (spillCore y s c) c = stopCore (coreOf s c) := by
  unfold spillCore
  cases hk : (coreOf s c).ctx with
  | none => exact absurd hk hctx
  | some k => exact coreOf_setCore_sorted hs c _

section
variable (y : Nat) {l : List Nat}

theorem foldl_spillCore_rest (s : State) : ∃ C S, l.foldl (spillCore y) s = { s with cores := C, spills := S } := by
  induction l generalizing s with
  | nil => exact ⟨s.cores, s.spills, rfl⟩
  | cons a rest ih =>
    obtain ⟨C, S, h⟩ := spillCore_rest y s a
    rw [List.foldl_cons, h]
    exact ih _

theorem sorted_foldl_spillCore {s : State} (hs : tsorted none s.cores = true) :
    tsorted none (l.foldl (spillCore y) s).cores = true := by
  induction l generalizing s with
  | nil => exact hs
  | cons a rest ih => exact ih (sorted_spillCore hs y a)

/-- Cores spilled one after the other, each once: each of them stops. -/
theorem coreOf_foldl_spillCore (hd : l.Nodup) {s : State} (hs : tsorted none s.cores = true)
    (hctx : ∀ c, c ∈ l → (coreOf s c).ctx ≠ none) (c : Nat) :
    coreOf (l.foldl (spillCore y) s) c = if c ∈ l then stopCore (coreOf s c) else coreOf s c := by
  induction l generalizing s with
  | nil => rfl
  | cons a rest ih =>
    rw [List.nodup_cons] at hd
    have hother : ∀ e, e ∈ rest → coreOf (spillCore y s a) e = coreOf s e := fun e he =>
      coreOf_spillCore_other y s fun h => hd.1 (h ▸ he)
    refine (ih hd.2 (sorted_spillCore hs y a) fun e he => ?_).trans ?_
    · rw [hother e he]
      exact hctx e (List.mem_cons_of_mem a he)
    · by_cases hc : c = a
      · subst hc
        rw [if_neg hd.1, if_pos List.mem_cons_self, coreOf_spillCore hs y (hctx c List.mem_cons_self)]
      · rw [coreOf_spillCore_other y s (Ne.symm hc)]
        simp only [List.mem_cons, hc, false_or]

/-- A spill area that none of the cores spilled has for its own stays as it was. -/
theorem foldl_spillCore_area (hd : l.Nodup) {s : State} {n : Nat}
    (hn : ∀ c k, c ∈ l → (coreOf s c).ctx = some k → k.idx ≠ n) :
    tget coreD (l.foldl (spillCore y) s).spills (y * 64 + n) = tget coreD s.spills (y * 64 + n) := by
  induction l generalizing s with
  | nil => rfl
  | cons a rest ih =>
    rw [List.nodup_cons] at hd
    refine (ih hd.2 fun c k hc hk => ?_).trans ?_
    · rw [coreOf_spillCore_other y s fun h : a = c => hd.1 (h ▸ hc)] at hk
      exact hn c k (List.mem_cons_of_mem a hc) hk
    · unfold spillCore
      cases hk : (coreOf s a).ctx with
      | none => rfl
      | some k => exact tget_tput_other _ _ _ fun h => hn a k List.mem_cons_self hk (Nat.add_left_cancel h)

/-- The area of a core that alone has its place in the step holds that core's sequencer. -/
theorem foldl_spillCore_kept (hd : l.Nodup) {s : State} {c : Nat} {k : CoreCtx} (hc : c ∈ l) (hk : (coreOf s c).ctx = some k)
    (hone : ∀ e q, e ∈ l → (coreOf s e).ctx = some q → q.idx = k.idx → e = c) :
    tget coreD (l.foldl (spillCore y) s).spills (y * 64 + k.idx) =
      spillKept (tget coreD s.spills (y * 64 + k.idx)) (coreOf s c) := by
  induction l generalizing s with
  | nil => exact absurd hc List.not_mem_nil
  | cons a rest ih =>
    rw [List.nodup_cons] at hd
    rw [List.foldl_cons]
    have hother : ∀ e, e ∈ rest → coreOf (spillCore y s a) e = coreOf s e := fun e he =>
      coreOf_spillCore_other y s fun h => hd.1 (h ▸ he)
    by_cases ha : c = a
    · subst ha
      refine (foldl_spillCore_area y hd.2 fun e q he hq hidx => ?_).trans ?_
      · rw [hother e he] at hq
        exact hd.1 (hone e q (List.mem_cons_of_mem c he) hq hidx ▸ he)
      · unfold spillCore
        rw [hk]
        exact tget_tput_ne _ _ _ _ (core_ne (by rw [spillKept, hk]; rfl))
    · have hrest : c ∈ rest := (List.mem_cons.mp hc).resolve_left ha
      rw [ih hd.2 hrest ((congrArg Core.ctx (hother c hrest)).trans hk) fun e q he hq => by
        rw [hother e he] at hq
        exact hone e q (List.mem_cons_of_mem a he) hq, hother c hrest]
      congr 1
      unfold spillCore
      cases hq : (coreOf s a).ctx with
      | none => rfl
      | some q =>
        exact tget_tput_other _ _ _ fun h => ha (hone a q List.mem_cons_self hq (Nat.add_left_cancel h)).symm

end

theorem worksFor_ctx {s : State} {b gid c : Nat} (h : worksFor s b gid c = true) : (coreOf s c).ctx ≠ none := by
  intro hnone
  unfold worksFor at h
  rw [hnone] at h
  cases h

section
variable {s : State} (hs : tsorted none s.cores = true) (b gid y : Nat)
include hs

theorem coreOf_spillGroup (c : Nat) : coreOf (spillGroup s b gid y) c =
    if worksFor s b gid c = true then stopCore (coreOf s c) else coreOf s c := by
  rw [spillGroup_eq, coreOf_foldl_spillCore y (workCores_nodup hs b gid) hs fun c hc =>
    worksFor_ctx ((mem_workCores hs b gid c).mp hc)]
  simp only [mem_workCores hs]

theorem spillGroup_kept {c : Nat} {k : CoreCtx} (hc : worksFor s b gid c = true) (hk : (coreOf s c).ctx = some k)
    (hone : ∀ e q, (coreOf s e).ctx = some q → worksFor s b gid e = true → q.idx = k.idx → e = c) :
    tget coreD (spillGroup s b gid y).spills (y * 64 + k.idx) =
      spillKept (tget coreD s.spills (y * 64 + k.idx)) (coreOf s c) :=
  foldl_spillCore_kept y (workCores_nodup hs b gid) ((mem_workCores hs b gid c).mpr hc) hk
    fun e q he hq => hone e q hq ((mem_workCores hs b gid e).mp he)

end

/-! ### A group leaves its yealm -/

/-- A group of a given number has no yealm any more. -/
def groupFreed (gid : Nat) (h : Group) : Group := if h.gid = gid then { h with yealm := none, stepping := false } else h

/-- The step that a group runs for yealm `y`, if it runs one, is spilled. -/
def stepSpilled (s : State) (b : Nat) (g : Group) (y : Nat) : State :=
  if g.stepping = true then
    modYealm (spillGroup s b g.gid y) y (fun x => { x with spilled := some ((workCores s b g.gid).length, g.variant) })
  else s

theorem leaveGroup_idle {g : Group} (h : g.yealm = none) (s : State) (b n : Nat) : leaveGroup s b g n = s := by
  unfold leaveGroup
  rw [h]

theorem leaveGroup_of {g : Group} {y : Nat} (h : g.yealm = some y) (s : State) (b n : Nat) :
    leaveGroup s b g n = modBay (modYealm (stepSpilled s b g y) y (fun x => { x with overrun := n })) b
      (fun x => { x with groups := x.groups.map (groupFreed g.gid) }) := by
  unfold leaveGroup
  rw [h]
  rfl

theorem stepSpilled_rest (s : State) (b : Nat) (g : Group) (y : Nat) :
    ∃ C S Y, stepSpilled s b g y = { s with cores := C, spills := S, yealms := Y } := by
  unfold stepSpilled
  split
  · obtain ⟨C, S, h⟩ := foldl_spillCore_rest y (l := workCores s b g.gid) s
    rw [spillGroup_eq, h]
    exact ⟨C, S, _, rfl⟩
  · exact ⟨s.cores, s.spills, s.yealms, rfl⟩

theorem leaveGroup_rest (s : State) (b : Nat) (g : Group) (n : Nat) :
    ∃ C S B Y, leaveGroup s b g n = { s with cores := C, spills := S, bays := B, yealms := Y } := by
  cases hy : g.yealm with
  | none =>
    rw [leaveGroup_idle hy]
    exact ⟨s.cores, s.spills, s.bays, s.yealms, rfl⟩
  | some y =>
    obtain ⟨C, S, Y, h⟩ := stepSpilled_rest s b g y
    rw [leaveGroup_of hy, h]
    exact ⟨C, S, _, _, rfl⟩

theorem sorted_leaveGroup {s : State} (hs : tsorted none s.cores = true) (b : Nat) (g : Group) (n : Nat) :
    tsorted none (leaveGroup s b g n).cores = true := by
  cases hy : g.yealm with
  | none => rwa [leaveGroup_idle hy]
  | some y =>
    rw [leaveGroup_of hy]
    show tsorted none (stepSpilled s b g y).cores = true
    unfold stepSpilled
    split
    · exact sorted_foldl_spillCore y hs
    · exact hs

/-- The cores of the step that the group runs stop, and no other is touched. -/
theorem coreOf_leaveGroup {s : State} (hs : tsorted none s.cores = true) (b : Nat) (g : Group) (n c : Nat) :
    coreOf (leaveGroup s b g n) c =
      if g.yealm.isSome = true ∧ g.stepping = true ∧ worksFor s b g.gid c = true then stopCore (coreOf s c) else coreOf s c := by
  cases hy : g.yealm with
  | none =>
    rw [leaveGroup_idle hy, if_neg (by simp)]
  | some y =>
    rw [leaveGroup_of hy]
    refine Eq.trans (b := coreOf (stepSpilled s b g y) c) rfl ?_
    unfold stepSpilled
    by_cases hstep : g.stepping = true
    · rw [if_pos hstep]
      refine (coreOf_spillGroup hs b g.gid y c).trans ?_
      simp [hstep]
    · rw [if_neg hstep, if_neg (by simp [hstep])]

theorem bayOf_leaveGroup {g : Group} {y : Nat} (h : g.yealm = some y) (s : State) (b n j : Nat) :
    bayOf (leaveGroup s b g n) j =
      if b = j then (bayOf s j).map (fun x => { x with groups := x.groups.map (groupFreed g.gid) }) else bayOf s j := by
  obtain ⟨C, S, Y, hrest⟩ := stepSpilled_rest s b g y
  rw [leaveGroup_of h, hrest]
  exact bayOf_modBay { s with cores := C, spills := S, yealms := tmod Y y (fun x => { x with overrun := n }) } b _ j

end Sys2Proof.Machine
end

section
/-!
PROOFS. The end of a best-effort slice (O49, R287, R288).
-/
namespace Sys2Proof.Machine

open Sys2Proof

section
variable {s : State} {i gid : Nat} {b : Bay} {g : Group} (hb : bayOf s i = some b)
  (hg : b.groups.find? (fun h => h.gid = gid) = some g)
include hb hg

theorem beSliceEnd_nothing (h : g.yealm = none ∨ groupAtPoint s i g = false) (overrun : Nat) : beSliceEnd s i gid overrun = s := by
  unfold beSliceEnd
  simp only [hb, hg]
  exact if_pos (by simpa using h)

theorem beSliceEnd_leaves {y : Nat} (hy : g.yealm = some y) (hpoint : groupAtPoint s i g = true) (overrun : Nat) :
    beSliceEnd s i gid overrun = bayCnt (leaveGroup s i g overrun) i 7 overrun := by
  unfold beSliceEnd
  simp only [hb, hg]
  exact if_neg (by simp [hy, hpoint])

end

section
variable {s : State} {i y : Nat} {b : Bay} {g : Group} {v : Yealm} (hb : bayOf s i = some b) (hy : g.yealm = some y)
  (hv : yealmOf s y = some v) (n k m : Nat)
include hy

/-- The bay whose group has left its yealm, with a counter advanced. -/
theorem bayOf_sliceEnded (j : Nat) : bayOf (bayCnt (leaveGroup s i g n) i k m) j =
    if i = j then (bayOf s j).map (fun x => { x with
      groups := x.groups.map (groupFreed g.gid), counters := cntAdd x.counters k (bayCntWidth k) m })
    else bayOf s j := by
  rw [bayCnt, bayOf_modBay, bayOf_leaveGroup hy]
  by_cases hj : i = j
  · rw [if_pos hj, if_pos hj, if_pos hj, Option.map_map]
    rfl
  · rw [if_neg hj, if_neg hj, if_neg hj]

theorem yealmOf_leaveGroup_other {j : Nat} (h : j ≠ y) : yealmOf (leaveGroup s i g n) j = yealmOf s j := by
  rw [leaveGroup_of hy]
  refine ((yealmOf_modYealm _ y _ j).trans (if_neg (Ne.symm h))).trans ?_
  unfold stepSpilled
  split
  · obtain ⟨C, S, hrest⟩ := foldl_spillCore_rest y (l := workCores s i g.gid) s
    refine ((yealmOf_modYealm _ y _ j).trans (if_neg (Ne.symm h))).trans ?_
    rw [spillGroup_eq, hrest]
    rfl
  · rfl

include hv in
theorem yealmOf_leaveGroup (hstep : g.stepping = false) :
    yealmOf (leaveGroup s i g n) y = some { v with overrun := n } := by
  rw [leaveGroup_of hy, stepSpilled, if_neg (by rw [hstep]; decide)]
  refine ((yealmOf_modYealm s y _ y).trans (if_pos rfl)).trans ?_
  rw [hv]
  rfl

include hv in
theorem yealmOf_leaveGroup_stepping (hstep : g.stepping = true) : yealmOf (leaveGroup s i g n) y =
    some { v with overrun := n, spilled := some ((workCores s i g.gid).length, g.variant) } := by
  obtain ⟨C, S, hrest⟩ := foldl_spillCore_rest y (l := workCores s i g.gid) s
  rw [leaveGroup_of hy, stepSpilled, if_pos hstep, spillGroup_eq, hrest]
  refine ((yealmOf_modYealm _ y _ y).trans (if_pos rfl)).trans ?_
  rw [yealmOf_modYealm, if_pos rfl, show yealmOf { s with cores := C, spills := S } y = some v from hv]
  rfl

theorem spills_leaveGroup (hstep : g.stepping = false) : (leaveGroup s i g n).spills = s.spills := by
  rw [leaveGroup_of hy, stepSpilled, if_neg (by rw [hstep]; decide)]
  rfl

theorem spills_leaveGroup_stepping (hstep : g.stepping = true) : (leaveGroup s i g n).spills = (spillGroup s i g.gid y).spills := by
  rw [leaveGroup_of hy, stepSpilled, if_pos hstep]
  rfl

end

end Sys2Proof.Machine
end

section
/-!
PROOFS. Lent cores come back (O49, R288, R292, Table 12.4).
-/
namespace Sys2Proof.Machine

open Sys2Proof

/-! ### A core that comes back -/

/-- A core once it is back, but for the units' records (Table 12.4). -/
def laidOff (x : Core) : Core :=
  { x with
    units := [], window := [], loop := none, stepEnded := false, dma := [], carryRun := none, carryA := [], carryU := []
    carryOut := [], rescaleOut := [], wino := none, ctx := none, rng := { x.rng with fills := [] }, sems := [], rings := []
    descs := [], gated := true }

/-- A core that has come back from a loan. -/
def backHome (x : Core) : Core := { stopCore x with sems := [], rings := [], descs := [], gated := true }

/-- A core that has come back, and has run nothing since. -/
def IsBack (x : Core) : Prop :=
  x.ctx = none ∧ (∀ k, (unitQ x k).queue = [] ∧ (unitQ x k).busy = none) ∧ { x with units := [] } = laidOff x

theorem backHome_isBack (x : Core) : IsBack (backHome x) := ⟨rfl, stopCore_unit x, rfl⟩

theorem IsBack.stopped {x y : Core} (h : IsBack y) (hsame : laidOff y = laidOff x) :
    Stopped { x with sems := [], rings := [], descs := [], gated := true } y :=
  ⟨h.1, h.2.1, h.2.2.trans hsame⟩

theorem foldl_returnCore_rest (l : List Nat) (s : State) : ∃ C, l.foldl returnCore s = { s with cores := C } :=
  ⟨_, foldl_modCore_rest id (fun _ _ x => backHome x) l s⟩

/-- `t`'s cores are those of `s`, of which the ones in `l` have come back. -/
structure CoresBack (s t : State) (l : List Nat) : Prop where
  sorted : tsorted none t.cores = true
  same : ∀ c, laidOff (coreOf t c) = laidOff (coreOf s c)
  back : ∀ c, c ∈ l → IsBack (coreOf t c)
  other : ∀ c, c ∉ l → coreOf t c = coreOf s c

theorem foldl_returnCore_back (l : List Nat) {s : State} (hs : tsorted none s.cores = true) : CoresBack s (l.foldl returnCore s) l := by
  induction l generalizing s with
  | nil => exact ⟨hs, fun _ => rfl, fun _ h => absurd h List.not_mem_nil, fun _ _ => rfl⟩
  | cons a rest ih =>
    have hsame : coreOf (returnCore s a) a = backHome (coreOf s a) := coreOf_setCore_sorted hs a _
    have hother : ∀ c, c ≠ a → coreOf (returnCore s a) c = coreOf s c := fun c hc => coreOf_setCore_other s _ (Ne.symm hc)
    obtain ⟨rsorted, rsame, rback, rother⟩ := ih (sorted_setCore hs a (backHome (coreOf s a)))
    refine ⟨rsorted, fun c => (rsame c).trans ?_, fun c hc => ?_, fun c hc => ?_⟩
    · by_cases hc : c = a
      · subst hc
        exact (congrArg laidOff hsame).trans rfl
      · exact congrArg laidOff (hother c hc)
    · by_cases hrest : c ∈ rest
      · exact rback c hrest
      · obtain rfl := (List.mem_cons.mp hc).resolve_right hrest
        exact ((rother c hrest).trans hsame) ▸ backHome_isBack _
    · rw [List.mem_cons, not_or] at hc
      exact (rother c hc.2).trans (hother c hc.1)

/-! ### What a bay's record says of loans -/

/-- The work groups of a bay, and whether it has lent its cores. -/
def loansOf (s : State) (j : Nat) : Option (List Group × Bool) := (bayOf s j).map (fun b => (b.groups, b.lent))

theorem loansOf_modBay (s : State) (i : Nat) {f : Bay → Bay} (hf : ∀ x, ((f x).groups, (f x).lent) = (x.groups, x.lent)) (j : Nat) :
    loansOf (modBay s i f) j = loansOf s j := by
  unfold loansOf
  rw [bayOf_modBay]
  split
  · rw [Option.map_map]
    exact congrArg (fun g => Option.map g (bayOf s j)) (funext hf)
  · rfl

theorem loansOf_bayCnt (s : State) (i k n j : Nat) : loansOf (bayCnt s i k n) j = loansOf s j := by
  unfold bayCnt
  refine loansOf_modBay s i ?_ j
  exact fun _ => rfl

theorem loansOf_countLoan (s : State) (i : Nat) (g : Group) (j : Nat) : loansOf (countLoan s i g) j = loansOf s j := by
  unfold countLoan
  cases g.lender with
  | none => rfl
  | some l => exact (loansOf_bayCnt _ _ _ _ j).trans (loansOf_bayCnt s l 4 _ j)

/-- Without the groups of a number, freeing those groups changes nothing. -/
theorem filter_groupFreed (k : Nat) (l : List Group) :
    (l.map (groupFreed k)).filter (fun g => decide (g.gid ≠ k)) = l.filter (fun g => decide (g.gid ≠ k)) := by
  induction l with
  | nil => rfl
  | cons g rest ih =>
    rw [List.map_cons]
    by_cases h : g.gid = k
    · have hf : (groupFreed k g).gid = k := by rw [groupFreed, if_pos h]; exact h
      rw [List.filter_cons_of_neg (by simpa using hf), List.filter_cons_of_neg (by simpa using h), ih]
    · have hf : groupFreed k g = g := if_neg h
      rw [hf, List.filter_cons_of_pos (by simpa using h), List.filter_cons_of_pos (by simpa using h), ih]

/-! ### One group -/

/-- A group has left its yealm, and the loan is counted. -/
def loanEnded (i : Nat) (s : State) (e : Nat × Group) : State := bayCnt (countLoan (leaveGroup s e.1 e.2 0) e.1 e.2) i 5 1

theorem reclaimGroup_eq (i : Nat) (s : State) (e : Nat × Group) : reclaimGroup i s e =
    modBay (e.2.cores.foldl returnCore (loanEnded i s e)) e.1 (fun b => { b with groups := b.groups.filter (fun g => g.gid ≠ e.2.gid) }) :=
  rfl

theorem loanEnded_bays (i : Nat) (s : State) (e : Nat × Group) :
    ∃ B, loanEnded i s e = { leaveGroup s e.1 e.2 0 with bays := B } := by
  obtain ⟨B, h⟩ := countLoan_rest (leaveGroup s e.1 e.2 0) e.1 e.2
  unfold loanEnded
  rw [h]
  exact ⟨_, rfl⟩

theorem reclaimGroup_rest (i : Nat) (s : State) (e : Nat × Group) :
    ∃ C S B Y, reclaimGroup i s e = { s with cores := C, spills := S, bays := B, yealms := Y } := by
  obtain ⟨B, hloan⟩ := loanEnded_bays i s e
  obtain ⟨C, S, B', Y, hleave⟩ := leaveGroup_rest s e.1 e.2 0
  obtain ⟨C', hback⟩ := foldl_returnCore_rest e.2.cores (loanEnded i s e)
  rw [reclaimGroup_eq, hback, hloan, hleave]
  exact ⟨C', S, _, Y, rfl⟩

/-- The group's step stops, and its cores come back. -/
theorem coreOf_reclaimGroup {s : State} (hs : tsorted none s.cores = true) (i : Nat) (e : Nat × Group) :
    tsorted none (reclaimGroup i s e).cores = true ∧
      (∀ c, laidOff (coreOf (reclaimGroup i s e) c) = laidOff (coreOf s c)) ∧
      (∀ c, c ∈ e.2.cores → IsBack (coreOf (reclaimGroup i s e) c)) ∧
      ∀ c, c ∉ e.2.cores → worksFor s e.1 e.2.gid c = false → coreOf (reclaimGroup i s e) c = coreOf s c := by
  obtain ⟨B, hloan⟩ := loanEnded_bays i s e
  have hcores : (loanEnded i s e).cores = (leaveGroup s e.1 e.2 0).cores := by rw [hloan]
  have hleft : ∀ c, coreOf (loanEnded i s e) c = coreOf (leaveGroup s e.1 e.2 0) c := coreOf_congr hcores
  obtain ⟨hsorted, hsame, hback, hother⟩ :=
    foldl_returnCore_back e.2.cores (s := loanEnded i s e) (hcores ▸ sorted_leaveGroup hs e.1 e.2 0)
  refine ⟨hsorted, fun c => (hsame c).trans ?_, hback, fun c hc hw => (hother c hc).trans ?_⟩
  · rw [hleft, coreOf_leaveGroup hs]
    split <;> rfl
  · rw [hleft, coreOf_leaveGroup hs, if_neg (by simp [hw])]

theorem loansOf_reclaimGroup (i : Nat) (s : State) (e : Nat × Group) (j : Nat) :
    loansOf (reclaimGroup i s e) j = (loansOf s j).map (fun l =>
      (if e.1 = j then l.1.filter (fun g => decide (g.gid ≠ e.2.gid)) else l.1, l.2)) := by
  obtain ⟨C, hback⟩ := foldl_returnCore_rest e.2.cores (loanEnded i s e)
  have hended : loansOf (loanEnded i s e) j = loansOf (leaveGroup s e.1 e.2 0) j :=
    (loansOf_bayCnt _ i 5 1 j).trans (loansOf_countLoan _ e.1 e.2 j)
  have hfiltered : loansOf (reclaimGroup i s e) j = (loansOf (leaveGroup s e.1 e.2 0) j).map (fun l =>
      (if e.1 = j then l.1.filter (fun g => decide (g.gid ≠ e.2.gid)) else l.1, l.2)) := by
    rw [← hended, reclaimGroup_eq, hback]
    unfold loansOf
    rw [bayOf_modBay, show bayOf { loanEnded i s e with cores := C } j = bayOf (loanEnded i s e) j from rfl]
    split <;> rw [Option.map_map] <;> cases bayOf (loanEnded i s e) j <;> rfl
  rw [hfiltered]
  cases hy : e.2.yealm with
  | none => rw [leaveGroup_idle hy]
  | some y =>
    unfold loansOf
    rw [bayOf_leaveGroup hy]
    by_cases hj : e.1 = j
    · simp only [hj, if_true, Option.map_map, Function.comp_def, filter_groupFreed]
    · rw [if_neg hj]

end Sys2Proof.Machine
end

section
/-!
PROOFS. RECLAIM_COMPLETE and the whole of O49 (R287, R288, R290 to R292, Table 12.4).
-/
namespace Sys2Proof.Machine

open Sys2Proof

/-! ### Several groups -/

/-- Groups of `gs` in bay `j` have the number of `g`. -/
def amongBack (gs : List (Nat × Group)) (j : Nat) (g : Group) : Bool := gs.any (fun e => decide (e.1 = j ∧ e.2.gid = g.gid))

theorem amongBack_of_mem {gs : List (Nat × Group)} {j : Nat} {g : Group} (h : (j, g) ∈ gs) : amongBack gs j g = true :=
  List.any_eq_true.mpr ⟨(j, g), h, decide_eq_true ⟨rfl, rfl⟩⟩

theorem amongBack_eq_false {gs : List (Nat × Group)} {j : Nat} {g : Group} (h : ∀ k, (j, k) ∈ gs → k.gid ≠ g.gid) :
    amongBack gs j g = false := by
  rw [amongBack, List.any_eq_false]
  rintro ⟨k, e⟩ he
  rw [decide_eq_true_eq]
  rintro ⟨rfl, hgid⟩
  exact h e he hgid

section
variable (i : Nat) (gs : List (Nat × Group))

theorem foldl_reclaimGroup_rest (s : State) :
    ∃ C S B Y, gs.foldl (reclaimGroup i) s = { s with cores := C, spills := S, bays := B, yealms := Y } := by
  induction gs generalizing s with
  | nil => exact ⟨s.cores, s.spills, s.bays, s.yealms, rfl⟩
  | cons e rest ih =>
    obtain ⟨C, S, B, Y, h⟩ := reclaimGroup_rest i s e
    rw [List.foldl_cons, h]
    exact ih _

/-- The groups go, and with them every group of their bay that bears their number. -/
theorem loansOf_foldl_reclaimGroup (s : State) (j : Nat) : loansOf (gs.foldl (reclaimGroup i) s) j =
    (loansOf s j).map (fun l => (l.1.filter (fun g => !amongBack gs j g), l.2)) := by
  induction gs generalizing s with
  | nil =>
    rw [List.foldl_nil, show (fun l : List Group × Bool => (l.1.filter (fun g => !amongBack [] j g), l.2)) = id from
      funext fun l => by simp [amongBack], Option.map_id]
    rfl
  | cons e rest ih =>
    have hsplit : ∀ l : List Group, l.filter (fun g => !amongBack (e :: rest) j g) =
        (if e.1 = j then l.filter (fun g => decide (g.gid ≠ e.2.gid)) else l).filter (fun g => !amongBack rest j g) := by
      intro l
      by_cases hj : e.1 = j
      · rw [if_pos hj, List.filter_filter]
        refine List.filter_congr fun g _ => ?_
        simp [amongBack, hj, eq_comm, Bool.and_comm]
      · rw [if_neg hj]
        refine List.filter_congr fun g _ => ?_
        simp [amongBack, hj]
    rw [List.foldl_cons, ih, loansOf_reclaimGroup, Option.map_map]
    refine congrArg (fun f => Option.map f (loansOf s j)) (funext fun l => ?_)
    rw [hsplit]
    rfl

/-- The groups' cores come back, and only they and the cores of the groups' steps are touched. -/
theorem coreOf_foldl_reclaimGroup {s : State} (hs : tsorted none s.cores = true) :
    (∀ c, laidOff (coreOf (gs.foldl (reclaimGroup i) s) c) = laidOff (coreOf s c)) ∧
      (∀ c, IsBack (coreOf s c) ∨ (∃ e, e ∈ gs ∧ c ∈ e.2.cores) → IsBack (coreOf (gs.foldl (reclaimGroup i) s) c)) ∧
      ∀ c, (∀ e, e ∈ gs → c ∉ e.2.cores ∧ worksFor s e.1 e.2.gid c = false) →
        coreOf (gs.foldl (reclaimGroup i) s) c = coreOf s c := by
  induction gs generalizing s with
  | nil => exact ⟨fun _ => rfl, fun c h => h.resolve_right fun ⟨_, he, _⟩ => absurd he List.not_mem_nil, fun _ _ => rfl⟩
  | cons a rest ih =>
    obtain ⟨hsorted, hsame, hback, hother⟩ := coreOf_reclaimGroup hs i a
    obtain ⟨rsame, rback, rother⟩ := ih hsorted
    refine ⟨fun c => (rsame c).trans (hsame c), fun c hc => rback c ?_, fun c hc => ?_⟩
    · by_cases ha : c ∈ a.2.cores
      · exact .inl (hback c ha)
      · refine hc.imp (fun h => ?_) fun ⟨e, he, hce⟩ => ⟨e, (List.mem_cons.mp he).resolve_left ?_, hce⟩
        · rw [hother c ha (by unfold worksFor; rw [h.1])]
          exact h
        · rintro rfl
          exact ha hce
    · obtain ⟨ha, hw⟩ := hc a List.mem_cons_self
      have hkeep := hother c ha hw
      refine (rother c fun e he => ⟨(hc e (List.mem_cons_of_mem a he)).1, ?_⟩).trans hkeep
      unfold worksFor
      rw [hkeep]
      exact (hc e (List.mem_cons_of_mem a he)).2

end

/-! ### RECLAIM_COMPLETE -/

/-- A group comes back to its lender: it is marked, and its step stands at a preemption point (R288, R292). -/
def comesBack (s : State) (i j : Nat) (g : Group) : Bool := decide (g.lender = some i) && g.reclaim && groupAtPoint s j g

/-- The groups that come back to a bay, with the bays that have borrowed them. -/
def backGroups (s : State) (i : Nat) : List (Nat × Group) :=
  s.bays.flatMap (fun e => (e.2.groups.filter (comesBack s i e.1)).map (fun g => (e.1, g)))

theorem mem_backGroups {s : State} (hs : tsorted none s.bays = true) {i j : Nat} {g : Group} : (j, g) ∈ backGroups s i ↔
    ∃ x, bayOf s j = some x ∧ g ∈ x.groups ∧ g.lender = some i ∧ g.reclaim = true ∧ groupAtPoint s j g = true := by
  unfold backGroups comesBack
  simp only [List.mem_flatMap, List.mem_map, List.mem_filter, Bool.and_eq_true, decide_eq_true_eq, and_assoc]
  constructor
  · rintro ⟨⟨k, x⟩, hmem, h, hg, hlender, hmark, hpoint, heq⟩
    cases heq
    exact ⟨x, tfind_of_mem hs hmem, hg, hlender, hmark, hpoint⟩
  · rintro ⟨x, hx, hg, hlender, hmark, hpoint⟩
    exact ⟨(j, x), mem_of_tfind hx, g, hg, hlender, hmark, hpoint, rfl⟩

/-- The marked groups are back, and the time that the reclaim took is recorded. -/
def groupsReclaimed (s : State) (i cycles : Nat) : State :=
  let u := (backGroups s i).foldl (reclaimGroup i) s
  if backGroups s i = [] then u else bayMax u i 6 cycles

theorem reclaimComplete_eq {s : State} {i : Nat} {b : Bay} (hb : bayOf s i = some b) (cycles : Nat) :
    reclaimComplete s i cycles =
      if b.lent = true ∧ (groupsOn (groupsReclaimed s i cycles) i).isEmpty = true then
        modBay (groupsReclaimed s i cycles) i (fun b => { b with lent := false })
      else groupsReclaimed s i cycles := by
  unfold reclaimComplete
  simp only [hb]
  rfl

theorem groupsReclaimed_bays (s : State) (i cycles : Nat) :
    ∃ B, groupsReclaimed s i cycles = { (backGroups s i).foldl (reclaimGroup i) s with bays := B } := by
  unfold groupsReclaimed
  dsimp only
  split
  · exact ⟨_, rfl⟩
  · exact ⟨_, rfl⟩

theorem reclaimComplete_bays {s : State} {i : Nat} {b : Bay} (hb : bayOf s i = some b) (cycles : Nat) :
    ∃ B, reclaimComplete s i cycles = { (backGroups s i).foldl (reclaimGroup i) s with bays := B } := by
  obtain ⟨B, h⟩ := groupsReclaimed_bays s i cycles
  rw [reclaimComplete_eq hb]
  split
  · rw [h]
    exact ⟨_, rfl⟩
  · exact ⟨B, h⟩

theorem loansOf_groupsReclaimed (s : State) (i cycles j : Nat) : loansOf (groupsReclaimed s i cycles) j =
    (loansOf s j).map (fun l => (l.1.filter (fun g => !amongBack (backGroups s i) j g), l.2)) := by
  rw [← loansOf_foldl_reclaimGroup i]
  unfold groupsReclaimed bayMax
  dsimp only
  split
  · rfl
  · refine loansOf_modBay _ i ?_ j
    exact fun _ => rfl

/-- The groups that a bay still has after a reclaim. -/
theorem groups_reclaimComplete {s : State} {i : Nat} {b : Bay} (hb : bayOf s i = some b) (cycles j : Nat) :
    (bayOf (reclaimComplete s i cycles) j).map (fun x => x.groups) =
      (bayOf s j).map (fun x => x.groups.filter (fun g => !amongBack (backGroups s i) j g)) := by
  have hloans := congrArg (Option.map Prod.fst) (loansOf_groupsReclaimed s i cycles j)
  unfold loansOf at hloans
  simp only [Option.map_map, Function.comp_def] at hloans
  rw [← hloans, reclaimComplete_eq hb]
  split
  · rw [bayOf_modBay]
    split
    · rw [Option.map_map]
      rfl
    · rfl
  · rfl

/-! ### The lender is whole again -/

theorem sorted_modBay {s : State} (hs : tsorted none s.bays = true) (i : Nat) (f : Bay → Bay) :
    tsorted none (modBay s i f).bays = true := by
  unfold modBay tmod
  cases tfind s.bays i with
  | none => exact hs
  | some x => exact tsorted_tins s.bays none i (f x) hs nofun

theorem sorted_bays_reclaimGroup {s : State} (hs : tsorted none s.bays = true) (i : Nat) (e : Nat × Group) :
    tsorted none (reclaimGroup i s e).bays = true := by
  have hleft : tsorted none (leaveGroup s e.1 e.2 0).bays = true := by
    cases hy : e.2.yealm with
    | none => rwa [leaveGroup_idle hy]
    | some y =>
      obtain ⟨C, S, Y, h⟩ := stepSpilled_rest s e.1 e.2 y
      rw [leaveGroup_of hy, h]
      exact sorted_modBay hs _ _
  have hloan : tsorted none (countLoan (leaveGroup s e.1 e.2 0) e.1 e.2).bays = true := by
    unfold countLoan
    cases e.2.lender with
    | none => exact hleft
    | some l => exact sorted_modBay (sorted_modBay hleft l _) e.1 _
  obtain ⟨C, hback⟩ := foldl_returnCore_rest e.2.cores (loanEnded i s e)
  rw [reclaimGroup_eq, hback]
  exact sorted_modBay (sorted_modBay hloan i _) e.1 _

theorem sorted_groupsReclaimed {s : State} (hs : tsorted none s.bays = true) (i cycles : Nat) :
    tsorted none (groupsReclaimed s i cycles).bays = true := by
  have hfold : tsorted none ((backGroups s i).foldl (reclaimGroup i) s).bays = true := by
    generalize backGroups s i = gs
    induction gs generalizing s with
    | nil => exact hs
    | cons e rest ih => exact ih (sorted_bays_reclaimGroup hs i e)
  unfold groupsReclaimed
  dsimp only
  split
  · exact hfold
  · exact sorted_modBay hfold i _

/-- A group that is still there is none of those that came back. -/
theorem kept_reclaimComplete {s : State} {i j : Nat} {b x : Bay} {g : Group} (hb : bayOf s i = some b) {cycles : Nat}
    (hx : bayOf (reclaimComplete s i cycles) j = some x) (hg : g ∈ x.groups) :
    (j, g) ∉ backGroups s i ∧ ∃ z, bayOf s j = some z ∧ g ∈ z.groups := by
  have hgroups := groups_reclaimComplete hb cycles j
  rw [hx] at hgroups
  cases hz : bayOf s j with
  | none => simp [hz] at hgroups
  | some z =>
    simp only [hz, Option.map_some, Option.some.injEq] at hgroups
    obtain ⟨hmem, hnot⟩ := List.mem_filter.mp (hgroups ▸ hg)
    refine ⟨fun hback => ?_, z, rfl, hmem⟩
    rw [amongBack_of_mem hback] at hnot
    cases hnot

/-- A group whose number none of those that came back bears is still there, as it was. -/
theorem stays_reclaimComplete {s : State} {i j : Nat} {b x : Bay} {g : Group} (hb : bayOf s i = some b) (cycles : Nat)
    (hx : bayOf s j = some x) (hg : g ∈ x.groups) (hnot : ∀ h, (j, h) ∈ backGroups s i → h.gid ≠ g.gid) :
    ∃ z, bayOf (reclaimComplete s i cycles) j = some z ∧ g ∈ z.groups := by
  have hgroups := groups_reclaimComplete hb cycles j
  rw [hx] at hgroups
  cases hz : bayOf (reclaimComplete s i cycles) j with
  | none => simp [hz] at hgroups
  | some z =>
    simp only [hz, Option.map_some, Option.some.injEq] at hgroups
    exact ⟨z, rfl, hgroups ▸ List.mem_filter.mpr ⟨hg, by rw [amongBack_eq_false hnot]; rfl⟩⟩

theorem coreOf_reclaimComplete {s : State} {i : Nat} {b : Bay} (hb : bayOf s i = some b) (cycles c : Nat) :
    coreOf (reclaimComplete s i cycles) c = coreOf ((backGroups s i).foldl (reclaimGroup i) s) c := by
  obtain ⟨B, h⟩ := reclaimComplete_bays hb cycles
  exact coreOf_congr (by rw [h]) c

/-- With every group on its cores back, the bay lends no more. -/
theorem lent_reclaimComplete {s : State} {i : Nat} {b : Bay} (hb : bayOf s i = some b) (hs : tsorted none s.bays = true)
    (cycles : Nat) (hall : ∀ j x g, bayOf s j = some x → g ∈ x.groups → g.lender = some i → (j, g) ∈ backGroups s i) :
    ∃ x, bayOf (reclaimComplete s i cycles) i = some x ∧ x.lent = false := by
  have hloans := loansOf_groupsReclaimed s i cycles
  have hnone : (groupsOn (groupsReclaimed s i cycles) i).isEmpty = true := by
    rw [List.isEmpty_iff, groupsOn, List.flatMap_eq_nil_iff]
    intro e he
    rw [List.map_eq_nil_iff, List.filter_eq_nil_iff]
    intro g hg hlender
    have hfound : bayOf (groupsReclaimed s i cycles) e.1 = some e.2 := tfind_of_mem (sorted_groupsReclaimed hs i cycles) he
    have hleft := hloans e.1
    unfold loansOf at hleft
    rw [hfound] at hleft
    cases hz : bayOf s e.1 with
    | none => simp [hz] at hleft
    | some z =>
      simp only [hz, Option.map_some, Option.some.injEq, Prod.mk.injEq] at hleft
      obtain ⟨hmem, hnot⟩ := List.mem_filter.mp (hleft.1 ▸ hg)
      have hback := hall e.1 z g hz hmem (of_decide_eq_true hlender)
      rw [amongBack_of_mem hback] at hnot
      cases hnot
  have hleft := hloans i
  unfold loansOf at hleft
  rw [hb] at hleft
  cases hu : bayOf (groupsReclaimed s i cycles) i with
  | none => simp [hu] at hleft
  | some u =>
    simp only [hu, Option.map_some, Option.some.injEq, Prod.mk.injEq] at hleft
    rw [reclaimComplete_eq hb]
    by_cases hlent : b.lent = true
    · rw [if_pos ⟨hlent, hnone⟩, bayOf_modBay, if_pos rfl, hu]
      exact ⟨_, rfl, rfl⟩
    · rw [if_neg fun h => hlent h.1]
      exact ⟨u, hu, hleft.2.trans (Bool.eq_false_iff.mpr hlent)⟩

/-- Settles O49: lending by `giveCores_formed`, a reclaim by what it leaves of the groups, the cores and the lender, the end of a slice by
what a group leaves behind. -/
theorem coresAreLentAndComeBack : Obligations.CoresAreLentAndComeBack := by
  unfold Obligations.CoresAreLentAndComeBack
  intro s i b hb
  refine ⟨fun hcls hlend hrun hlive hsteps => ⟨fun at1 hnext hlate => ?_, fun hroom => ?_⟩, ?_, fun cycles hbays hcores => ?_,
    fun gid overrun g hg hno => ?_, fun gid overrun g y v hg hy hv hcores hpoint => ?_⟩
  · exact congrArg Host.Outcome.next (lendCores_late hb hnext hlate)
  · obtain ⟨⟨B, hrest⟩, hformed⟩ := lent_formed (giveCores_formed i 192 (s.bays.map Prod.fst) (lendable s i b)
      (modBay s i (fun b => { b with lent := true })))
    rw [← lendCores_room hb hcls hlend hrun hlive hsteps hroom] at hrest hformed
    exact ⟨lendCores s i, rfl, by rw [hrest], hformed⟩
  · exact ⟨reclaimStart s i, rfl, rfl, bayOf_reclaimStart s i⟩
  · intro back
    have hback : ∀ j g, back j g ↔ (j, g) ∈ backGroups s i := fun j g => (mem_backGroups hbays).symm
    obtain ⟨B, hleft⟩ := reclaimComplete_bays hb cycles
    obtain ⟨C, S, B', Y, hrest⟩ := foldl_reclaimGroup_rest i (backGroups s i) s
    obtain ⟨hsame, hhome, hother⟩ := coreOf_foldl_reclaimGroup i (backGroups s i) hcores
    refine ⟨reclaimComplete s i cycles, rfl, fun j x g hx hg hb' => ?_, fun j x g hx hg hnot => ?_, fun j g c hbk hc => ?_,
      fun c hc => ?_, fun hall => ?_, by rw [hleft, hrest], by rw [hleft, hrest]; rfl⟩
    · exact (kept_reclaimComplete hb hx hg).1 ((hback j g).mp hb')
    · exact stays_reclaimComplete hb cycles hx hg fun h hh => hnot h ((hback j h).mpr hh)
    · rw [coreOf_reclaimComplete hb]
      exact (hhome c (.inr ⟨(j, g), (hback j g).mp hbk, hc⟩)).stopped (hsame c)
    · rw [coreOf_reclaimComplete hb]
      refine hother c fun e he => ⟨(hc e.1 e.2 ((hback e.1 e.2).mpr he)).1, ?_⟩
      have hfree := (hc e.1 e.2 ((hback e.1 e.2).mpr he)).2
      unfold worksFor
      cases hk : (coreOf s c).ctx with
      | none => rfl
      | some k => exact decide_eq_false (hfree k hk)
    · exact lent_reclaimComplete hb hbays cycles fun j x g hx hg hl => (hback j g).mp (hall j x g hx hg hl)
  · exact congrArg Host.Outcome.next (beSliceEnd_nothing hb hg hno overrun)
  · intro mine
    obtain rfl : g.gid = gid := by simpa using List.find?_some hg
    have hrun := beSliceEnd_leaves hb hg hy hpoint overrun
    obtain ⟨C, S, B, Y, hrest⟩ := leaveGroup_rest s i g overrun
    have hbay := bayOf_sliceEnded (s := s) (i := i) hy overrun 7 overrun
    rw [← hrun] at hbay
    have hcore : ∀ c, coreOf (beSliceEnd s i g.gid overrun) c = coreOf (leaveGroup s i g overrun) c :=
      coreOf_congr (by rw [hrun]; rfl)
    have hyealm : ∀ k, yealmOf (beSliceEnd s i g.gid overrun) k = yealmOf (leaveGroup s i g overrun) k :=
      yealmOf_congr (by rw [hrun]; rfl)
    have hspills : (beSliceEnd s i g.gid overrun).spills = (leaveGroup s i g overrun).spills := by rw [hrun]; rfl
    refine ⟨beSliceEnd s i g.gid overrun, rfl, ?_, fun j hj => ?_, fun k hk => ?_, fun c hc => ?_, fun hstep => ⟨?_, ?_⟩,
      fun hstep => ⟨?_, fun c k hk hc => ⟨?_, fun hone => ?_⟩⟩, by rw [hrun, hrest]; rfl, by rw [hrun, hrest]; rfl⟩
    · rw [hbay, if_pos rfl, hb]
      rfl
    · rw [hbay, if_neg (Ne.symm hj)]
    · rw [hyealm, yealmOf_leaveGroup_other hy overrun hk]
    · rw [hcore, coreOf_leaveGroup hcores, if_neg]
      rintro ⟨-, hstep, hw⟩
      rcases hc with hc | hc
      · exact Bool.false_ne_true (hc.symm.trans hw)
      · exact Bool.false_ne_true (hc.symm.trans hstep)
    · rw [hyealm, yealmOf_leaveGroup hy hv overrun hstep]
    · rw [hspills, spills_leaveGroup hy overrun hstep]
    · rw [hyealm, yealmOf_leaveGroup_stepping hy hv overrun hstep]
    · rw [hcore, coreOf_leaveGroup hcores, if_pos ⟨by rw [hy]; rfl, hstep, hc⟩]
      exact stopCore_stopped _
    · rw [hspills, spills_leaveGroup_stepping hy overrun hstep]
      exact spillGroup_kept hcores i g.gid y hc hk hone

end Sys2Proof.Machine
end

section
/-!
PROOFS. YEALM_FORM and YEALM_RELEASE (O15, R275, R277, R344).
-/
namespace Sys2Proof.Machine

open Sys2Proof

/-! ### What the transport leaves alone -/

/-- A part of the state that the transport does not move is the same in states that differ in the transport alone. -/
theorem keeps_of_bare {α : Type} (part : State → α) {t u : State} (h : t.bare = u.bare)
    (hpart : ∀ u : State, part u.bare = part u := by exact fun _ => rfl) : part t = part u :=
  ((hpart t).symm.trans (congrArg part h)).trans (hpart u)

/-! ### YEALM_FORM -/

/-- The state with yealm `k` formed, at the end of the slice order of bay `i` (R275). -/
def yealmFormed (s : State) (i k : Nat) (y : Yealm) : State :=
  let t := areaPlaced { s with yealms := tins s.yealms k y, fresh := s.fresh + 1 } (.record k) 0 64
  modBay t i (fun b => { b with order := b.order ++ [k], variant := variantNow t b })

theorem yealmFormed_rest (s : State) (i k : Nat) (y : Yealm) : ∃ B C S, yealmFormed s i k y = { s with
    bays := B, yealms := tins s.yealms k y, channels := C, slices := S, fresh := s.fresh + 1 } := ⟨_, _, _, rfl⟩

theorem bayOf_yealmFormed (s : State) (i k : Nat) (y : Yealm) (j : Nat) : ∃ v : Bay → Option Nat,
    bayOf (yealmFormed s i k y) j =
      if i = j then (bayOf s j).map (fun b => { b with order := b.order ++ [k], variant := v b }) else bayOf s j :=
  ⟨_, bayOf_modBay _ i _ j⟩

theorem freeYealm_spec {s : State} {k : Nat} (h : freeYealm s = some k) :
    k < 4096 ∧ yealmOf s k = none ∧ ∀ j, j < k → yealmOf s j ≠ none := by
  unfold freeYealm at h
  obtain ⟨hfree, hmem, hbelow⟩ := List.find?_range_eq_some.mp h
  exact ⟨List.mem_range.mp hmem, Option.isNone_iff_eq_none.mp hfree, fun j hj hnone => by simpa [hnone] using hbelow j hj⟩

/-- Where every check passes, an identifier is free (Table 12.2). -/
theorem yealmStatus_free {s : State} {i : Nat} {b : Bay} {y : Yealm} (h : yealmStatus s i b y = stOk) :
    ∃ k, freeYealm s = some k := by
  refine Option.isSome_iff_exists.mp (Option.isSome_iff_ne_none.mpr fun hnone => ?_)
  unfold yealmStatus at h
  split at h
  · cases h
  next v _ =>
    dsimp only at h
    split at h
    · cases h
    split at h
    · cases h
    split at h
    · cases h
    next hroom => exact hroom (.inl (by rw [hnone]; rfl))

/-- The checks of Table 12.2 leave an error's code, and the code of none that took effect. -/
theorem yealmStatus_fails {s : State} {i : Nat} {b : Bay} {y : Yealm} (h : yealmStatus s i b y ≠ stOk) :
    tookEffect (yealmStatus s i b y) = false := by
  have hcodes : yealmStatus s i b y ∈ [stFenced, stNotSupported, stNoResource, stAdmissionDenied, stOk] := by
    unfold yealmStatus
    dsimp only
    repeat' split
    all_goals decide
  generalize yealmStatus s i b y = st at h hcodes
  revert h
  revert st
  decide

/-- The yealm that a YEALM_FORM asks for in bay `b`. -/
def askedYealm (s : State) (b : Bay) (body : List Byte) : Yealm :=
  newYealm s (fld body 0 1) b (BitVec.ofNat 64 (fld body 4 8)) (fld body 1 1) (fld body 2 1)

section
variable {s : State} {body : List Byte} {b : Bay} {d : Build} (hb : bayOf s (fld body 0 1) = some b)
  (hlive : b.destroying = none) (hd : buildOf s (BitVec.ofNat 64 (fld body 4 8)) = some d) (hslots : fld body 2 1 ≤ d.maxSlots)
  (hbound : b.plans.any (fun x => decide (x.build = BitVec.ofNat 64 (fld body 4 8) ∧ x.plan = fld body 1 1) && x.ready) = true)
include hb hlive hd hslots hbound

theorem yealmForm_fails (rt : RespTo) (hst : yealmStatus s (fld body 0 1) b (askedYealm s b body) ≠ stOk) :
    yealmForm body rt s = answer s rt (yealmStatus s (fld body 0 1) b (askedYealm s b body)) := by
  unfold askedYealm at hst ⊢
  unfold yealmForm
  simp only [hb, hlive, hd, hslots, hbound, Option.isSome_none, Option.map_some, Option.getD_some, decide_true, not_true_eq_false,
    Bool.false_eq_true, Bool.true_eq_false, or_self, if_false]
  exact if_pos hst

theorem yealmForm_forms (rt : RespTo) (hst : yealmStatus s (fld body 0 1) b (askedYealm s b body) = stOk) {k : Nat}
    (hk : freeYealm s = some k) : yealmForm body rt s =
      respond (yealmFormed s (fld body 0 1) k (askedYealm s b body)) rt stOk (le 2 k ++ le 2 b.order.length) := by
  unfold askedYealm at hst ⊢
  unfold yealmForm
  simp only [hb, hlive, hd, hslots, hbound, hk, Option.isSome_none, Option.map_some, Option.getD_some, decide_true, not_true_eq_false,
    Bool.false_eq_true, Bool.true_eq_false, or_self, if_false]
  exact if_neg (not_not.mpr hst)

end

/-! ### YEALM_RELEASE -/

theorem yealmRelease_unknown {s : State} {body : List Byte} (h : yealmOf s (fld body 0 2) = none) (rt : RespTo) :
    yealmRelease body rt s = answer s rt stBadMessage := by
  unfold yealmRelease
  simp only [h]

theorem yealmRelease_formed {s : State} {body : List Byte} {y : Yealm} (h : yealmOf s (fld body 0 2) = some y) (rt : RespTo) :
    yealmRelease body rt s = if claimants s (fld body 0 2) ≠ [] ∨ y.releasing.isSome then answer s rt stBusy
      else modYealm s (fld body 0 2) (fun y => { y with releasing := some rt }) := by
  unfold yealmRelease
  simp only [h]

/-- Settles O15: the checks by `yealmForm_bound` and `yealmRelease_formed`, the new yealm by the lemmas on `yealmFormed`. -/
theorem yealmFormAndRelease : Obligations.YealmFormAndRelease := by
  unfold Obligations.YealmFormAndRelease
  intro s m
  refine ⟨?_, fun hp hzero => ⟨fun hnone => ?_, fun y hy => ?_⟩⟩
  · intro hp hzero hlo hhi i p id b d hb hlive hd hslots hbound
    have hf : (isZero m.body 3 1 && within (fld m.body 2 1) 1 32) = true := by simp [hzero, within, hlo, hhi]
    intro y
    by_cases hst : yealmStatus s i b y ≠ stOk
    · rw [if_pos hst]
      exact declines_held rfl hp hf (by decide) (yealmStatus_fails hst)
        (yealmForm_fails (s := held s 0x0124 m s) hb hlive hd hslots hbound _ hst)
    rw [if_neg hst]
    obtain ⟨k, hk⟩ := yealmStatus_free (not_not.mp hst)
    obtain ⟨hlt, hfree, hlowest⟩ := freeYealm_spec hk
    have hrun := yealmForm_forms (s := held s 0x0124 m s) hb hlive hd hslots hbound (respTo s 0x0124 m) (not_not.mp hst) hk
    obtain ⟨B, C, S, hrest⟩ := yealmFormed_rest s i k y
    obtain ⟨t, hexec, hanswered, hbare⟩ := answers_held (i := .yealmForm m) (u := yealmFormed s i k y)
      (fields := fun b => isZero b 3 1 && within (fld b 2 1) 1 32) rfl hp hf (by decide) (by rw [hrest]; exact ⟨rfl, rfl, rfl⟩) hrun
    have hyealms : t.yealms = tins s.yealms k y := keeps_of_bare State.yealms hbare
    have hbays := bayOf_congr (keeps_of_bare State.bays hbare)
    refine ⟨k, hlt, hfree, hlowest, t, hexec, hanswered, ?_, rfl, rfl, fun j hj => ?_, ?_, fun j hj => ?_, ?_⟩
    · rw [yealmOf, hyealms, tfind_tins_same]
    · rw [yealmOf, hyealms, tfind_tins_other _ _ (Ne.symm hj), yealmOf]
    · obtain ⟨v, hv⟩ := bayOf_yealmFormed s i k y i
      rw [hbays, hv, if_pos rfl, hb]
      rfl
    · obtain ⟨v, hv⟩ := bayOf_yealmFormed s i k y j
      rw [hbays, hv, if_neg (Ne.symm hj)]
    · rw [hbare, hrest]
      rfl
  · exact declines_held rfl hp hzero (by decide) rfl (yealmRelease_unknown (s := held s 0x0125 m s) hnone _)
  · have hrun := yealmRelease_formed (s := held s 0x0125 m s) hy (respTo s 0x0125 m)
    by_cases hbusy : claimants s (fld m.body 0 2) ≠ [] ∨ y.releasing.isSome
    · rw [if_pos hbusy]
      exact declines_held rfl hp hzero (by decide) rfl (hrun.trans (if_pos hbusy))
    · rw [if_neg hbusy]
      exact owes_held rfl hp hzero (by decide) ⟨rfl, rfl, rfl⟩ (hrun.trans (if_neg hbusy))

end Sys2Proof.Machine
end

section
/-!
PROOFS. PROFILE_SELECT, POWER_CAP and POWER_STATE (O6, R286, R338, R339, R448, R465).
-/
namespace Sys2Proof.Machine

open Sys2Proof

/-! ### PROFILE_SELECT -/

/-- The boot state once a profile is chosen for the next warm reset, and one asked for or not (R338). -/
def profileChosen (z : Boot) (p : Nat) (now : Bool) : Boot :=
  { z with profileChoice := some p, warmPending := z.warmPending || now }

theorem profileValid_held (s : State) (typ : Nat) (m : HostMsg) (p : Nat) : profileValid (held s typ m s) p = profileValid s p := by
  unfold profileValid profileOf
  simp only [flashRead_congr (show (held s typ m s).flash = s.flash from rfl)]

/-- A message that ends in one response, and then changes the boot state alone. -/
theorem answers_then_boot {i : Instr} {typ : Nat} {m : HostMsg} {status : Nat} {body : List Byte} {s : State}
    {fields : List Byte → Bool} {run : RespTo → State → State} (he : exec i s = .next (accept typ fields m run s))
    (h : passes s typ m = true) (hf : fields m.body = true) (ht : typ < 32768) (f : Boot → Boot)
    (hr : run (respTo s typ m) (held s typ m s) =
      let t := respond (held s typ m s) (respTo s typ m) status body
      { t with boot := f t.boot }) :
    Answers i typ m status body s { s with boot := f s.boot } := by
  obtain ⟨htaken, hclears, hnew, hconn⟩ := passes_parts h
  obtain ⟨hanswered, hbare, -⟩ := respond_answered (s1 := held s typ m s) status body hconn hnew ht ⟨rfl, rfl⟩ rfl rfl rfl rfl
  generalize respond (held s typ m s) (respTo s typ m) status body = t at hr hanswered hbare
  refine ⟨{ t with boot := f t.boot }, he.trans ?_, hanswered, congrArg (fun u : State => { u with boot := f u.boot }) hbare⟩
  rw [accept_run fields run ht htaken hclears hf, inHand_eq_held, hr]
  exact congrArg Host.Outcome.next (drainAll_served htaken hanswered.1)

theorem profileSelect_invalid {s : State} {body : List Byte} (h : ¬ profileValid s (fld body 0 1) = true) (rt : RespTo) :
    profileSelectMsg body rt s = answer s rt stNotSupported := by
  unfold profileSelectMsg
  exact if_pos h

theorem profileSelect_valid {s : State} {body : List Byte} (h : profileValid s (fld body 0 1) = true) (rt : RespTo) :
    profileSelectMsg body rt s =
      let t := respond s rt stOk []
      { t with boot := profileChosen t.boot (fld body 0 1) (bit (fld body 1 1) 0) } := by
  unfold profileSelectMsg
  rw [answer_ok (st := stOk) rfl]
  exact if_neg (not_not.mpr h)

/-! ### POWER_CAP -/

/-- Record 0x40 with a new cap in both copies (R448). -/
def capRecord (r : CfgRec) (mw : Nat) : CfgRec :=
  { r with
    active := splice r.active 0 (le 4 mw), shadow := splice r.shadow 0 (le 4 mw), activeGen := r.shadowGen + 1
    shadowGen := r.shadowGen + 1 }

/-- A new cap in force and in its record. -/
def capTaken (s : State) (mw : Nat) : State :=
  { setRec s 0x40 0 (capRecord (recOf s 0x40 0) mw) with power := { s.power with capMw := mw } }

/-- A cap that the marked groups' return suffices for marks no group more. -/
theorem setCap_kept {s : State} {mw : Nat} (h : powerNow (dropMarked s) ≤ if mw = 0 then 320000 else mw) :
    setCap s mw = { s with power := { s.power with capMw := mw } } := by
  unfold setCap
  rw [capReclaim]
  exact if_pos h

theorem powerCap_kept {s : State} {body : List Byte}
    (h : powerNow (dropMarked s) ≤ if fld body 0 4 = 0 then 320000 else fld body 0 4) (rt : RespTo) :
    powerCap body rt s = respond (capTaken s (fld body 0 4)) rt stOk (le 4 (powerNow s)) :=
  congrArg (fun t => respond t rt stOk (le 4 (powerNow s)))
    (setCap_kept (s := setRec s 0x40 0 (capRecord (recOf s 0x40 0) (fld body 0 4))) h)

/-! ### POWER_STATE -/

/-- What keeps the device out of Doze and Sealed (R339, R465). -/
def sleepBarred (s : State) : Prop :=
  s.yealms.any (fun e => decide (e.2.rcd.member ≠ 0)) = true ∨ s.boot.update.isSome ∨ s.boot.attest.isSome

/-- A transition begun for a POWER_STATE (R339). -/
def stateAsked (s : State) (m : HostMsg) (rt : RespTo) : State :=
  let target := pstateOf (fld m.body 0 1)
  { s with power := { s.power with
    trans := some { entering := decide (target ≠ .run), target := target, resp := some rt
                    msg := some { typ := rt.typ, msg := m, epoch := rt.epoch, tag := rt.tag, segs := 0 }, wakeSeen := false }
    wakeArm := if target = .doze then BitVec.ofNat 8 (fld m.body 1 1) else s.power.wakeArm } }

section
variable {s : State} {m : HostMsg} (rt : RespTo)

theorem powerState_busy (h : deep (pstateOf (fld m.body 0 1)) = true ∧ sleepBarred s) :
    powerStateMsg m rt s = answer s rt stBusy := by
  unfold powerStateMsg
  exact if_pos h

variable (hfree : ¬ (deep (pstateOf (fld m.body 0 1)) = true ∧ sleepBarred s))
include hfree

theorem powerState_holds (h : pstateOf (fld m.body 0 1) = s.power.state) : powerStateMsg m rt s = answer s rt stOk := by
  unfold powerStateMsg
  exact (if_neg hfree).trans (if_pos h)

theorem powerState_begins (h : pstateOf (fld m.body 0 1) ≠ s.power.state) (hseal : pstateOf (fld m.body 0 1) ≠ .sealed) :
    powerStateMsg m rt s = stateAsked s m rt := by
  have hdeep : deep (pstateOf (fld m.body 0 1)) = decide (pstateOf (fld m.body 0 1) = .doze) := by simp [deep, hseal]
  unfold powerStateMsg stateAsked
  refine ((if_neg hfree).trans (if_neg h)).trans ((if_neg hseal).trans ?_)
  simp only [hdeep, decide_eq_true_eq]

end

/-- Settles O6, with one lemma for each answer of the three messages. -/
theorem profilePowerCapAndPowerState : Obligations.ProfilePowerCapAndPowerState := by
  unfold Obligations.ProfilePowerCapAndPowerState
  intro s m
  refine ⟨fun hp hprof hnow hzero => ?_, fun hp hcap hroom => ?_, fun hp hstate harm hzero => ?_⟩
  · have hf : (within (fld m.body 0 1) 0 3 && within (fld m.body 1 1) 0 1 && isZero m.body 2 2) = true := by
      simp [within, hprof, hnow, hzero]
    by_cases hv : profileValid s (fld m.body 0 1) = true
    · rw [if_pos hv]
      have hbit : bit (fld m.body 1 1) 0 = decide (fld m.body 1 1 = 1) := by
        interval_cases fld m.body 1 1 <;> rfl
      have hrun := profileSelect_valid (s := held s 0x0103 m s) ((profileValid_held s 0x0103 m _).trans hv) (respTo s 0x0103 m)
      rw [hbit] at hrun
      exact answers_then_boot rfl hp hf (by decide) (fun z => profileChosen z (fld m.body 0 1) (decide (fld m.body 1 1 = 1))) hrun
    · rw [if_neg hv]
      exact declines_held rfl hp hf (by decide) rfl
        (profileSelect_invalid (s := held s 0x0103 m s) (by rwa [profileValid_held]) _)
  · have hf : powerCapFields m.body = true := by
      rcases hcap with h | h <;> simp [powerCapFields, within, h]
    exact answers_held (u := capTaken s (fld m.body 0 4)) rfl hp hf (by decide) ⟨rfl, rfl, rfl⟩
      (powerCap_kept (s := held s 0x0105 m s) hroom _)
  · intro target
    have hf : (within (fld m.body 0 1) 0 3 && within (fld m.body 1 1) 0 3 && isZero m.body 2 2) = true := by
      simp [within, hstate, harm, hzero]
    by_cases hbusy : deep target = true ∧ sleepBarred s
    · refine (if_pos hbusy).mpr ?_
      exact declines_held rfl hp hf (by decide) rfl (powerState_busy (s := held s 0x0104 m s) _ hbusy)
    refine (if_neg hbusy).mpr ?_
    by_cases hsame : target = s.power.state
    · rw [if_pos hsame]
      exact answers_held rfl hp hf (by decide) ⟨rfl, rfl, rfl⟩
        ((powerState_holds (s := held s 0x0104 m s) _ hbusy hsame).trans (answer_ok rfl))
    · rw [if_neg hsame]
      exact fun hseal => owes_held rfl hp hf (by decide) ⟨rfl, rfl, rfl⟩
        (powerState_begins (s := held s 0x0104 m s) _ hbusy hsame hseal)

end Sys2Proof.Machine
end

section
/-!
PROOFS. BAY_CREATE and BAY_DESTROY (O13, R268, R269, R271, R343, R344).
-/
namespace Sys2Proof.Machine

open Sys2Proof

/-! ### One entry of a table -/

theorem tfind_tput_other {α : Type} [DecidableEq α] (d : α) (t : Tab α) {j k : Nat} (v : α) (h : k ≠ j) :
    tfind (tput d t k v) j = tfind t j := by
  unfold tput
  split
  · exact tfind_tdel_other t h
  · exact tfind_tins_other t v h

theorem modBay_bays (s : State) (i : Nat) (f : Bay → Bay) : ∃ B, modBay s i f = { s with bays := B } := ⟨_, rfl⟩

/-! ### BAY_CREATE -/

/-- A bay as BAY_CREATE makes it, but for its running variant. -/
def freshBay (bs : List Byte) : Bay :=
  { attr := bayAttr bs, plans := [], order := [], variant := none, lastVariant := none, destroying := none, todo := []
    running := false, paused := false, window := false, lent := false, groups := ownGroups (bayAttr bs).cls, rot := none
    commitAt := 0, bulk := [], nextGroup := 1, counters := [] }

/-- A bay with the variant that it can run now. -/
def variantSet (s : State) (b : Bay) : Bay := { b with variant := variantNow s b, lastVariant := variantNow s b }

/-- The new bay and its record, before the cores' clocks follow. -/
def bayListed (s : State) (bs : List Byte) : State :=
  let t := setBay s (fld bs 0 1) (freshBay bs)
  setRec (modBay t (fld bs 0 1) (variantSet t)) 0x20 (fld bs 0 1) (bootCopy (bs.take 32))

theorem bayOf_bayListed (s : State) (bs : List Byte) (j : Nat) : bayOf (bayListed s bs) j =
    if fld bs 0 1 = j then some (variantSet (setBay s (fld bs 0 1) (freshBay bs)) (freshBay bs)) else bayOf s j := by
  refine (bayOf_modBay (setBay s (fld bs 0 1) (freshBay bs)) (fld bs 0 1) _ j).trans ?_
  by_cases hj : fld bs 0 1 = j
  · subst hj
    rw [if_pos rfl, if_pos rfl, bayOf_setBay_same]
    rfl
  · rw [if_neg hj, if_neg hj, bayOf_setBay_other s _ (Ne.symm hj)]

theorem bayListed_rest (s : State) (bs : List Byte) : ∃ B R, bayListed s bs = { s with bays := B, recs := R } := by
  obtain ⟨B, h⟩ := modBay_bays (setBay s (fld bs 0 1) (freshBay bs)) (fld bs 0 1) (variantSet (setBay s (fld bs 0 1) (freshBay bs)))
  unfold bayListed
  dsimp only
  rw [h]
  exact ⟨B, _, rfl⟩

/-- Cores that join a bay are clocked (R445). -/
theorem gateCores_join (s : State) (m : Nat) : gateCores s 0 m = if s.power.state = .trim then
    (maskBits 64 m).foldl (fun s c => modCore s c (fun x => { x with gated := false })) s else s := by
  have hnone : maskBits 64 (0 - (0 &&& m)) = [] := by rw [Nat.zero_sub]; rfl
  have hall : m - (0 &&& m) = m := by rw [Nat.zero_and, Nat.sub_zero]
  unfold gateCores
  dsimp only
  rw [hnone, hall, List.foldl_nil]

theorem gateCores_join_rest (s : State) (m : Nat) : ∃ C, gateCores s 0 m = { s with cores := C } := by
  rw [gateCores_join]
  split
  · exact ⟨_, foldl_modCore_rest id (fun _ _ x => { x with gated := false }) (maskBits 64 m) s⟩
  · exact ⟨s.cores, rfl⟩

theorem coreOf_gateCores_join {s : State} (hs : tsorted none s.cores = true) (m c : Nat) :
    { coreOf (gateCores s 0 m) c with gated := false } = { coreOf s c with gated := false } := by
  rw [gateCores_join]
  split
  · rw [coreOf_foldl_modCore_sorted _ (maskBits_nodup 64 m) hs]
    split <;> rfl
  · rfl

theorem makeBay_cores (s : State) (bs : List Byte) : ∃ C, makeBay s bs = { bayListed s bs with cores := C } :=
  gateCores_join_rest (bayListed s bs) (bayAttr bs).coreMask

theorem modCore_held (s : State) (typ : Nat) (m : HostMsg) (u : State) (c : Nat) (f : Core → Core) :
    modCore (held s typ m u) c f = held s typ m (modCore u c f) := rfl

theorem gateCores_join_held (s : State) (typ : Nat) (m : HostMsg) (u : State) (n : Nat) :
    gateCores (held s typ m u) 0 n = held s typ m (gateCores u 0 n) := by
  rw [gateCores_join, gateCores_join]
  by_cases h : u.power.state = .trim
  · rw [if_pos h, if_pos (show (held s typ m u).power.state = .trim from h)]
    exact List.foldl_hom (held s typ m) fun v c => modCore_held s typ m v c _
  · rw [if_neg h, if_neg (show ¬ (held s typ m u).power.state = .trim from h)]

theorem makeBay_held (s : State) (typ : Nat) (m : HostMsg) (u : State) (bs : List Byte) :
    makeBay (held s typ m u) bs = held s typ m (makeBay u bs) :=
  gateCores_join_held s typ m (bayListed u bs) (bayAttr bs).coreMask

theorem bayCreateStatus_fails {s : State} {bs : List Byte} (h : bayCreateStatus s bs ≠ stOk) :
    tookEffect (bayCreateStatus s bs) = false := by
  unfold bayCreateStatus at h ⊢
  dsimp only at h ⊢
  split
  · rfl
  next hfits =>
    rw [if_neg hfits] at h
    split
    · rfl
    next hfree => exact absurd (if_neg hfree) h

/-! ### BAY_DESTROY -/

/-- Firmware's copies for bay `i` are freed. -/
def copiesFreed (s : State) (i : Nat) : State :=
  { s with builds := s.builds.map (fun (d : Build) => { d with copies := d.copies.filter (fun (c : BuildCopy) => c.kind ≠ 2 + i) }) }

/-- The state once the destruction of an empty bay has been accepted (R271). -/
def bayGoing (s : State) (i : Nat) (rt : RespTo) : State :=
  fixPaused (modBay (reclaimStart (copiesFreed (modBay s i (fun b => { b with bulk := [] })) i) i) i
    (fun b => { b with plans := [], destroying := some rt }))

theorem bayGoing_rest (s : State) (i : Nat) (rt : RespTo) : ∃ B D, bayGoing s i rt = { s with bays := B, builds := D } := by
  obtain ⟨A, hbulk⟩ := modBay_bays s i (fun b => { b with bulk := [] })
  obtain ⟨B, hplans⟩ := modBay_bays (reclaimStart (copiesFreed { s with bays := A } i) i) i
    (fun b => { b with plans := [], destroying := some rt })
  rw [bayGoing, hbulk, hplans]
  exact ⟨_, _, rfl⟩

theorem bayGoing_held (s : State) (typ : Nat) (m : HostMsg) (u : State) (i : Nat) (rt : RespTo) :
    bayGoing (held s typ m u) i rt = held s typ m (bayGoing u i rt) := rfl

theorem copiesFreed_kind (s : State) (i : Nat) {d : Build} (hd : d ∈ (copiesFreed s i).builds) :
    d.copies.all (fun c => decide (c.kind ≠ 2 + i)) = true := by
  obtain ⟨e, -, rfl⟩ := List.mem_map.mp hd
  exact List.all_eq_true.mpr fun c hc => (List.mem_filter.mp hc).2

theorem bayOf_bayGoing {s : State} {i : Nat} {b : Bay} (hb : bayOf s i = some b) (rt : RespTo) :
    (bayOf (bayGoing s i rt) i).map (fun x => (x.attr, x.plans, x.destroying)) = some (b.attr, [], some rt) := by
  rw [bayGoing, bayOf_fixPaused, bayOf_modBay, if_pos rfl, bayOf_reclaimStart,
    show bayOf (copiesFreed (modBay s i (fun b => { b with bulk := [] })) i) i = bayOf (modBay s i (fun b => { b with bulk := [] })) i
      from rfl, bayOf_modBay, if_pos rfl, hb]
  rfl

/-- A bay that has borrowed nothing gives nothing back. -/
theorem returnBorrowed_none {s : State} {i : Nat} (h : ∀ x, bayOf s i = some x → x.groups.all (fun g => g.lender.isNone) = true) :
    returnBorrowed s i = s := by
  unfold returnBorrowed
  cases hx : bayOf s i with
  | none => rfl
  | some x =>
    refine foldl_fixed_of_mem fun g hg => ?_
    rw [Option.isNone_iff_eq_none.mp (List.all_eq_true.mp (h x hx) g hg)]

theorem bayDestroy_absent {s : State} {body : List Byte} (h : bayOf s (fld body 0 1) = none) (rt : RespTo) :
    bayDestroy body rt s = answer s rt stBadMessage := by
  unfold bayDestroy
  simp only [h]

theorem bayDestroy_busy {s : State} {body : List Byte} {b : Bay} (hb : bayOf s (fld body 0 1) = some b)
    (h : b.destroying.isSome = true ∨ b.order ≠ []) (rt : RespTo) : bayDestroy body rt s = answer s rt stBusy := by
  unfold bayDestroy
  simp only [hb]
  exact if_pos h

theorem bayDestroy_empty {s : State} {body : List Byte} {b : Bay} (hb : bayOf s (fld body 0 1) = some b)
    (h : ¬ (b.destroying.isSome = true ∨ b.order ≠ [])) (hbulk : b.bulk = [])
    (hown : b.groups.all (fun g => g.lender.isNone) = true) (rt : RespTo) :
    bayDestroy body rt s = bayGoing s (fld body 0 1) rt := by
  unfold bayDestroy
  simp only [hb, hbulk, List.foldl_nil]
  refine (if_neg h).trans ?_
  rw [returnBorrowed_none]
  · rfl
  · intro x hx
    rw [bayOf_reclaimStart] at hx
    obtain ⟨z, hz, rfl⟩ := Option.map_eq_some_iff.mp hx
    obtain ⟨w, hw, rfl⟩ := Option.map_eq_some_iff.mp
      (((bayOf_modBay s (fld body 0 1) (fun b => { b with bulk := [] }) (fld body 0 1)).trans (if_pos rfl)).symm.trans hz)
    obtain rfl : b = w := Option.some.inj (hb.symm.trans hw)
    rw [List.all_map]
    exact hown

/-- Settles O13: the new bay by the lemmas on `bayListed` and `gateCores_join`, the end of an empty one by those on `bayGoing`. -/
theorem bayCreateAndDestroy : Obligations.BayCreateAndDestroy := by
  unfold Obligations.BayCreateAndDestroy
  intro s m
  refine ⟨?_, fun hp hzero hi => ⟨fun hnone => ?_, fun b hb => ?_⟩⟩
  · intro hp hf i
    by_cases hst : bayCreateStatus s m.body ≠ stOk
    · rw [if_pos hst]
      exact declines_held rfl hp hf (by decide) (bayCreateStatus_fails hst) (if_neg hst)
    rw [if_neg hst]
    obtain ⟨C, hmade⟩ := makeBay_cores s m.body
    obtain ⟨B, R, hlisted⟩ := bayListed_rest s m.body
    have hrun : bayCreate m.body (respTo s 0x0120 m) (held s 0x0120 m s) =
        respond (held s 0x0120 m (makeBay s m.body)) (respTo s 0x0120 m) stOk [] := by
      rw [← makeBay_held, ← answer_ok rfl]
      exact if_pos (not_not.mp hst)
    obtain ⟨t, hexec, hanswered, hbare⟩ := answers_held (i := .bayCreate m) (u := makeBay s m.body) (fields := bayCreateFields)
      rfl hp hf (by decide) (by rw [hmade, hlisted]; exact ⟨rfl, rfl, rfl⟩) hrun
    have hbays : t.bays = (bayListed s m.body).bays := (keeps_of_bare State.bays hbare).trans (by rw [hmade])
    have hrecs : t.recs = (bayListed s m.body).recs := (keeps_of_bare State.recs hbare).trans (by rw [hmade])
    have hcores : ∀ c, coreOf t c = coreOf (makeBay s m.body) c := coreOf_congr (keeps_of_bare State.cores hbare)
    refine ⟨t, hexec, hanswered, ?_, fun j hj => ?_, fun hs => ?_, fun k hk => ?_, fun hs c => ?_, ?_⟩
    · exact ⟨_, (bayOf_congr hbays i).trans ((bayOf_bayListed s m.body i).trans (if_pos rfl)), rfl, rfl, rfl, rfl, rfl, rfl, rfl⟩
    · exact (bayOf_congr hbays j).trans ((bayOf_bayListed s m.body j).trans (if_neg (Ne.symm hj)))
    · rw [recOf, hrecs]
      exact tget_tput_sorted _ _ _ _ hs
    · rw [hrecs]
      exact tfind_tput_other _ _ _ (Ne.symm hk)
    · rw [hcores]
      exact coreOf_gateCores_join (s := bayListed s m.body) hs _ c
    · rw [hbare, hmade, hlisted]
      rfl
  · exact declines_held rfl hp (by simp [hzero, within, hi]) (by decide) rfl (bayDestroy_absent (s := held s 0x0121 m s) hnone _)
  · have hf : (isZero m.body 1 3 && within (fld m.body 0 1) 0 63) = true := by simp [hzero, within, hi]
    by_cases hbusy : b.destroying.isSome = true ∨ b.order ≠ []
    · rw [if_pos hbusy]
      exact declines_held rfl hp hf (by decide) rfl (bayDestroy_busy (s := held s 0x0121 m s) hb hbusy _)
    rw [if_neg hbusy]
    intro hbulk hown
    have hrun := bayDestroy_empty (s := held s 0x0121 m s) hb hbusy hbulk hown (respTo s 0x0121 m)
    rw [bayGoing_held] at hrun
    obtain ⟨B, D, hrest⟩ := bayGoing_rest s (fld m.body 0 1) (respTo s 0x0121 m)
    obtain ⟨t, hexec, howed, hbare⟩ := owes_held (i := .bayDestroy m) (u := bayGoing s (fld m.body 0 1) (respTo s 0x0121 m))
      (fields := fun b => isZero b 1 3 && within (fld b 0 1) 0 63) rfl hp hf (by decide) (by rw [hrest]; exact ⟨rfl, rfl, rfl⟩) hrun
    have hbays : t.bays = (bayGoing s (fld m.body 0 1) (respTo s 0x0121 m)).bays := keeps_of_bare State.bays hbare
    have hbuilds : t.builds = (bayGoing s (fld m.body 0 1) (respTo s 0x0121 m)).builds := keeps_of_bare State.builds hbare
    refine ⟨t, hexec, howed, ?_, fun d hd => ?_, by rw [hbare, hrest]; rfl⟩
    · rw [bayOf_congr hbays]
      exact bayOf_bayGoing hb _
    · rw [hbuilds] at hd
      exact copiesFreed_kind _ _ hd

end Sys2Proof.Machine
end

section
/-!
PROOFS. What receipt of a frame and of a segment comes to where the port and LMX take it, and what a send that nothing holds back
puts on the wire (R298, R300, R303, R304, R307).
-/
namespace Sys2Proof.Machine

open Sys2Proof

/-! ### Ports -/

theorem portOf_setPort_link (s : State) (p : Nat) {x : Port} (h : x.link = true) : portOf (setPort s p x) p = x :=
  tget_tput_ne _ _ _ _ (fun e => nomatch h.symm.trans (congrArg Port.link e))

theorem linkIsUp_setPort (s : State) (p : Nat) {x : Port} (h : x.link = true) : linkIsUp (setPort s p x) p = true :=
  (congrArg Port.link (portOf_setPort_link s p h)).trans h

theorem portOf_portCnt {s : State} {p : Nat} (h : linkIsUp s p = true) (k w : Nat) :
    portOf (portCnt s p k w) p = { portOf s p with counters := cntAdd (portOf s p).counters k w 1 } := portOf_setPort_link s p h

theorem linkIsUp_portCnt {s : State} {p : Nat} (h : linkIsUp s p = true) (k w : Nat) : linkIsUp (portCnt s p k w) p = true :=
  linkIsUp_setPort s p h

theorem rxFrame_accepted {s : State} {p : Nat} {f : FrameHdr} (h : linkIsUp s p = true) (hf : frameOk s p f = true) :
    rxFrame s p f = (portCnt s p 0 64, true) := by
  have hfcs : f.fcsOk = true := by
    simp only [frameOk, Bool.and_eq_true] at hf
    exact hf.1.1.2
  unfold rxFrame
  simp only [h, hfcs, if_true]
  exact if_pos hf

/-! ### Segments -/

theorem segIn_parts {s : State} {g : Seg} (h : segIn s g = true) :
    linkIsUp s g.port = true ∧ frameOk s g.port g.frame = true ∧ udpReaches s g = true ∧ g.payload.length ≤ devMaxPayload s := by
  simp only [segIn, frameIn, Bool.and_eq_true, decide_eq_true_eq] at h
  exact ⟨h.1.1.1, h.1.1.2, h.1.2, h.2⟩

/-- The state once a valid segment of a connection has bound its path and its acknowledgement has been taken (R301, R309, R312). -/
def segSeen (s : State) (g : Seg) : State :=
  takeAck (bindPath (portCnt s g.port 0 64) g.connId.toNat (netOf g.port) g) g.connId.toNat g.ack g.sack g.window

/-- What a segment does that reaches LMX, by its validity and its type. -/
theorem rxSeg_in {s : State} {g : Seg} (h : segIn s g = true) (typ : Nat) : rxSeg typ g s =
    if typ = 7 then portCnt (portCnt s g.port 0 64) g.port 6 32
    else if ¬ segFormOk typ g = true ∨ (typ ≠ 3 ∧ ¬ segConnOk s g = true) then rxInvalid typ g (portCnt s g.port 0 64)
    else if typ = 3 then rxOpen g (portCnt s g.port 0 64)
    else if typ = 6 then freeConn (portCnt s g.port 0 64) g.connId.toNat
    else if typ = 1 ∨ typ = 5 then rxSequenced typ g (segSeen s g)
    else if typ = 8 then sendBare (segSeen s g) g.connId.toNat (netOf g.port) 2
    else segSeen s g := by
  obtain ⟨hlink, hframe, hudp, hlen⟩ := segIn_parts h
  have hudp' : udpReaches (portCnt s g.port 0 64) g = true := hudp
  have hlen' : ¬ devMaxPayload (portCnt s g.port 0 64) < g.payload.length := Nat.not_lt.mpr hlen
  unfold rxSeg
  rw [rxFrame_accepted hlink hframe]
  simp only [hudp', hlen', not_true_eq_false, if_false, or_false]
  refine if_congr Iff.rfl rfl (if_congr Iff.rfl rfl (if_congr Iff.rfl rfl (if_congr Iff.rfl rfl ?_)))
  split
  · rfl
  · rfl
  · rfl
  next h1 h5 h8 => rw [if_neg (not_or.mpr ⟨h1, h5⟩), if_neg h8]; rfl

theorem segOn_parts {s : State} {typ : Nat} {g : Seg} {x : Conn} (h : segOn s typ g x = true) :
    segIn s g = true ∧ segFormOk typ g = true ∧ connOf s g.connId.toNat = some x ∧ segConnOk s g = true ∧
      (pathOf x (netOf g.port)).up = true ∧ x.st = .open := by
  simp only [segOn, Bool.and_eq_true, decide_eq_true_eq] at h
  obtain ⟨⟨⟨⟨⟨hin, hform⟩, hx⟩, hepoch⟩, hup⟩, hst⟩ := h
  refine ⟨hin, hform, hx, ?_, hup, hst⟩
  unfold segConnOk
  rw [hx]
  exact decide_eq_true hepoch

/-- A valid segment that is no OPEN, RESET or DGRAM acts on its connection once its path is bound and its acknowledgement taken. -/
theorem rxSeg_on {s : State} {typ : Nat} {g : Seg} {x : Conn} (h : segOn s typ g x = true) (h3 : typ ≠ 3) (h6 : typ ≠ 6)
    (h7 : typ ≠ 7) : rxSeg typ g s =
      if typ = 1 ∨ typ = 5 then rxSequenced typ g (segSeen s g)
      else if typ = 8 then sendBare (segSeen s g) g.connId.toNat (netOf g.port) 2
      else segSeen s g := by
  obtain ⟨hin, hform, -, hconn, -, -⟩ := segOn_parts h
  rw [rxSeg_in hin, if_neg h7, if_neg (by simp [hform, hconn]), if_neg h3, if_neg h6]

/-! ### A send that leaves -/

/-- The fourth byte of a segment is its type (Table 13.3). -/
theorem segBytes_type (conn typ flags : Nat) (seq ack : W32) (sack : W64) (len : Nat) (epoch : W16) (window : Nat) (pl : List Byte) :
    (segBytes (segHead conn typ flags seq ack sack len epoch window) pl).getD 3 0 = BitVec.ofNat 8 typ ∧
      fld (segBytes (segHead conn typ flags seq ack sack len epoch window) pl) 3 1 = typ % 256 := by
  constructor
  · rfl
  · simp [segBytes, segHead, le, fld, cut, leNat]

/-- The connection once one of its segments has left: the acknowledgement that was owed went with it (R304). -/
def acksSent (x : Conn) : Conn := { x with ackDue := none, dataAcked := x.dataAcked || x.dataSeen }

section
variable {s : State} {c net typ : Nat} {x : Conn} {p : Path} {pl : List Byte} (flags : Nat) (seq : W32) (cls : MsgClass)
  (hx : connOf s c = some x) (hp : pathOf x net = p)

include hx hp in
/-- A segment leaves at once on an up path whose port may send, behind the frames that the port held back. -/
theorem sendSeg_leaves (hup : p.up = true) (hbound : p.bound = true)
    (hroom : ¬ ((typ = 1 ∨ typ = 7) ∧ pathRoom s x p < pl.length)) (hlink : linkIsUp s p.port = true)
    (hpause : (portOf s p.port).pauseEnd ≤ s.now) :
    ∃ bytes, bytes.getD 3 0 = BitVec.ofNat 8 typ ∧ fld bytes 3 1 = typ % 256 ∧
      sendSeg s c net typ flags seq pl cls =
        sendFrame (releasePort (setConn s c (acksSent x)) p.port) p.port
          (.segment p.port p.ip p.udp p.mac (ipHdr s p.port p.v6 cls) bytes) := by
  subst hp
  obtain ⟨hget, hfld⟩ := segBytes_type c typ flags seq x.rxNext (sackMap x) pl.length x.epoch (rxWindow s c x) pl
  refine ⟨_, hget, hfld, ?_⟩
  unfold sendSeg sendRaw
  simp only [hx, hup, if_true]
  exact (if_pos ⟨hbound, hroom⟩).trans (txFrame_eq (setConn s c (acksSent x)) _ _ hlink hpause)

include hx hp in
/-- A payload that its path does not carry stays where it is (R306). -/
theorem sendSeg_stays (hroom : (typ = 1 ∨ typ = 7) ∧ pathRoom s x p < pl.length) :
    sendSeg s c net typ flags seq pl cls = s := by
  subst hp
  unfold sendSeg sendRaw
  simp only [hx]
  split
  · exact if_neg fun h => h.2 hroom
  · rfl

end

theorem setConn_setConn (s : State) (c : Nat) (x y : Conn) : setConn (setConn s c x) c y = setConn s c y := by
  unfold setConn
  rw [tins_tins]

theorem path_ne {p : Path} (h : p.up = true) : p ≠ pathD := fun e => nomatch h.symm.trans (congrArg Path.up e)

theorem pathOf_setPath_up (x : Conn) (net : Nat) {p : Path} (h : p.up = true) : pathOf (setPath x net p) net = p :=
  tget_tput_ne _ _ _ _ (path_ne h)

end Sys2Proof.Machine
end

section
/-!
PROOFS. Frames for the port itself: ARP, neighbour discovery, echo and PAUSE (O30, R297 to R300).
-/
namespace Sys2Proof.Machine

open Sys2Proof

/-- A frame on a port whose link is up waits for the end of a pause, or leaves behind what the port held back (R298). -/
theorem txFrame_up {s : State} {p : Nat} (h : linkIsUp s p = true) (e : Emit) : txFrame s p e =
    if s.now < (portOf s p).pauseEnd then setPort s p { portOf s p with heldTx := (portOf s p).heldTx ++ [e] }
    else emit (portCnt (releasePort s p) p 1 64) e := by
  unfold txFrame
  rw [if_neg (not_not_intro h)]
  rfl

/-- Receipt of an echo request that the port's MAC accepts. -/
theorem execEchoRequest_accepted {s : State} {p : Fin 8} {f : FrameHdr} (hlink : linkIsUp s p = true) (hf : frameOk s p f = true)
    {v6 : Bool} {dst : Nat} {payload : List Byte} (h : echoAnswers s p v6 dst payload = true) (src : Nat) :
    let seen := portCnt s p 0 64
    let recent := (portOf seen p).echoes.filter (fun t => decide (s.now < t + Config.cyclesPerSecond))
    exec (.echoRequest p f v6 src dst payload) s = .next (
      if recent.length < 1000 then
        txFrame (setPort seen p { portOf seen p with echoes := s.now :: recent }) p
          (.echoReply p f.src v6 src payload (ipHdr s p v6 .control))
      else portCnt seen p 5 32) := by
  intro seen recent
  have hanswers : echoAnswers seen p v6 dst payload = true := h
  show execEchoRequest p f v6 src dst payload s = _
  unfold execEchoRequest
  simp only [rxFrame_accepted hlink hf, not_true_eq_false, if_false]
  exact congrArg Host.Outcome.next (if_congr (and_iff_right hanswers) rfl rfl)

/-- Receipt of a PAUSE frame where the link is up. -/
theorem execPauseFrame_up {s : State} {p : Fin 8} (hlink : linkIsUp s p = true) (f : FrameHdr) (quanta : W16) :
    exec (.pauseFrame p f quanta) s =
      let u := if f.fcsOk then portCnt s p 0 64 else portCnt (portCnt s p 0 64) p 3 32
      .next (if pauseOk s p f = true then
          releasePort (setPort u p { portOf u p with pauseEnd := s.now + pauseCycles quanta.toNat }) p
        else portCnt u p 5 32) := by
  show execPauseFrame p f quanta s = _
  unfold execPauseFrame
  rw [if_neg (not_not_intro hlink)]
  cases f.fcsOk <;> rfl

theorem pauseOk_iff {s : State} {p : Nat} {f : FrameHdr} : pauseOk s p f = true ↔
    f.fcsOk = true ∧ 64 ≤ f.bytes ∧ f.bytes ≤ 9216 ∧ f.tags = [] ∧ (f.dest = 0x0180C2000001 ∨ f.dest = portMac s p) ∧
      bit (portFlags s p) 1 = true := by
  simp only [pauseOk, Bool.and_eq_true, Bool.or_eq_true, decide_eq_true_eq]
  tauto

/-- Settles O30: what the MAC accepts by `rxFrame_accepted`, the reply by `txFrame_up`. -/
theorem ethernetAnswersItsOwnAddresses : Obligations.EthernetAnswersItsOwnAddresses := by
  unfold Obligations.EthernetAnswersItsOwnAddresses
  intro s p f hlink seen leaves Replies
  have hseen : linkIsUp seen p = true := linkIsUp_portCnt hlink 0 64
  refine ⟨fun hf => ?_, fun quanta hfcs => ?_, fun quanta hfcs => ?_⟩
  · have hrx := rxFrame_accepted hlink hf
    refine ⟨fun sender target haddr hne => ?_, fun sender target haddr => ?_, fun src target hon haddr => ?_,
      fun v6 src dst payload hechoes => ?_, ?_⟩
    · show execArpRequest p f sender target s = _
      unfold execArpRequest
      rw [hrx]
      exact congrArg Host.Outcome.next ((if_neg (not_not_intro rfl)).trans ((if_pos ⟨haddr, hne⟩).trans (txFrame_up hseen _)))
    · show execArpRequest p f sender target s = _
      unfold execArpRequest
      rw [hrx]
      exact congrArg Host.Outcome.next ((if_neg (not_not_intro rfl)).trans (if_neg fun h => haddr h.1))
    · show execNeighbourSolicitation p f src target s = _
      unfold execNeighbourSolicitation
      rw [hrx]
      exact congrArg Host.Outcome.next ((if_neg (not_not_intro rfl)).trans ((if_pos ⟨hon, haddr⟩).trans (txFrame_up hseen _)))
    · have hexec := execEchoRequest_accepted hlink hf hechoes src
      refine ⟨fun hroom => ?_, fun hfull => ?_⟩
      · refine hexec.trans (congrArg Host.Outcome.next ((if_pos hroom).trans (txFrame_up ?_ _)))
        exact linkIsUp_setPort _ _ hseen
      · exact hexec.trans (congrArg Host.Outcome.next (if_neg (Nat.not_lt.mpr hfull)))
    · show execUnsupportedFrame p f s = _
      unfold execUnsupportedFrame
      rw [hrx]
      rfl
  · rw [execPauseFrame_up hlink, hfcs]
    refine congrArg Host.Outcome.next (if_congr ?_ rfl rfl)
    rw [pauseOk_iff]
    simp only [hfcs, true_and]
  · rw [execPauseFrame_up hlink, hfcs]
    exact congrArg Host.Outcome.next (if_neg fun h => Bool.false_ne_true (hfcs.symm.trans (pauseOk_iff.mp h).1))

end Sys2Proof.Machine
end

section
/-!
PROOFS. RESET, and segments that are not valid (O28, R307, Table 13.7).
-/
namespace Sys2Proof.Machine

open Sys2Proof

/-- A connection in a sorted table is gone once it is freed, and nothing else but the fences of its paths with it (Table 13.7). -/
theorem freeConn_frees {c : Nat} {s u : State} (h : Moves c s u) (hs : tsorted none u.conns = true) :
    connOf (freeConn u c) c = none ∧ (∀ d, d ≠ c → connOf (freeConn u c) d = connOf s d) ∧ s.wire <+: (freeConn u c).wire ∧
      { (freeConn u c).bare with units := [] } = { s.bare with units := [] } :=
  ⟨tfind_tdel_same _ none c hs, fun d hd => (tfind_tdel_other _ (Ne.symm hd)).trans (h.other d hd), h.wire,
    congrArg (fun t : State => { t with units := [] }) h.bare⟩

/-- An invalid segment whose form is at fault is counted, and that is all. -/
theorem rxInvalid_form {typ : Nat} {g : Seg} (h : segFormOk typ g = false) (s : State) : rxInvalid typ g s = portCnt s g.port 6 32 := by
  unfold rxInvalid
  exact if_neg fun hall => Bool.false_ne_true (h.symm.trans hall.1)

/-- A well-formed segment of no open connection is answered with a RESET, but for a source address that had one less than a
millisecond ago (R307). -/
theorem rxInvalid_conn {s : State} {typ : Nat} {g : Seg} (hform : segFormOk typ g = true) (h3 : typ ≠ 3) (h6 : typ ≠ 6)
    (h7 : typ ≠ 7) (hconn : segConnOk s g = false) :
    let u := portCnt s g.port 6 32
    let again := resetTo { u with resets := (g.srcIp, s.now) :: s.resets.filter (fun r => decide (r.1 ≠ g.srcIp)) } g 1
    (∀ r, s.resets.find? (fun r => decide (r.1 = g.srcIp)) = some r →
      rxInvalid typ g s = if s.now < r.2 + Config.cyclesPerMs then u else again) ∧
    (s.resets.find? (fun r => decide (r.1 = g.srcIp)) = none → rxInvalid typ g s = again) := by
  have hbad : segFormOk typ g = true ∧ typ ≠ 3 ∧ typ ≠ 6 ∧ typ ≠ 7 ∧ ¬ segConnOk (portCnt s g.port 6 32) g = true :=
    ⟨hform, h3, h6, h7, fun h => Bool.false_ne_true (hconn.symm.trans h)⟩
  have hresets : (portCnt s g.port 6 32).resets = s.resets := rfl
  unfold rxInvalid
  simp only [if_pos hbad, hresets]
  refine ⟨fun r hr => ?_, fun hnone => ?_⟩
  · simp only [hr]
    rfl
  · have hall : s.resets.filter (fun r => decide (r.1 ≠ g.srcIp)) = s.resets :=
      List.filter_eq_self.mpr fun r hr => by simpa using List.find?_eq_none.mp hnone r hr
    simp only [hnone, hall]
    rfl

/-- Settles O28: a RESET by `freeConn_frees`, an invalid segment by `rxInvalid_form` and `rxInvalid_conn`. -/
theorem resetFreesAndInvalidIsCounted : Obligations.ResetFreesAndInvalidIsCounted := by
  unfold Obligations.ResetFreesAndInvalidIsCounted
  intro s g typ hin
  refine ⟨fun x hform hx hepoch hs => ?_, ?_, fun hform => ?_, fun htyp hform hconn => ?_⟩
  · have hconn : segConnOk s g = true := by
      unfold segConnOk
      rw [hx]
      exact decide_eq_true hepoch
    have hrx : rxSeg 6 g s = freeConn (portCnt s g.port 0 64) g.connId.toNat := by
      rw [rxSeg_in hin, if_neg (by decide), if_neg (by simp [hform, hconn]), if_neg (by decide), if_pos rfl]
    obtain ⟨hgone, hothers, -, hbare⟩ := freeConn_frees (portCnt_moves g.connId.toNat s g.port 0 64) hs
    exact ⟨_, congrArg Host.Outcome.next hrx, hgone, hothers, rfl, hbare⟩
  · exact congrArg Host.Outcome.next ((rxSeg_in hin 7).trans (if_pos rfl))
  · refine congrArg Host.Outcome.next ((rxSeg_in hin _).trans ?_)
    by_cases h7 : typ.toNat = 7
    · rw [if_pos h7]
    · rw [if_neg h7, if_pos (.inl (by simp [hform])), rxInvalid_form hform]
  · simp only [List.mem_cons, List.not_mem_nil, or_false, not_or] at htyp
    obtain ⟨h3, h6, h7⟩ := htyp
    have hrx : exec (.invalidSegment typ g) s = .next (rxInvalid typ.toNat g (portCnt s g.port 0 64)) := by
      refine congrArg Host.Outcome.next ((rxSeg_in hin _).trans ?_)
      rw [if_neg h7, if_pos (.inr ⟨h3, by simp [hconn]⟩)]
    obtain ⟨hlimited, hfirst⟩ := rxInvalid_conn (s := portCnt s g.port 0 64) hform h3 h6 h7 hconn
    intro again
    rw [hrx]
    split
    next r hr => exact congrArg Host.Outcome.next (hlimited r hr)
    next hnone => exact congrArg Host.Outcome.next (hfirst hnone)

end Sys2Proof.Machine
end

section
/-!
PROOFS. OPEN of a new connection (O25, R305 to R308).
-/
namespace Sys2Proof.Machine

open Sys2Proof

/-- The OPEN_ACK of a new connection (R305). -/
def openAck (s : State) (g : Seg) : TxSeg :=
  { seq := Config.freeSeq s.fresh, typ := 4, flags := 0, payload := openAckPayload s (BitVec.ofNat 64 (fld g.payload 4 8))
    cls := .control, sentAt := s.now, net := netOf g.port, resent := false, sacked := false }

/-- The path that an OPEN comes on (R301). -/
def openPath (g : Seg) : Path :=
  { pathD with bound := true, up := true, port := g.port, v6 := g.v6, ip := g.srcIp, udp := g.srcUdp, mac := g.frame.src }

/-- A connection as its OPEN makes it (R305 to R308). -/
def openConn (s : State) (g : Seg) (c : Nat) : Conn :=
  { st := .open, epoch := tget 0 s.epochs c, tag := BitVec.ofNat 64 (fld g.payload 4 8), opened := s.opened, peerIp := g.srcIp
    peerUdp := g.srcUdp, hostMax := fld g.payload 0 2, paths := tput pathD [] (netOf g.port) (openPath g), active := netOf g.port
    rxNext := g.seq + 1, rxBuf := [], asm := none, asmSegs := 0, oversize := false, dataSeen := false, dataAcked := false
    ackDue := none, isn := Config.freeSeq s.fresh, txNext := Config.freeSeq s.fresh + 1, unacked := [openAck s g], waiting := []
    respWait := [], peerWindow := g.window.toNat, msgNo := 0, dgramNo := 0, bufLimit := fld (act s 0x03 0) 12 4, counters := [] }

/-- The state with the new connection, before its OPEN_ACK leaves. -/
def openedAt (s : State) (g : Seg) (c : Nat) : State :=
  { s with conns := tins s.conns c (openConn s g c), opened := s.opened + 1, fresh := s.fresh + 1
           epochs := tput 0 s.epochs c (tget 0 s.epochs c + 1) }

theorem pathOf_openConn (s : State) (g : Seg) (c : Nat) : pathOf (openConn s g c) (netOf g.port) = openPath g :=
  tget_tput_ne pathD [] (netOf g.port) (openPath g) (path_ne rfl)

theorem connOf_openedAt (s : State) (g : Seg) (c d : Nat) :
    connOf (openedAt s g c) d = if c = d then some (openConn s g c) else connOf s d := tfind_tins _ _ _ _

/-- An OPEN that repeats no connection opens the lowest free identifier. -/
theorem rxOpen_new {s : State} {g : Seg} {c : Nat} (hnew : s.conns.all (fun e => !openRepeats g e.2) = true) (hc : c < 4096)
    (hfree : connOf s c = none) (hlow : ∀ d, d < c → connOf s d ≠ none) :
    rxOpen g s = sendSeg (openedAt s g c) c (netOf g.port) 4 0 (Config.freeSeq s.fresh)
      (openAckPayload s (BitVec.ofNat 64 (fld g.payload 4 8))) .control := by
  have hnone : s.conns.find? (fun e => openRepeats g e.2) = none :=
    List.find?_eq_none.mpr fun e he => by simpa using List.all_eq_true.mp hnew e he
  have hlowest : (List.range 4096).find? (fun d => (connOf s d).isNone) = some c :=
    List.find?_range_eq_some.mpr ⟨by simp [hfree], List.mem_range.mpr hc, fun d hd => by
      simpa [Option.isSome_iff_ne_none] using hlow d hd⟩
  unfold rxOpen
  simp only [hnone, hlowest]
  rfl

/-- Settles O25: `rxOpen_new`, and the OPEN_ACK leaves the connection as `openConn` has it. -/
theorem openMakesAConnection : Obligations.OpenMakesAConnection := by
  unfold Obligations.OpenMakesAConnection
  intro s g c hin hform hnew hc hfree hlow
  let u := portCnt s g.port 0 64
  have hrx : rxSeg 3 g s = rxOpen g u := by
    rw [rxSeg_in hin, if_neg (by decide), if_neg (by simp [hform]), if_pos rfl]
  rw [rxOpen_new (s := u) hnew hc hfree hlow] at hrx
  have hmoves := sendSeg_moves (openedAt u g c) c (netOf g.port) 4 0 (Config.freeSeq u.fresh)
    (openAckPayload u (BitVec.ofNat 64 (fld g.payload 4 8))) .control
  have hconn : connOf (rxSeg 3 g s) c = some (openConn u g c) := by
    have hopen : connOf (openedAt u g c) c = some (openConn u g c) := (connOf_openedAt u g c c).trans (if_pos rfl)
    rw [hrx]
    rcases connOf_sendSeg (openedAt u g c) c (netOf g.port) 4 0 (Config.freeSeq u.fresh)
      (openAckPayload u (BitVec.ofNat 64 (fld g.payload 4 8))) .control with hsame | ⟨x, hx, hacked⟩
    · exact hsame.trans hopen
    · obtain rfl : x = openConn u g c := Option.some.inj (hx.symm.trans hopen)
      exact hacked
  rw [← hrx] at hmoves
  have hpath := pathOf_openConn u g c
  refine ⟨_, _, rfl, hconn, fun d hd => ?_, rfl, rfl, rfl, rfl, rfl, rfl, rfl, ?_, ?_, ?_, rfl, rfl,
    keeps_of_bare State.opened hmoves.bare, fun d hd => ?_, ?_⟩
  · exact (hmoves.other d hd).trans ((connOf_openedAt u g c d).trans (if_neg (Ne.symm hd)))
  · rw [hpath]
    rfl
  · rw [hpath]
    rfl
  · rw [hpath]
    rfl
  · rw [keeps_of_bare State.epochs hmoves.bare]
    exact tget_tput_other _ _ _ (Ne.symm hd)
  · rw [hmoves.bare]
    rfl

end Sys2Proof.Machine
end

section
/-!
PROOFS. The timers of a connection (O29, R304, R306, R312, R313, Table 13.7).
-/
namespace Sys2Proof.Machine

open Sys2Proof

section
variable {s : State} {c net typ : Nat} {x : Conn} {p : Path} {pl : List Byte} (flags : Nat) (seq : W32) (cls : MsgClass)
  (hx : connOf s c = some x) (hp : pathOf x net = p) (hup : p.up = true) (hbound : p.bound = true)
  (hlink : linkIsUp s p.port = true) (hpause : (portOf s p.port).pauseEnd ≤ s.now) (hheld : (portOf s p.port).heldTx = [])

include hx hp hup hbound hlink hpause hheld in
/-- Where the port holds nothing back, a segment is the next thing on the wire. -/
theorem sendSeg_next (hroom : ¬ ((typ = 1 ∨ typ = 7) ∧ pathRoom s x p < pl.length)) :
    (∃ bytes, (sendSeg s c net typ flags seq pl cls).wire =
        s.wire ++ [.segment p.port p.ip p.udp p.mac (ipHdr s p.port p.v6 cls) bytes] ∧ fld bytes 3 1 = typ % 256) ∧
      connOf (sendSeg s c net typ flags seq pl cls) c = some (acksSent x) := by
  obtain ⟨bytes, -, hfld, heq⟩ := sendSeg_leaves flags seq cls hx hp hup hbound hroom hlink hpause
  rw [heq, releasePort_none (setConn s c (acksSent x)) _ hheld]
  exact ⟨⟨bytes, rfl, hfld⟩, connOf_setConn_same ..⟩

end

theorem connCnt_setConn (s : State) (c k : Nat) (x : Conn) :
    connCnt (setConn s c x) c k = setConn s c { x with counters := cntAdd x.counters k 32 1 } := by
  unfold connCnt
  rw [connOf_setConn_same]
  exact setConn_setConn ..

/-- The connection after an RTO below the third in a row has expired on a path, for the segment `u` (R312). -/
def backedOff (now : Nat) (x : Conn) (net : Nat) (u : TxSeg) : Conn :=
  { setPath x net { pathOf x net with rto := min 50000000 (2 * (pathOf x net).rto), expiries := (pathOf x net).expiries + 1 } with
    unacked := x.unacked.map (fun v => if v.seq = u.seq then { v with resent := true, sentAt := now } else v)
    counters := cntAdd x.counters 0 32 1 }

theorem rtoExpire_resends {s : State} {c net : Nat} {x : Conn} (hx : connOf s c = some x) {u : TxSeg}
    (hu : x.unacked.find? (fun u => !u.sacked && decide (u.net = net)) = some u) (hup : (pathOf x net).up = true)
    (hfew : (pathOf x net).expiries < 2) :
    rtoExpire c net s = sendSeg (setConn s c (backedOff s.now x net u)) c net u.typ (u.flags ||| 4) u.seq u.payload u.cls := by
  unfold rtoExpire
  simp only [hx, hu]
  rw [if_neg (not_not_intro hup), if_neg (Nat.not_le.mpr hfew), connCnt_setConn]
  rfl

theorem pathOf_backedOff {x : Conn} {net : Nat} (hup : (pathOf x net).up = true) (now : Nat) (u : TxSeg) :
    pathOf (backedOff now x net u) net =
      { pathOf x net with rto := min 50000000 (2 * (pathOf x net).rto), expiries := (pathOf x net).expiries + 1 } :=
  pathOf_setPath_up x net hup

theorem seqs_backedOff (now : Nat) (x : Conn) (net : Nat) (u : TxSeg) :
    (backedOff now x net u).unacked.map (fun v => v.seq) = x.unacked.map (fun v => v.seq) := by
  unfold backedOff
  rw [List.map_map]
  refine List.map_congr_left fun v _ => ?_
  show (if v.seq = u.seq then { v with resent := true, sentAt := now } else v).seq = v.seq
  split <;> rfl

theorem keepaliveExpire_probes {s : State} {c net : Nat} {x : Conn} (hx : connOf s c = some x) (hup : (pathOf x net).up = true)
    (hbound : (pathOf x net).bound = true) (hfew : (pathOf x net).probes < 3) :
    keepaliveExpire c net s =
      sendBare (setConn s c (setPath x net { pathOf x net with probes := (pathOf x net).probes + 1 })) c net 8 := by
  unfold keepaliveExpire
  simp only [hx]
  rw [if_neg (not_not_intro hbound), if_pos hup, if_neg (Nat.not_le.mpr hfew)]

theorem sorted_sendRaw {s : State} (hs : tsorted none s.conns = true) (c net typ flags : Nat) (seq : W32) (pl : List Byte)
    (cls : MsgClass) : tsorted none (sendRaw s c net typ flags seq pl cls).conns = true := by
  unfold sendRaw
  split
  · exact hs
  · dsimp only
    split
    · rw [txFrame_conns]
      exact tsorted_tins _ _ _ _ hs nofun
    · exact hs

theorem sorted_sendSeg {s : State} (hs : tsorted none s.conns = true) (c net typ flags : Nat) (seq : W32) (pl : List Byte)
    (cls : MsgClass) : tsorted none (sendSeg s c net typ flags seq pl cls).conns = true := by
  unfold sendSeg
  split
  · exact hs
  · split
    · exact sorted_sendRaw hs ..
    · exact hs

/-- Settles O29: what leaves by `sendSeg_next`, or stays by `sendSeg_stays`, and the end of a connection by `freeConn_frees`. -/
theorem connectionTimers : Obligations.ConnectionTimers := by
  unfold Obligations.ConnectionTimers
  intro s c net x hx p Sent Rest
  refine ⟨fun hup hbound hlink hpause hheld => ⟨fun hdue => ?_, fun u hu hfew => ?_, fun hfew => ?_⟩,
    fun hs => ⟨fun hst => ?_, fun hst => ?_⟩⟩
  · have hrun : exec (.ackDelayExpiry c) s = .next (sendBare s c net 2) := by
      show execAckDelayExpiry c s = _
      unfold execAckDelayExpiry
      simp only [hx, hdue]
    have hmoves := sendSeg_moves s c net 2 0 0 [] .control
    obtain ⟨hsent, hacked⟩ := sendSeg_next (typ := 2) (pl := []) 0 0 .control hx rfl hup hbound hlink hpause hheld (by simp)
    exact ⟨_, hrun, hsent, ⟨hmoves.other, hmoves.bare⟩, hacked⟩
  · let z := backedOff s.now x net u
    have hz : connOf (setConn s c z) c = some z := connOf_setConn_same ..
    have hpath := pathOf_backedOff hup s.now u
    have hrun : exec (.rtoExpiry c net) s =
        .next (sendSeg (setConn s c z) c net u.typ (u.flags ||| 4) u.seq u.payload u.cls) :=
      congrArg Host.Outcome.next (rtoExpire_resends hx hu hup hfew)
    have hmoves := (setConn_moves s c z).trans
      (sendSeg_moves (setConn s c z) c net u.typ (u.flags ||| 4) u.seq u.payload u.cls)
    by_cases hbig : (u.typ = 1 ∨ u.typ = 7) ∧ pathRoom s x p < u.payload.length
    · have hstays := sendSeg_stays (net := net) (u.flags ||| 4) u.seq u.cls hz hpath hbig
      rw [hstays] at hrun hmoves
      refine ⟨_, z, hrun, ⟨hmoves.other, hmoves.bare⟩, hz, ?_, ?_, ?_, seqs_backedOff s.now x net u, rfl⟩
      · rw [if_pos hbig]
        rfl
      · rw [hpath]
      · rw [hpath]
    · obtain ⟨hsent, hacked⟩ := sendSeg_next (u.flags ||| 4) u.seq u.cls hz hpath hup hbound hlink hpause hheld hbig
      refine ⟨_, acksSent z, hrun, ⟨hmoves.other, hmoves.bare⟩, hacked, ?_, ?_, ?_, seqs_backedOff s.now x net u, rfl⟩
      · rw [if_neg hbig]
        exact hsent
      · exact congrArg Path.rto hpath
      · exact congrArg Path.expiries hpath
  · let z := setPath x net { p with probes := p.probes + 1 }
    have hz : connOf (setConn s c z) c = some z := connOf_setConn_same ..
    have hpath : pathOf z net = { p with probes := p.probes + 1 } := pathOf_setPath_up x net hup
    have hmoves := (setConn_moves s c z).trans (sendSeg_moves (setConn s c z) c net 8 0 0 [] .control)
    obtain ⟨hsent, hacked⟩ := sendSeg_next (typ := 8) (pl := []) 0 0 .control hz hpath hup hbound hlink hpause hheld (by simp)
    exact ⟨_, _, congrArg Host.Outcome.next (keepaliveExpire_probes hx hup hbound hfew), hsent, ⟨hmoves.other, hmoves.bare⟩,
      hacked, congrArg Path.probes hpath⟩
  · have hrun : exec (.holdExpiry c) s = .next (freeConn (sendRaw (sendRaw s c 0 6 0 0 (le 1 3 ++ zeros 3) .control)
        c 1 6 0 0 (le 1 3 ++ zeros 3) .control) c) := by
      show execHoldExpiry c s = _
      unfold execHoldExpiry
      simp only [hx, if_pos hst]
    exact ⟨_, hrun, freeConn_frees ((sendRaw_moves ..).trans (sendRaw_moves ..)) (sorted_sendRaw (sorted_sendRaw hs ..) ..)⟩
  · have hrun : exec (.closingEnd c) s = .next (freeConn (sendSeg (sendSeg s c 0 5 0 x.txNext [] .control)
        c 1 5 0 x.txNext [] .control) c) := by
      show execClosingEnd c s = _
      unfold execClosingEnd
      simp only [hx, if_pos hst]
    exact ⟨_, hrun, freeConn_frees ((sendSeg_moves ..).trans (sendSeg_moves ..)) (sorted_sendSeg (sorted_sendSeg hs ..) ..)⟩

end Sys2Proof.Machine
end

section
/-!
PROOFS. ACK, KEEPALIVE and CLOSE of an open connection (O27, R301, R304, R309, R311, R312).
-/
namespace Sys2Proof.Machine

open Sys2Proof

/-! ### Round-trip times -/

/-- `y` is `x` but for its paths, and what was up among them has at most another round-trip time, RTO and count of expiries (R312). -/
def Retimed (x y : Conn) : Prop :=
  ∃ P, y = { x with paths := P } ∧ ∀ net, (pathOf x net).up = true →
    ∃ rtt rto n, pathOf y net = { pathOf x net with rtt := rtt, rto := rto, expiries := n }

theorem Retimed.refl (x : Conn) : Retimed x x := ⟨x.paths, rfl, fun _ _ => ⟨_, _, _, rfl⟩⟩

theorem Retimed.trans {x y z : Conn} (h : Retimed x y) (k : Retimed y z) : Retimed x z := by
  obtain ⟨P, rfl, hx⟩ := h
  obtain ⟨Q, rfl, hy⟩ := k
  refine ⟨Q, rfl, fun net hup => ?_⟩
  obtain ⟨_, _, _, h1⟩ := hx net hup
  obtain ⟨rtt, rto, n, h2⟩ := hy net (by rw [h1]; exact hup)
  exact ⟨rtt, rto, n, by rw [h2, h1]⟩

theorem pathOf_setPath_other (x : Conn) {net k : Nat} (p : Path) (h : k ≠ net) : pathOf (setPath x net p) k = pathOf x k :=
  tget_tput_other _ _ _ (Ne.symm h)

theorem retimed_setPath (x : Conn) (net : Nat) (rtt : Option (Nat × Nat)) (rto n : Nat) :
    Retimed x (setPath x net { pathOf x net with rtt := rtt, rto := rto, expiries := n }) := by
  refine ⟨_, rfl, fun k hup => ?_⟩
  by_cases hk : k = net
  · subst hk
    exact ⟨rtt, rto, n, pathOf_setPath_up x k hup⟩
  · exact ⟨_, _, _, pathOf_setPath_other x _ hk⟩

/-- One segment that an acknowledgement names gives its path a round-trip sample, unless it was sent again (R312). -/
def sampled (now : Nat) (x : Conn) (t : TxSeg) : Conn :=
  if t.resent ∨ t.sacked then x
  else setPath x t.net { pathOf x t.net with rtt := rttSample (pathOf x t.net).rtt (cyclesNs (now - t.sentAt)) }

/-- Progress on a path ends its back-off (R312). -/
def rtoSet (net : Nat) (x : Conn) : Conn :=
  if pathOf x net = pathD then x else setPath x net { pathOf x net with rto := rtoOf (pathOf x net).rtt, expiries := 0 }

/-- The segment stands in a `sack_map` (Table 13.3). -/
def inSack (ack : W32) (sack : W64) (t : TxSeg) : Bool :=
  decide ((t.seq - ack - 1).toNat < 64) && sack.getLsbD (t.seq - ack - 1).toNat

/-- The connection with the times that an acknowledgement tells of. -/
def ackTimed (now : Nat) (x : Conn) (ack : W32) (sack : W64) : Conn :=
  let newly := x.unacked.filter (fun t => seqAfter ack t.seq || (inSack ack sack t && !t.sacked))
  if newly = [] then newly.foldl (sampled now) x else iter rtoSet 2 (newly.foldl (sampled now) x)

/-- The segments that an acknowledgement leaves in the send buffer (R311). -/
def leftUnacked (ack : W32) (sack : W64) (l : List TxSeg) : List TxSeg :=
  (l.filter (fun t => !seqAfter ack t.seq)).map (fun t => { t with sacked := t.sacked || inSack ack sack t })

theorem retimed_sampled (now : Nat) (x : Conn) (t : TxSeg) : Retimed x (sampled now x t) := by
  unfold sampled
  split
  · exact .refl x
  · exact retimed_setPath ..

theorem retimed_rtoSet (net : Nat) (x : Conn) : Retimed x (rtoSet net x) := by
  unfold rtoSet
  split
  · exact .refl x
  · exact retimed_setPath ..

theorem retimed_foldl_sampled (now : Nat) (l : List TxSeg) (x : Conn) : Retimed x (l.foldl (sampled now) x) := by
  induction l generalizing x with
  | nil => exact .refl x
  | cons t rest ih => exact (retimed_sampled now x t).trans (ih _)

theorem retimed_ackTimed (now : Nat) (x : Conn) (ack : W32) (sack : W64) : Retimed x (ackTimed now x ack sack) := by
  unfold ackTimed
  dsimp only
  split
  · exact retimed_foldl_sampled ..
  · exact ((retimed_foldl_sampled ..).trans (retimed_rtoSet 0 _)).trans (retimed_rtoSet 1 _)

theorem seqs_leftUnacked (ack : W32) (sack : W64) (l : List TxSeg) :
    (leftUnacked ack sack l).map (fun u => u.seq) = (l.filter (fun u => !seqAfter ack u.seq)).map (fun u => u.seq) := by
  unfold leftUnacked
  rw [List.map_map]
  rfl

/-- The connection once an acknowledgement has been taken (R311, R312). -/
def ackTaken (now : Nat) (x : Conn) (ack : W32) (sack : W64) (window : W16) : Conn :=
  { ackTimed now x ack sack with unacked := leftUnacked ack sack (ackTimed now x ack sack).unacked, peerWindow := window.toNat }

theorem takeAck_eq {s : State} {c : Nat} {x : Conn} (hx : connOf s c = some x) (ack : W32) (sack : W64) (window : W16) :
    takeAck s c ack sack window = pump (setConn s c (ackTaken s.now x ack sack window)) c := by
  unfold takeAck
  simp only [hx]
  rfl

/-! ### A connection with nothing more to send -/

theorem pump_idle {s : State} {c : Nat} {x : Conn} (hx : connOf s c = some x) (hwait : x.waiting = []) (hresp : x.respWait = []) :
    pump s c = setConn s c x := by
  have hone : ∀ k : Nat, (fun (_ : Nat) u => pumpOne u c) k (setConn s c x) = setConn s c x := by
    intro _
    unfold pumpOne
    simp only [connOf_setConn_same, hwait]
  have hcut : recut s x = x := by
    unfold recut
    rw [hwait]
  unfold pump
  simp only [hx, hresp, List.length_nil, pumpResp, Option.elim_some, hcut]
  exact iter_fixed hone 256

theorem bindPath_up {s : State} {c net : Nat} {x : Conn} (hx : connOf s c = some x) {g : Seg} (hnet : netOf g.port = net)
    (hup : (pathOf x net).up = true) : bindPath s c net g = setConn s c (setPath x net (pathSeen x g)) := by
  subst hnet
  have hpath : pathOf (setPath x (netOf g.port) (pathSeen x g)) (netOf g.port) = pathSeen x g := pathOf_setPath_up x _ hup
  have hstays : pathUp (setConn s c (setPath x (netOf g.port) (pathSeen x g))) c (netOf g.port) =
      setConn s c (setPath x (netOf g.port) (pathSeen x g)) := by
    unfold pathUp
    simp only [connOf_setConn_same, hpath]
    exact if_pos (.inl hup)
  unfold bindPath
  simp only [hx]
  exact hstays

/-- The connection as a valid segment leaves it, where it has nothing more to send. -/
def seenConn (s : State) (x : Conn) (g : Seg) : Conn :=
  ackTaken s.now (setPath x (netOf g.port) (pathSeen x g)) g.ack g.sack g.window

section
variable {s : State} {typ : Nat} {g : Seg} {x : Conn}

theorem seenConn_parts (hup : (pathOf x (netOf g.port)).up = true) : ∃ P, seenConn s x g =
      { x with paths := P, unacked := leftUnacked g.ack g.sack x.unacked, peerWindow := g.window.toNat } ∧
    ∃ rtt rto n, pathOf (seenConn s x g) (netOf g.port) = { pathSeen x g with rtt := rtt, rto := rto, expiries := n } := by
  have hpath : pathOf (setPath x (netOf g.port) (pathSeen x g)) (netOf g.port) = pathSeen x g := pathOf_setPath_up x _ hup
  obtain ⟨P, hP, htimes⟩ := retimed_ackTimed s.now (setPath x (netOf g.port) (pathSeen x g)) g.ack g.sack
  refine ⟨P, ?_, ?_⟩
  · unfold seenConn ackTaken
    rw [hP]
    rfl
  · have hseen := htimes (netOf g.port) (by rw [hpath]; exact hup)
    rw [hpath] at hseen
    exact hseen

theorem segSeen_idle (h : segOn s typ g x = true) (hwait : x.waiting = []) (hresp : x.respWait = []) :
    segSeen s g = setConn (portCnt s g.port 0 64) g.connId.toNat (seenConn s x g) := by
  obtain ⟨-, -, hx, -, hup, -⟩ := segOn_parts h
  obtain ⟨P, hP, -⟩ := seenConn_parts (s := s) hup
  unfold segSeen
  rw [bindPath_up (s := portCnt s g.port 0 64) hx rfl hup, takeAck_eq (connOf_setConn_same ..), setConn_setConn]
  refine (pump_idle (connOf_setConn_same ..) ?_ ?_).trans (setConn_setConn ..)
  · exact (congrArg Conn.waiting hP).trans hwait
  · exact (congrArg Conn.respWait hP).trans hresp

end

/-! ### CLOSE -/

/-- The connection once its CLOSE has been taken (R309). -/
def closingConn (x : Conn) (net : Nat) : Conn :=
  { x with rxBuf := [], ackDue := some net, rxNext := x.rxNext + 1, st := .closing, asm := none, asmSegs := 0, oversize := false }

theorem drainRx_empty {s : State} {c : Nat} {x : Conn} (hx : connOf s c = some x) (h : x.rxBuf = []) (n : Nat) :
    drainRx c n s = s := by
  cases n with
  | zero => rfl
  | succ n =>
    unfold drainRx
    simp only [hx, h, tfind_nil]

theorem takeSeg_close {s : State} {c : Nat} {x : Conn} (hx : connOf s c = some x) (flags : Nat) (pl : List Byte) :
    takeSeg s c flags 5 pl = (setConn s c { x with st := .closing, asm := none, asmSegs := 0, oversize := false }, true) := by
  unfold takeSeg
  simp only [hx]
  rfl

/-- A segment that is next in sequence, with none buffered beyond it, is taken at once. -/
theorem rxSequenced_next {s : State} {typ : Nat} {g : Seg} {x : Conn} (hx : connOf s g.connId.toNat = some x)
    (hseq : g.seq = x.rxNext) (hbuf : x.rxBuf = []) : rxSequenced typ g s =
      let r := takeSeg (setConn s g.connId.toNat { x with rxBuf := [], ackDue := some (netOf g.port), rxNext := x.rxNext + 1 })
        g.connId.toNat g.flags.toNat typ g.payload
      if r.2 then drainRx g.connId.toNat 256 r.1 else r.1 := by
  have hfind : tfind (tins ([] : Tab (Nat × Nat × List Byte)) x.rxNext.toNat (g.flags.toNat, typ, g.payload)) x.rxNext.toNat =
      some (g.flags.toNat, typ, g.payload) := tfind_tins_same ..
  have hdel : tdel (tins ([] : Tab (Nat × Nat × List Byte)) x.rxNext.toNat (g.flags.toNat, typ, g.payload)) x.rxNext.toNat = [] :=
    if_pos rfl
  unfold rxSequenced
  simp only [hx, hseq, BitVec.sub_self, hbuf]
  rw [if_neg (by decide), if_neg (by decide), drainRx]
  simp only [connOf_setConn_same, hfind, hdel, setConn_setConn]

theorem rxSequenced_close {s : State} {g : Seg} {x : Conn} (hx : connOf s g.connId.toNat = some x) (hseq : g.seq = x.rxNext)
    (hbuf : x.rxBuf = []) : rxSequenced 5 g s = setConn s g.connId.toNat (closingConn x (netOf g.port)) := by
  rw [rxSequenced_next hx hseq hbuf, takeSeg_close (connOf_setConn_same ..)]
  refine (if_pos rfl).trans ((drainRx_empty (connOf_setConn_same ..) ?_ 256).trans (setConn_setConn ..))
  rfl

/-- Settles O27: `segSeen_idle` for what every segment does, `sendSeg_leaves` for the answer to a KEEPALIVE, `rxSequenced_close`. -/
theorem ackKeepaliveAndClose : Obligations.AckKeepaliveAndClose := by
  unfold Obligations.AckKeepaliveAndClose
  intro s g x hwait hresp c
  let u := portCnt s g.port 0 64
  have hmoves : Moves c s (setConn u c (seenConn s x g)) := (portCnt_moves c s g.port 0 64).trans (setConn_moves u c _)
  have hz : connOf (setConn u c (seenConn s x g)) c = some (seenConn s x g) := connOf_setConn_same ..
  refine ⟨fun h => ?_, fun h hpause => ?_, fun h hseq hbuf => ?_⟩
  all_goals
    obtain ⟨hin, -, -, -, hup, hst⟩ := segOn_parts h
    obtain ⟨P, hparts, rtt, rto, n, hpath⟩ := seenConn_parts (s := s) hup
    have hrx := rxSeg_on h (by decide) (by decide) (by decide)
    rw [segSeen_idle h hwait hresp] at hrx
  · refine ⟨_, _, congrArg Host.Outcome.next hrx, hz, hmoves.other, hmoves.bare, ?_⟩
    rw [hparts]
    exact ⟨seqs_leftUnacked .., hwait, rfl, rfl, hst⟩
  · obtain ⟨hlink, -, -, -⟩ := segIn_parts hin
    obtain ⟨bytes, htype, -, hsent⟩ := sendSeg_leaves (typ := 2) (pl := []) 0 0 .control hz hpath hup rfl (by simp)
      (linkIsUp_portCnt hlink 0 64) ((congrArg Port.pauseEnd (portOf_portCnt hlink 0 64)).trans_le hpause)
    have hall := hmoves.trans (sendSeg_moves (setConn u c (seenConn s x g)) c (netOf g.port) 2 0 0 [] .control)
    refine ⟨_, _, bytes, congrArg Host.Outcome.next hrx, hall.bare, hall.other, congrArg State.wire hsent, htype, ?_⟩
    exact (releasePort_moves c (setConn (setConn u c (seenConn s x g)) c (acksSent (seenConn s x g))) g.port).wire
  · have hbuf' : (seenConn s x g).rxBuf = [] := (congrArg Conn.rxBuf hparts).trans hbuf
    have hnext : (seenConn s x g).rxNext = x.rxNext := by rw [hparts]
    rw [if_pos (.inr rfl), rxSequenced_close hz (hseq.trans hnext.symm) hbuf'] at hrx
    have hall := hmoves.trans (setConn_moves _ c (closingConn (seenConn s x g) (netOf g.port)))
    refine ⟨_, _, congrArg Host.Outcome.next hrx, connOf_setConn_same .., rfl, ?_, hall.other, hall.bare⟩
    exact congrArg (· + 1) hnext

end Sys2Proof.Machine
end

section
/-!
PROOFS. DATA on a connection that holds no message open and yet counts segments of one (O26, R310, R329).
-/
namespace Sys2Proof.Machine

open Sys2Proof

/-- Network 0 of a connection on port 0. -/
def leftoverPath : Path := { pathD with bound := true, up := true }

/-- An open connection that holds no message open, with one segment still counted of the message being reassembled. -/
def leftoverConn : Conn := { (default : Conn) with paths := [(0, leftoverPath)], asmSegs := 1 }

/-- A booted device with that connection, whose port 0 is up with the address 10.0.0.1. -/
def leftoverState : State :=
  { State.reset with
    recs := [(recKey 0x02 0, { recD 0x02 with active := [10, 0, 0, 1] ++ zeros 28 })]
    boot := { State.reset.boot with complete := true }
    ports := [(0, { portD with link := true })], conns := [(0, leftoverConn)] }

/-- A DATA segment that carries the type of a SUMMARY, whole, without its trailer. -/
def summaryBare : Seg :=
  { port := 0, frame := { dest := 0, src := 0, tags := [], bytes := 64, fcsOk := true }, v6 := false, srcIp := 0
    dstIp := 0x0A000001, srcUdp := 0, dstUdp := 0, magic := 0x4D4C, version := 1, connId := 0, flags := 3, rsv7 := 0, seq := 0
    ack := 0, sack := 0, payloadLen := 2, epoch := 0, window := 0, rsv30 := 0, payload := le 2 0x0102, crc := 0 }

/-- The segment with its trailer. -/
def summaryData : Seg := { summaryBare with crc := crc32c (segRxHead 1 summaryBare ++ summaryBare.payload) }

theorem segOn_summaryData : segOn leftoverState 1 summaryData leftoverConn = true := by decide +kernel

theorem mailbox_summaryData :
    (mailbox (rxSeg 1 summaryData leftoverState) 0).map (fun m => m.segs) = [2] := by decide +kernel

/-- Refutes O26: the statement has no premise on the count of segments of the message being reassembled, which a connection may hold
above 0 though no message is open. In `leftoverState` it is 1, and the message of one segment reaches its mailbox as one of two. -/
theorem not_dataDeliversItsMessage : ¬ Obligations.DataDeliversItsMessage := by
  unfold Obligations.DataDeliversItsMessage
  intro h
  obtain ⟨t, y, hexec, -, -, -, -, -, -, hbox, -⟩ := h leftoverState summaryData leftoverConn segOn_summaryData rfl rfl rfl rfl rfl
    (by decide) (by decide) (by decide)
  obtain rfl : rxSeg 1 summaryData leftoverState = t := Host.Outcome.next.inj hexec
  have hone : (mailbox (rxSeg 1 summaryData leftoverState) 0).map (fun m => m.segs) = [1] :=
    congrArg (List.map fun m : MailMsg => m.segs) hbox
  exact absurd (mailbox_summaryData.symm.trans hone) (by decide)

end Sys2Proof.Machine
end

section
/-!
PROOFS. LINK_LOST where a connection lists a path twice (O31, R313).
-/
namespace Sys2Proof.Machine

open Sys2Proof

/-- A path that is up on port 0, and otherwise as an unbound one: taken down, it reads as one that no connection lists. -/
def strayPath : Path := { pathD with up := true }

/-- An open connection that lists its path of network 0 twice. -/
def doubledConn : Conn := { (default : Conn) with paths := [(0, strayPath), (0, strayPath)] }

/-- A device with that connection, whose port 0 is up. -/
def doubledState : State := { State.reset with ports := [(0, { portD with link := true })], conns := [(0, doubledConn)] }

theorem pathOf_doubledState :
    (connOf (flashPort doubledState 0 0x0303) 0).map (fun x => ((pathOf x 0).up, (pathOf x 0).port)) = some (true, 0) := by decide

/-- Refutes O31: the statement asks for sorted tables of connections and of ports, but not for sorted tables of paths. In `doubledState`
the path of network 0 on port 0 goes down, its entry goes with it, and the second one, up on port 0 as well, is read in its place. -/
theorem not_linksComeAndGo : ¬ Obligations.LinksComeAndGo := by
  unfold Obligations.LinksComeAndGo
  intro h
  obtain ⟨-, -, hlost⟩ := h doubledState 0
  obtain ⟨t, hexec, -, -, -, hdown, -⟩ := hlost rfl rfl rfl
  obtain rfl : flashPort doubledState 0 0x0303 = t := Host.Outcome.next.inj hexec
  obtain ⟨x, hx, hpath⟩ := Option.map_eq_some_iff.mp pathOf_doubledState
  obtain ⟨hup, hport⟩ := Prod.mk.inj hpath
  exact hdown 0 x hx 0 (by decide) hup hport

end Sys2Proof.Machine
end

section
/-!
PROOFS. CONFIG_WRITE, CONFIG_READ and CONFIG_COMMIT (O1, O2, R345 to R347).
-/
namespace Sys2Proof.Machine

open Sys2Proof

/-! ### CONFIG_WRITE and CONFIG_READ -/

/-- A record after bytes have come into its shadow (R346). -/
def shadowWritten (r : CfgRec) (off : Nat) (data : List Byte) : CfgRec :=
  { r with shadow := splice r.shadow off data, shadowGen := r.shadowGen + 1 }

/-- CONFIG_WRITE checks the record, its bay and the bytes, in this order (R345, R346). -/
theorem configWrite_eq (body : List Byte) (rt : RespTo) (s : State) : configWrite body rt s =
    let id := fld body 0 1
    let inst := fld body 1 1
    let off := fld body 2 2
    let data := body.drop 8
    let r := recOf s id inst
    if recExists s id inst = false then answer s rt stBadMessage
    else if recBayBusy s id inst = true then answer s rt stBusy
    else if recSize id < off + data.length ∨ reservedOk id off data = false then answer s rt stBadMessage
    else respond (setRec s id inst (shadowWritten r off data)) rt stOk (le 4 (r.shadowGen + 1).toNat) := by
  unfold configWrite shadowWritten
  simp only [Bool.not_eq_true]

/-- CONFIG_READ answers from one of the two copies (Table 14.11). -/
theorem configRead_eq (body : List Byte) (rt : RespTo) (s : State) : configRead body rt s =
    let r := recOf s (fld body 0 1) (fld body 1 1)
    let reply (gen : W32) (bytes : List Byte) := le 4 gen.toNat ++ le 2 (recSize (fld body 0 1)) ++ zeros 2 ++ bytes
    if recExists s (fld body 0 1) (fld body 1 1) = false then answer s rt stBadMessage
    else if fld body 2 1 = 0 then respond s rt stOk (reply r.activeGen r.active)
    else respond s rt stOk (reply r.shadowGen r.shadow) := by
  unfold configRead
  by_cases h : fld body 2 1 = 0 <;> simp [h]

/-- Settles O1: what each message answers by `configWrite_eq` and `configRead_eq`. -/
theorem configWriteFillsTheShadow : Obligations.ConfigWriteFillsTheShadow := by
  unfold Obligations.ConfigWriteFillsTheShadow
  intro s m id inst r
  refine ⟨fun hp hzero hmin hmax hlen => ?_, fun hp hcopy hzero => ?_⟩
  · intro off data
    have hf : configWriteFields m.body = true := by
      simp [configWriteFields, within, hzero, hmin, hmax, ← hlen]
    have hrun := configWrite_eq m.body (respTo s 0x0130 m) (held s 0x0130 m s)
    by_cases hex : recExists s id inst = false
    · rw [if_pos hex]
      exact declines_held rfl hp hf (by decide) rfl (hrun.trans (if_pos hex))
    rw [if_neg hex]
    replace hrun := hrun.trans (if_neg hex)
    by_cases hbusy : recBayBusy s id inst = true
    · rw [if_pos hbusy]
      exact declines_held rfl hp hf (by decide) rfl (hrun.trans (if_pos hbusy))
    rw [if_neg hbusy]
    replace hrun := hrun.trans (if_neg hbusy)
    by_cases hbad : recSize id < off + data.length ∨ reservedOk id off data = false
    · rw [if_pos hbad]
      exact declines_held rfl hp hf (by decide) rfl (hrun.trans (if_pos hbad))
    · rw [if_neg hbad]
      exact answers_held (u := setRec s id inst (shadowWritten r off data)) rfl hp hf (by decide) ⟨rfl, rfl, rfl⟩
        (hrun.trans (if_neg hbad))
  · have hf : (decide (fld m.body 2 1 < 2) && isZero m.body 3 1) = true := by simp [hcopy, hzero]
    have hrun := configRead_eq m.body (respTo s 0x0132 m) (held s 0x0132 m s)
    by_cases hex : recExists s id inst = false
    · rw [if_pos hex]
      exact declines_held rfl hp hf (by decide) rfl (hrun.trans (if_pos hex))
    rw [if_neg hex]
    replace hrun := hrun.trans (if_neg hex)
    by_cases hact : fld m.body 2 1 = 0
    · rw [if_pos hact]
      exact answers_held rfl hp hf (by decide) ⟨rfl, rfl, rfl⟩ (hrun.trans (if_pos hact))
    · rw [if_neg hact]
      exact answers_held rfl hp hf (by decide) ⟨rfl, rfl, rfl⟩ (hrun.trans (if_neg hact))

/-! ### CONFIG_COMMIT -/

/-- A capture of a record's shadow, made for a CONFIG_COMMIT that changes no stop-only field (R347). -/
def captureFor (r : CfgRec) (rt : RespTo) : CommitReq :=
  { bytes := r.shadow, gen := r.shadowGen, restart := false, idle := [], resp := some rt }

/-- CONFIG_COMMIT of a record that is there, where no stop-only field changes: the steps of R347 that are left. -/
theorem configCommit_plain {s : State} {body : List Byte} (rt : RespTo)
    (hex : recExists s (fld body 0 1) (fld body 1 1) = true) (hidle : recBayBusy s (fld body 0 1) (fld body 1 1) = false)
    (hstop : stopChanged (fld body 0 1) (recOf s (fld body 0 1) (fld body 1 1)).active
      (recOf s (fld body 0 1) (fld body 1 1)).shadow = false) :
    configCommit body rt s =
      let id := fld body 0 1
      let inst := fld body 1 1
      let r := recOf s id inst
      if r.commit.isSome then respond s rt stBusy (le 4 r.activeGen.toNat)
      else if fld body 4 4 ≠ r.shadowGen.toNat ∨ recOk s id inst r.shadow = false then
        respond s rt stConfigMismatch (le 4 r.activeGen.toNat)
      else if r.shadow = r.active then
        respond (setRec s id inst { r with activeGen := r.shadowGen }) rt stOk (le 4 r.shadowGen.toNat)
      else commitStart (setRec s id inst { r with commit := some (captureFor r rt) }) id inst false := by
  unfold configCommit
  simp only [hex, hidle, hstop, not_true_eq_false, false_and, and_false, if_false, Bool.false_eq_true, Bool.false_and,
    ite_or, Bool.not_eq_true]
  rfl

/-- A port, IP, LMX, bay or power record waits for its boundary. -/
theorem commitStart_waits {id : Nat} (h : id = 0x01 ∨ id = 0x02 ∨ id = 0x03 ∨ id = 0x20 ∨ id = 0x40) (s : State) (inst : Nat)
    (restart : Bool) : commitStart s id inst restart = s := by
  unfold commitStart
  rw [if_neg (by omega), if_neg (by omega), if_neg (by omega)]

/-- Settles O2: the steps of R347 by `configCommit_plain`, what waits by `commitStart_waits`. -/
theorem configCommitCapturesTheShadow : Obligations.ConfigCommitCapturesTheShadow := by
  unfold Obligations.ConfigCommitCapturesTheShadow
  intro s m hp hflag hzero id inst r hex hidle hstop
  have hf : configCommitFields m.body = true := by simp [configCommitFields, hflag, hzero]
  have hrun := configCommit_plain (s := held s 0x0131 m s) (respTo s 0x0131 m) hex hidle hstop
  by_cases hpend : r.commit.isSome = true
  · rw [if_pos hpend]
    exact answers_held rfl hp hf (by decide) ⟨rfl, rfl, rfl⟩ (hrun.trans (if_pos hpend))
  rw [if_neg hpend]
  replace hrun := hrun.trans (if_neg hpend)
  by_cases hbad : fld m.body 4 4 ≠ r.shadowGen.toNat ∨ recOk s id inst r.shadow = false
  · rw [if_pos hbad]
    exact answers_held rfl hp hf (by decide) ⟨rfl, rfl, rfl⟩ (hrun.trans (if_pos hbad))
  rw [if_neg hbad]
  replace hrun := hrun.trans (if_neg hbad)
  by_cases hsame : r.shadow = r.active
  · rw [if_pos hsame]
    exact answers_held (u := setRec s id inst { r with activeGen := r.shadowGen }) rfl hp hf (by decide) ⟨rfl, rfl, rfl⟩
      (hrun.trans (if_pos hsame))
  · rw [if_neg hsame]
    intro hwaits
    exact owes_held (u := setRec s id inst { r with commit := some (captureFor r (respTo s 0x0131 m)) }) rfl hp hf (by decide)
      ⟨rfl, rfl, rfl⟩ ((hrun.trans (if_neg hsame)).trans (commitStart_waits hwaits ..))

end Sys2Proof.Machine
end

section
/-!
PROOFS. A record's capture at its safe boundary (O3, R321, R346, R347).
-/
namespace Sys2Proof.Machine

open Sys2Proof

/-! ### Records stored and read -/

section
variable {s : State} (hs : tsorted none s.recs = true) (id inst : Nat) (r : CfgRec)
include hs

theorem recOf_setRec : recOf (setRec s id inst r) id inst = r := tget_tput_sorted _ _ _ _ hs

theorem sorted_setRec : tsorted none (setRec s id inst r).recs = true := tsorted_tput _ _ _ _ _ hs (by simp)

end

/-! ### Announcements -/

theorem announceOf_moves (c : Nat) (s : State) (p : Nat) (v4 v6 : Bool) : Moves c s (announceOf s p v4 v6) := by
  unfold announceOf
  dsimp only
  split <;> split
  · exact (txFrame_moves ..).trans (txFrame_moves ..)
  · exact txFrame_moves ..
  · exact txFrame_moves ..
  · exact .refl c s

theorem announceOf_conns (s : State) (p : Nat) (v4 v6 : Bool) : (announceOf s p v4 v6).conns = s.conns := by
  unfold announceOf
  dsimp only
  split <;> split <;> simp only [txFrame_conns]

/-! ### The apply of a record -/

/-- The apply of an IP, PDM or fault timing record announces at most a new address (R346). -/
theorem applyEffect_moves {id : Nat} (h : id = 0x02 ∨ id = 0x18 ∨ id = 0x30) (s : State) (inst : Nat) (old new : List Byte)
    (restart : Bool) (c : Nat) : Moves c s (applyEffect s id inst old new restart) ∧
      (applyEffect s id inst old new restart).conns = s.conns := by
  rcases h with rfl | rfl | rfl
  · exact ⟨announceOf_moves .., announceOf_conns ..⟩
  · exact ⟨.refl c s, rfl⟩
  · exact ⟨.refl c s, rfl⟩

/-- A record whose capture has become its active copy (R346). -/
def captureTaken (r : CfgRec) (c : CommitReq) : CfgRec := { r with commit := none, active := c.bytes, activeGen := c.gen }

/-- What the apply of the record's capture `c` for a message leads to: the capture is the active copy, no other record
changes, nor does the device but for the transport, and the message has its response. -/
def CaptureApplied (s : State) (id inst : Nat) (c : CommitReq) (rt : RespTo) (t : State) : Prop :=
  recOf t id inst = captureTaken (recOf s id inst) c ∧ (∀ k, k ≠ recKey id inst → tfind t.recs k = tfind s.recs k) ∧
    { t.bare with recs := [] } = { s.bare with recs := [] } ∧ Responded rt stOk (le 4 c.gen.toNat) s t

/-- The state once a capture has left its place and become the active copy. -/
def captureStored (s : State) (id inst : Nat) (c : CommitReq) : State :=
  setRec (setRec s id inst { recOf s id inst with commit := none }) id inst (captureTaken (recOf s id inst) c)

theorem recOf_captureStored {s : State} (hs : tsorted none s.recs = true) (id inst : Nat) (c : CommitReq) :
    recOf (captureStored s id inst c) id inst = captureTaken (recOf s id inst) c :=
  recOf_setRec (sorted_setRec hs ..) ..

theorem tfind_captureStored (s : State) {id inst k : Nat} (c : CommitReq) (h : k ≠ recKey id inst) :
    tfind (captureStored s id inst c).recs k = tfind s.recs k :=
  (tfind_tput_other _ _ _ h.symm).trans (tfind_tput_other _ _ _ h.symm)

/-- A response given after sends that reach no connection. -/
theorem responded_after {s u t : State} {rt : RespTo} {status : Nat} {body : List Byte} {c : Nat} (h : Moves c s u)
    (hconns : u.conns = s.conns) (hr : Responded rt status body u t) : Responded rt status body s t := by
  have hconn (d : Nat) : connOf u d = connOf s d := congrArg (tfind · d) hconns
  obtain ⟨hun, hstream, hothers, hwire, hmail, hlast, hkeeps⟩ := hr
  refine ⟨by rw [hun, h.unanswered], by rw [hstream, stream_congr (hconn _)], fun d hd => (hothers d hd).trans (hconn d),
    h.wire.trans hwire, hmail.trans h.mail, hlast.trans h.mailLast, ?_⟩
  rw [hkeeps, h.keeps]

section
variable {s : State} {id inst : Nat} {c : CommitReq} {rt : RespTo} (hs : tsorted none s.recs = true)
  (hc : (recOf s id inst).commit = some c) (hresp : c.resp = some rt) (hrestart : c.restart = false)
  (hok : captureOk (setRec s id inst { recOf s id inst with commit := none }) id inst c = true)
include hs hc hresp hrestart hok

/-- A capture that still passes its checks, and restarts nothing: it is stored, has its effect, and is answered. -/
theorem applyCommit_ok : applyCommit s id inst =
    respond (applyEffect (captureStored s id inst c) id inst (recOf s id inst).active c.bytes false) rt stOk (le 4 c.gen.toNat) := by
  unfold applyCommit
  simp only [hc, hok, hresp, hrestart, not_true_eq_false, if_false, respFirst, Bool.false_and, Bool.false_eq_true, commitAnswer,
    storeActive, recOf_setRec hs]
  rfl

theorem applyCommit_applied (hid : id = 0x02 ∨ id = 0x18 ∨ id = 0x30) (ha : awaits s rt = true) :
    CaptureApplied s id inst c rt (applyCommit s id inst) := by
  rw [applyCommit_ok hs hc hresp hrestart hok]
  obtain ⟨hmove, hconns⟩ := applyEffect_moves hid (captureStored s id inst c) inst (recOf s id inst).active c.bytes false 0
  generalize applyEffect (captureStored s id inst c) id inst (recOf s id inst).active c.bytes false = u at hmove hconns ⊢
  have hawait : awaits u rt = true := by
    unfold awaits connOf at ha ⊢
    rw [hmove.unanswered, hconns]
    exact ha
  obtain ⟨hresponded, hbare, -⟩ := respond_one stOk (le 4 c.gen.toNat) hawait
  replace hbare := hbare.trans hmove.bare
  have hrecs : (respond u rt stOk (le 4 c.gen.toNat)).recs = (captureStored s id inst c).recs := (congrArg State.recs hbare :)
  refine ⟨?_, fun k hk => ?_, ?_, responded_after (s := captureStored s id inst c) hmove hconns hresponded⟩
  · unfold recOf
    rw [hrecs]
    exact recOf_captureStored hs id inst c
  · rw [hrecs, tfind_captureStored s c hk]
  · rw [hbare]
    rfl

end

/-! ### Safe boundaries -/

theorem configApply_due {s : State} {id inst : Nat} (hb : s.boot.complete = true) (hf : s.fault = none)
    (hl : recListed id inst = true) (hid : ¬ (0x10 ≤ id ∧ id ≤ 0x13)) : configApply s id inst = applyCommit s id inst := by
  unfold configApply
  refine if_neg ?_
  rintro (h | h | h | ⟨hlo, hhi, -⟩)
  · simp [hf] at h
  · exact h hb
  · exact h hl
  · exact hid ⟨hlo, hhi⟩

theorem applyCommit_noCapture {s : State} {id inst : Nat} (h : (recOf s id inst).commit = none) : applyCommit s id inst = s := by
  unfold applyCommit
  simp only [h]

/-- At the idle point of a port whose own record waits for nothing, and with no LMX record waiting, the IP record applies. -/
theorem linkIdle_ipOnly {s : State} {p : Nat} (hb : s.boot.complete = true) (hf : s.fault = none)
    (hport : (recOf s 0x01 p).commit = none) (hlmx : (recOf (applyCommit s 0x02 p) 0x03 0).commit = none) :
    linkIdle s p = applyCommit s 0x02 p := by
  have hrun : ¬ (s.fault.isSome = true ∨ ¬ s.boot.complete = true) := by simp [hb, hf]
  unfold linkIdle
  rw [if_neg hrun, applyCommit_noCapture hport]
  simp only [hlmx]

/-- Settles O3: the apply by `applyCommit_applied`, of the IP record at its port's idle point too. -/
theorem safeBoundaryAppliesTheCapture : Obligations.SafeBoundaryAppliesTheCapture := by
  unfold Obligations.SafeBoundaryAppliesTheCapture
  intro s id inst p c rt hb hfault hs hresp hrestart ha Applied
  refine ⟨fun hid hlisted hc hok => ?_, fun hc hport hlmx hok => ?_⟩
  · have hnum : id.toNat = 0x02 ∨ id.toNat = 0x18 ∨ id.toNat = 0x30 := by
      rcases hid with rfl | rfl | rfl <;> simp
    refine ⟨_, congrArg Host.Outcome.next (configApply_due hb hfault hlisted (by omega)), ?_⟩
    exact applyCommit_applied hs hc hresp hrestart hok hnum ha
  · have happlied := applyCommit_applied hs hc hresp hrestart hok (.inl rfl) ha
    refine ⟨_, congrArg Host.Outcome.next (linkIdle_ipOnly hb hfault hport ?_), happlied⟩
    obtain ⟨-, hothers, -⟩ := happlied
    unfold recOf tget at hlmx ⊢
    rw [hothers (recKey 0x03 0) (by unfold recKey; omega)]
    exact hlmx

end Sys2Proof.Machine
end

section
/-!
PROOFS. FAULT_CLEAR, FAULT_LOG_READ, DIAG_READ, RESYNC and SUMMARY (O4, O5, R336, R348 to R350, R502).
-/
namespace Sys2Proof.Machine

open Sys2Proof

/-! ### FAULT_CLEAR -/

/-- FAULT_CLEAR compares the source with the latched one (R349). -/
theorem faultClear_eq (body : List Byte) (rt : RespTo) (s : State) : faultClear body rt s =
    if fld body 0 2 = firstSource s then respond { s with latch := none } rt stOk [] else answer s rt stConfigMismatch := by
  unfold faultClear
  rw [ite_not, answer_ok (st := stOk) rfl]

/-- Settles O4: what FAULT_CLEAR answers by `faultClear_eq`. -/
theorem faultClearClearsOnlyTheLatch : Obligations.FaultClearClearsOnlyTheLatch := by
  unfold Obligations.FaultClearClearsOnlyTheLatch
  intro s m hp hf
  have hrun := faultClear_eq m.body (respTo s 0x0141 m) (held s 0x0141 m s)
  split
  next hsame => exact answers_held (u := { s with latch := none }) rfl hp hf (by decide) ⟨rfl, rfl, rfl⟩ (hrun.trans (if_pos hsame))
  next hother => exact declines_held rfl hp hf (by decide) rfl (hrun.trans (if_neg hother))

/-! ### FAULT_LOG_READ -/

/-- Entries held from a sequence number on have been overwritten where the log is full and the number lies before them (R348). -/
def logLapped (s : State) (start : W32) (skip : Nat) : Bool :=
  decide (s.log.length ≤ skip) && decide (s.log.length = 4096) && seqAfter (logOldest s) start

/-- What FAULT_LOG_READ answers (R348, Table 14.12): the entries from the wanted one on, or from the oldest one where that is gone. -/
theorem faultLogRead_eq (body : List Byte) (rt : RespTo) (s : State) {start : W32} (hstart : BitVec.ofNat 32 (fld body 0 4) = start)
    {skip : Nat} (hskip : (start - logOldest s).toNat = skip) :
    faultLogRead body rt s =
      let es := if skip < s.log.length then (s.log.drop skip).take (fld body 4 2)
        else if logLapped s start skip = true then s.log.take (fld body 4 2) else []
      respond s rt stOk
        (le 4 s.logNext.toNat ++ le 2 es.length ++ le 1 (b2n (logLapped s start skip)) ++ zeros 1 ++ es.flatMap logBytes) := by
  unfold faultLogRead logFrom logLapped
  rw [hstart, hskip]
  by_cases hheld : skip < s.log.length
  · simp only [if_pos hheld, decide_eq_false (Nat.not_le.mpr hheld), Bool.false_and]
  have hbeyond : s.log.length ≤ skip := Nat.not_lt.mp hheld
  by_cases hover : s.log.length = 4096 ∧ seqAfter (logOldest s) start = true
  · have hall : (decide (s.log.length ≤ skip) && decide (s.log.length = 4096) && seqAfter (logOldest s) start) = true := by
      rw [decide_eq_true hbeyond, decide_eq_true hover.1, hover.2, Bool.and_self, Bool.and_self]
    simp only [if_neg hheld, if_pos hover, hall, if_true]
  · have hnone : (decide (s.log.length = 4096) && seqAfter (logOldest s) start) = false := by
      rw [← Bool.not_eq_true, Bool.and_eq_true, decide_eq_true_eq]
      exact hover
    simp only [if_neg hheld, if_neg hover, Bool.and_assoc, hnone, Bool.and_false, Bool.false_eq_true, if_false, List.take_nil]

/-! ### DIAG_READ -/

section
variable {α β : Type} {f : α → Option β} {l : List α}

theorem mapM_some {g : α → β} (h : ∀ a ∈ l, f a = some (g a)) : l.mapM f = some (l.map g) := by
  induction l with
  | nil => rfl
  | cons a l ih =>
    rw [List.mapM_cons, h a (List.mem_cons_self ..), ih fun b hb => h b (List.mem_cons_of_mem a hb)]
    rfl

theorem mapM_none {a : α} (ha : a ∈ l) (h : f a = none) : l.mapM f = none := by
  induction l with
  | nil => cases ha
  | cons b l ih =>
    rw [List.mapM_cons]
    rcases List.mem_cons.mp ha with rfl | hmem
    · rw [h]
      rfl
    · rw [ih hmem]
      cases f b <;> rfl

end

section
variable {s : State} {body : List Byte} (rt : RespTo) (htyp : ¬ (fld body 0 1 = 0x06 ∨ fld body 0 1 = 0x07))
include htyp

/-- DIAG_READ of units of which one does not exist (R350). -/
theorem diagRead_absent {k : Nat} (hk : k < fld body 6 2) (h : unitCounters s (fld body 0 1) (fld body 2 4 + k) = none) :
    diagRead body rt s = answer s rt stBadMessage := by
  unfold diagRead
  rw [if_neg htyp, mapM_none (List.mem_map.mpr ⟨k, List.mem_range.mpr hk, rfl⟩) (by rw [h]; rfl)]

/-- DIAG_READ of units that all exist: an entry for each (R350, R502). -/
theorem diagRead_counters {cs : Nat → List Int}
    (h : ∀ k, k < fld body 6 2 → unitCounters s (fld body 0 1) (fld body 2 4 + k) = some (cs k)) :
    diagRead body rt s =
      let n := fld body 6 2
      let slots := (List.range n).foldl (fun w k => max w (cs k).length) 0
      respond s rt stOk (le 2 n ++ le 2 (8 + 8 * slots) ++ zeros 4 ++
        (List.range n).flatMap (fun k => diagEntry (fld body 0 1) (fld body 2 4 + k) slots (cs k))) := by
  have hall : (List.range (fld body 6 2)).mapM (fun k => (unitCounters s (fld body 0 1) (fld body 2 4 + k)).map
      (fun c => (fld body 2 4 + k, c))) = some ((List.range (fld body 6 2)).map (fun k => (fld body 2 4 + k, cs k))) :=
    mapM_some fun k hk => by rw [h k (List.mem_range.mp hk)]; rfl
  unfold diagRead
  rw [if_neg htyp, List.mapM_map]
  simp only [Function.comp_def, hall, List.foldl_map, List.flatMap_map]

end

/-- Settles O5: the entries of the log by `faultLogRead_eq`, the units' counters by `diagRead_absent` and `diagRead_counters`. -/
theorem reportsAreReadOrOwed : Obligations.ReportsAreReadOrOwed := by
  unfold Obligations.ReportsAreReadOrOwed
  intro s m
  refine ⟨fun hp hmin hmax hzero => ?_, fun hp hzero hmin hmax => ?_, fun hp => ?_, fun hp => ?_⟩
  · intro skip lapped es
    have hf : (within (fld m.body 4 2) 1 1024 && isZero m.body 6 2) = true := by simp [within, hmin, hmax, hzero]
    exact answers_held rfl hp hf (by decide) ⟨rfl, rfl, rfl⟩ (faultLogRead_eq m.body _ (held s 0x0140 m s) rfl rfl)
  · intro typ first n
    have hf : (isZero m.body 1 1 && within (fld m.body 6 2) 1 4096) = true := by simp [within, hmin, hmax, hzero]
    split
    next hkind => exact declines_held rfl hp hf (by decide) rfl (if_pos hkind)
    next hkind =>
      refine ⟨fun k hk hnone => ?_, fun cs hsome => ?_⟩
      · exact declines_held rfl hp hf (by decide) rfl (diagRead_absent (s := held s 0x0142 m s) _ hkind hk hnone)
      · exact answers_held rfl hp hf (by decide) ⟨rfl, rfl, rfl⟩ (diagRead_counters (s := held s 0x0142 m s) _ hkind hsome)
  · exact owes_held rfl hp rfl (by decide) ⟨rfl, rfl, rfl⟩ rfl
  · exact owes_held rfl hp rfl (by decide) ⟨rfl, rfl, rfl⟩ rfl

end Sys2Proof.Machine
end

section
/-!
PROOFS. LOAD_BUILD in pieces and UNLOAD_BUILD (O7, O9, R340, R342).
-/
namespace Sys2Proof.Machine

open Sys2Proof

/-! ### LOAD_BUILD by its flags -/

theorem loadFields_of {body : List Byte} (hflags : fld body 24 1 ≤ 7) (hzero : isZero body 25 7 = true) :
    loadFields body = true := by
  simp [loadFields, within, hflags, hzero]

theorem loadMsg_piece {body : List Byte} (h : fld body 24 1 ≤ 1) (rt : RespTo) (s : State) : ∃ mirror, loadMsg body rt s =
    loadPiece s rt (BitVec.ofNat 64 (fld body 0 8)) (fld body 8 8) (fld body 16 8) mirror (body.drop 32) := by
  refine ⟨bit (fld body 24 1) 0, ?_⟩
  unfold loadMsg
  interval_cases fld body 24 1 <;> rfl

theorem loadMsg_abort {body : List Byte} (hmin : 4 ≤ fld body 24 1) (hmax : fld body 24 1 ≤ 7) (rt : RespTo) (s : State) :
    loadMsg body rt s = loadAbort s rt (BitVec.ofNat 64 (fld body 0 8)) (body.drop 32) := by
  unfold loadMsg
  interval_cases fld body 24 1 <;> rfl

/-! ### A later piece -/

section
variable {s : State} {l : Load} {data : List Byte} (rt : RespTo)

/-- The state in which a load has taken a piece. -/
def pieceJoined (s : State) (l : Load) (data : List Byte) : State :=
  { s with loads := s.loads.map (fun x => if x.id = l.id then { x with bytes := l.bytes ++ data } else x) }

theorem loadPiece_later {id : W64} (hl : loadOf s id = some l) (offset size : Nat) (mirror : Bool) :
    loadPiece s rt id offset size mirror data =
      if offset = l.bytes.length ∧ size = l.size ∧ offset + data.length ≤ l.size then loadTake s rt l data
      else respond s rt stBadMessage (le 8 l.bytes.length) := by
  unfold loadPiece
  simp only [hl]
  by_cases h : offset = l.bytes.length ∧ size = l.size ∧ offset + data.length ≤ l.size
  · rw [if_pos h, if_neg (by omega)]
  · rw [if_neg h, if_pos (by omega)]

/-- A piece in which no section ends, and behind which sections and bytes are still to come, joins its load. -/
theorem loadTake_joins (hnone : sectionsDone l.dir l.bytes.length (l.bytes.length + data.length) = [])
    (hpart : l.dir.all (fun x => decide (x.offset + x.size ≤ l.bytes.length + data.length)) = false)
    (hmore : l.bytes.length + data.length < l.size) :
    loadTake s rt l data = respond (pieceJoined s l data) rt stOk (le 8 (l.bytes.length + data.length)) := by
  unfold loadTake
  simp only [List.length_append, hnone, hpart, hmore, List.all_nil, not_true_eq_false, Bool.false_eq_true, false_and, or_self,
    if_false, if_true]
  rfl

end

/-- Settles O7: a later piece by `loadPiece_later` and `loadTake_joins`, an abort by `loadMsg_abort`. -/
theorem loadPiecesFollowEachOther : Obligations.LoadPiecesFollowEachOther := by
  unfold Obligations.LoadPiecesFollowEachOther
  intro s m hp hzero id offset size data
  refine ⟨fun hflags l hl => ?_, fun hmin hmax hdata => ?_, fun hmin hmax hdata => ?_⟩
  · have hf := loadFields_of (by omega) hzero
    obtain ⟨mirror, hrun⟩ := loadMsg_piece hflags (respTo s 0x0110 m) (held s 0x0110 m s)
    replace hrun := hrun.trans (loadPiece_later (s := held s 0x0110 m s) _ hl ..)
    split
    next hfits =>
      intro hnone hpart hmore
      exact answers_held (u := pieceJoined s l data) rfl hp hf (by decide) ⟨rfl, rfl, rfl⟩
        ((hrun.trans (if_pos hfits)).trans (loadTake_joins _ hnone hpart hmore))
    next hbad => exact answers_held rfl hp hf (by decide) ⟨rfl, rfl, rfl⟩ (hrun.trans (if_neg hbad))
  · exact answers_held (u := dropLoad s id) rfl hp (loadFields_of hmax hzero) (by decide) ⟨rfl, rfl, rfl⟩
      ((loadMsg_abort hmin hmax _ _).trans (if_neg (not_not.mpr hdata)))
  · exact answers_held rfl hp (loadFields_of hmax hzero) (by decide) ⟨rfl, rfl, rfl⟩
      ((loadMsg_abort hmin hmax _ _).trans (if_pos hdata))

/-! ### UNLOAD_BUILD -/

/-- UNLOAD_BUILD asks for the build and for its uses, in this order (R342). -/
theorem unloadMsg_eq (body : List Byte) (rt : RespTo) (s : State) : unloadMsg body rt s =
    let id := BitVec.ofNat 64 (fld body 0 8)
    if s.builds.any (fun b => decide (b.id = id)) = false then answer s rt stNotSupported
    else if s.bays.any (fun e => e.2.plans.any (fun p => decide (p.build = id))) = true ∨
        s.sessions.any (fun e => decide (e.2.build = id)) = true ∨ s.adapters.any (fun a => decide (a.build = id)) = true then
      answer s rt stBusy
    else respond { s with builds := s.builds.filter (fun b => decide (b.id ≠ id)) } rt stOk [] := by
  unfold unloadMsg buildOf
  simp only [← Option.isSome_eq_false_iff, List.isSome_find?, answer_ok (st := stOk) rfl]

/-- Settles O9: what UNLOAD_BUILD answers by `unloadMsg_eq`. -/
theorem unloadBuildFreesTheBuild : Obligations.UnloadBuildFreesTheBuild := by
  unfold Obligations.UnloadBuildFreesTheBuild
  intro s m hp id
  have hrun := unloadMsg_eq m.body (respTo s 0x0111 m) (held s 0x0111 m s)
  split
  next habsent => exact declines_held rfl hp rfl (by decide) rfl (hrun.trans (if_pos habsent))
  next hthere =>
    replace hrun := hrun.trans (if_neg hthere)
    split
    next hused => exact declines_held rfl hp rfl (by decide) rfl (hrun.trans (if_pos hused))
    next hfree =>
      exact answers_held (u := { s with builds := s.builds.filter (fun b => decide (b.id ≠ id)) }) rfl hp rfl (by decide)
        ⟨rfl, rfl, rfl⟩ (hrun.trans (if_neg hfree))

end Sys2Proof.Machine
end

section
/-!
PROOFS. VOICE_STORE and VOICE_DROP (O10, R352).
-/
namespace Sys2Proof.Machine

open Sys2Proof

/-- A message that ends in a failure, having done what leads from `s` to `u`. -/
theorem answers_failed {i : Instr} {typ : Nat} {m : HostMsg} {status : Nat} {s u : State} {fields : List Byte → Bool}
    {run : RespTo → State → State} (he : exec i s = .next (accept typ fields m run s)) (h : passes s typ m = true)
    (f : fields m.body = true) (ht : typ < 32768)
    (hk : u.conns = s.conns ∧ u.keeps = s.keeps ∧ u.wire = s.wire ∧ u.fresh = s.fresh) (hst : tookEffect status = false)
    (hr : run (respTo s typ m) (held s typ m s) = answer (held s typ m u) (respTo s typ m) status) :
    Answers i typ m status (failBody s typ) s u := by
  obtain ⟨hconns, hkeeps, hwire, hfresh⟩ := hk
  have htyp : (respTo s typ m).typ.toNat = typ := by
    rw [respTo_typ, BitVec.toNat_ofNat]
    omega
  obtain ⟨t, hexec, hanswered, hbare⟩ := answers_held (u := { u with fresh := u.fresh + 1 }) he h f ht ⟨hconns, hkeeps, hwire⟩
    ((hr.trans (answer_fail hst)).trans (by rw [htyp, failBody_congr (show (held s typ m u).fresh = s.fresh from hfresh)]; rfl))
  exact ⟨t, hexec, hanswered, hbare⟩

/-! ### VOICE_STORE -/

/-- An adapter in store with more of its bytes. -/
def adapterGrown (a : Adapter) (data : List Byte) : Adapter := { a with bytes := a.bytes ++ data }

/-- The state in which the store of an adapter has ended. -/
def storeEnded (s : State) (id : W64) : State := { s with stores := s.stores.filter (fun x => decide (x.id ≠ id)) }

/-- The state in which the store of an adapter holds just this much of it. -/
def storeHolds (s : State) (a : Adapter) : State := { s with stores := (storeEnded s a.id).stores ++ [a] }

theorem storeEnded_storeHolds (s : State) (a : Adapter) : storeEnded (storeHolds s a) a.id = storeEnded s a.id := by
  unfold storeEnded storeHolds
  simp [storeEnded, List.filter_append]

/-- The state in which an adapter has come whole, in place of one of its id (R352). -/
def adapterTaken (s : State) (a : Adapter) : State :=
  { storeEnded s a.id with adapters := s.adapters.filter (fun x => decide (x.id ≠ a.id)) ++ [a] }

section
variable {s : State} {a : Adapter} (rt : RespTo)

/-- VOICE_STORE for an adapter of which pieces have come. -/
theorem voiceStore_later {body : List Byte} (ha : s.stores.find? (fun x => decide (x.id = (voiceHead body).id)) = some a) :
    voiceStoreMsg body rt s =
      if fld body 24 4 ≠ a.bytes.length ∨ { a with bytes := [] } ≠ voiceHead body ∨
          a.size < fld body 24 4 + (body.drop 36).length then
        answer s rt stBadMessage
      else if (adapterGrown a (body.drop 36)).bytes.length < a.size then
        respond (storeHolds s (adapterGrown a (body.drop 36))) rt stOk []
      else voiceEnd (storeHolds s (adapterGrown a (body.drop 36))) rt (adapterGrown a (body.drop 36)) := by
  unfold voiceStoreMsg voiceTake
  simp only [ha, answer_ok (st := stOk) rfl]
  rfl

theorem voiceEnd_badCrc (h : crc32c a.bytes ≠ a.crc) : voiceEnd (storeHolds s a) rt a = answer (storeEnded s a.id) rt stBadMessage := by
  rw [← storeEnded_storeHolds]
  exact if_pos h

theorem voiceEnd_taken {b : Build} (hb : buildOf s a.build = some b) (hcrc : crc32c a.bytes = a.crc)
    (hlayout : adapterStatus b a = stOk) (hfree : adapterBusy s a.id (bit a.flags.toNat 0) = false) :
    voiceEnd (storeHolds s a) rt a = respond (adapterTaken s a) rt stOk [] := by
  have hbuild : buildOf (storeEnded (storeHolds s a) a.id) a.build = some b := hb
  have hidle : adapterBusy (storeEnded (storeHolds s a) a.id) a.id (bit a.flags.toNat 0) = false := hfree
  unfold storeEnded at hbuild hidle
  unfold voiceEnd
  simp only [hbuild, hcrc, hlayout, hidle, ne_eq, not_true_eq_false, if_false, Bool.false_eq_true, answer_ok (st := stOk) rfl]
  rw [adapterTaken, ← storeEnded_storeHolds]
  rfl

end

/-! ### VOICE_DROP -/

/-- VOICE_DROP asks for the adapter and for the sessions that use it (R352). -/
theorem voiceDropMsg_eq (body : List Byte) (rt : RespTo) (s : State) : voiceDropMsg body rt s =
    let id := BitVec.ofNat 64 (fld body 0 8)
    if s.adapters.any (fun a => decide (a.id = id)) = false then answer s rt stNotSupported
    else if s.sessions.any (fun e => decide (e.2.adapter = id)) = true then answer s rt stBusy
    else respond { s with adapters := s.adapters.filter (fun a => decide (a.id ≠ id)) } rt stOk [] := by
  unfold voiceDropMsg adapterOf adapterUsed
  simp only [← Option.isSome_eq_false_iff, List.isSome_find?, answer_ok (st := stOk) rfl]

/-- Settles O10: a later piece by `voiceStore_later`, the last one by `voiceEnd_taken` and `voiceEnd_badCrc`, VOICE_DROP by
`voiceDropMsg_eq`. -/
theorem voiceStoreAndDrop : Obligations.VoiceStoreAndDrop := by
  unfold Obligations.VoiceStoreAndDrop
  intro s m
  refine ⟨fun hp hf => ?_, fun hp => ?_⟩
  · intro data a ha whole left
    have hrun := voiceStore_later (s := held s 0x0160 m s) (respTo s 0x0160 m) ha
    by_cases hbad : fld m.body 24 4 ≠ a.bytes.length ∨ { a with bytes := [] } ≠ voiceHead m.body ∨
        a.size < fld m.body 24 4 + data.length
    · rw [if_pos hbad]
      exact declines_held rfl hp hf (by decide) rfl (hrun.trans (if_pos hbad))
    rw [if_neg hbad]
    replace hrun := hrun.trans (if_neg hbad)
    by_cases hmore : whole.bytes.length < a.size
    · rw [if_pos hmore]
      exact answers_held (u := storeHolds s whole) rfl hp hf (by decide) ⟨rfl, rfl, rfl⟩ (hrun.trans (if_pos hmore))
    rw [if_neg hmore]
    replace hrun := hrun.trans (if_neg hmore)
    refine ⟨fun b hb hcrc hlayout hfree => ?_, fun hcrc => ?_⟩
    · exact answers_held (u := adapterTaken s whole) rfl hp hf (by decide) ⟨rfl, rfl, rfl⟩
        (hrun.trans (voiceEnd_taken (s := held s 0x0160 m s) (a := whole) _ hb hcrc hlayout hfree))
    · exact answers_failed (u := storeEnded s whole.id) rfl hp hf (by decide) ⟨rfl, rfl, rfl, rfl⟩ rfl
        (hrun.trans (voiceEnd_badCrc (s := held s 0x0160 m s) (a := whole) _ hcrc))
  · intro id
    have hrun := voiceDropMsg_eq m.body (respTo s 0x0161 m) (held s 0x0161 m s)
    split
    next habsent => exact declines_held rfl hp rfl (by decide) rfl (hrun.trans (if_pos habsent))
    next hthere =>
      replace hrun := hrun.trans (if_neg hthere)
      split
      next hused => exact declines_held rfl hp rfl (by decide) rfl (hrun.trans (if_pos hused))
      next hfree =>
        exact answers_held (u := { s with adapters := s.adapters.filter (fun a => decide (a.id ≠ id)) }) rfl hp rfl (by decide)
          ⟨rfl, rfl, rfl⟩ (hrun.trans (if_neg hfree))

end Sys2Proof.Machine
end

section
/-!
PROOFS. FW_UPDATE beyond its first piece, and ATTEST (O11, R351, R463, R465, R468).
-/
namespace Sys2Proof.Machine

open Sys2Proof

/-! ### FW_UPDATE -/

theorem fwFields_of {body : List Byte} (hflags : fld body 8 1 ≤ 3) (hzero : isZero body 9 3 = true) : fwFields body = true := by
  simp [fwFields, within, hflags, hzero]

/-- An update with one piece more in its queue (R463). -/
def pieceQueued (u : FwUpdate) (m : HostMsg) (rt : RespTo) : FwUpdate :=
  { u with
    got := u.got + (m.body.drop 12).length
    queue := u.queue ++ [{ resp := rt, msg := m, offset := fld m.body 0 4, data := m.body.drop 12
                           last := decide (fld m.body 8 1 = 1), abort := false }] }

section
variable {s : State} {m : HostMsg} (rt : RespTo)

/-- A piece that is not the first, of an update in progress (R351). -/
theorem fwUpdate_later {u : FwUpdate} (hu : s.boot.update = some u) (hflags : fld m.body 8 1 ≤ 1) (hoff : fld m.body 0 4 ≠ 0) :
    fwUpdateMsg m rt s =
      if fld m.body 0 4 = u.got ∧ fld m.body 4 4 = u.size ∧ fld m.body 0 4 + (m.body.drop 12).length ≤ u.size ∧
          u.queue.all (fun p => !p.abort) = true then setUpdate s (some (pieceQueued u m rt))
      else answer s rt stBadMessage := by
  have habort : bit (fld m.body 8 1) 1 = false := by interval_cases fld m.body 8 1 <;> rfl
  have hlast : bit (fld m.body 8 1) 0 = decide (fld m.body 8 1 = 1) := by interval_cases fld m.body 8 1 <;> rfl
  have hfits : (fld m.body 0 4 = u.got ∧ fld m.body 4 4 = u.size ∧ fld m.body 0 4 + (m.body.drop 12).length ≤ u.size ∧
      u.queue.all (fun p => !p.abort) = true) ↔ ¬ (fld m.body 0 4 ≠ u.got ∨ fld m.body 4 4 ≠ u.size ∨
      u.size < fld m.body 0 4 + (m.body.drop 12).length ∨ u.queue.any (fun p => p.abort) = true) := by
    rw [← List.not_any_eq_all_not, Bool.not_eq_true']
    simp only [not_or, not_not, not_lt, ne_eq, Bool.not_eq_true]
  rw [if_congr hfits rfl rfl, ite_not]
  unfold fwUpdateMsg
  simp only [habort, hu, hoff, hlast, Bool.false_eq_true, false_and, if_false]
  rfl

theorem fwUpdate_abort (hmin : 2 ≤ fld m.body 8 1) (hmax : fld m.body 8 1 ≤ 3) : fwUpdateMsg m rt s = fwAbort s rt m := by
  unfold fwUpdateMsg
  interval_cases fld m.body 8 1 <;> rfl

theorem fwAbort_none (h : s.boot.update = none) : fwAbort s rt m = respond s rt stOk [] := by
  unfold fwAbort
  simp only [h]
  exact answer_ok rfl

theorem fwAbort_idle {u : FwUpdate} (hu : s.boot.update = some u) (hq : u.queue = []) :
    fwAbort s rt m = respond (setUpdate s none) rt stOk [] := by
  unfold fwAbort
  simp only [hu, hq, if_true]
  exact answer_ok rfl

end

/-! ### ATTEST -/

/-- The state in which an ATTEST waits for its signature, or none does (R468). -/
def attestSet (s : State) (a : Option (RespTo × List Byte)) : State := { s with boot := { s.boot with attest := a } }

theorem attestDone_signs {s : State} {rt : RespTo} {nonce : List Byte} (h : s.boot.attest = some (rt, nonce)) :
    attestDone s = respond (attestSet s none) rt stOk (attestReport s nonce) := by
  unfold attestDone
  simp only [h]
  rfl

/-- Settles O11: the pieces by `fwUpdate_later`, an abort by `fwAbort_none` and `fwAbort_idle`, the report by `attestDone_signs`. -/
theorem firmwarePiecesQueueAndAttestReports : Obligations.FirmwarePiecesQueueAndAttestReports := by
  unfold Obligations.FirmwarePiecesQueueAndAttestReports
  intro s m
  refine ⟨fun hp hzero => ?_, fun hp => ?_, fun rt nonce hattest ha => ?_⟩
  · intro offset data
    refine ⟨fun hflags u hu hoff => ?_, fun hmin hmax => ⟨fun hnone => ?_, fun u hu hq => ?_⟩⟩
    · have hf := fwFields_of (by omega) hzero
      have hrun := fwUpdate_later (s := held s 0x0150 m s) (respTo s 0x0150 m) hu hflags hoff
      split
      next hfits =>
        exact owes_held (u := setUpdate s (some (pieceQueued u m (respTo s 0x0150 m)))) rfl hp hf (by decide) ⟨rfl, rfl, rfl⟩
          (hrun.trans (if_pos hfits))
      next hbad => exact declines_held rfl hp hf (by decide) rfl (hrun.trans (if_neg hbad))
    · exact answers_held rfl hp (fwFields_of hmax hzero) (by decide) ⟨rfl, rfl, rfl⟩
        ((fwUpdate_abort _ hmin hmax).trans (fwAbort_none (s := held s 0x0150 m s) _ hnone))
    · exact answers_held (u := setUpdate s none) rfl hp (fwFields_of hmax hzero) (by decide) ⟨rfl, rfl, rfl⟩
        ((fwUpdate_abort _ hmin hmax).trans (fwAbort_idle (s := held s 0x0150 m s) _ hu hq))
  · split
    next hbusy => exact declines_held rfl hp rfl (by decide) rfl (if_pos hbusy)
    next hfree =>
      exact owes_held (u := attestSet s (some (respTo s 0x0151 m, m.body.take 32))) rfl hp rfl (by decide) ⟨rfl, rfl, rfl⟩
        (if_neg hfree)
  · obtain ⟨hresponded, hbare, -⟩ := respond_one (s := attestSet s none) stOk (attestReport s nonce) ha
    exact ⟨_, congrArg Host.Outcome.next (attestDone_signs hattest), hbare, hresponded⟩

end Sys2Proof.Machine
end

section
/-!
PROOFS. Messages that firmware takes and does not apply: malformed ones, those of the FAULT state, and those sent again (O23, R332 to
R334).
-/
namespace Sys2Proof.Machine

open Sys2Proof

theorem hostMsg_typ_lt {i : Instr} {typ : Nat} {m : HostMsg} (h : hostMsg i = some (typ, m)) : typ < 32768 := by
  cases i <;> cases h
  all_goals decide

/-! ### What is sent back -/

/-- `t` has sent bytes back for a message that firmware has taken, and has done nothing else. -/
def SentBack (typ : Nat) (m : HostMsg) (bs : List Byte) (s t : State) : Prop :=
  Served typ m s t ∧ t.unanswered = s.unanswered ∧ stream t m.conn = stream s m.conn ++ bs ∧
    (∀ c, c ≠ m.conn → connOf t c = connOf s c) ∧ s.wire <+: t.wire ∧ t.keeps = s.keeps ∧ t.bare = s.bare

theorem stream_sendResp {s : State} {rt : RespTo} {x : Conn} (hx : connOf s rt.conn = some x) (he : x.epoch = rt.epoch)
    (bs : List Byte) : stream (sendResp s rt bs) rt.conn = stream s rt.conn ++ bs := by
  unfold sendResp
  simp only [hx, he, if_true]
  exact stream_queueResp _ _ _ _ (by rw [hx]; rfl)

theorem sendResp_sentBack {s : State} {typ : Nat} {m : HostMsg} (hx : (connOf s m.conn).isSome = true) (n : Nat) (bs : List Byte) :
    SentBack typ m bs s (sendResp { outOfBox s typ m with fresh := n } (respTo s typ m) bs) := by
  obtain ⟨x, hx⟩ := Option.isSome_iff_exists.mp hx
  generalize hq : ({ outOfBox s typ m with fresh := n } : State) = q
  have hepoch : x.epoch = (respTo s typ m).epoch := by simp [respTo, respOf, mailOf, hx]
  have hrest : q = { s with mail := q.mail, mailLast := m.conn % 64, fresh := n } := by
    rw [← hq, outOfBox_eq]
  have hmail : q.mail = (outOfBox s typ m).mail := by rw [← hq]
  have hconn (c : Nat) : connOf q c = connOf s c := by rw [hrest]; rfl
  have hmoves := sendResp_moves q (respTo s typ m) bs
  refine ⟨⟨hmoves.mail.trans hmail, hmoves.mailLast.trans ?_⟩, hmoves.unanswered.trans ?_, ?_,
    fun c hc => (hmoves.other c hc).trans (hconn c), ?_, hmoves.keeps.trans ?_, hmoves.bare.trans ?_⟩
  · rw [hrest]
  · rw [hrest]
  · rw [← stream_congr (hconn m.conn)]
    exact stream_sendResp (rt := respTo s typ m) ((hconn m.conn).trans hx) hepoch bs
  · have hwire := hmoves.wire
    rwa [show q.wire = s.wire by rw [hrest]] at hwire
  · rw [hrest]
  · rw [hrest]
    rfl

/-! ### The steps of R332 and R333 that apply nothing -/

/-- A message is refused before its own checks. -/
def msgRefused (s : State) (rt : RespTo) (m : HostMsg) (st : Nat) : State :=
  sendResp { s with fresh := s.fresh + 1 } rt
    (msgBytes (rt.typ.toNat + 32768) st m.msgId.toNat (failBody s rt.typ.toNat))

section
variable {s : State} {rt : RespTo} {m : HostMsg} {fields : List Byte → Bool} {run : RespTo → State → State}

theorem formOk_parts {typ : Nat} (h : formOk typ m = true) :
    ∃ sh, msgShape typ = some sh ∧ headerOk typ m = true ∧ shapeOk sh m = true := by
  unfold formOk at h
  cases hsh : msgShape typ with
  | none => simp [hsh] at h
  | some sh =>
    simp only [hsh, Bool.and_eq_true] at h
    exact ⟨sh, rfl, h⟩

theorem process_malformed (hk : (msgShape rt.typ.toNat).isSome = true) (h : formOk rt.typ.toNat m = false) :
    process rt fields m run s = msgRefused s rt m stBadMessage := by
  obtain ⟨sh, hsh⟩ := Option.isSome_iff_exists.mp hk
  unfold formOk at h
  rw [hsh] at h
  unfold process
  by_cases hhead : headerOk rt.typ.toNat m = true
  · have hbody : ¬ shapeOk sh m = true := by simpa [hhead] using h
    simp only [hhead, hsh, hbody, not_true_eq_false, if_false]
    rfl
  · exact if_pos hhead

variable (hform : formOk rt.typ.toNat m = true)
include hform

/-- A message sent again after its response (R333). -/
theorem process_kept {k : Keep} (hk : keptOf s rt = some k) :
    process rt fields m run s =
      if k.typ = rt.typ ∧ k.bodyCrc = rt.bodyCrc then sendResp s rt k.resp else msgRefused s rt m stBadMessage := by
  obtain ⟨sh, hsh, hhead, hbody⟩ := formOk_parts hform
  unfold process
  simp only [hsh, hhead, hbody, hk, not_true_eq_false, if_false]
  rfl

/-- A message sent again before its response (R333). -/
theorem process_running {r : RespTo} (hk : keptOf s rt = none)
    (hr : s.unanswered.find? (fun r => decide (r.tag = rt.tag ∧ r.msgId = rt.msgId)) = some r) (hsame : sameMsg r rt = true) :
    process rt fields m run s = { s with unanswered := s.unanswered ++ [rt] } := by
  obtain ⟨sh, hsh, hhead, hbody⟩ := formOk_parts hform
  unfold process
  simp only [hsh, hhead, hbody, hk, hr, hsame, not_true_eq_false, if_false, if_true]

/-- A new message that the FAULT state does not answer (R334). -/
theorem process_inFault (hk : keptOf s rt = none)
    (hr : s.unanswered.find? (fun r => decide (r.tag = rt.tag ∧ r.msgId = rt.msgId)) = none) (hfault : s.fault.isSome = true)
    (htyp : faultStateType rt.typ.toNat = false) : process rt fields m run s = msgRefused s rt m stFaultState := by
  obtain ⟨sh, hsh, hhead, hbody⟩ := formOk_parts hform
  unfold process
  simp only [hsh, hhead, hbody, hk, hr, hfault, htyp, not_true_eq_false, if_false, Bool.false_eq_true, not_false_eq_true, and_self,
    if_true]
  rfl

end

/-! ### What such a message leaves -/

theorem taken_conn {s : State} {typ : Nat} {m : HostMsg} (h : taken s typ m = true) : (connOf s m.conn).isSome = true := by
  simp only [taken, Bool.and_eq_true] at h
  obtain ⟨⟨⟨⟨-, hconn⟩, -⟩, -⟩, -⟩ := h
  exact hconn

section
variable {i : Instr} {typ : Nat} {m : HostMsg} {s : State} {fields : List Byte → Bool} {run : RespTo → State → State}
  (he : exec i s = .next (accept typ fields m run s)) (h : taken s typ m = true)
include he h

/-- A message that firmware takes, whose processing leaves what it waited in as it left it. -/
theorem exec_processed {t : State} (hp : process (respTo s typ m) fields m run (outOfBox s typ m) = t) (ht : Served typ m s t) :
    exec i s = .next t := by
  rw [he, accept_process fields run h, hp, drainAll_served h ht]

theorem declines_refused (hlt : typ < 32768) {status : Nat} (hst : tookEffect status = false)
    (hp : process (respTo s typ m) fields m run (outOfBox s typ m) = msgRefused (outOfBox s typ m) (respTo s typ m) m status) :
    Declines i typ m status s := by
  have htyp : (respTo s typ m).typ.toNat = typ := by
    rw [respTo_typ, BitVec.toNat_ofNat]
    omega
  have hfresh : (outOfBox s typ m).fresh = s.fresh := by rw [outOfBox_eq]
  unfold msgRefused at hp
  rw [htyp, failBody_congr hfresh] at hp
  obtain ⟨hserved, hun, hstream, hothers, hwire, hkeeps, hbare⟩ := sendResp_sentBack (typ := typ) (taken_conn h)
    ((outOfBox s typ m).fresh + 1) (msgBytes (typ + 32768) status m.msgId.toNat (failBody s typ))
  refine ⟨_, exec_processed he h hp hserved, ⟨hserved, hun, hstream, hothers, hwire, ?_⟩, hbare⟩
  rw [hkeeps, if_neg (by simp [hst])]

end

/-- Settles O23: each message by what its processing comes to (`process_malformed` to `process_inFault`). -/
theorem failedAndResentMessagesApplyNothing : Obligations.FailedAndResentMessagesApplyNothing := by
  unfold Obligations.FailedAndResentMessagesApplyNothing
  intro s i typ m hmsg h rt
  obtain ⟨hknown, fields, run, hexec⟩ := hostMsg_accept hmsg
  have hlt := hostMsg_typ_lt hmsg
  have htyp : rt.typ.toNat = typ := by
    rw [respTo_typ, BitVec.toNat_ofNat]
    omega
  have hout := outOfBox_eq s typ m
  have hkept : keptOf (outOfBox s typ m) rt = keptOf s rt := by rw [hout]; rfl
  have hun : (outOfBox s typ m).unanswered = s.unanswered := by rw [hout]
  refine ⟨fun hbad => ?_, fun hform => ?_⟩
  · exact declines_refused (hexec s) h hlt rfl (process_malformed hknown (htyp.symm ▸ hbad))
  replace hform : formOk rt.typ.toNat m = true := htyp.symm ▸ hform
  refine ⟨fun hnew hfault hnot => ?_, fun k hk => ?_, fun r hk hr hsameTyp hsameCrc => ?_⟩
  · obtain ⟨hnone, hfresh⟩ := keyNew_parts hnew
    refine declines_refused (hexec s) h hlt rfl (process_inFault hform (hkept.trans hnone) ?_ ?_ ?_)
    · rw [hun, List.find?_eq_none]
      exact fun r hr => by rw [decide_eq_true_eq]; exact hfresh r hr
    · rw [hout]
      exact hfault
    · rw [htyp]
      simpa [faultStateType] using hnot
  · have hrun := process_kept (fields := fields) (run := run) hform (hkept.trans hk)
    split
    next hsame =>
      obtain ⟨hserved, hheld, hstream, -, -, hkeeps, hbare⟩ :=
        sendResp_sentBack (typ := typ) (taken_conn h) (outOfBox s typ m).fresh k.resp
      exact ⟨_, exec_processed (hexec s) h (hrun.trans (if_pos hsame)) hserved, hbare, hstream, hkeeps, hheld⟩
    next hother => exact declines_refused (hexec s) h hlt rfl (hrun.trans (if_neg hother))
  · have hkey : r.tag = rt.tag ∧ r.msgId = rt.msgId := by simpa using List.find?_some hr
    have hsame : sameMsg r rt = true := decide_eq_true ⟨hkey.1, hkey.2, hsameTyp, hsameCrc⟩
    have hrun : process rt fields m run (outOfBox s typ m) = held s typ m s := by
      rw [process_running hform (hkept.trans hk) (hun.symm ▸ hr) hsame, hun]
      exact inHand_eq_held s typ m
    exact ⟨_, exec_processed (hexec s) h hrun ⟨rfl, rfl⟩, ⟨⟨rfl, rfl⟩, rfl, rfl, rfl, rfl⟩, rfl⟩

end Sys2Proof.Machine
end

section
/-!
PROOFS. The handles of messages that name a session (O16, R356).
-/
namespace Sys2Proof.Machine

open Sys2Proof

section
variable {s : State} {body : List Byte}

/-- A handle that names no open session: its index is free, or under another generation. -/
theorem withSess_unknown (h : (sessOf s (fld body 0 4 % 65536)).map (fun x => decide (x.gen = fld body 0 4 / 65536)) ≠ some true)
    (rt : RespTo) (lostOk : Bool) (f : Nat → Session → State) : withSess body rt lostOk s f = answer s rt stBadMessage := by
  unfold withSess
  cases hx : sessOf s (fld body 0 4 % 65536) with
  | none => simp only [hx]
  | some x =>
    have hgen : x.gen ≠ fld body 0 4 / 65536 := by simpa [hx] using h
    simp only [hx]
    exact if_pos hgen

theorem withSess_lost {x : Session} (hx : sessOf s (fld body 0 4 % 65536) = some x) (hg : x.gen = fld body 0 4 / 65536)
    (hl : x.st = .lost) (rt : RespTo) (f : Nat → Session → State) : withSess body rt false s f = answer s rt stSessionLost := by
  unfold withSess
  simp [hx, hg, hl]

end

/-- What R356 asks of a message: it is refused for a handle that names no open session, and for a lost one, as `lostOk` says. -/
def HandleChecked (i : Instr) (typ : Nat) (m : HostMsg) (lostOk : Bool) (s : State) : Prop :=
  ((sessOf s (fld m.body 0 4 % 65536)).map (fun x => decide (x.gen = fld m.body 0 4 / 65536)) ≠ some true →
      Declines i typ m stBadMessage s) ∧
    ∀ x, sessOf s (fld m.body 0 4 % 65536) = some x → x.gen = fld m.body 0 4 / 65536 → x.st = .lost → lostOk = false →
      Declines i typ m stSessionLost s

/-- A message whose run begins with `withSess` checks its handle. -/
theorem handleChecked_of_withSess {i : Instr} {typ : Nat} {m : HostMsg} {s : State} {fields : List Byte → Bool} {lostOk : Bool}
    {run : RespTo → State → Nat → Session → State}
    (he : exec i s = .next (accept typ fields m (fun rt s => withSess m.body rt lostOk s (run rt s)) s)) (ht : typ < 32768)
    (hp : passes s typ m = true) (hf : fields m.body = true) : HandleChecked i typ m lostOk s := by
  refine ⟨fun h => ?_, fun x hx hg hl hlost => ?_⟩
  · exact declines_held he hp hf ht rfl (withSess_unknown (s := held s typ m s) h ..)
  · subst hlost
    exact declines_held he hp hf ht rfl (withSess_lost (s := held s typ m s) hx hg hl ..)

/-- Settles O16: each of the nine messages runs under `withSess`, and only SESSION_CLOSE takes a lost session. -/
theorem sessionHandlesAreChecked : Obligations.SessionHandlesAreChecked := by
  unfold Obligations.SessionHandlesAreChecked
  intro s m i typ fields hmsg hp hf index generation
  have hchecked : HandleChecked i typ m (decide (typ = 0x0202)) s := by
    simp only [List.mem_cons, List.not_mem_nil, or_false, Prod.mk.injEq] at hmsg
    rcases hmsg with h | h | h | h | h | h | h | h | h
    all_goals
      obtain ⟨rfl, rfl, rfl⟩ := h
      exact handleChecked_of_withSess rfl (by decide) hp hf
  obtain ⟨hunknown, hlost⟩ := hchecked
  exact ⟨hunknown, fun x hx hg hl hne => hlost x hx hg hl (decide_eq_false hne)⟩

end Sys2Proof.Machine
end

section
/-!
PROOFS. Enrolment (O22, R377, R379).
-/
namespace Sys2Proof.Machine

open Sys2Proof

/-- An enrolment session whose job has begun, its transcript published in ring 1. -/
def enrolStarted (x : Session) (body : List Byte) : Session :=
  { pushControl x 2 (cut body 4 36) with job := some (newJob body x.unspoken) }

/-- A session whose job has taken one more piece of reference audio through ring 5. -/
def audioTaken (x : Session) (j : Job) (data : List Byte) : Session :=
  { passPcm x (pcmEntries data) with job := some { j with audio := j.audio ++ data } }

section
variable {s : State} {body : List Byte} {x : Session} (hx : sessOf s (fld body 0 4 % 65536) = some x)
  (hg : x.gen = fld body 0 4 / 65536) (hl : x.st ≠ .lost) (rt : RespTo)

include hx hg hl in
/-- The answers of an ENROLL_START to an enrolment session whose build allows the rank. -/
theorem enrollStart_open (he : x.enrolment = true) {b : Build} (hb : buildOf s x.build = some b) (hrank : fld body 28 1 ≤ b.maxRank) :
    enrollStart body rt s =
      let i := fld body 0 4 % 65536
      if x.st ≠ .idle ∨ (adapterOf s (BitVec.ofNat 64 (fld body 4 8))).isSome then answer s rt stBusy
      else if x.unspoken = 0 then answer s rt stBadMessage
      else if fld body 29 1 = 1 ∧ micEnabled s (fld body 30 1) = false then answer s rt stConfigMismatch
      else if controlRoom s x = false then answer s rt stNoResource
      else answer (fixState (ringWritten (setSess s i (enrolStarted x body)) i 1 1) i) rt stOk := by
  unfold enrollStart
  rw [withSess_open hx hg hl]
  simp only [newJob, he, hb, hrank, Option.map_some, Option.getD_some, decide_true, not_true_eq_false, Bool.true_eq_false, if_false,
    Bool.not_eq_true]
  rw [modSess_of hx]
  rfl

include hx hg hl in
/-- The answers of an ENROLL_DATA to a session with a job. -/
theorem enrollData_open {j : Job} (hj : x.job = some j) :
    enrollData body rt s =
      let i := fld body 0 4 % 65536
      let data := body.drop 12
      if j.source ≠ 0 ∨ j.training = true ∨ fld body 4 4 ≠ j.audio.length ∨ 9600000 < j.audio.length + data.length then
        answer s rt stBadMessage
      else if 1024 < ceilDiv data.length 64 then answer s rt stNoResource
      else
        let u := respond (ringWritten (setSess s i (audioTaken x j data)) i 5 (pcmEntries data).length) rt stOk
          (le 4 (j.audio.length + data.length))
        if bit (fld body 8 1) 0 = true then startTraining u i else u := by
  unfold enrollData
  rw [withSess_open hx hg hl]
  simp only [hj]
  rw [modSess_of hx]
  rfl

end

/-- The end of a capture whose job still collects. -/
theorem captureEnd_collected {s : State} {k : Nat} {x : Session} {j : Job} (hx : sessOf s k = some x) (hj : x.job = some j)
    (hsource : j.source = 1) (hdone : j.capture = some 0) (htrain : j.training = false) :
    captureEnd s k = if j.audio.length < 320000 then endJob s k stBadMessage
      else setSess s k { x with job := some { j with training := true } } := by
  have hbound : (sessOf s k).bind (fun ss => ss.job) = some j := by rw [hx]; exact hj
  unfold captureEnd startTraining
  simp only [hbound, hsource, hdone, htrain, Bool.false_eq_true, not_false_eq_true, and_self, if_true]
  rw [modSess_of hx]

/-- A message that is refused where `c` holds, and otherwise goes on. -/
theorem declines_or {i : Instr} {typ : Nat} {m : HostMsg} {status : Nat} {s r : State} {fields : List Byte → Bool}
    {run : RespTo → State → State} {c P : Prop} [Decidable c] (he : exec i s = .next (accept typ fields m run s))
    (hp : passes s typ m = true) (hf : fields m.body = true) (ht : typ < 32768) (hst : tookEffect status = false)
    (hrun : run (respTo s typ m) (held s typ m s) = if c then answer (held s typ m s) (respTo s typ m) status else r)
    (hrest : run (respTo s typ m) (held s typ m s) = r → P) : if c then Declines i typ m status s else P := by
  by_cases hc : c
  · rw [if_pos hc]
    exact declines_held he hp hf ht hst (hrun.trans (if_pos hc))
  · rw [if_neg hc]
    exact hrest (hrun.trans (if_neg hc))

/-- Settles O22: the answers by `enrollStart_open` and `enrollData_open`, the end of a capture by `captureEnd_collected`. -/
theorem enrolmentCollectsAndTrains : Obligations.EnrolmentCollectsAndTrains := by
  unfold Obligations.EnrolmentCollectsAndTrains
  intro s m x k
  refine ⟨?_, fun j hx hj hsource hdone htrain => congrArg Host.Outcome.next (captureEnd_collected hx hj hsource hdone htrain)⟩
  intro i hx hg hl
  refine ⟨fun hp hf he b hb hrank => ?_, fun hp hf j hj => ?_⟩
  · have hrun := enrollStart_open (s := held s 0x020A m s) hx hg hl (respTo s 0x020A m) he hb hrank
    refine declines_or rfl hp hf (by decide) rfl hrun fun hrun => ?_
    refine declines_or rfl hp hf (by decide) rfl hrun fun hrun => ?_
    refine declines_or rfl hp hf (by decide) rfl hrun fun hrun => ?_
    refine declines_or rfl hp hf (by decide) rfl hrun fun hrun => ?_
    intro y
    refine answers_held rfl hp hf (by decide) ?_ ((hrun.trans (answer_ok rfl)).trans (congrArg (fun t => respond t _ _ _) ?_))
    · exact ringWritten_transport (setSess s i y) i 1 1
    · exact congrArg (fixState · i) (ringWritten_held s 0x020A m (setSess s i y) i 1 1)
  · intro data
    have hrun := enrollData_open (s := held s 0x020B m s) hx hg hl (respTo s 0x020B m) hj
    refine declines_or rfl hp hf (by decide) rfl hrun fun hrun => ?_
    refine declines_or rfl hp hf (by decide) rfl hrun fun hrun => ?_
    intro hmore
    have hlast : ¬ bit (fld m.body 8 1) 0 = true := by rw [hmore]; decide
    refine answers_held rfl hp hf (by decide) ?_ ((hrun.trans (if_neg hlast)).trans (congrArg (fun t => respond t _ _ _) ?_))
    · exact ringWritten_transport (setSess s i (audioTaken x j data)) i 5 (pcmEntries data).length
    · exact ringWritten_held s 0x020B m (setSess s i (audioTaken x j data)) i 5 (pcmEntries data).length

end Sys2Proof.Machine
end

section
/-!
PROOFS. The serial audio ports: what an event does to one port (O59, R384 to R401).
-/
namespace Sys2Proof.Machine

open Sys2Proof

/-! ### A table written twice under one key -/

section
variable {α : Type}

theorem tdel_absent {t : Tab α} {k : Nat} (h : tfind t k = none) : tdel t k = t := by
  induction t with
  | nil => rfl
  | cons e rest ih =>
    obtain ⟨j, w⟩ := e
    rw [tfind_cons] at h
    by_cases hj : j = k
    · rw [if_pos hj] at h
      cases h
    · rw [if_neg hj] at h
      rw [tdel, if_neg hj, ih h]

theorem tins_low {t : Tab α} {lo k : Nat} (h : tsorted (some lo) t = true) (hk : k ≤ lo) (v : α) : tins t k v = (k, v) :: t := by
  cases t with
  | nil => rfl
  | cons e rest =>
    obtain ⟨j, w⟩ := e
    simp only [tsorted, Bool.and_eq_true, decide_eq_true_eq] at h
    rw [tins_cons, if_neg (by omega), if_neg (by omega)]

theorem tins_tdel {t : Tab α} {lo : Option Nat} (h : tsorted lo t = true) (k : Nat) (v : α) : tins (tdel t k) k v = tins t k v := by
  induction t generalizing lo with
  | nil => rfl
  | cons e rest ih =>
    obtain ⟨j, w⟩ := e
    simp only [tsorted, Bool.and_eq_true] at h
    obtain ⟨-, hrest⟩ := h
    rw [tdel, tins_cons]
    rcases Nat.lt_trichotomy j k with hj | hj | hj
    · rw [if_neg (Nat.ne_of_lt hj), tins_cons, if_pos hj, if_pos hj, ih hrest]
    · rw [if_pos hj, if_neg (by omega), if_pos hj, tins_low hrest (Nat.le_of_eq hj.symm)]
    · rw [if_neg (by omega), tdel_absent (tfind_low rest j k hrest (Nat.le_of_lt hj)), tins_cons]

theorem tdel_tins_same {t : Tab α} {lo : Option Nat} (h : tsorted lo t = true) (k : Nat) (v : α) : tdel (tins t k v) k = tdel t k := by
  induction t generalizing lo with
  | nil => simp [tins, tdel]
  | cons e rest ih =>
    obtain ⟨j, w⟩ := e
    simp only [tsorted, Bool.and_eq_true] at h
    obtain ⟨-, hrest⟩ := h
    rw [tins_cons, tdel]
    rcases Nat.lt_trichotomy j k with hj | hj | hj
    · rw [if_pos hj, if_neg (Nat.ne_of_lt hj), tdel, if_neg (Nat.ne_of_lt hj), ih hrest]
    · rw [if_neg (by omega), if_pos hj, if_pos hj, tdel, if_pos rfl]
    · rw [if_neg (by omega), if_neg (by omega), if_neg (by omega), tdel, if_pos rfl,
        tdel_absent (tfind_low rest j k hrest (Nat.le_of_lt hj))]

theorem tput_tput [DecidableEq α] (d : α) {t : Tab α} (h : tsorted none t = true) (k : Nat) (a b : α) :
    tput d (tput d t k a) k b = tput d t k b := by
  unfold tput
  split <;> split
  · exact tdel_absent (tfind_tdel_same t none k h)
  · exact tdel_tins_same h k a
  · exact tins_tdel h k b
  · exact tins_tins t k a b

end

/-! ### One port -/

section
variable {s : State} (hs : tsorted none s.tdm = true) {n : Nat} (y : Tdm)
include hs

theorem tdmOf_setTdm : tdmOf (setTdm s n y) n = y := tget_tput_sorted _ _ _ _ hs

theorem modTdm_setTdm (f : Tdm → Tdm) : modTdm (setTdm s n y) n f = setTdm s n (f y) := by
  unfold modTdm
  rw [tdmOf_setTdm hs]
  exact congrArg (fun t : Tab Tdm => { s with tdm := t }) (tput_tput _ hs _ _ _)

theorem modTslot_setTdm (i : Nat) (f : TSlot → TSlot) :
    modTslot (setTdm s n y) n i f = setTdm s n (setTslot y i (f (tslotOf y i))) := modTdm_setTdm hs y _

theorem tdmCnt_setTdm (k m : Nat) :
    tdmCnt (setTdm s n y) n k m = setTdm s n { y with counters := cntAdd y.counters k (tdmCntWidth k) m } := modTdm_setTdm hs y _

/-- A port stored changes no other port, and nothing else. -/
theorem setTdm_port : tdmOf (setTdm s n y) n = y ∧ (∀ m, m ≠ n → tdmOf (setTdm s n y) m = tdmOf s m) ∧
    { setTdm s n y with tdm := [] } = { s with tdm := [] } :=
  ⟨tdmOf_setTdm hs y, fun _ hm => tget_tput_other _ _ _ hm.symm, rfl⟩

end

theorem tslotOf_setTslot {y : Tdm} (hy : tsorted none y.slots = true) (i : Nat) (x : TSlot) : tslotOf (setTslot y i x) i = x :=
  tget_tput_sorted _ _ _ _ hy

theorem tslotOf_setTslot_other (y : Tdm) {i j : Nat} (x : TSlot) (h : j ≠ i) : tslotOf (setTslot y i x) j = tslotOf y j :=
  tget_tput_other _ _ _ h.symm

/-! ### Events of a port to which no session is bound, and whose record waits for nothing -/

/-- No session's output is bound to the port. -/
def portUnbound (s : State) (n : Nat) : Bool := s.sessions.all (fun e => !(bit e.2.bindFlags.toNat 1 && decide (e.2.tdmPort = n)))

theorem portEvent_unbound {s : State} {n : Nat} (h : portUnbound s n = true) (code : Nat) : portEvent s n code = s := by
  refine foldl_fixed_of_mem fun e he => if_neg ?_
  rintro ⟨hbit, hport, -⟩
  have hnot := List.all_eq_true.mp h e he
  simp [hbit, hport] at hnot

theorem portEvent_setTdm {s : State} {n : Nat} (h : portUnbound s n = true) (y : Tdm) (code : Nat) :
    portEvent (setTdm s n y) n code = setTdm s n y := portEvent_unbound (s := setTdm s n y) h code

theorem applyTdmRec_none {s : State} {n : Nat} (h : (recOf s (0x10 + n) 0).commit = none) : applyTdmRec s n = s := by
  unfold applyTdmRec
  simp only [h]

theorem applyTdmRec_setTdm {s : State} {n : Nat} (h : (recOf s (0x10 + n) 0).commit = none) (y : Tdm) :
    applyTdmRec (setTdm s n y) n = setTdm s n y := applyTdmRec_none (s := setTdm s n y) h

/-- A port whose frame clock is lost (R392). -/
def clockLostPort (x : Tdm) : Tdm :=
  { x with
    st := .clockLost, recent := [], backFrames := 0, glitchRun := 0, relockAfterLoss := false, offNominal := false
    counters := cntAdd x.counters 2 32 1 }

/-- A port whose relock found a period too far off nominal (Table 16.6). -/
def offNominalPort (x : Tdm) (period : Nat) : Tdm :=
  { x with
    st := .clockLost, period := period, recent := [], backFrames := 0, offNominal := true, counters := cntAdd x.counters 2 32 1 }

/-- A port whose relock has locked (R393). -/
def relockedPort (x : Tdm) (period : Nat) : Tdm := { x with st := .running, period := period, recent := [], glitchRun := 0 }

section
variable {s : State} {n : Nat}

theorem asleep_event (h : tdmAwake s n = false) : (∀ p k l, tdmFrame s n p k l = s) ∧ loseClock s n = s ∧
    (∀ p, relockDone s n p = s) ∧ (∀ i l, gateBlock s n i l = s) ∧ ∀ i, freewheel s n i = s := by
  have hno : ¬ tdmAwake s n = true := by rw [h]; decide
  exact ⟨fun _ _ _ => if_pos hno, if_pos hno, fun _ => if_pos (.inr hno), fun _ _ => if_pos (.inl hno),
    fun _ => if_neg fun hrun => hno hrun.2.2⟩

variable (ha : tdmAwake s n = true)
include ha

theorem loseClock_stopped (h : (tdmOf s n).st = .stopped) : loseClock s n = s := by
  unfold loseClock
  simp only [ha, h, not_true_eq_false, if_false]

theorem loseClock_again (h : (tdmOf s n).st = .clockLost) :
    loseClock s n = modTdm s n (fun x => { x with backFrames := 0, recent := [] }) := by
  unfold loseClock
  simp only [ha, h, not_true_eq_false, if_false]

variable (hs : tsorted none s.tdm = true) (hc : (recOf s (0x10 + n) 0).commit = none) (hu : portUnbound s n = true)
include hs hc hu

theorem loseClock_clocked (h : (tdmOf s n).st = .running ∨ (tdmOf s n).st = .relocking) :
    loseClock s n = setTdm s n (clockLostPort (tdmOf s n)) := by
  have hlost : applyTdmRec (portEvent (tdmCnt (modTdm s n (fun t => { t with
      st := .clockLost, recent := [], backFrames := 0, glitchRun := 0, relockAfterLoss := false, offNominal := false })) n 2 1)
      n 0x000A) n = setTdm s n (clockLostPort (tdmOf s n)) := by
    rw [modTdm, tdmCnt_setTdm hs, portEvent_setTdm hu, applyTdmRec_setTdm hc]
    rfl
  unfold loseClock
  rcases h with h | h
  all_goals
    simp only [ha, h, not_true_eq_false, if_false]
    exact hlost

theorem relockDone_relocking (h : (tdmOf s n).st = .relocking) (period : Nat) :
    relockDone s n period = setTdm s n (if driftOff (nominalPeriod s n) [period] = true then offNominalPort (tdmOf s n) period
      else relockedPort (tdmOf s n) period) := by
  unfold relockDone
  simp only [ha, h, ne_eq, not_true_eq_false, or_self, if_false]
  split
  · rw [modTdm, tdmCnt_setTdm hs, portEvent_setTdm hu, applyTdmRec_setTdm hc]
    rfl
  · rw [modTdm, portEvent_setTdm hu, ite_self]
    rfl

end

theorem relockDone_other {s : State} {n : Nat} (h : (tdmOf s n).st ≠ .relocking) (period : Nat) : relockDone s n period = s :=
  if_pos (.inl h)

/-- A port of which one slot's buffer has passed a sample whose time is over (R392). -/
def samplePassed (x : Tdm) (i : Nat) : Tdm :=
  { setTslot x i { tslotOf x i with buf := (tslotOf x i).buf.drop 1 } with counters := cntAdd x.counters 5 48 1 }

theorem freewheel_awake {s : State} {n : Nat} (ha : tdmAwake s n = true) (hs : tsorted none s.tdm = true) (i : Nat) :
    freewheel s n i = if ((tdmOf s n).st = .clockLost ∨ (tdmOf s n).st = .relocking) ∧ (tslotOf (tdmOf s n) i).buf ≠ [] then
      setTdm s n (samplePassed (tdmOf s n) i) else s := by
  unfold freewheel
  simp only [ha, and_true]
  split
  · rw [modTslot, modTdm, tdmCnt_setTdm hs]
    rfl
  · rfl

/-! ### The barge-in gate (R394) -/

/-- A gate's input slot takes blocks. -/
def gateLive (s : State) (n i : Nat) : Bool :=
  decide (tdmMode s n ≠ 0) && bit (fld (tdmRec s n) 32 8) i && decide ((tdmOf s n).st ≠ .stopped ∧ (tdmOf s n).st ≠ .clockLost)

/-- The block ends an activity that lasted as long as the record asks. -/
def gateHit (s : State) (n i : Nat) : Bool :=
  (tslotOf (tdmOf s n) i).armed && decide (holdBlocks s n ≤ (tslotOf (tdmOf s n) i).activeBlocks + 1)

/-- A gate after an inactive block. -/
def gateQuiet (z : TSlot) : TSlot :=
  { z with activeBlocks := 0, quietBlocks := z.quietBlocks + 1, armed := z.armed || decide (20 ≤ z.quietBlocks + 1) }

/-- A gate after an active block. -/
def gateActive (z : TSlot) (hit : Bool) : TSlot :=
  { z with activeBlocks := z.activeBlocks + 1, quietBlocks := 0, armed := z.armed && !hit }

/-- A session that a detection stops, with its text dropped (R364). -/
def bargedSession (x : Session) : Session :=
  { x with queuedTokens := none, unspoken := 0, stopWait := x.stopWait ++
    [{ resp := none, barge := true, drop := x.queuedTokens.getD 0 + x.unspoken }] }

section
variable {s : State} {n : Nat}

theorem gateBlock_awake (ha : tdmAwake s n = true) (i : Nat) (level : Int) :
    gateBlock s n i level =
      let z := tslotOf (tdmOf s n) i
      let u := setTdm s n (setTslot (tdmOf s n) i (gateActive z (gateHit s n i)))
      if gateLive s n i = false then s
      else if 16 * fldS (tdmRec s n) 48 1 < level then (if gateHit s n i = true then detectBarge u n i else u)
      else setTdm s n (setTslot (tdmOf s n) i (gateQuiet z)) := by
  unfold gateBlock
  refine if_congr ?_ rfl rfl
  simp only [ha, gateLive, Bool.and_eq_false_iff, decide_eq_false_iff_not, not_true_eq_false, false_or, Bool.not_eq_true]
  tauto

section
variable (ha : tdmAwake s n = true) {i : Nat} {level : Int}
include ha

theorem gateBlock_dead (hlive : gateLive s n i = false) : gateBlock s n i level = s :=
  (gateBlock_awake ha i level).trans (if_pos hlive)

variable (hlive : gateLive s n i = true)
include hlive

theorem gateBlock_quiet (hquiet : ¬ 16 * fldS (tdmRec s n) 48 1 < level) :
    gateBlock s n i level = setTdm s n (setTslot (tdmOf s n) i (gateQuiet (tslotOf (tdmOf s n) i))) := by
  rw [gateBlock_awake ha, hlive]
  exact if_neg hquiet

theorem gateBlock_active (hloud : 16 * fldS (tdmRec s n) 48 1 < level) :
    gateBlock s n i level =
      let u := setTdm s n (setTslot (tdmOf s n) i (gateActive (tslotOf (tdmOf s n) i) (gateHit s n i)))
      if gateHit s n i = true then detectBarge u n i else u := by
  rw [gateBlock_awake ha, hlive]
  exact if_pos hloud

end

theorem setSess_setTdm_rest (s : State) (n : Nat) (y : Tdm) (k : Nat) (x : Session) :
    { setSess (setTdm s n y) k x with tdm := [], sessions := [] } = { s with tdm := [], sessions := [] } := by
  simp only [setSess, setTdm]

theorem detectBarge_none {u : State} {i : Nat} (h : slotBound u n i = none) : detectBarge u n i = u := by
  unfold detectBarge
  simp only [h]

/-- A STOP of a session with an utterance in progress, whose slice has begun, waits for the commit. -/
theorem stopSession_begun {u : State} {k : Nat} {x : Session} (hx : sessOf u k = some x) (hutt : 0 < x.uttTokens)
    (hbegun : sliceBegun u x = true) : stopSession u k none true = setSess u k (bargedSession x) := by
  have hsome : ¬ (x.stopWait = [] ∧ x.uttTokens = 0 ∧ x.queuedTokens.getD 0 + x.unspoken = 0) := by omega
  unfold stopSession
  simp only [hx]
  rw [if_neg hsome]
  exact (if_pos (Or.inr hbegun)).trans (modSess_of hx _)

theorem detectBarge_speaking {u : State} {i k : Nat} {x : Session} (hb : slotBound u n i = some (k, x))
    (hsess : tsorted none u.sessions = true) (hst : x.st = .speaking) (hf : u.fault = none) (hutt : 0 < x.uttTokens)
    (hbegun : sliceBegun u x = true) : detectBarge u n i = setSess (tdmCnt u n 7 1) k (bargedSession x) := by
  have hx : sessOf (tdmCnt u n 7 1) k = some x := tfind_of_mem hsess (List.mem_of_find?_eq_some hb)
  have hdetect : x.st = .speaking ∧ u.fault.isNone = true := ⟨hst, by rw [hf]; rfl⟩
  unfold detectBarge
  simp only [hb]
  rw [if_pos hdetect, stopSession_begun hx hutt hbegun]

end

end Sys2Proof.Machine
end

section
/-!
PROOFS. A TDM frame (O59, R383, R384, R391, R400, R401).
-/
namespace Sys2Proof.Machine

open Sys2Proof

/-! ### Tracking the period (R391) -/

/-- What a frame does to the tracker of a port that is stopped or keeps its clock. -/
structure FrameTracked (s : State) (n period : Nat) (x y : Tdm) : Prop where
  runs : y.st = .running
  safe : y.safe = x.safe
  frames : tget 0 y.counters 0 = (tget 0 x.counters 0 + 1) % 2 ^ 48
  started : x.st = .stopped → y.period = nominalPeriod s n ∧ y.recent = [] ∧ y.glitchRun = 0
  steady : x.st = .running → glitchy x.period period = false →
    y.period = Config.trackPeriod x.period period ∧ y.recent = period :: x.recent ∧ y.glitchRun = 0
  glitch : x.st = .running → glitchy x.period period = true →
    y.period = x.period ∧ y.recent = x.recent ∧ y.glitchRun = x.glitchRun + 1 ∧
      tget 0 y.counters 1 = (tget 0 x.counters 1 + 1) % 2 ^ 32

/-- Two conditions of a port that differ in its slots, its gain and the counters of its output alone. -/
structure SameTracker (y z : Tdm) : Prop where
  rest : { z with slots := [], counters := [], gain := 0 } = { y with slots := [], counters := [], gain := 0 }
  counters : ∀ k, k < 4 → tget 0 z.counters k = tget 0 y.counters k

theorem SameTracker.trans {x y z : Tdm} (h : SameTracker x y) (k : SameTracker y z) : SameTracker x z :=
  ⟨k.rest.trans h.rest, fun i hi => (k.counters i hi).trans (h.counters i hi)⟩

theorem FrameTracked.congr {s : State} {n period : Nat} {x y z : Tdm} (h : FrameTracked s n period x y) (hz : SameTracker y z) :
    FrameTracked s n period x z := by
  have hst : z.st = y.st := (congrArg Tdm.st hz.rest :)
  have hsafe : z.safe = y.safe := (congrArg Tdm.safe hz.rest :)
  have hperiod : z.period = y.period := (congrArg Tdm.period hz.rest :)
  have hrecent : z.recent = y.recent := (congrArg Tdm.recent hz.rest :)
  have hrun : z.glitchRun = y.glitchRun := (congrArg Tdm.glitchRun hz.rest :)
  refine ⟨hst.trans h.runs, hsafe.trans h.safe, (hz.counters 0 (by decide)).trans h.frames, ?_, ?_, ?_⟩
  · rw [hperiod, hrecent, hrun]
    exact h.started
  · rw [hperiod, hrecent, hrun]
    exact h.steady
  · rw [hperiod, hrecent, hrun, hz.counters 1 (by decide)]
    exact h.glitch

/-- A port that has counted a frame (Table 16.9). -/
def frameCounted (x : Tdm) : Tdm := { x with counters := cntAdd x.counters 0 48 1 }

theorem tget_cntAdd {t : Tab Nat} (h : tsorted none t = true) (k w m : Nat) : tget 0 (cntAdd t k w m) k = (tget 0 t k + m) % 2 ^ w :=
  tget_tput_sorted _ _ _ _ h

theorem tget_cntAdd_other (t : Tab Nat) {j k : Nat} (h : k ≠ j) (w m : Nat) : tget 0 (cntAdd t k w m) j = tget 0 t j :=
  tget_tput_other _ _ _ h

section
variable {s : State} (hs : tsorted none s.tdm = true) {n : Nat} {y : Tdm}
include hs

theorem track_stopped (h : y.st = .stopped) (period : Nat) : track (setTdm s n y) n period = setTdm s n { y with
    st := .running, period := nominalPeriod s n, recent := [], glitchRun := 0, backFrames := 0, offNominal := false } := by
  unfold track
  rw [tdmOf_setTdm hs, h]
  exact modTdm_setTdm hs y _

theorem track_running (h : y.st = .running) (period : Nat) : track (setTdm s n y) n period = trackRunning (setTdm s n y) n period := by
  unfold track
  rw [tdmOf_setTdm hs, h]

/-- A glitch of a port, before the third in a row (R393). -/
theorem trackRunning_glitch (hn : n < 4) {period : Nat} (hg : glitchy y.period period = true) (hrun : y.glitchRun < 2) :
    trackRunning (setTdm s n y) n period =
      setTdm s n { y with counters := cntAdd y.counters 1 32 1, glitchRun := y.glitchRun + 1 } := by
  have hcorrected : corrected (setTdm s n y) (mkFault 0x0401 (uAudio n) 0) = tdmCnt (setTdm s n y) n 1 1 := by
    interval_cases n <;> rfl
  unfold trackRunning
  rw [tdmOf_setTdm hs]
  dsimp only
  rw [if_pos hg, if_neg (by omega), hcorrected, tdmCnt_setTdm hs, modTdm_setTdm hs]
  rfl

/-- A period near the tracked one, with less than 64 measured. -/
theorem trackRunning_steady {period : Nat} (hg : glitchy y.period period = false) (hlen : (period :: y.recent).length < 64) :
    trackRunning (setTdm s n y) n period = setTdm s n { y with
      period := Config.trackPeriod y.period period, recent := period :: y.recent, glitchRun := 0 } := by
  have htake : (period :: y.recent).take 64 = period :: y.recent := List.take_of_length_le (Nat.le_of_lt hlen)
  unfold trackRunning
  rw [tdmOf_setTdm hs]
  dsimp only
  rw [if_neg (by rw [hg]; decide), htake, if_neg fun hfull => Nat.ne_of_lt hlen hfull.1]
  exact modTdm_setTdm hs y _

/-- A frame of a port that is stopped or keeps its clock moves its tracker and leaves its slots. -/
theorem track_frame (hn : n < 4) (hc : tsorted none (tdmOf s n).counters = true) {period : Nat}
    (h : (tdmOf s n).st = .stopped ∨ ((tdmOf s n).st = .running ∧ (period :: (tdmOf s n).recent).length < 64 ∧
      (glitchy (tdmOf s n).period period = false ∨ (tdmOf s n).glitchRun < 2))) :
    ∃ y, track (tdmCnt s n 0 1) n period = setTdm s n y ∧ FrameTracked s n period (tdmOf s n) y ∧ y.slots = (tdmOf s n).slots := by
  generalize hx : tdmOf s n = x at hc h ⊢
  have hcount : tdmCnt s n 0 1 = setTdm s n (frameCounted x) := by rw [← hx]; rfl
  have hframes : tget 0 (frameCounted x).counters 0 = (tget 0 x.counters 0 + 1) % 2 ^ 48 := tget_cntAdd hc 0 48 1
  rw [hcount]
  rcases h with hst | ⟨hst, hlen, hsound⟩
  · exact ⟨_, track_stopped hs (y := frameCounted x) hst period,
      ⟨rfl, rfl, hframes, fun _ => ⟨rfl, rfl, rfl⟩, fun hrun => by simp [hst] at hrun, fun hrun => by simp [hst] at hrun⟩, rfl⟩
  rw [track_running hs (y := frameCounted x) hst]
  by_cases hg : glitchy x.period period = true
  · have hrun : x.glitchRun < 2 := hsound.resolve_left (by rw [hg]; decide)
    have hsorted : tsorted none (frameCounted x).counters = true := tsorted_tput _ _ _ _ _ hc nofun
    have hglitches : tget 0 (cntAdd (frameCounted x).counters 1 32 1) 1 = (tget 0 x.counters 1 + 1) % 2 ^ 32 :=
      (tget_cntAdd hsorted 1 32 1).trans (congrArg (fun v => (v + 1) % 2 ^ 32) (tget_cntAdd_other x.counters (by decide) 48 1))
    refine ⟨_, trackRunning_glitch hs (y := frameCounted x) hn hg hrun, ⟨hst, rfl, ?_, fun hstop => ?_, fun _ hno => ?_,
      fun _ _ => ⟨rfl, rfl, rfl, hglitches⟩⟩, rfl⟩
    · exact (tget_cntAdd_other _ (by decide) 32 1).trans hframes
    · simp [hst] at hstop
    · simp [hg] at hno
  · rw [Bool.not_eq_true] at hg
    exact ⟨_, trackRunning_steady hs (y := frameCounted x) hg hlen, ⟨hst, rfl, hframes, fun hstop => by simp [hst] at hstop,
      fun _ _ => ⟨rfl, rfl, rfl⟩, fun _ hno => by simp [hg] at hno⟩, rfl⟩

end

/-! ### Input slots -/

/-- The code that an input slot takes from a frame. -/
def slotInput (s : State) (n periods : Nat) (inputs : List Int) (i : Nat) : Int :=
  if inEnabled s n i = true ∧ slotComplete s n i periods = true then inputs.getD i 0 else 0

section
variable {s : State} (hs : tsorted none s.tdm = true) (n periods : Nat) (inputs : List Int)
include hs

theorem slotIn_setTdm (y : Tdm) (i : Nat) : slotIn (setTdm s n y) n periods inputs i =
    setTdm s n (setTslot y i { tslotOf y i with inp := slotInput s n periods inputs i }) := by
  unfold slotIn slotInput
  rw [show inEnabled (setTdm s n y) n i = inEnabled s n i from rfl,
    show slotComplete (setTdm s n y) n i periods = slotComplete s n i periods from rfl]
  by_cases he : inEnabled s n i = true
  · simp only [he, if_true, true_and]
    exact modTslot_setTdm hs ..
  · rw [if_neg he, if_neg fun h => he h.1]
    exact modTslot_setTdm hs ..

/-- Every input slot of a frame takes its code, and nothing else of the port changes. -/
theorem slotsIn_setTdm {y : Tdm} (hy : tsorted none y.slots = true) (m : Nat) :
    ∃ S, iter (fun i s => slotIn s n periods inputs i) m (setTdm s n y) = setTdm s n { y with slots := S } ∧ tsorted none S = true ∧
      ∀ i, i < m → tget tslotD S i = { tslotOf y i with inp := slotInput s n periods inputs i } := by
  obtain ⟨hsorted, hget⟩ := tget_iter_tput (d := tslotD) (fun i x => { x with inp := slotInput s n periods inputs i }) hy m
  refine ⟨_, ?_, hsorted, fun i hi => (hget i).trans (if_pos hi)⟩
  clear hsorted hget
  induction m with
  | zero => rfl
  | succ m ih => rw [iter, ih, slotIn_setTdm hs]; rfl

end

/-! ### Output slots -/

/-- What a frame makes of one output slot of a running port: its input code stays, and its output code is zero or
`idle_pattern` where no sample plays (R384, R400, R401). -/
structure SlotDriven (s : State) (n i : Nat) (y : Tdm) (x z : TSlot) : Prop where
  inp : z.inp = x.inp
  disabled : outEnabled s n i = false → z.out = 0
  idle : outEnabled s n i = true → y.safe = true ∨ fenced s (uAudio n) = true → z.out = idleCode s n
  empty : outEnabled s n i = true → y.safe = false → fenced s (uAudio n) = false → x.buf = [] → x.lag = none → z.out = 0

/-- One slot of a port has become `z`, and at most counters of the output have moved with it. -/
def SlotStep (s : State) (n i : Nat) (y : Tdm) (z : TSlot) (t : State) : Prop :=
  ∃ C, t = setTdm s n { setTslot y i z with counters := C } ∧ ∀ k, k < 4 → tget 0 C k = tget 0 y.counters k

/-- A slot of a running port keeps its input code, and is silent where it has nothing to play. -/
def SlotRuns (s : State) (n i : Nat) (y : Tdm) (x : TSlot) (t : State) : Prop :=
  ∃ z, SlotStep s n i y z t ∧ z.inp = x.inp ∧ (x.buf = [] → x.lag = none → z.out = 0)

section
variable {s : State} (hs : tsorted none s.tdm = true) {n i : Nat} {y : Tdm}
include hs

theorem modTslot_slotStep (f : TSlot → TSlot) : SlotStep s n i y (f (tslotOf y i)) (modTslot (setTdm s n y) n i f) :=
  ⟨y.counters, modTslot_setTdm hs .., fun _ _ => rfl⟩

theorem SlotStep.tdmCnt {z : TSlot} {t : State} (h : SlotStep s n i y z t) {k : Nat} (hk : 4 ≤ k) (m : Nat) :
    SlotStep s n i y z (tdmCnt t n k m) := by
  obtain ⟨C, rfl, hC⟩ := h
  exact ⟨_, tdmCnt_setTdm hs .., fun j hj => (tget_cntAdd_other _ (by omega) _ _).trans (hC j hj)⟩

theorem SlotStep.tdmLagMax {z : TSlot} {t : State} (h : SlotStep s n i y z t) (us : Nat) : SlotStep s n i y z (tdmLagMax t n us) := by
  obtain ⟨C, rfl, hC⟩ := h
  exact ⟨_, modTdm_setTdm hs .., fun j hj => (tget_tput_other _ _ _ (by omega)).trans (hC j hj)⟩

/-- A slot that plays keeps its input code. -/
theorem playSlot_slotStep (x : TSlot) (lag : Nat) :
    ∃ z, SlotStep s n i y z (playSlot (setTdm s n y) n i x lag) ∧ z.inp = x.inp :=
  ⟨_, ((modTslot_slotStep hs _).tdmCnt hs (by decide) _).tdmLagMax hs _, rfl⟩

theorem silent_slotRuns {x : TSlot} {f : TSlot → TSlot} (hinp : (f (tslotOf y i)).inp = x.inp) (hout : (f (tslotOf y i)).out = 0) :
    SlotRuns s n i y x (modTslot (setTdm s n y) n i f) :=
  ⟨_, modTslot_slotStep hs f, hinp, fun _ _ => hout⟩

theorem playSlot_slotRuns {x w : TSlot} {lag : Nat} (hbuf : x.buf ≠ []) (hw : w.inp = x.inp) :
    SlotRuns s n i y x (playSlot (setTdm s n y) n i w lag) := by
  obtain ⟨z, hstep, hinp⟩ := playSlot_slotStep hs (n := n) (i := i) (y := y) w lag
  exact ⟨z, hstep, hinp.trans hw, fun hno => absurd hno hbuf⟩

theorem runSlot_slotRuns (x : TSlot) : SlotRuns s n i y x (runSlot (setTdm s n y) n i x) := by
  rcases x with ⟨_ | ⟨e, rest⟩, _ | lag, ready, phase, starved, out, inp, active, quiet, armed⟩ <;> dsimp only [runSlot]
  · exact silent_slotRuns hs rfl rfl
  · split
    · exact silent_slotRuns hs rfl rfl
    split
    · exact silent_slotRuns hs rfl rfl
    · exact ⟨_, (modTslot_slotStep hs _).tdmCnt hs (by decide) _, rfl, fun _ _ => rfl⟩
  · split
    · exact silent_slotRuns hs rfl rfl
    · exact playSlot_slotRuns hs nofun rfl
  · cases starved with
    | none => exact playSlot_slotRuns hs nofun rfl
    | some t =>
      dsimp only
      split
      · exact silent_slotRuns hs rfl rfl
      · exact playSlot_slotRuns hs nofun rfl

/-- One output slot in a frame of a running port. -/
theorem slotOut_slotStep (hst : y.st = .running) :
    ∃ z, SlotStep s n i y z (slotOut (setTdm s n y) n i) ∧ SlotDriven s n i y (tslotOf y i) z := by
  unfold slotOut
  rw [tdmOf_setTdm hs, show outEnabled (setTdm s n y) n i = outEnabled s n i from rfl,
    show fenced (setTdm s n y) (uAudio n) = fenced s (uAudio n) from rfl,
    show idleCode (setTdm s n y) n = idleCode s n from rfl]
  dsimp only
  by_cases he : outEnabled s n i = true
  case neg =>
    rw [if_pos he]
    exact ⟨_, modTslot_slotStep hs _, rfl, fun _ => rfl, fun h => absurd h he, fun h => absurd h he⟩
  rw [if_neg (not_not.mpr he)]
  have hon : ¬ outEnabled s n i = false := by rw [he]; decide
  by_cases hidle : y.safe = true ∨ fenced s (uAudio n) = true
  · rw [if_pos hidle]
    refine ⟨_, modTslot_slotStep hs _, rfl, fun h => absurd h hon, fun _ _ => rfl, fun _ hsafe hup => ?_⟩
    simp [hsafe, hup] at hidle
  rw [if_neg hidle]
  split
  · exact ⟨_, modTslot_slotStep hs _, rfl, fun _ => rfl, fun _ h => absurd h hidle, fun _ _ _ _ _ => rfl⟩
  · obtain ⟨z, hstep, hinp, hempty⟩ := runSlot_slotRuns hs (n := n) (i := i) (y := y) (tslotOf y i)
    rw [hst]
    exact ⟨z, hstep, hinp, fun h => absurd h hon, fun _ h => absurd h hidle, fun _ _ _ => hempty⟩

/-- The output slots of a frame of a running port. -/
theorem slotsOut_setTdm (hst : y.st = .running) (hy : tsorted none y.slots = true) (m : Nat) :
    ∃ z, iter (fun i s => slotOut s n i) m (setTdm s n y) = setTdm s n z ∧ SameTracker y z ∧ tsorted none z.slots = true ∧
      ∀ i, if i < m then SlotDriven s n i y (tslotOf y i) (tslotOf z i) else tslotOf z i = tslotOf y i := by
  induction m with
  | zero => exact ⟨y, rfl, ⟨rfl, fun _ _ => rfl⟩, hy, fun i => by rw [if_neg (Nat.not_lt_zero i)]⟩
  | succ m ih =>
    obtain ⟨u, hiter, hsame, hsorted, hslots⟩ := ih
    have hstu : u.st = .running := (congrArg Tdm.st hsame.rest).trans hst
    have hsafe : u.safe = y.safe := (congrArg Tdm.safe hsame.rest :)
    obtain ⟨w, ⟨C, hstep, hC⟩, hdriven⟩ := slotOut_slotStep hs (n := n) (i := m) hstu
    have hold : tslotOf u m = tslotOf y m := by simpa using hslots m
    rw [hold] at hdriven
    refine ⟨{ setTslot u m w with counters := C }, by rw [iter, hiter, hstep], hsame.trans ⟨rfl, hC⟩,
      tsorted_tput _ _ _ _ _ hsorted nofun, fun i => ?_⟩
    rcases Nat.lt_trichotomy i m with hi | rfl | hi
    · have hother := tslotOf_setTslot_other u w (Nat.ne_of_lt hi)
      have hbefore := hslots i
      rw [if_pos hi, ← hother] at hbefore
      rw [if_pos (Nat.lt_succ_of_lt hi)]
      exact hbefore
    · have hput : tslotOf { setTslot u i w with counters := C } i = w := tslotOf_setTslot hsorted i w
      rw [if_pos (Nat.lt_succ_self i), hput]
      obtain ⟨hinp, hoff, hidle, hempty⟩ := hdriven
      exact ⟨hinp, hoff, hsafe ▸ hidle, hsafe ▸ hempty⟩
    · have hother := tslotOf_setTslot_other u w (Nat.ne_of_gt hi)
      have hbefore := hslots i
      rw [if_neg (Nat.lt_asymm hi)] at hbefore
      rw [if_neg (by omega)]
      exact hother.trans hbefore

end

/-! ### The frame -/

/-- What a frame leaves in a slot of a port that was `x` before it. -/
structure SlotFramed (s : State) (n periods : Nat) (inputs : List Int) (x : Tdm) (i : Nat) (z : TSlot) : Prop where
  inp : z.inp = slotInput s n periods inputs i
  disabled : outEnabled s n i = false → z.out = 0
  idle : outEnabled s n i = true → x.safe = true ∨ fenced s (uAudio n) = true → z.out = idleCode s n
  empty : outEnabled s n i = true → x.safe = false → fenced s (uAudio n) = false → (tslotOf x i).buf = [] →
    (tslotOf x i).lag = none → z.out = 0

/-- Where a frame takes the gain offset of a port (R399). -/
def gainStepped (s : State) (n : Nat) (y : Tdm) : Tdm :=
  let d : Int := (fld (tdmRec s n) 54 1 * y.period * 4294967296 / Config.cyclesPerSecond : Nat)
  { y with gain := if y.gain < targetGain s n then min (targetGain s n) (y.gain + d) else max (targetGain s n) (y.gain - d) }

theorem stepGain_setTdm {s : State} (hs : tsorted none s.tdm = true) (n : Nat) (y : Tdm) :
    stepGain (setTdm s n y) n = setTdm s n (gainStepped s n y) := by
  unfold stepGain
  rw [tdmOf_setTdm hs]
  exact modTdm_setTdm hs y _

/-- A frame of a port that is stopped or keeps its clock, and whose record waits for nothing. -/
theorem tdmFrame_port {s : State} {n : Nat} (hn : n < 4) (ha : tdmAwake s n = true) (hs : tsorted none s.tdm = true)
    (hslots : tsorted none (tdmOf s n).slots = true) (hcounters : tsorted none (tdmOf s n).counters = true)
    (hc : (recOf s (0x10 + n) 0).commit = none) (hmode : tdmMode s n ≠ 0) {period : Nat} (periods : Nat) (inputs : List Int)
    (h : (tdmOf s n).st = .stopped ∨ ((tdmOf s n).st = .running ∧ (period :: (tdmOf s n).recent).length < 64 ∧
      (glitchy (tdmOf s n).period period = false ∨ (tdmOf s n).glitchRun < 2))) :
    ∃ y, tdmFrame s n period periods inputs = setTdm { s with fresh := s.fresh + 64 } n y ∧
      FrameTracked s n period (tdmOf s n) y ∧
      ∀ i, i < 64 → SlotFramed s n periods inputs (tdmOf s n) i (tslotOf y i) := by
  obtain ⟨y, htrack, htracked, hsame⟩ := track_frame hs hn hcounters h
  obtain ⟨S, hin, hS, htaken⟩ := slotsIn_setTdm hs n periods inputs (hsame ▸ hslots : tsorted none y.slots = true) 64
  obtain ⟨z, hout, hz, -, hdriven⟩ := slotsOut_setTdm hs (n := n) (y := { y with slots := S }) htracked.runs hS 64
  have hz : SameTracker y z := ⟨hz.rest, hz.counters⟩
  have hgain : tsorted none { s with fresh := s.fresh + 64 }.tdm = true := hs
  refine ⟨gainStepped s n z, ?_, htracked.congr (hz.trans ⟨rfl, fun _ _ => rfl⟩), fun i hi => ?_⟩
  · unfold tdmFrame
    rw [if_neg (not_not.mpr ha), applyTdmRec_none hc]
    dsimp only
    rw [if_neg hmode, htrack, hin, hout]
    exact stepGain_setTdm hgain n z
  · replace hdriven := hdriven i
    rw [if_pos hi] at hdriven
    obtain ⟨hinp, hoff, hidle, hempty⟩ := hdriven
    have hslot : tslotOf { y with slots := S } i = { tslotOf (tdmOf s n) i with inp := slotInput s n periods inputs i } := by
      rw [show tslotOf (tdmOf s n) i = tslotOf y i by unfold tslotOf; rw [hsame]]
      exact htaken i hi
    rw [hslot] at hinp hempty
    exact ⟨hinp, hoff, htracked.safe ▸ hidle, htracked.safe ▸ hempty⟩

end Sys2Proof.Machine
end

section
/-!
PROOFS. The end of a TDM port's ramp, and the samples of the microphones (O59, R387, R396).
-/
namespace Sys2Proof.Machine

open Sys2Proof

/-! ### A port that restarts (R387) -/

/-- A slot whose buffer is discarded. -/
def slotDiscarded (x : TSlot) : TSlot := { x with buf := [], lag := none, starved := none, phase := 0 }

/-- A port that has discarded what one slot holds, and counted it. -/
def slotCleared (i : Nat) (y : Tdm) : Tdm :=
  { setTslot y i (slotDiscarded (tslotOf y i)) with counters := cntAdd y.counters 5 48 (tslotOf y i).buf.length }

/-- A port that a record restarts stands still. -/
def portHalted (y : Tdm) : Tdm :=
  { y with
    st := .stopped, period := 0, recent := [], glitchRun := 0, backFrames := 0, ramping := false, relockAfterLoss := false
    offNominal := false }

theorem iter_slotCleared_slots (m : Nat) (y : Tdm) : (iter slotCleared m y).slots =
    iter (fun i t => tput tslotD t i (slotDiscarded (tget tslotD t i))) m y.slots := by
  induction m with
  | zero => rfl
  | succ m ih => rw [iter, iter, ← ih]; rfl

theorem iter_slotCleared_slot {y : Tdm} (hy : tsorted none y.slots = true) {i m : Nat} (hi : i < m) :
    tslotOf (iter slotCleared m y) i = slotDiscarded (tslotOf y i) := by
  have hget := (tget_iter_tput (d := tslotD) (fun _ => slotDiscarded) hy m).2 i
  rw [if_pos hi, ← iter_slotCleared_slots] at hget
  exact hget

theorem tslotOf_portHalted (y : Tdm) (i : Nat) : tslotOf (portHalted y) i = tslotOf y i := rfl

section
variable {s : State} (hs : tsorted none s.tdm = true) (n : Nat)
include hs

theorem clearSlot_eq (i : Nat) : clearSlot s n i = setTdm s n (slotCleared i (tdmOf s n)) := by
  unfold clearSlot
  rw [modTslot, modTdm, tdmCnt_setTdm hs]
  rfl

theorem clearSlots_eq (m : Nat) : iter (fun i s => clearSlot s n i) (m + 1) s = setTdm s n (iter slotCleared (m + 1) (tdmOf s n)) := by
  induction m with
  | zero => exact clearSlot_eq hs n 0
  | succ m ih =>
    rw [iter, ih, clearSlot_eq (tsorted_tput _ _ _ _ _ hs nofun), tdmOf_setTdm hs]
    exact modTdm_setTdm hs _ fun _ => _

theorem applyTdm_restart : applyTdm s n true = setTdm s n (portHalted (iter slotCleared 64 (tdmOf s n))) := by
  unfold applyTdm clearPort
  rw [if_pos rfl, clearSlots_eq hs n 63]
  exact modTdm_setTdm hs _ _

end

section
variable {s : State} {n : Nat} (hn : n < 4) {c : CommitReq} {rt : RespTo}

include hn in
/-- The apply of a TDM record that restarts its port. -/
theorem applyCommit_tdmRestart (hrecs : tsorted none s.recs = true) (hs : tsorted none s.tdm = true)
    (hc : (recOf s (0x10 + n) 0).commit = some c) (hresp : c.resp = some rt) (hrestart : c.restart = true)
    (hok : captureOk (setRec s (0x10 + n) 0 { recOf s (0x10 + n) 0 with commit := none }) (0x10 + n) 0 c = true) :
    applyCommit s (0x10 + n) 0 =
      respond (setTdm (captureStored s (0x10 + n) 0 c) n (portHalted (iter slotCleared 64 (tdmOf s n)))) rt stOk (le 4 c.gen.toNat) := by
  have hlater (u : State) : respFirst u (0x10 + n) 0 true (some rt) = false := by
    have h3 : ¬ 0x10 + n = 0x03 := by omega
    have h1 : ¬ 0x10 + n = 0x01 := by omega
    simp only [respFirst, h3, h1, decide_false, Bool.false_and, Bool.or_self, Bool.and_false]
  have heffect (u : State) (old new : List Byte) : applyEffect u (0x10 + n) 0 old new true = applyTdm u n true := by
    interval_cases n <;> rfl
  unfold applyCommit
  simp only [hc, hok, hresp, hrestart, hlater, heffect, not_true_eq_false, if_false, Bool.false_eq_true, commitAnswer,
    storeActive, recOf_setRec hrecs]
  rw [applyTdm_restart (s := setRec (setRec s _ _ _) _ _ _) hs]
  rfl

/-- The end of a port's ramp has applied the record's capture, answered it, and left the port as `y` (R387). -/
def RampEnded (s : State) (n : Nat) (c : CommitReq) (rt : RespTo) (y : Tdm) (t : State) : Prop :=
  recOf t (0x10 + n) 0 = captureTaken (recOf s (0x10 + n) 0) c ∧
    (∀ k, k ≠ recKey (0x10 + n) 0 → tfind t.recs k = tfind s.recs k) ∧ tdmOf t n = y ∧ (∀ m, m ≠ n → tdmOf t m = tdmOf s m) ∧
    { t.bare with recs := [], tdm := [] } = { s.bare with recs := [], tdm := [] } ∧ Responded rt stOk (le 4 c.gen.toNat) s t

theorem setTdm_captureStored (s : State) (id inst : Nat) (c : CommitReq) (n : Nat) (y : Tdm) :
    setTdm (captureStored s id inst c) n y =
      { s with recs := (captureStored s id inst c).recs, tdm := (setTdm s n y).tdm } := by
  simp only [setTdm, captureStored, setRec]

theorem rampEnded_respond (hrecs : tsorted none s.recs = true) (hs : tsorted none s.tdm = true) (ha : awaits s rt = true)
    (y : Tdm) : RampEnded s n c rt y (respond (setTdm (captureStored s (0x10 + n) 0 c) n y) rt stOk (le 4 c.gen.toNat)) := by
  rw [setTdm_captureStored]
  generalize hR : (captureStored s (0x10 + n) 0 c).recs = R
  generalize hT : (setTdm s n y).tdm = T
  obtain ⟨hresponded, hbare, -⟩ := respond_one (s := { s with recs := R, tdm := T }) stOk (le 4 c.gen.toNat) ha
  generalize respond _ rt stOk (le 4 c.gen.toNat) = t at hresponded hbare ⊢
  have hrecord : t.recs = (captureStored s (0x10 + n) 0 c).recs := (congrArg State.recs hbare :).trans hR.symm
  have htdm : t.tdm = (setTdm s n y).tdm := (congrArg State.tdm hbare :).trans hT.symm
  have hport (m : Nat) : tdmOf t m = tdmOf (setTdm s n y) m := congrArg (tget tdmD · m) htdm
  refine ⟨?_, fun k hk => ?_, (hport n).trans (tdmOf_setTdm hs _), fun m hm => ?_, ?_, hresponded⟩
  · unfold recOf
    rw [hrecord]
    exact recOf_captureStored hrecs (0x10 + n) 0 c
  · rw [hrecord, tfind_captureStored s c hk]
  · exact (hport m).trans (tget_tput_other _ _ _ hm.symm)
  · rw [hbare]
    rfl

end

/-! ### Microphones (R396) -/

/-- The output of a microphone for one sample, and the clips it counts: zero from a fenced block or without a clock. -/
def micTaken (s : State) (m : Nat) (clocked : Bool) (v : W32) : W32 × Nat :=
  if fenced s (uAudio 4) = true ∨ clocked = false then (0, 0) else micOut s m v

/-- The block after one sample of a microphone, but for the meters. -/
def micPdm (s : State) (m : Nat) (clocked : Bool) (v : W32) : Pdm :=
  { s.pdm with
    outs := tput 0 s.pdm.outs m (micTaken s m clocked v).1, clips := cntAdd s.pdm.clips m 32 (micTaken s m clocked v).2
    clockLost := (s.pdm.clockLost + (if fenced s (uAudio 4) = true ∨ clocked = false then 1 else 0)) % 2 ^ 48 }

section
variable {s : State}

/-- A sample reaches the meters that its microphone feeds. -/
theorem feedMeters_chunk (m : Nat) (x : W32) : ∃ C, feedMeters s m x = { s with pdm := { s.pdm with chunk := C } } ∧
    ∀ k, tget [] C k = if k < 4 ∧ bit (meterMics (act s 0x18 0) k) m = true then tget [] s.pdm.chunk k ++ [x]
      else tget [] s.pdm.chunk k := by
  unfold feedMeters
  induction 4 with
  | zero => exact ⟨_, rfl, fun k => by rw [if_neg fun h => Nat.not_lt_zero k h.1]⟩
  | succ j ih =>
    obtain ⟨C, hiter, hC⟩ := ih
    rw [iter, hiter]
    dsimp only
    rw [show act { s with pdm := { s.pdm with chunk := C } } 0x18 0 = act s 0x18 0 from rfl]
    have hj : tget [] C j = tget [] s.pdm.chunk j := (hC j).trans (if_neg fun h => Nat.lt_irrefl j h.1)
    by_cases hfeeds : bit (meterMics (act s 0x18 0) j) m = true
    · rw [if_pos hfeeds]
      refine ⟨_, rfl, fun k => ?_⟩
      by_cases hk : k = j
      · subst hk
        rw [if_pos ⟨Nat.lt_succ_self k, hfeeds⟩, tget_tput_ne _ _ _ _ (by simp), hj]
      · rw [tget_tput_other _ _ _ (Ne.symm hk), hC k]
        exact if_congr (and_congr_left fun _ => by omega) rfl rfl
    · rw [if_neg hfeeds]
      refine ⟨C, rfl, fun k => (hC k).trans (if_congr ⟨fun h => ⟨by omega, h.2⟩, fun h => ⟨?_, h.2⟩⟩ rfl rfl)⟩
      rcases Nat.lt_succ_iff_lt_or_eq.mp h.1 with hk | rfl
      · exact hk
      · exact absurd h.2 hfeeds

variable {m : Nat}

theorem micSample_off (hb : s.boot.complete = false ∨ (micEnabled s m = false ∧ (recOf s 0x18 0).commit = none))
    (clocked : Bool) (v : W32) : micSample s m clocked v = s := by
  unfold micSample
  rcases hb with hb | ⟨hm, hc⟩
  · simp [hb]
  · simp [applyCommit_noCapture hc, hm]

theorem foldl_feedCapture_none {u : State} (h : u.sessions.all (fun e => e.2.job.isNone) = true) (x : W32) :
    u.sessions.foldl (feedCapture m x) u = u := by
  refine foldl_fixed_of_mem fun e he => ?_
  have hnone : e.2.job = none := Option.isNone_iff_eq_none.mp (List.all_eq_true.mp h e he)
  unfold feedCapture
  simp only [hnone]

/-- A sample of a microphone that runs, with no enrolment job to take it. -/
theorem micSample_on (hb : s.boot.complete = true) (hc : (recOf s 0x18 0).commit = none) (hm : micEnabled s m = true)
    (hjob : s.sessions.all (fun e => e.2.job.isNone) = true) (clocked : Bool) (v : W32) :
    micSample s m clocked v = if fenced s (uAudio 4) = true then { s with pdm := micPdm s m clocked v }
      else feedMeters { s with pdm := micPdm s m clocked v } m (micTaken s m clocked v).1 := by
  have hlost : (fenced s (uAudio 4) || !clocked) = true ↔ fenced s (uAudio 4) = true ∨ clocked = false := by simp
  have hcount : b2n (fenced s (uAudio 4) || !clocked) = if fenced s (uAudio 4) = true ∨ clocked = false then 1 else 0 :=
    if_congr hlost rfl rfl
  have hsample : (if (fenced s (uAudio 4) || !clocked) = true then (0, 0) else micOut s m v) = micTaken s m clocked v :=
    if_congr hlost rfl rfl
  unfold micSample
  rw [if_neg (not_not.mpr hb), applyCommit_noCapture hc, ite_self]
  dsimp only
  rw [if_neg (not_not.mpr hm), hsample, hcount]
  split
  · exact foldl_feedCapture_none (u := { s with pdm := micPdm s m clocked v }) hjob _
  · obtain ⟨C, hfed, -⟩ := feedMeters_chunk (s := { s with pdm := micPdm s m clocked v }) m (micTaken s m clocked v).1
    have hsess : (feedMeters { s with pdm := micPdm s m clocked v } m (micTaken s m clocked v).1).sessions = s.sessions := by
      rw [hfed]
    exact foldl_feedCapture_none (u := feedMeters { s with pdm := micPdm s m clocked v } m (micTaken s m clocked v).1)
      (by rw [hsess]; exact hjob) _

/-- What a sample of a microphone that runs leaves. -/
theorem micSample_pdm (hb : s.boot.complete = true) (hc : (recOf s 0x18 0).commit = none) (hm : micEnabled s m = true)
    (hjob : s.sessions.all (fun e => e.2.job.isNone) = true) (clocked : Bool) (v : W32) :
    ∃ C, micSample s m clocked v = { s with pdm := { micPdm s m clocked v with chunk := C } } ∧
      ∀ k, tget [] C k = if k < 4 ∧ fenced s (uAudio 4) = false ∧ bit (meterMics (act s 0x18 0) k) m = true then
        tget [] s.pdm.chunk k ++ [(micTaken s m clocked v).1] else tget [] s.pdm.chunk k := by
  rw [micSample_on hb hc hm hjob]
  by_cases hdown : fenced s (uAudio 4) = true
  · rw [if_pos hdown]
    exact ⟨s.pdm.chunk, rfl, fun k => by simp [hdown]⟩
  · have hup : fenced s (uAudio 4) = false := Bool.not_eq_true _ ▸ hdown
    rw [if_neg hdown]
    obtain ⟨C, hfed, hC⟩ := feedMeters_chunk (s := { s with pdm := micPdm s m clocked v }) m (micTaken s m clocked v).1
    exact ⟨C, hfed, fun k => (hC k).trans (if_congr ⟨fun h => ⟨h.1, hup, h.2⟩, fun h => ⟨h.1, h.2.2⟩⟩ rfl rfl)⟩

end

end Sys2Proof.Machine
end

section
/-!
PROOFS. Serial audio (O59, R364, R383 to R401).
-/
namespace Sys2Proof.Machine

open Sys2Proof

/-- Settles O59: each event by what it makes of its port (`tdmFrame_port`, `loseClock_clocked`, `relockDone_relocking`,
`freewheel_awake`, `gateBlock_awake`), the end of a ramp by `rampEnded_respond`, a microphone's sample by `micSample_pdm`. -/
theorem serialAudioRuns : Obligations.SerialAudioRuns := by
  unfold Obligations.SerialAudioRuns
  intro s n hs hslots hcounters x unbound Port lost
  have port {i : Instr} {y : Tdm} (he : exec i s = .next (setTdm s n y)) : Port i y := ⟨_, he, setTdm_port hs y⟩
  refine ⟨fun h => ?asleep, fun ha hc => ⟨fun period periods inputs hmode hst => ?frame, fun h => ?stillStopped, fun h => ?lostAgain,
    fun hu h => ?lost, fun h p => ?notRelocking, fun hu h p => ?relock, fun i => ?freewheel, fun i level => ?gate⟩, fun h => ?noRamp,
    fun c rt hramp hf hc hrestart hresp hawait hrecs hok => ?ramp,
    fun m clocked v => ⟨fun h => ?micOff, fun hb hc hm hjob houts => ?micOn⟩⟩
  case asleep =>
    obtain ⟨hframe, hloss, hrelock, hgate, hpass⟩ := asleep_event h
    exact ⟨fun p k l => congrArg Host.Outcome.next (hframe p k l), congrArg Host.Outcome.next hloss,
      fun p => congrArg Host.Outcome.next (hrelock p), fun i l => congrArg Host.Outcome.next (hgate i l),
      fun i => congrArg Host.Outcome.next (hpass i)⟩
  case frame =>
    obtain ⟨y, hrun, htracked, hframed⟩ := tdmFrame_port n.isLt ha hs hslots hcounters hc hmode periods inputs hst
    obtain ⟨hport, hothers, -⟩ := setTdm_port (s := { s with fresh := s.fresh + 64 }) hs (n := n) y
    refine ⟨_, congrArg Host.Outcome.next hrun, ?_⟩
    dsimp only
    rw [hport]
    exact ⟨htracked.runs, htracked.safe, htracked.frames, htracked.started, htracked.steady, htracked.glitch,
      fun i hi => ⟨(hframed i hi).inp, (hframed i hi).disabled, (hframed i hi).idle, (hframed i hi).empty⟩, hothers, rfl⟩
  case stillStopped =>
    exact congrArg Host.Outcome.next (loseClock_stopped ha h)
  case lostAgain =>
    exact port (congrArg Host.Outcome.next (loseClock_again ha h))
  case lost =>
    exact port (congrArg Host.Outcome.next (loseClock_clocked ha hs hc hu h))
  case notRelocking =>
    exact congrArg Host.Outcome.next (relockDone_other h p)
  case relock =>
    have hrun := relockDone_relocking ha hs hc hu h p
    split
    next hoff => exact port (congrArg Host.Outcome.next (hrun.trans (by rw [if_pos hoff]; rfl)))
    next hnear => exact port (congrArg Host.Outcome.next (hrun.trans (by rw [if_neg hnear]; rfl)))
  case freewheel =>
    intro z
    have hrun := freewheel_awake ha hs i
    split
    next hlate => exact port (congrArg Host.Outcome.next (hrun.trans (if_pos hlate)))
    next hidle => exact congrArg Host.Outcome.next (hrun.trans (if_neg hidle))
  case gate =>
    intro z live loud hit quiet act
    refine ⟨fun hlive => ?_, fun hlive hloud => ?_, fun hlive hloud hnone => ?_,
      fun k ss hlive hloud hhit hbound hsess hst hf hutt hbegun => ?_⟩
    · exact congrArg Host.Outcome.next (gateBlock_dead ha hlive)
    · exact port (congrArg Host.Outcome.next (gateBlock_quiet ha hlive (of_decide_eq_false hloud)))
    · refine port (congrArg Host.Outcome.next ((gateBlock_active ha hlive (of_decide_eq_true hloud)).trans ?_))
      split
      next hhit => exact detectBarge_none (hnone.resolve_left fun hno => Bool.false_ne_true (hno.symm.trans hhit))
      next => rfl
    · have hrun := ((gateBlock_active ha hlive (of_decide_eq_true hloud)).trans (if_pos hhit)).trans
        (detectBarge_speaking hbound hsess hst hf hutt hbegun)
      rw [tdmCnt_setTdm hs] at hrun
      exact ⟨_, congrArg Host.Outcome.next hrun, tdmOf_setTdm hs _, sessOf_setSess_same _ _ _,
        fun j hj => sessOf_setSess_other _ _ hj, setSess_setTdm_rest ..⟩
  case noRamp =>
    refine congrArg Host.Outcome.next (if_neg ?_)
    rintro ⟨hramp, hf⟩
    rcases h with h | h
    · exact Bool.false_ne_true (h.symm.trans hramp)
    · simp [Option.isNone_iff_eq_none.mp hf] at h
  case ramp =>
    have hend : (tdmOf s n).ramping = true ∧ s.fault.isNone = true := ⟨hramp, by rw [hf]; rfl⟩
    obtain ⟨hrec, hothers, hport, hports, hbare, hresponded⟩ :=
      rampEnded_respond (c := c) hrecs hs hawait (portHalted (iter slotCleared 64 (tdmOf s n)))
    refine ⟨_, congrArg Host.Outcome.next ((if_pos hend).trans (applyCommit_tdmRestart n.isLt hrecs hs hc hresp hrestart hok)),
      hrec, hothers, ?_, ?_, fun i hi => ?_, hports, hbare, hresponded⟩
    · rw [hport]; rfl
    · rw [hport]; rfl
    · rw [hport, tslotOf_portHalted, iter_slotCleared_slot hslots hi]
      exact ⟨rfl, rfl⟩
  case micOff =>
    exact congrArg Host.Outcome.next (micSample_off h clocked v)
  case micOn =>
    intro down gain out
    obtain ⟨C, hrun, hC⟩ := micSample_pdm hb hc hm hjob clocked v
    have hout : (micTaken s m clocked v).1 = out := apply_ite Prod.fst _ _ _
    have hclip : (micTaken s m clocked v).2 = if down = true ∨ clocked = false then 0 else gain.2 := apply_ite Prod.snd _ _ _
    rw [hout] at hC
    exact ⟨_, congrArg Host.Outcome.next hrun, (tget_tput_sorted _ _ _ _ houts).trans hout,
      fun k hk => tget_tput_other _ _ _ (Ne.symm hk), congrArg (cntAdd s.pdm.clips m 32) hclip, rfl, hC, rfl, rfl, rfl⟩

end Sys2Proof.Machine
end
